-- ==== Sys2Proof/Word.lean ====
section
/-! DEFINITION. The word types of the WX-816: 64-bit registers and words, 32 lanes, 8-bit postmarks (R9, R37, R83). -/
namespace Sys2Proof

/-- A 64-bit register, memory word or lane register (R37, R40). -/
abbrev Word := BitVec 64

/-- One byte of memory. -/
abbrev Byte := BitVec 8

/-- The 8-bit postmark of a 64-bit word: STAMP in bit 7, CODE in bits 6 to 0 (R83). -/
abbrev Mark := BitVec 8

/-- A register number, 0 to 63 (R29). -/
abbrev RegNo := BitVec 6

/-- One 64-bit value per lane, lane L at index L (R207). -/
abbrev Lanes := Vector Word 32

/-- A lane mask, bit L for lane L (R222). -/
abbrev Mask := BitVec 32

/-- A 64-bit word with the postmark it carries (R83). -/
structure TWord where
  data : Word
  mark : Mark
deriving DecidableEq, Repr

end Sys2Proof
end

