-- ==== Sys2Proof/Config.lean ====
section
/-! DEFINITION. What the spec leaves open, as constants with no body: nothing can be proved of their values.
Log entries 3 (free values), 5 (elapsed time), 6 (special functions), 7 (cryptography), 8 (cache set indexes). -/
namespace Sys2Proof.Config

/-- A value the spec calls undefined, or does not state; drawn with a fresh index each time (log entry 3). -/
opaque freeWord : Nat → BitVec 64

/-- How many nanoseconds pass in a step: the spec gives no duration that binds a step (log entry 5). -/
opaque elapsed : Nat → Nat

/-- Which of the binary32 values within the bound of R141 a special function gives: a fixed function of the form
and the operand's bits (R141 Determinism; log entry 6). -/
opaque sfuncChoice : Nat → BitVec 32 → Nat

/-- SHA-384 of a byte string: R446 names it and does not define it (log entry 7). -/
opaque sha384 : List (BitVec 8) → BitVec 384

/-- The AES-256 counter-mode keystream byte of a key, a 96-bit IV and a byte position (R427; log entry 7). -/
opaque keystream : BitVec 256 → BitVec 96 → Nat → BitVec 8

/-- The leftmost 96 bits of the GMAC of a byte string under a key and an IV (R428; log entry 7). -/
opaque gmac : BitVec 256 → BitVec 96 → List (BitVec 8) → BitVec 96

/-- The two signatures of an attestation report over its content, as bytes (R447; log entry 7). -/
opaque reportSignatures : List (BitVec 8) → List (BitVec 8)

/-- Do both signatures of a configuration record verify under an operator key it names (R448; log entry 7)? -/
opaque recordVerifies : List (BitVec 8) → Bool

/-- The bytes of the built-in default record, which is measured like any other (R448; log entry 7). -/
opaque defaultRecord : List (BitVec 8)

/-- The serial number of the device, which an attestation report holds (R447). -/
opaque serialNumber : List (BitVec 8)

/-- Does every other device of the pod, at a step, have PODEN set and name the root that this one names (R305; log entry 70)? Their registers are
no state of this device. -/
opaque podAgrees : Nat → Bool

/-- The L1 set, out of 128, of a 128-byte line number: R240 gives the count and not the index (log entry 8). -/
opaque l1Set : Nat → Fin 128

/-- The die-cache set, out of 16,384, of a line number (R240; log entry 8). -/
opaque dieSet : Nat → Fin 16384

/-- The set, out of 8,192, of an LLC slice that a line number falls in: 8 ways of every set are 8 MiB (R252; log entry 8). -/
opaque llcSet : Nat → Fin 8192

/-- Does a start step that acts on a unit succeed: the outcome of a hardware test is no rule of the spec
(R450; log entry 9). Arguments: start number, step, unit, whether the alternate runs. -/
opaque startOutcome : Nat → Nat → Nat → Bool → Bool

/-- Is a start lost while a step acts on a unit, so that its record stays "attempted" (R450, R451; log entry 9)? Arguments: start number, step, unit. -/
opaque startLost : Nat → Nat → Nat → Bool

end Sys2Proof.Config
end

