-- ==== Sys2Proof/Machine/Bits.lean ====
section
/-! DEFINITION. Bit fields, elements of a register (R37), lane vectors and the postmark code (R84). -/
namespace Sys2Proof.Machine

/-- Bit n of a 64-bit word. -/
def bit (w : Word) (n : Nat) : Bool := w.getLsbD n

/-- Bits [lo+len-1 : lo] of a word as a number (R9). -/
def field (w : Word) (lo len : Nat) : Nat := (w.toNat >>> lo) % 2 ^ len

/-- w with bits [lo+len-1 : lo] replaced by the low len bits of v. -/
def setField (w : Word) (lo len : Nat) (v : Nat) : Word :=
  let m := ((2 ^ len - 1) <<< lo)
  BitVec.ofNat 64 ((w.toNat &&& ((2 ^ 64 - 1) ^^^ m)) ||| ((v % 2 ^ len) <<< lo))

/-- A list of (position, length, value) fields put together to one word. -/
def packFields (l : List (Nat × Nat × Nat)) : Word :=
  BitVec.ofNat 64 (l.foldl (fun a x => a ||| ((x.2.2 % 2 ^ x.2.1) <<< x.1)) 0)

/-- 1 for true. -/
def b2n (b : Bool) : Nat := if b then 1 else 0

/-- A width-w unsigned number read as two's complement. -/
def toSigned (w n : Nat) : Int := if n % 2 ^ w < 2 ^ (w - 1) then (n % 2 ^ w : Nat) else (n % 2 ^ w : Nat) - (2 ^ w : Nat)

/-- An integer reduced modulo 2^w (R67). -/
def wrapInt (w : Nat) (x : Int) : Nat := (x % (2 ^ w : Nat)).toNat

/-- A number of n bits sign-extended to 64 bits. -/
def sext64 (w n : Nat) : Word := BitVec.ofInt 64 (toSigned w n)

/-- Element i of width w of a register (R37). -/
def elem (r : Word) (i w : Nat) : Nat := (r.toNat >>> (w * i)) % 2 ^ w

/-- A register with element i of width w replaced (R37). -/
def setElem (r : Word) (i w v : Nat) : Word := setField r (w * i) w v

/-- The register whose element i of width w is f i (R37). -/
def ofElems (w : Nat) (f : Nat → Nat) : Word :=
  BitVec.ofNat 64 ((List.range (64 / w)).foldl (fun a i => a ||| ((f i % 2 ^ w) <<< (w * i))) 0)

/-- All ones in width w. -/
def ones (w : Nat) : Nat := 2 ^ w - 1

/-- The number of bits a natural number needs; 0 for 0 (R77). -/
def bitlen (n : Nat) : Nat := if n = 0 then 0 else Nat.log2 n + 1

/-- The lane vector whose lane L is f L. -/
def lanesOf (f : Nat → Word) : Lanes := ⟨⟨(List.range 32).map f⟩, by simp⟩

/-- The value of lane L. -/
def lane (v : Lanes) (l : Nat) : Word := v.toArray.toList.getD l 0

/-- v with f L in every lane of the mask: a lane outside keeps its value (R128). -/
def blend (m : Mask) (v : Lanes) (f : Nat → Word) : Lanes :=
  lanesOf (fun l => if m.getLsbD l then f l else lane v l)

/-- The same value in every lane: a broadcast scalar (R128). -/
def splat (x : Word) : Lanes := lanesOf (fun _ => x)

/-- The lanes of a mask, in increasing order. -/
def lanesIn (m : Mask) : List Nat := (List.range 32).filter (fun l => m.getLsbD l)

/-- The mask of the lanes that satisfy p. -/
def maskOf (p : Nat → Bool) : Mask :=
  BitVec.ofNat 32 ((List.range 32).foldl (fun a l => if p l then a ||| (1 <<< l) else a) 0)

/-- Population count. -/
def popcount (w n : Nat) : Nat := ((List.range w).filter (fun i => n.testBit i)).length

/-- One step of the CRC-7 register of R84. -/
def markStep (c : Nat) (b : Bool) : Nat :=
  let fb := (c.testBit 6) != b
  let c' := (c <<< 1) % 128
  if fb then c' ^^^ 0x09 else c'

/-- The postmark of a word: CRC-7 with generator x^7 + x^3 + 1 from 0x7F, bits 63 down to 0, STAMP set (R84). -/
def postmark (w : Word) : Mark :=
  BitVec.ofNat 8 (0x80 ||| ((List.range 64).foldl (fun c i => markStep c (w.getLsbD (63 - i))) 0x7F))

/-- A word stamped by its producer (R85). -/
def stamped (w : Word) : TWord := ⟨w, postmark w⟩

/-- A word of an assembling producer whose source mismatched: stamped with CODE XOR 0x01 (R352). -/
def stampedBad (w : Word) : TWord := ⟨w, postmark w ^^^ 0x01⟩

/-- Does a consumer find a mismatch: a stamped word whose code differs, or an unstamped word on a page with the
stamp-required attribute (R85, R168)? -/
def mismatch (sreq : Bool) (t : TWord) : Bool :=
  if t.mark.getLsbD 7 then t.mark != postmark t.data else sreq

/-- The word of eight bytes in little-endian order (R9). -/
def wordOfBytes (bs : List Byte) : Word :=
  BitVec.ofNat 64 ((bs.take 8).foldr (fun b acc => b.toNat + 256 * acc) 0)

/-- Byte i of a word, bits [8i+7 : 8i] (R9). -/
def byteOf (w : Word) (i : Nat) : Byte := BitVec.ofNat 8 (w.toNat >>> (8 * i))

/-- The eight bytes of a word, lowest address first (R9). -/
def bytesOf (w : Word) : List Byte := (List.range 8).map (byteOf w)

/-- w with the bytes of v where the byte mask has a one (R171). -/
def mergeBytes (w v : Word) (bm : Nat) : Word :=
  BitVec.ofNat 64 ((List.range 8).foldl
    (fun a i => a ||| ((if bm.testBit i then byteOf v i else byteOf w i).toNat <<< (8 * i))) 0)

/-- The n words of a list, read from byte k on. -/
def wordsOfBytes : Nat → List Byte → List Word
  | 0, _ => []
  | n + 1, bs => wordOfBytes bs :: wordsOfBytes n (bs.drop 8)

/-- A wide bit vector's 64-bit words, lowest first. -/
def words64 (n : Nat) (x : Nat) : List Word := (List.range n).map (fun i => BitVec.ofNat 64 (x >>> (64 * i)))

/-- Words put together to one number, lowest first. -/
def natOfWords (l : List Word) : Nat := l.foldr (fun w acc => w.toNat + 2 ^ 64 * acc) 0

/-- Change entry i of a list. -/
def listMod {α : Type} (l : List α) (i : Nat) (f : α → α) : List α :=
  match l, i with
  | [], _ => []
  | x :: t, 0 => f x :: t
  | x :: t, i + 1 => x :: listMod t i f

/-- Insert or replace the value of a key in a list sorted by key. -/
def assocSet {β : Type} (k : Nat) (v : β) : List (Nat × β) → List (Nat × β)
  | [] => [(k, v)]
  | (k', v') :: t => if k < k' then (k, v) :: (k', v') :: t else if k = k' then (k, v) :: t else (k', v') :: assocSet k v t

/-- The value of a key. -/
def assocGet {β : Type} (k : Nat) : List (Nat × β) → Option β
  | [] => none
  | (k', v') :: t => if k = k' then some v' else assocGet k t

/-- Remove a key. -/
def assocDel {β : Type} (k : Nat) (l : List (Nat × β)) : List (Nat × β) := l.filter (fun x => x.1 != k)

/-- Change the value of a key that is there. -/
def assocMod {β : Type} (k : Nat) (f : β → β) (l : List (Nat × β)) : List (Nat × β) :=
  l.map (fun x => if x.1 = k then (x.1, f x.2) else x)

end Sys2Proof.Machine
end

