-- ==== Sys2Proof/Machine/Num.lean ====
section
/-! DEFINITION. Element types and binary floating point to the bit (R66 to R73). -/
namespace Sys2Proof.Machine

/-- The width of a TY code (R63, R66, R68). -/
def tyWidth (ty : Nat) : Nat :=
  match ty with
  | 0 => 8 | 1 => 8 | 2 => 16 | 3 => 16 | 4 => 32 | 5 => 32 | 6 => 64 | 7 => 64
  | 8 => 16 | 9 => 16 | 10 => 32 | 11 => 64 | 12 => 8 | 13 => 8 | _ => 4

/-- Is a TY code an integer type (0 to 7, and i4)? -/
def tyInt (ty : Nat) : Bool := ty < 8 || ty == 15

/-- Is an integer TY code signed: an i type or i4 (R66)? -/
def tySigned (ty : Nat) : Bool := ty % 2 == 0 && ty < 8 || ty == 15

/-- Is a TY code a floating type, narrow types among them (8 to 14)? -/
def tyFloat (ty : Nat) : Bool := 8 ≤ ty && ty ≤ 14

/-- The smallest and largest value of an integer type (R66). -/
def intMin (ty : Nat) : Int := if tySigned ty then -(2 ^ (tyWidth ty - 1) : Nat) else 0
/-- The largest value of an integer type (R66). -/
def intMax (ty : Nat) : Int := if tySigned ty then (2 ^ (tyWidth ty - 1) : Nat) - 1 else (2 ^ tyWidth ty : Nat) - 1

/-- An element read as the integer its type gives (R66). -/
def intOf (ty n : Nat) : Int := if tySigned ty then toSigned (tyWidth ty) n else (n % 2 ^ tyWidth ty : Nat)

/-- An integer clamped to the range of a type (R67). -/
def clampInt (ty : Nat) (x : Int) : Int := if x < intMin ty then intMin ty else if intMax ty < x then intMax ty else x

/-- The fields of a floating type (R68): mantissa bits, bias, encoding of the largest finite magnitude, whether it
has IEEE infinities, and its canonical NaN (R69). -/
structure Fmt where
  w : Nat
  mb : Nat
  bias : Nat
  maxEnc : Nat
  ieee : Bool
  nan : Option Nat
deriving DecidableEq, Repr

/-- The floating type of a TY code (R68, R69); codes that are no floating type read as f32. -/
def fmtOf (ty : Nat) : Fmt :=
  match ty with
  | 8 => ⟨16, 10, 15, 0x7BFF, true, some 0x7E00⟩
  | 9 => ⟨16, 7, 127, 0x7F7F, true, some 0x7FC0⟩
  | 11 => ⟨64, 52, 1023, 0x7FEFFFFFFFFFFFFF, true, some 0x7FF8000000000000⟩
  | 12 => ⟨8, 3, 7, 0x7E, false, some 0x7F⟩
  | 13 => ⟨8, 2, 15, 0x7B, true, some 0x7E⟩
  | 14 => ⟨4, 1, 1, 0x7, false, none⟩
  | _ => ⟨32, 23, 127, 0x7F7FFFFF, true, some 0x7FC00000⟩

/-- The sticky flags of `fpstat` (R73). -/
def NX : Nat := 1
/-- UF of R73. -/
def UF : Nat := 2
/-- OF of R73. -/
def OF : Nat := 4
/-- DZ of R73. -/
def DZ : Nat := 8
/-- NV of R73. -/
def NV : Nat := 16
/-- SAT of R73. -/
def SAT : Nat := 32

/-- A floating operand: a NaN (`nv`: it raises NV), an infinity, or the exact value (-1)^neg * m * 2^e (R68). -/
inductive FV where
  | nan (nv : Bool)
  | inf (neg : Bool)
  | fin (neg : Bool) (m : Nat) (e : Int)
deriving DecidableEq, Repr

/-- An exact result before rounding: the quotient n/d, d > 0, with a sign that a zero keeps. -/
inductive Ex where
  | nan (nv : Bool)
  | inf (neg : Bool)
  | real (neg : Bool) (n d : Nat)
deriving DecidableEq, Repr

/-- A result's bits and the flags it raises. -/
structure FRes where
  bits : Nat
  fl : Nat
deriving DecidableEq, Repr

/-- The value an encoding stands for (R68); a signalling NaN raises NV where it is an operand (R73). -/
def decodeF (f : Fmt) (x : Nat) : FV :=
  let s := x.testBit (f.w - 1)
  let mag := x % 2 ^ (f.w - 1)
  let e := mag >>> f.mb
  let m := mag % 2 ^ f.mb
  if f.ieee && f.maxEnc < mag then
    if mag = f.maxEnc + 1 then .inf s else .nan (! m.testBit (f.mb - 1))
  else if f.ieee = false ∧ f.nan = some mag then .nan false
  else if e = 0 then .fin s m (1 - (f.bias : Int) - f.mb)
  else .fin s (m + 2 ^ f.mb) ((e : Int) - f.bias - f.mb)

/-- The value of an element of any type, integer or floating (R66, R68). -/
def valueOf (ty x : Nat) : FV :=
  if tyInt ty then let v := intOf ty x; .fin (decide (v < 0)) v.natAbs 0 else decodeF (fmtOf ty) x

/-- The exact quotient m * 2^e. -/
def exOfFin (neg : Bool) (m : Nat) (e : Int) : Ex := .real neg (m * 2 ^ e.toNat) (2 ^ (-e).toNat)

/-- An operand as an exact result. -/
def FV.ex : FV → Ex
  | .nan nv => .nan nv
  | .inf s => .inf s
  | .fin s m e => exOfFin s m e

/-- Is the operand a NaN? -/
def FV.isNan : FV → Bool
  | .nan _ => true
  | _ => false

/-- Is the operand a signalling NaN, or the result of an invalid operation? -/
def FV.isSnan : FV → Bool
  | .nan nv => nv
  | _ => false

/-- The encoding of zero, NaN and infinity with a sign. -/
def signBit (f : Fmt) (neg : Bool) : Nat := if neg then 2 ^ (f.w - 1) else 0

/-- The canonical NaN of a type; +0 where the type has none (R69, R72). -/
def canonNan (f : Fmt) : Nat := f.nan.getD 0

/-- How a result beyond the largest finite value is treated: by R71, by saturation, or by `.nsat` (R72). -/
inductive Ov where
  | ieee
  | sat
  | nsat
deriving DecidableEq, Repr

/-- Round up the magnitude? By rounding code, sign, whether the kept part is odd, and the rest compared to a half (R71). -/
def roundUp (rm : Nat) (neg odd : Bool) (rest half : Nat) : Bool :=
  match rm with
  | 0 => half < 2 * rest || (2 * rest == half && odd)
  | 1 => false
  | 2 => neg && rest != 0
  | _ => ! neg && rest != 0

/-- The floor of log2 (n/d), n > 0. -/
def ilog2 (n d : Nat) : Int :=
  let l : Int := (Nat.log2 n : Int) - Nat.log2 d
  if n * 2 ^ (-l).toNat < d * 2 ^ l.toNat then l - 1 else l

/-- The magnitude n/d > 0 rounded with unbounded exponent range: its encoding, whether it is inexact, whether it was
tiny before rounding (R70, R71, R73). -/
def roundMag (f : Fmt) (rm : Nat) (neg : Bool) (n d : Nat) : Nat × Bool × Bool :=
  let l := ilog2 n d
  let emin : Int := 1 - (f.bias : Int)
  let q : Int := (if l < emin then emin else l) - f.mb
  let num := n * 2 ^ (-q).toNat
  let den := d * 2 ^ q.toNat
  let k := num / den
  let r := num % den
  let k' := if roundUp rm neg (k % 2 == 1) r den then k + 1 else k
  (((q + f.mb + f.bias - 1).toNat) * 2 ^ f.mb + k', r != 0, decide (l < emin))

/-- The result of an overflow (R71, R72). -/
def overflowRes (f : Fmt) (rm : Nat) (ov : Ov) (neg : Bool) : FRes :=
  let sb := signBit f neg
  match ov with
  | .sat => ⟨sb + f.maxEnc, SAT + NX⟩
  | _ =>
    if f.ieee then
      let toInf := rm == 0 || (rm == 2 && neg) || (rm == 3 && ! neg)
      ⟨sb + (if toInf then f.maxEnc + 1 else f.maxEnc), OF + NX⟩
    else match f.nan with
      | some c => ⟨c, OF + NX⟩
      | none => ⟨sb + f.maxEnc, OF + NX⟩

/-- `Round(x, ty, rm)` with the overflow treatment of the instruction (R12, R71, R72). -/
def roundEx (f : Fmt) (rm : Nat) (ov : Ov) : Ex → FRes
  | .nan nv => ⟨canonNan f, if nv || f.nan.isNone then NV else 0⟩
  | .inf s =>
    if f.ieee then ⟨signBit f s + f.maxEnc + 1, 0⟩
    else match ov with
      | .sat => ⟨signBit f s + f.maxEnc, SAT⟩
      | _ => match f.nan with
        | some c => ⟨c, NV⟩
        | none => ⟨signBit f s + f.maxEnc, NV⟩
  | .real s n d =>
    if n = 0 then ⟨signBit f s, 0⟩
    else
      let r := roundMag f rm s n d
      if f.maxEnc < r.1 then overflowRes f rm ov s
      else ⟨signBit f s + r.1, (if r.2.1 then NX else 0) + (if r.2.1 && r.2.2 then UF else 0)⟩

/-- The exact product, with the sign of the product; infinity times zero is an invalid NaN (R73). -/
def FV.mul : FV → FV → FV
  | .nan a, .nan b => .nan (a || b)
  | .nan a, _ => .nan a
  | _, .nan b => .nan b
  | .inf s, .inf t => .inf (s != t)
  | .inf s, .fin t m _ => if m = 0 then .nan true else .inf (s != t)
  | .fin s m _, .inf t => if m = 0 then .nan true else .inf (s != t)
  | .fin s m e, .fin t k g => .fin (s != t) (m * k) (e + g)

/-- The operand with its sign inverted. -/
def FV.neg : FV → FV
  | .nan a => .nan a
  | .inf s => .inf (! s)
  | .fin s m e => .fin (! s) m e

/-- The least exponent among finite terms. -/
def minExp (l : List FV) (e0 : Int) : Int :=
  l.foldl (fun a t => match t with | .fin _ _ e => if e < a then e else a | _ => a) e0

/-- The exact sum of finite terms, in units of 2^e. -/
def sumInt (l : List FV) (e : Int) : Int :=
  l.foldl (fun a t => match t with
    | .fin s m g => a + (if s then -1 else 1) * ((m * 2 ^ (g - e).toNat : Nat) : Int)
    | _ => a) 0

/-- Are all terms zeros with sign s? -/
def allZero (s : Bool) (l : List FV) : Bool :=
  l.all (fun t => match t with | .fin u m _ => m == 0 && u == s | _ => false)

/-- Does a list of terms hold an infinity of sign s? -/
def hasInf (s : Bool) (l : List FV) : Bool := l.any (fun t => match t with | .inf u => u == s | _ => false)

/-- The exact sum of the terms; `rm` decides only the sign of an exact zero (R71). Infinities of both signs are an
invalid operation (R73). The empty sum is +0. -/
def sumEx (rm : Nat) (l : List FV) : Ex :=
  let inv := hasInf true l && hasInf false l
  if l.any FV.isNan then .nan (l.any FV.isSnan || inv)
  else if inv then .nan true
  else if hasInf true l then .inf true
  else if hasInf false l then .inf false
  else
    let e := minExp l 0
    let t := sumInt l e
    if t = 0 then .real (if l.isEmpty then false else if allZero true l then true else if allZero false l then false else rm == 2) 0 1
    else exOfFin (decide (t < 0)) t.natAbs e

/-- The exact quotient with DZ and NV of R100. -/
def divEx : FV → FV → Ex × Nat
  | .nan a, .nan b => (.nan (a || b), 0)
  | .nan a, _ => (.nan a, 0)
  | _, .nan b => (.nan b, 0)
  | .inf _, .inf _ => (.nan true, 0)
  | .inf s, .fin t _ _ => (.inf (s != t), 0)
  | .fin s _ _, .inf t => (.real (s != t) 0 1, 0)
  | .fin s m e, .fin t k g =>
    if k = 0 then (if m = 0 then (.nan true, 0) else (.inf (s != t), DZ))
    else
      let x := e - g
      (.real (s != t) (m * 2 ^ x.toNat) (k * 2 ^ (-x).toNat), 0)

/-- An exact result multiplied by n/d, n > 0 (R162); a zero keeps its sign (R71). -/
def Ex.scale (x : Ex) (n d : Nat) : Ex :=
  match x with
  | .real s a b => .real s (a * n) (b * d)
  | y => y

/-- The order of two finite or infinite operands: -1, 0 or 1, with -0 equal to +0. -/
def cmpFV : FV → FV → Int
  | .inf s, .inf t => if s = t then 0 else if s then -1 else 1
  | .inf s, _ => if s then -1 else 1
  | _, .inf t => if t then 1 else -1
  | .fin s m e, .fin t k g =>
    let h := if e < g then e else g
    let a : Int := (if s then -1 else 1) * ((m * 2 ^ (e - h).toNat : Nat) : Int)
    let b : Int := (if t then -1 else 1) * ((k * 2 ^ (g - h).toNat : Nat) : Int)
    if a < b then -1 else if b < a then 1 else 0
  | _, _ => 0

/-- Is the operand negative, -0 among them? -/
def FV.isNeg : FV → Bool
  | .nan _ => false
  | .inf s => s
  | .fin s _ _ => s

/-- SFMIN and SFMAX on encodings (R101): -0 counts as less than +0. -/
def minMaxF (f : Fmt) (isMax : Bool) (x y : Nat) : FRes :=
  let a := decodeF f x
  let b := decodeF f y
  if a.isSnan || b.isSnan then ⟨canonNan f, NV⟩
  else if a.isNan && b.isNan then ⟨canonNan f, 0⟩
  else if a.isNan then ⟨y % 2 ^ f.w, 0⟩
  else if b.isNan then ⟨x % 2 ^ f.w, 0⟩
  else
    let c := cmpFV a b
    let aLess := c < 0 || (c == 0 && a.isNeg && ! b.isNeg)
    ⟨(if aLess != isMax then x else y) % 2 ^ f.w, 0⟩

/-- Does a condition code hold of an order (R97, R102)? Code 6 is unordered. -/
def condHolds (cc : Nat) (unord : Bool) (c : Int) : Bool :=
  match cc with
  | 0 => ! unord && c == 0
  | 1 => unord || c != 0
  | 2 => ! unord && c < 0
  | 3 => ! unord && c ≤ 0
  | 4 => ! unord && 0 < c
  | 5 => ! unord && 0 ≤ c
  | _ => unord

/-- A floating comparison: whether the condition holds, and its flags (R102). -/
def cmpF (f : Fmt) (cc x y : Nat) : Bool × Nat :=
  let a := decodeF f x
  let b := decodeF f y
  let un := a.isNan || b.isNan
  let nv := a.isSnan || b.isSnan || (un && 2 ≤ cc && cc ≤ 5)
  (condHolds cc un (cmpFV a b), if nv then NV else 0)

/-- The order of two integers. -/
def cmpInt (a b : Int) : Int := if a < b then -1 else if b < a then 1 else 0

/-- A magnitude n/d rounded to an integer, and whether that was inexact. -/
def roundInt (rm : Nat) (neg : Bool) (n d : Nat) : Int × Bool :=
  let k := n / d
  let r := n % d
  let k' := if roundUp rm neg (k % 2 == 1) r d then k + 1 else k
  ((if neg then -1 else 1) * (k' : Int), r != 0)

/-- Floating to integer: rounded, saturated; NaN gives 0 (R67). -/
def exToInt (ty rm : Nat) : Ex → FRes
  | .nan _ => ⟨0, NV⟩
  | .inf s => ⟨wrapInt (tyWidth ty) (if s then intMin ty else intMax ty), NV⟩
  | .real s n d =>
    let r := roundInt rm s n d
    if r.1 < intMin ty || intMax ty < r.1 then ⟨wrapInt (tyWidth ty) (clampInt ty r.1), NV⟩
    else ⟨wrapInt (tyWidth ty) r.1, if r.2 then NX else 0⟩

/-- The overflow treatment of a conversion to a type: narrow types saturate unless `.nsat` (R72). -/
def convOv (ty : Nat) (nsat : Bool) : Ov :=
  if ty == 8 || ty == 9 || (12 ≤ ty && ty ≤ 14) then (if nsat then .nsat else .sat) else .ieee

/-- A conversion to a floating type (R72, R144). -/
def convF (ty rm : Nat) (nsat : Bool) (x : Ex) : FRes := roundEx (fmtOf ty) rm (convOv ty nsat) x

/-- The class mask of R137. -/
def classF (f : Fmt) (x : Nat) : Nat :=
  match decodeF f x with
  | .nan nv => if nv then 2 ^ 8 else 2 ^ 9
  | .inf s => if s then 2 ^ 0 else 2 ^ 7
  | .fin s m _ =>
    if m = 0 then (if s then 2 ^ 3 else 2 ^ 4)
    else if m < 2 ^ f.mb then (if s then 2 ^ 2 else 2 ^ 5)
    else (if s then 2 ^ 1 else 2 ^ 6)

end Sys2Proof.Machine
end

