-- ==== Sys2Proof/Syntax.lean ====
section
/-! DEFINITION. The steps of the machine: one constructor for each row of spec/opcode_table.json. Rows of a PC slot carry the
fields of their instruction words (R17, R29, R32 to R34, R38); rows of other agents carry what the step is about. -/
namespace Sys2Proof

/-- The length of an instruction: bits [1:0] of W0 (R13). -/
inductive Len where
  | l64
  | l96
  | l128
deriving DecidableEq, Repr

/-- A clause header (R17). -/
structure Header where
  nins : BitVec 6
  wait : BitVec 12
  setA : BitVec 4
  setB : BitVec 4
  yld : Bool
  ser : Bool
  rsv : BitVec 34
deriving DecidableEq, Repr

/-- The fields of a computational instruction, MAJ 0x10 to 0x18 and 0x20 to 0x48 (R29, R32). `w1` and `w2` are the extension
words, read under R33: an immediate, or the operand word of R34. -/
structure Comp where
  len : Len
  d : RegNo
  a : RegNo
  b : RegNo
  ty : BitVec 4
  msk : BitVec 4
  cf : BitVec 2
  u : Bool
  ax : Bool
  bx : Bool
  rm : BitVec 2
  ow : Bool
  qr : BitVec 3
  opf : BitVec 13
  w1 : BitVec 32
  w2 : BitVec 32
deriving DecidableEq, Repr

/-- The fields of a memory, atomic, barrier or publication instruction, MAJ 0x80 to 0xAC (R29, R38). -/
structure MemF where
  len : Len
  d : RegNo
  a : RegNo
  b : RegNo
  ty : BitVec 4
  msk : BitVec 4
  cf : BitVec 2
  u : Bool
  sc : BitVec 3
  rdis : BitVec 2
  ord : BitVec 3
  scope : BitVec 3
  spw : Bool
  nv : Bool
  off8 : BitVec 8
  w1 : BitVec 32
  w2 : BitVec 32
deriving DecidableEq, Repr

/-- The fields of a control, system, matrix, Flume or headrace instruction (R29, R65): W0 [63:43] is `imm`. -/
structure Ctl where
  len : Len
  d : RegNo
  a : RegNo
  b : RegNo
  ty : BitVec 4
  msk : BitVec 4
  cf : BitVec 2
  u : Bool
  imm : BitVec 21
  w1 : BitVec 32
  w2 : BitVec 32
deriving DecidableEq, Repr

/-- A request or response header of the fabric (R419). -/
structure FabHdr where
  op : BitVec 4
  sdev : BitVec 4
  ddev : BitVec 4
  rly : Bool
  score : BitVec 9
  tag : BitVec 10
  laddr : BitVec 33
  wmask : BitVec 16
  cut : BitVec 12
  cv : Bool
  rsv : BitVec 2
deriving DecidableEq, Repr

/-- A flit: the 16-byte control part and the 624 bytes after it (R416, R417). -/
structure Flit where
  ctl : BitVec 128
  body : List Byte
deriving DecidableEq, Repr

/-- What an address of a host's read is: physical, an offset in BAR2, or a register's offset (R435, R442). -/
inductive HostSpace where
  | memory
  | bar2
  | regs
deriving DecidableEq, Repr

/-- Where a host's write goes: a physical address, or an offset in BAR2 (R435). -/
structure HostAddr where
  bar2 : Bool
  pa : Nat
deriving DecidableEq, Repr

/-- A value written to a register, with the width of the access in bytes (R442). -/
structure RegVal where
  n : Nat
  v : Word
deriving DecidableEq, Repr

/-- One step of the machine (spec/opcode_table.json). -/
inductive Instr where
  /-- CLAUSE_HEADER (R19). -/
  | clauseHeader (h : Header)
  /-- NOP (R121). -/
  | nop (f : Ctl)
  /-- BRK (R121). -/
  | brk (f : Ctl)
  /-- TRAP (R121). -/
  | trap (f : Ctl)
  /-- EXIT (R114). -/
  | exit (f : Ctl)
  /-- BRA (R107). -/
  | bra (f : Ctl)
  /-- BRA_NZ (R107). -/
  | braNz (f : Ctl)
  /-- BRA_Z (R107). -/
  | braZ (f : Ctl)
  /-- BRA_EZ (R107). -/
  | braEz (f : Ctl)
  /-- BRX (R108). -/
  | brx (f : Ctl)
  /-- CALL (R109). -/
  | call (f : Ctl)
  /-- RET (R108). -/
  | ret (f : Ctl)
  /-- SPLIT (R112). -/
  | split (f : Ctl)
  /-- JOIN (R113). -/
  | join (f : Ctl)
  /-- LOOP (R116). -/
  | loop (f : Ctl)
  /-- REP (R118). -/
  | rep (f : Ctl)
  /-- WAITF (R119). -/
  | waitf (f : Ctl)
  /-- YIELD (R120). -/
  | yield (f : Ctl)
  /-- SADD (R92). -/
  | sadd (f : Comp)
  /-- SSUB (R92). -/
  | ssub (f : Comp)
  /-- SAND (R92). -/
  | sand (f : Comp)
  /-- SOR (R92). -/
  | sor (f : Comp)
  /-- SXOR (R92). -/
  | sxor (f : Comp)
  /-- SSHL (R92). -/
  | sshl (f : Comp)
  /-- SSHR (R92). -/
  | sshr (f : Comp)
  /-- SSAR (R92). -/
  | ssar (f : Comp)
  /-- SMIN (R92). -/
  | smin (f : Comp)
  /-- SMAX (R92). -/
  | smax (f : Comp)
  /-- SMUL (R92). -/
  | smul (f : Comp)
  /-- SMULH (R92). -/
  | smulh (f : Comp)
  /-- SPOPC (R92). -/
  | spopc (f : Comp)
  /-- SCLZ (R92). -/
  | sclz (f : Comp)
  /-- SFFS (R92). -/
  | sffs (f : Comp)
  /-- SNOT (R92). -/
  | snot (f : Comp)
  /-- SMAD (R93). -/
  | smad (f : Comp)
  /-- SDIV (R94). -/
  | sdiv (f : Comp)
  /-- SREM (R94). -/
  | srem (f : Comp)
  /-- SBFX (R95). -/
  | sbfx (f : Comp)
  /-- SBFI (R95). -/
  | sbfi (f : Comp)
  /-- SSEL (R96). -/
  | ssel (f : Comp)
  /-- SCMP (R97). -/
  | scmp (f : Comp)
  /-- SMOV (R98). -/
  | smov (f : Comp)
  /-- SMOVI (R98). -/
  | smovi (f : Comp)
  /-- SLEA (R99). -/
  | slea (f : Comp)
  /-- SFADD (R100). -/
  | sfadd (f : Comp)
  /-- SFSUB (R100). -/
  | sfsub (f : Comp)
  /-- SFMUL (R100). -/
  | sfmul (f : Comp)
  /-- SFDIV (R100). -/
  | sfdiv (f : Comp)
  /-- SFMIN (R101). -/
  | sfmin (f : Comp)
  /-- SFMAX (R101). -/
  | sfmax (f : Comp)
  /-- SFFMA (R100). -/
  | sffma (f : Comp)
  /-- SFCMP (R102). -/
  | sfcmp (f : Comp)
  /-- SFCVT (R103). -/
  | sfcvt (f : Comp)
  /-- SYSR (R123). -/
  | sysr (f : Ctl)
  /-- SYSW (R123). -/
  | sysw (f : Ctl)
  /-- TIME (R124). -/
  | time (f : Ctl)
  /-- IDX (R125). -/
  | idx (f : Ctl)
  /-- LAUNCH (R126). -/
  | launch (f : Ctl)
  /-- ICINV (R127). -/
  | icinv (f : Ctl)
  /-- VADD (R131). -/
  | vadd (f : Comp)
  /-- VSUB (R131). -/
  | vsub (f : Comp)
  /-- VAND (R131). -/
  | vand (f : Comp)
  /-- VOR (R131). -/
  | vor (f : Comp)
  /-- VXOR (R131). -/
  | vxor (f : Comp)
  /-- VSHL (R131). -/
  | vshl (f : Comp)
  /-- VSHR (R131). -/
  | vshr (f : Comp)
  /-- VSAR (R131). -/
  | vsar (f : Comp)
  /-- VMIN (R131). -/
  | vmin (f : Comp)
  /-- VMAX (R131). -/
  | vmax (f : Comp)
  /-- VMUL (R131). -/
  | vmul (f : Comp)
  /-- VMULH (R131). -/
  | vmulh (f : Comp)
  /-- VPOPC (R131). -/
  | vpopc (f : Comp)
  /-- VCLZ (R131). -/
  | vclz (f : Comp)
  /-- VABS (R131). -/
  | vabs (f : Comp)
  /-- VNOT (R131). -/
  | vnot (f : Comp)
  /-- VMAD (R132). -/
  | vmad (f : Comp)
  /-- VBFX (R132). -/
  | vbfx (f : Comp)
  /-- VBFI (R132). -/
  | vbfi (f : Comp)
  /-- VSEL (R132). -/
  | vsel (f : Comp)
  /-- VCMP (R135). -/
  | vcmp (f : Comp)
  /-- VMOV (R133). -/
  | vmov (f : Comp)
  /-- VMOV_AMAX (R133). -/
  | vmovAmax (f : Comp)
  /-- VMOVI (R133). -/
  | vmovi (f : Comp)
  /-- VADDS (R134). -/
  | vadds (f : Comp)
  /-- VSUBS (R134). -/
  | vsubs (f : Comp)
  /-- VFADD (R136). -/
  | vfadd (f : Comp)
  /-- VFSUB (R136). -/
  | vfsub (f : Comp)
  /-- VFMUL (R136). -/
  | vfmul (f : Comp)
  /-- VFMIN (R136). -/
  | vfmin (f : Comp)
  /-- VFMAX (R136). -/
  | vfmax (f : Comp)
  /-- VFABS (R136). -/
  | vfabs (f : Comp)
  /-- VFNEG (R136). -/
  | vfneg (f : Comp)
  /-- VFCLS (R137). -/
  | vfcls (f : Comp)
  /-- VFFMA (R138). -/
  | vffma (f : Comp)
  /-- VFCMP (R139). -/
  | vfcmp (f : Comp)
  /-- VFDIV (R140). -/
  | vfdiv (f : Comp)
  /-- VFRCP (R141). -/
  | vfrcp (f : Comp)
  /-- VFRSQ (R141). -/
  | vfrsq (f : Comp)
  /-- VFEXP2 (R141). -/
  | vfexp2 (f : Comp)
  /-- VFLOG2 (R141). -/
  | vflog2 (f : Comp)
  /-- VFSIN (R141). -/
  | vfsin (f : Comp)
  /-- VFCOS (R141). -/
  | vfcos (f : Comp)
  /-- VFSQRT (R141). -/
  | vfsqrt (f : Comp)
  /-- VFTANH (R141). -/
  | vftanh (f : Comp)
  /-- VCVT (R143). -/
  | vcvt (f : Comp)
  /-- VPACK (R146). -/
  | vpack (f : Comp)
  /-- VUNPK (R147). -/
  | vunpk (f : Comp)
  /-- VDOTH (R148). -/
  | vdoth (f : Comp)
  /-- VDOTB (R148). -/
  | vdotb (f : Comp)
  /-- VDOTN (R148). -/
  | vdotn (f : Comp)
  /-- VQADD (R150). -/
  | vqadd (f : Comp)
  /-- VQSUB (R150). -/
  | vqsub (f : Comp)
  /-- VQMUL (R150). -/
  | vqmul (f : Comp)
  /-- VQDIV (R150). -/
  | vqdiv (f : Comp)
  /-- VQCMP (R151). -/
  | vqcmp (f : Comp)
  /-- VQCVT (R152). -/
  | vqcvt (f : Comp)
  /-- VQRND (R153). -/
  | vqrnd (f : Comp)
  /-- VQFMA (R150). -/
  | vqfma (f : Comp)
  /-- VSHFL (R155). -/
  | vshfl (f : Comp)
  /-- VSHFI (R156). -/
  | vshfi (f : Comp)
  /-- VRFAL (R157). -/
  | vrfal (f : Comp)
  /-- VRDLN (R158). -/
  | vrdln (f : Comp)
  /-- VWRLN (R158). -/
  | vwrln (f : Comp)
  /-- VREDU (R159). -/
  | vredu (f : Comp)
  /-- VSCAN (R160). -/
  | vscan (f : Comp)
  /-- VMATCH (R161). -/
  | vmatch (f : Comp)
  /-- VREDM (R162). -/
  | vredm (f : Comp)
  /-- LD (R174). -/
  | ld (f : MemF)
  /-- ST (R174). -/
  | st (f : MemF)
  /-- LDU (R175). -/
  | ldu (f : MemF)
  /-- STU (R175). -/
  | stu (f : MemF)
  /-- LDS (R177). -/
  | lds (f : MemF)
  /-- STS (R177). -/
  | sts (f : MemF)
  /-- LDC (R178). -/
  | ldc (f : MemF)
  /-- STC (R178). -/
  | stc (f : MemF)
  /-- LDV (R180). -/
  | ldv (f : MemF)
  /-- CLRV (R181). -/
  | clrv (f : MemF)
  /-- PREF (R182). -/
  | pref (f : MemF)
  /-- CINV (R183). -/
  | cinv (f : MemF)
  /-- CWB (R183). -/
  | cwb (f : MemF)
  /-- LLCK (R184). -/
  | llck (f : MemF)
  /-- LUNL (R185). -/
  | lunl (f : MemF)
  /-- PRES_QUERY (R179). -/
  | presQuery (f : MemF)
  /-- PRES_SET (R179). -/
  | presSet (f : MemF)
  /-- PRES_CLR (R179). -/
  | presClr (f : MemF)
  /-- FENCE (R186). -/
  | fence (f : MemF)
  /-- RDSB (R199). -/
  | rdsb (f : MemF)
  /-- RDSE (R199). -/
  | rdse (f : MemF)
  /-- PUBL (R200). -/
  | publ (f : MemF)
  /-- RETQ (R201). -/
  | retq (f : MemF)
  /-- GPWT (R202). -/
  | gpwt (f : MemF)
  /-- GPQY (R203). -/
  | gpqy (f : MemF)
  /-- ATOM_ADD (R188). -/
  | atomAdd (f : MemF)
  /-- ATOM_MIN (R188). -/
  | atomMin (f : MemF)
  /-- ATOM_MAX (R188). -/
  | atomMax (f : MemF)
  /-- ATOM_AND (R188). -/
  | atomAnd (f : MemF)
  /-- ATOM_OR (R188). -/
  | atomOr (f : MemF)
  /-- ATOM_XOR (R188). -/
  | atomXor (f : MemF)
  /-- ATOM_XCHG (R188). -/
  | atomXchg (f : MemF)
  /-- ATOM_FADD_F32 (R188). -/
  | atomFaddF32 (f : MemF)
  /-- ATOM_FADD_BF16 (R188). -/
  | atomFaddBf16 (f : MemF)
  /-- ATOM_QADD (R188). -/
  | atomQadd (f : MemF)
  /-- RED_ADD (R188). -/
  | redAdd (f : MemF)
  /-- RED_MIN (R188). -/
  | redMin (f : MemF)
  /-- RED_MAX (R188). -/
  | redMax (f : MemF)
  /-- RED_AND (R188). -/
  | redAnd (f : MemF)
  /-- RED_OR (R188). -/
  | redOr (f : MemF)
  /-- RED_XOR (R188). -/
  | redXor (f : MemF)
  /-- RED_XCHG (R188). -/
  | redXchg (f : MemF)
  /-- RED_FADD_F32 (R188). -/
  | redFaddF32 (f : MemF)
  /-- RED_FADD_BF16 (R188). -/
  | redFaddBf16 (f : MemF)
  /-- RED_QADD (R188). -/
  | redQadd (f : MemF)
  /-- ACAS (R192). -/
  | acas (f : MemF)
  /-- BARV (R194). -/
  | barv (f : MemF)
  /-- BARW (R195). -/
  | barw (f : MemF)
  /-- BARW_P (R195). -/
  | barwP (f : MemF)
  /-- BARS (R196). -/
  | bars (f : MemF)
  /-- SIGP (R197). -/
  | sigp (f : MemF)
  /-- SIGW (R198). -/
  | sigw (f : MemF)
  /-- SIGW_SATISFIED (R198). -/
  | sigwSatisfied (id : Nat)
  /-- LEASE (R331). -/
  | lease (f : Ctl)
  /-- RELS (R333). -/
  | rels (f : Ctl)
  /-- GANG (R336). -/
  | gang (f : Ctl)
  /-- MMA (R339). -/
  | mma (f : Ctl)
  /-- MZERO (R343). -/
  | mzero (f : Ctl)
  /-- MDRN (R344). -/
  | mdrn (f : Ctl)
  /-- LDFR (R349). -/
  | ldfr (f : Ctl)
  /-- MSTAT (R346). -/
  | mstat (f : Ctl)
  /-- FLCP (R353). -/
  | flcp (f : Ctl)
  /-- FLMC (R354). -/
  | flmc (f : Ctl)
  /-- FLRD (R355). -/
  | flrd (f : Ctl)
  /-- FLWT (R356). -/
  | flwt (f : Ctl)
  /-- FLST (R356). -/
  | flst (f : Ctl)
  /-- HRST (R358). -/
  | hrst (f : Ctl)
  /-- HRSP (R360). -/
  | hrsp (f : Ctl)
  /-- HRQS (R360). -/
  | hrqs (f : Ctl)
  /-- WALK_COMPLETE (R314). -/
  | walkComplete (part : BitVec 4) (page : Nat)
  /-- OPERATION_COMPLETE (R25). -/
  | operationComplete (id : Nat)
  /-- MEMORY_OP_COMPLETE (R173). -/
  | memoryOpComplete (id : Nat)
  /-- ATOMIC_PERFORM (R187). -/
  | atomicPerform (id : Nat)
  /-- HOME_WRITE_PERFORM (R266). -/
  | homeWritePerform (die line : Nat)
  /-- STALE_MAP_RETRY (R249). -/
  | staleMapRetry (core : Nat) (part : BitVec 4)
  /-- TRAP_REPORT (R309). -/
  | trapReport (gid : Nat)
  /-- TRAP_HANDLER_ENTRY (R309). -/
  | trapHandlerEntry (gid : Nat)
  /-- GROUP_RETIRE (R229). -/
  | groupRetire (gid : Nat)
  /-- GRID_COMPLETE (R395). -/
  | gridComplete (grid : Nat)
  /-- REGION_ABORT (R321). -/
  | regionAbort (gid : Nat)
  /-- PREEMPT (R322). -/
  | preempt (part : BitVec 4) (v : Word)
  /-- PREEMPT_DEFER_EXPIRE (R322). -/
  | preemptDeferExpire (part : BitVec 4) (v : Word)
  /-- TEAM_SAVE (R322). -/
  | teamSave (tid : Nat)
  /-- RESUME (R324). -/
  | resume (part : BitVec 4) (v : Word)
  /-- REMOVE (R445). -/
  | remove (part : BitVec 4) (v : Word)
  /-- REPLAY_PAGE (R318). -/
  | replayPage (part : BitVec 4) (v : Word)
  /-- REPLAY_TOKEN (R318). -/
  | replayToken (part : BitVec 4) (v : Word)
  /-- TLB_INVALIDATE_PAGE (R315). -/
  | tlbInvalidatePage (part : BitVec 4) (v : Word)
  /-- TLB_INVALIDATE_ALL (R315). -/
  | tlbInvalidateAll (part : BitVec 4) (v : Word)
  /-- WEIR_ATTEMPT (R294). -/
  | weirAttempt
  /-- WEIR_SUM_DONE (R295). -/
  | weirSumDone
  /-- WEIR_ADOPTED (R294). -/
  | weirAdopted (cores : List Nat)
  /-- WEIR_FREE (R297). -/
  | weirFree
  /-- WEIR_APPEND (R299). -/
  | weirAppend
  /-- GRACE_STALL (R304). -/
  | graceStall
  /-- POD_ADVANCE (R305). -/
  | podAdvance
  /-- MAP_CHANGE (R248). -/
  | mapChange (part : BitVec 4) (off : Nat) (v : Word)
  /-- MAP_LINE_HANDOVER (R248). -/
  | mapLineHandover (part : BitVec 4) (line : Nat)
  /-- MAP_CHANGE_COMPLETE (R248). -/
  | mapChangeComplete (part : BitVec 4)
  /-- STACK_UNCORRECTABLE (R255). -/
  | stackUncorrectable (line : Nat) (words : List Word)
  /-- HOST_WRITE (R245, R435): at a physical address, or at an offset in BAR2. -/
  | hostWrite (fn : BitVec 5) (pa : HostAddr) (bytes : List Byte)
  /-- HOST_READ (R279, R435, R442): of memory, at a physical address or at an offset in BAR2, or of a register through BAR0. -/
  | hostRead (fn : BitVec 5) (sp : HostSpace) (pa n : Nat)
  /-- HQDOOR (R387). -/
  | hqdoor (part : BitVec 4) (q : BitVec 6) (v : Word)
  /-- HQIDX_HALT (R387). -/
  | hqidxHalt (part : BitVec 4) (q : BitVec 6) (v : Word)
  /-- PACKET_TAKE (R394). -/
  | packetTake (part : BitVec 4) (q : BitVec 6)
  /-- LAUNCH_QUEUE_TAKE (R396). -/
  | launchQueueTake (part : BitVec 4)
  /-- TEAM_START (R400). -/
  | teamStart (field : Nat)
  /-- CLUSTER_START (R398). -/
  | clusterStart (grid : Nat)
  /-- TCB_SEND (R399). -/
  | tcbSend (grid : Nat)
  /-- STEAL_REQUEST (R401). -/
  | stealRequest (field : Nat)
  /-- TCB_ARRIVAL (R401). -/
  | tcbArrival (field : Nat)
  /-- SLOT_URGENT (R402). -/
  | slotUrgent (gid : Nat) (slot : Bool)
  /-- LEASE_GRANT (R334). -/
  | leaseGrant (core : Nat)
  /-- LEASE_EXPIRE (R332). -/
  | leaseExpire (core : Nat)
  /-- JOINT_MMA_START (R340). -/
  | jointMmaStart (tid : Nat)
  /-- FLUME_LINE_ARRIVAL (R379). -/
  | flumeLineArrival (id place : Nat)
  /-- FLUME_COMPLETE (R351). -/
  | flumeComplete (id : Nat)
  /-- HEADRACE_FETCH_RETURN (R380). -/
  | headraceFetchReturn (gid : Nat) (q : BitVec 2)
  /-- NUMBERED_FLIT_RECEIVE (R421). -/
  | numberedFlitReceive (link : Nat) (x : Flit)
  /-- CONTROL_FLIT_RECEIVE (R429). -/
  | controlFlitReceive (link : Nat) (x : Flit)
  /-- REPLAY_TIMEOUT (R421). -/
  | replayTimeout (link : Nat)
  /-- RELAY_FORWARD (R413). -/
  | relayForward (link : Nat)
  /-- RDL (R419). -/
  | rdl (h : FabHdr) (d : List TWord)
  /-- RDH (R419). -/
  | rdh (h : FabHdr) (d : List TWord)
  /-- WRL (R419). -/
  | wrl (h : FabHdr) (d : List TWord)
  /-- WRS (R426). -/
  | wrs (h : FabHdr) (d : List TWord)
  /-- ATM (R419). -/
  | atm (h : FabHdr) (d : List TWord)
  /-- FABRIC_RED (R419). -/
  | fabricRed (h : FabHdr) (d : List TWord)
  /-- CLB (R419). -/
  | clb (h : FabHdr) (d : List TWord)
  /-- VLD (R419). -/
  | vld (h : FabHdr) (d : List TWord)
  /-- WAT (R419). -/
  | wat (h : FabHdr) (d : List TWord)
  /-- CLM (R419). -/
  | clm (h : FabHdr) (d : List TWord)
  /-- RDATA (R419). -/
  | rdata (h : FabHdr) (d : List TWord)
  /-- RDONE (R419). -/
  | rdone (h : FabHdr) (d : List TWord)
  /-- RNACK (R419). -/
  | rnack (h : FabHdr) (d : List TWord)
  /-- ADOPT (R433). -/
  | adopt (p : Word)
  /-- REPORT (R433). -/
  | report (dev : BitVec 4) (p e : Word) (demand : Bool)
  /-- SCRUB (R433). -/
  | scrub (dev : BitVec 4) (base granules ticket : Nat)
  /-- SCRUB_DONE (R433). -/
  | scrubDone (dev : BitVec 4) (ticket : Nat)
  /-- LINK_DOWN_EXCHANGE (R415). -/
  | linkDownExchange (link : Nat) (seq : BitVec 12)
  /-- CHANNELS_LIT (R424). -/
  | channelsLit (link : Nat) (lit : Word)
  /-- LOSS_OF_LIGHT (R422). -/
  | lossOfLight (link : Nat) (rx : Bool) (dark : Word)
  /-- SPARE_TRAINED (R423). -/
  | spareTrained (spare : BitVec 3)
  /-- CHANNEL_LIGHT_RETURN (R424): seen at the transmitter, or at the receiver. -/
  | channelLightReturn (link : Nat) (rx : Bool) (lit : Word)
  /-- KEY_LIMIT (R427). -/
  | keyLimit (link : Nat) (c : BitVec 2)
  /-- LINKCTL_RETRAIN (R425). -/
  | linkctlRetrain (link : Nat) (v : Word)
  /-- LINKCTL_ROTATE (R431). -/
  | linkctlRotate (link : Nat) (v : Word)
  /-- ROTATION_COMPLETE (R431). -/
  | rotationComplete (link : Nat)
  /-- KEYLOAD_TRANSMIT (R427). -/
  | keyloadTransmit (link : Nat)
  /-- KEYLOAD_RECEIVE (R427). -/
  | keyloadReceive (link : Nat)
  /-- ACCESS_TABLE_UPDATE (R441). -/
  | accessTableUpdate (target : Nat) (master slot : Nat) (v : BitVec 128)
  /-- VDMAP_WRITE (R326). -/
  | vdmapWrite (vd : BitVec 3) (v : Word)
  /-- ATTEST_REQUEST (R447). -/
  | attestRequest (fn : BitVec 5)
  /-- MREXT (R446). -/
  | mrext (v : Word)
  /-- STEPCLR (R451). -/
  | stepclr (v : Word)
  /-- DEVICE_RESET (R450). -/
  | deviceReset
  /-- REGISTER_WRITE: n bytes (R10, R442). -/
  | registerWrite (master : Nat) (off : Nat) (v : RegVal)
  /-- SPILLWAY_FLIT_RECEIVE (R426). -/
  | spillwayFlitReceive (link : Nat) (x : Flit)
deriving DecidableEq, Repr

end Sys2Proof
end

