-- ==== Sys2Proof/WellFormed.lean ====
section
/-! DEFINITION. The opcode map as data (R52 to R65), and the static checks on an instruction's fields: each check that R50 answers
with ILL, by name. What depends on the state (the rational mode, a clause's set flags, a bound queue, a tile's number) is checked
by the meanings. -/
namespace Sys2Proof
open Sys2Proof.Machine

/-- The name of the check that an ill-formed instruction fails (R50); every one of them is an ILL at the word's address. -/
inductive Flaw where
  /-- The length is not permitted for the opcode (R53). -/
  | length
  /-- U = 1 on an opcode that is not dual (R30). -/
  | uniform
  /-- CF = 3, or CF = 0 where a flag is required, or CF on a form that takes none (R26, R105, R122). -/
  | flag
  /-- TY outside the form's set (R53). -/
  | type
  /-- MK nonzero in a scalar form (R30, R89, R163). -/
  | laneMask
  /-- A register field that the form does not use, or that it forbids, is nonzero (R30). -/
  | unusedRegister
  /-- A register number outside the form's rule: odd, too high, no multiple of four (R162, R192, R201, R337, R349). -/
  | registerRule
  /-- AX or BX nonzero where the form forbids it, or zero where it requires it (R32, R158, R162). -/
  | broadcast
  /-- OW against R33. -/
  | operandWord
  /-- C, CX or OPX nonzero without a use, or a field of the operand word that is reserved (R33, R34). -/
  | thirdSource
  /-- An unassigned selector code, a selector of another width (R35), or one of a source that the form does not read (R30). -/
  | selector
  /-- RM nonzero where nothing rounds (R32, R63). -/
  | rounding
  /-- QR nonzero outside a rational instruction, or 7 (R63). -/
  | rationalMode
  /-- A per-opcode field outside its range, or a reserved bit of W0 [63:43] (R32, R105, R122, R330). -/
  | opcodeField
  /-- ORD or SCOPE outside the form's set (R163, R166). -/
  | order
  /-- SC against the form (R39, R163). -/
  | index
  /-- RDIS, SPW or NV outside the form's set (R163, R176). -/
  | accessField
  /-- An extension word that the form does not use is nonzero (R50). -/
  | extension
  /-- A clause header's NINS, SETA, SETB or reserved bits (R17). -/
  | header
deriving DecidableEq, Repr

/-- Is a TY code in a set given as a bit mask (R54)? -/
def inSet (m : Nat) (ty : BitVec 4) : Bool := m.testBit ty.toNat

/-- INT of R54. -/
def tINT : Nat := 0x00FF
/-- FLT of R54. -/
def tFLT : Nat := 0x0F00
/-- ANY of R54. -/
def tANY : Nat := 0xFFFF
/-- Q of R54: codes 10 and 11. -/
def tQ : Nat := 0x0C00

/-- The bit of a length in a set of lengths. -/
def Len.bit : Len → Nat
  | .l64 => 0
  | .l96 => 1
  | .l128 => 2

/-- The number of 32-bit words of an instruction. -/
def Len.words : Len → Nat
  | .l64 => 2
  | .l96 => 3
  | .l128 => 4

/-- All three lengths. -/
def lAll : Nat := 7
/-- 64 and 96 bits. -/
def l6496 : Nat := 3
/-- 96 and 128 bits. -/
def lExt : Nat := 6
/-- 64 bits only. -/
def lBase : Nat := 1

/-! ### Operand word and selectors (R34, R35) -/

/-- C of the operand word. -/
def Comp.c (f : Comp) : RegNo := f.w1.extractLsb' 0 6
/-- RM of the operand word. -/
def Comp.rm3 (f : Comp) : BitVec 2 := f.w1.extractLsb' 6 2
/-- CX of the operand word. -/
def Comp.cx (f : Comp) : Bool := f.w1.getLsbD 8
/-- SELA of the operand word. -/
def Comp.sela (f : Comp) : BitVec 5 := f.w1.extractLsb' 9 5
/-- SELB of the operand word. -/
def Comp.selb (f : Comp) : BitVec 5 := f.w1.extractLsb' 14 5
/-- SELD of the operand word. -/
def Comp.seld (f : Comp) : BitVec 5 := f.w1.extractLsb' 19 5
/-- OPX of the operand word. -/
def Comp.opx (f : Comp) : BitVec 8 := f.w1.extractLsb' 24 8

/-- The width and position a nonzero selector code names (R35). -/
def selOf (code : Nat) : Option (Nat × Nat) :=
  if code = 4 || code = 5 then some (32, code - 4)
  else if 8 ≤ code && code ≤ 11 then some (16, code - 8)
  else if 16 ≤ code && code ≤ 31 then some (8, code - 16)
  else none

/-- A selector code is 0, or it is assigned and has the width w in which the operand is read (R35); w = 0: only 0. -/
def selOk (w : Nat) (code : BitVec 5) : Bool :=
  code == 0 || (match selOf code.toNat with | some (ws, _) => ws == w | none => false)

/-- The condition code, OPF [53:51] (R97, R102). -/
def Comp.cc (f : Comp) : Nat := f.opf.toNat % 8
/-- A field of OPF, counted from W0 bit 51. -/
def Comp.opfAt (f : Comp) (lo len : Nat) : Nat := (f.opf.toNat >>> lo) % 2 ^ len
/-- The width of TY. -/
def Comp.w (f : Comp) : Nat := tyWidth f.ty.toNat

/-! ### Computational forms -/

/-- Which sources a computational form reads, and how its extension words may be used (R33, R95, R98, R99, R133, R155 to R158). -/
inductive Shape where
  /-- A alone; an extension word only carries selectors (R92, R128). -/
  | un
  /-- A and B, or A and an immediate. -/
  | bin
  /-- A, B or an immediate, and C; OW must be 1. -/
  | tern
  /-- An immediate alone (SMOVI, VMOVI). -/
  | movi
  /-- A, with the field from OPF or from C (SBFX, VBFX). -/
  | bfx
  /-- A and B, with the field from OPF or from C (SBFI, VBFI). -/
  | bfi
  /-- A and B, and C in the 96-bit form (VSHFL). -/
  | shfl
  /-- A and an immediate (VSHFI). -/
  | shfi
  /-- A and a lane number, from `sB` or an immediate (VRDLN, VWRLN). -/
  | laneNo
  /-- SLEA. -/
  | slea
  /-- No register source: VMOV from amax. -/
  | amax
  /-- A, and B as a scale where SCL is 1 (VCVT). -/
  | scaled
  /-- A and a scalar B (VREDM). -/
  | validity
deriving DecidableEq, Repr

/-- One row of R55 or R56: a computational form. The functions are of the instruction's own fields. -/
structure CompInfo where
  /-- MAJ and SUB. -/
  maj : Nat
  sub : Nat
  /-- Lengths, as a set (bit 0: 64). -/
  lens : Nat
  /-- Accepted TY codes, as a set. -/
  tys : Nat
  shape : Shape
  /-- Does every register field name a scalar register (R91)? -/
  scalar : Bool
  /-- Is U = 1 allowed (R57)? -/
  dual : Bool
  /-- Is the form variable-latency, so that CF is required (R26)? -/
  vlat : Bool
  /-- Is the form a rational one at MAJ 0x38 (R149)? -/
  rat : Bool
  /-- May RM be nonzero (R32, R34, R71)? -/
  rnd : Comp → Bool
  /-- The per-opcode fields' check. -/
  opfOk : Comp → Bool
  /-- The widths in which A, B and D are read and written, for R35; 0: the whole register only. -/
  wa : Comp → Nat
  wb : Comp → Nat
  wd : Comp → Nat

/-- Does an instruction of a shape read a source C (R33)? -/
def Shape.usesC (sh : Shape) (f : Comp) : Bool :=
  match sh with
  | .tern => true
  | .bfx => f.len == .l96
  | .bfi => f.len == .l96
  | .shfl => f.len == .l96
  | .slea => f.len == .l96 && f.ow
  | _ => false

/-- SCL of VCVT, OPF bit 56 (R143). -/
def Comp.scl (f : Comp) : Bool := f.opf.getLsbD 5

/-- Does the instruction take source B from a register (R33)? -/
def Shape.regB (sh : Shape) (f : Comp) : Bool :=
  let noImm := f.len == .l64 || (f.len == .l96 && f.ow)
  match sh with
  | .bin => noImm
  | .tern => f.len == .l96
  | .bfi => true
  | .shfl => true
  | .laneNo => noImm
  | .slea => noImm
  | .scaled => f.scl && noImm
  | .validity => true
  | _ => false

/-- Does the instruction take source B from an immediate (R33)? -/
def Shape.immB (sh : Shape) (f : Comp) : Bool :=
  match sh with
  | .bin => (f.len == .l96 && ! f.ow) || f.len == .l128
  | .tern => f.len == .l128
  | .movi => true
  | .shfi => true
  | .laneNo => f.len == .l96 && ! f.ow
  | .slea => f.len == .l96 && ! f.ow
  | .scaled => f.scl && ((f.len == .l96 && ! f.ow) || f.len == .l128)
  | _ => false

/-- Does OW agree with the shape and the length (R33)? -/
def Shape.owOk (sh : Shape) (f : Comp) : Bool :=
  if f.len == .l64 then ! f.ow
  else match sh with
  | .un => f.ow
  | .tern => f.ow
  | .movi => f.len == .l128 || ! f.ow
  | .bfx => f.ow
  | .bfi => f.ow
  | .shfl => f.ow
  | .shfi => ! f.ow
  | .amax => f.ow
  | .scaled => f.scl || f.ow
  | .validity => f.ow
  | _ => true

/-- Does the shape read a register A? -/
def Shape.regA (sh : Shape) : Bool := sh != .movi && sh != .amax

/-- The second type code of SFCVT, VCVT and VQCVT, OPF [54:51] (R103, R143, R152). -/
def Comp.sty (f : Comp) : Nat := f.opfAt 0 4

/-- May a MAJ 0x18 instruction be one that rational mode reads as rational (R64)? -/
def Comp.maybeRat (i : CompInfo) (f : Comp) : Bool :=
  i.maj == 0x18 && (f.ty == 11 || (i.sub == 8 && f.sty == 11))

/-- The static checks of a computational instruction, in the order in which a flaw is named. -/
def CompInfo.checks (i : CompInfo) (f : Comp) : List (Flaw × Bool) :=
  let sc := i.scalar || f.u
  let tern := i.shape == .tern
  let rnd := i.rnd f
  [ (.length, i.lens.testBit f.len.bit),
    (.uniform, ! f.u || i.dual),
    (.flag, f.cf != 3 && (f.cf != 0 || ! i.vlat)),
    (.type, inSet i.tys f.ty),
    (.laneMask, f.msk == 0 || ! sc),
    (.broadcast, ! (sc && (f.ax || f.bx)) && (i.shape.regA || ! f.ax)
      && (i.shape.regB f || ! f.bx) && (i.shape != .laneNo || ! i.shape.regB f || f.bx) && (i.shape != .validity || f.bx)),
    (.unusedRegister, (i.shape.regA || f.a == 0) && (i.shape.regB f || f.b == 0)),
    (.operandWord, i.shape.owOk f),
    (.extension, (f.len != .l64 || f.w1 == 0) && (f.len == .l128 || f.w2 == 0)
      && (i.shape.immB f || f.len != .l128 || f.w2 == 0)),
    (.thirdSource, ! f.ow || ((i.shape.usesC f || (f.c == 0 && ! f.cx)) && f.opx == 0 && ! (sc && f.cx))),
    (.selector, ! f.ow || (selOk (if i.shape.regA then i.wa f else 0) f.sela && selOk (if i.shape.regB f then i.wb f else 0) f.selb
      && selOk (i.wd f) f.seld)),
    (.rounding, (f.rm == 0 || (rnd && ! tern)) && (! f.ow || f.rm3 == 0 || (rnd && tern))),
    (.rationalMode, f.qr == 0 || ((i.rat || Comp.maybeRat i f) && f.qr != 7 && f.rm == 0 && (! f.ow || f.rm3 == 0))),
    (.opcodeField, i.opfOk f) ]

/-- No bit of OPF is defined. -/
def opfNone (f : Comp) : Bool := f.opf == 0
/-- OPF holds a condition code of at most m (R97, R102). -/
def opfCc (m : Nat) (f : Comp) : Bool := f.opf.toNat ≤ m
/-- OPF of a vector compare: CC at most m, FORM not 3 (R135, R139). -/
def opfVcmp (m : Nat) (f : Comp) : Bool := f.cc ≤ m && f.opfAt 3 2 != 3 && f.opfAt 5 8 == 0
/-- Never rounds. -/
def rNo (_ : Comp) : Bool := false
/-- Always rounds. -/
def rYes (_ : Comp) : Bool := true
/-- Rounds where TY is floating. -/
def rFlt (f : Comp) : Bool := tyFloat f.ty.toNat

/-- A row whose operands all have the width of TY. -/
def cRow (maj sub lens tys : Nat) (sh : Shape) : CompInfo :=
  { maj := maj, sub := sub, lens := lens, tys := tys, shape := sh, scalar := false, dual := false, vlat := false, rat := false,
    rnd := rNo, opfOk := opfNone, wa := Comp.w, wb := Comp.w, wd := Comp.w }

/-- MAJ 0x10: scalar integers (R92). -/
def cSInt (sub : Nat) : CompInfo := { cRow 0x10 sub lAll tINT (if sub < 12 then .bin else .un) with scalar := true }
/-- MAJ 0x20: vector integers (R131). -/
def cVInt (sub : Nat) : CompInfo := cRow 0x20 sub lAll (tINT + 0x8000) (if sub < 12 then .bin else .un)
/-- MAJ 0x18: scalar floats (R100 to R103). -/
def cSFlt (sub lens : Nat) (sh : Shape) : CompInfo := { cRow 0x18 sub lens tFLT sh with scalar := true }
/-- MAJ 0x28: vector floats (R136). -/
def cVFlt (sub : Nat) : CompInfo :=
  { cRow 0x28 sub lAll tFLT (if sub < 5 then .bin else .un) with rnd := fun _ => sub < 3 }
/-- MAJ 0x2B: special functions (R141). -/
def cSfn (sub : Nat) : CompInfo :=
  { cRow 0x2B sub l6496 0x0700 .un with dual := true, rnd := fun _ => sub == 6 }
/-- MAJ 0x34: dot products (R148); the destination is written as 32-bit elements. -/
def cDot (sub tys : Nat) : CompInfo :=
  { cRow 0x34 sub lExt tys .tern with rnd := rFlt, opfOk := fun f => f.opf.toNat ≤ 1, wd := fun _ => 32 }
/-- MAJ 0x38: rationals (R149). -/
def cRat (sub lens : Nat) (sh : Shape) : CompInfo :=
  { cRow 0x38 sub lens tQ sh with dual := true, vlat := true, rat := true }
/-- The check of a bit field's OPF (R95). -/
def opfField (f : Comp) : Bool :=
  if f.len == .l64 then f.opfAt 12 1 == 0 && f.opfAt 0 6 + f.opfAt 6 6 + 1 ≤ f.w else f.opf == 0

/-- The check of VCVT's OPF (R143). -/
def opfVcvt (f : Comp) : Bool :=
  let ws := tyWidth f.sty
  let wd := f.w
  let pos := f.opfAt 6 3
  let narrow := inSet 0x7300 f.ty
  (f.opfAt 4 1 == 0 || narrow) && (f.opfAt 11 2 != 3) && (f.opfAt 11 2 != 0 || f.opfAt 9 2 == 0)
    && (if ws == wd then pos == 0 else if ws < wd then pos < wd / ws else pos < ws / wd)

/-- The width of VQCVT's source and destination (R152): DIR at 55, QQ at 56, NSAT at 57. -/
def vqOther (f : Comp) : Nat := if f.opfAt 5 1 == 1 then (if f.ty == 10 then 64 else 32) else tyWidth f.sty

/-- The check of VQCVT's OPF (R152). -/
def opfVqcvt (f : Comp) : Bool :=
  f.opfAt 7 6 == 0 && (f.opfAt 5 1 == 0 || f.sty == 0)
    && (f.opfAt 6 1 == 0 || (f.opfAt 4 1 == 1 && f.opfAt 5 1 == 0 && (0x7300 : Nat).testBit f.sty))

/-- The check of VPACK and VUNPK (R146, R147): TY 6, 7 and 11 are illegal. -/
def opfPack (sat : Bool) (f : Comp) : Bool :=
  ! inSet 0x08C0 f.ty && f.opf.toNat ≤ (if sat then 3 else 1)
    && (f.opfAt 1 1 == 0 || (tyInt f.ty.toNat && f.opfAt 0 1 == 0))

/-- The check of VREDU's and VSCAN's OPF (R159, R160). -/
def opfRed (m : Nat) (f : Comp) : Bool :=
  f.opf.toNat ≤ m && f.cc ≤ 5 && (! tyFloat f.ty.toNat || f.cc ≤ 2)

/-- The immediate of VSHFI and the lane number as it stands in the extension words. -/
def Comp.immRaw (f : Comp) : Nat := if f.len == .l128 then f.w1.toNat + 2 ^ 32 * f.w2.toNat else f.w1.toNat

/-- The check of VSHFI (R156). -/
def opfShfi (f : Comp) : Bool :=
  let k := f.opf.toNat
  k ≤ 5 && (if k == 5 then f.len == .l128 else f.immRaw < 32)

/-- SFCVT's source and destination types and `.nsat` (R103). -/
def opfSfcvt (f : Comp) : Bool :=
  8 ≤ f.sty && f.sty ≤ 11 && f.opfAt 5 8 == 0 && (f.opfAt 4 1 == 0 || inSet 0x0300 f.ty)

/-! ### Memory forms (R163) -/

/-- What the D field of a memory form names. -/
inductive DKind where
  | vec
  | scal
  | none
  | level
deriving DecidableEq, Repr

/-- The address column of R163. -/
inductive AddrKind where
  | full
  | base
  | none
deriving DecidableEq, Repr

/-- One row of R58 and R163. -/
structure MemInfo where
  maj : Nat
  sub : Nat
  lens : Nat
  tys : Nat
  d : DKind
  addr : AddrKind
  /-- Is the A field used? -/
  a : Bool
  /-- Accepted ORD codes, as a set. -/
  ords : Nat
  /-- Accepted SCOPE codes, as a set, where `r166` is false. -/
  scopes : Nat
  /-- Is SCOPE read by R166? -/
  r166 : Bool
  rdis : Bool
  spw : Bool
  nv : Bool
  /-- Is CF required? -/
  cf : Bool
  extra : MemF → Bool

/-- SCOPE against ORD (R166). -/
def scope166 (f : MemF) : Bool :=
  if f.ord == 0 then f.scope == 0 else if f.ord == 5 then 4 ≤ f.scope.toNat && f.scope.toNat ≤ 6 else f.scope != 7

/-- The static checks of a memory instruction (R163). -/
def MemInfo.checks (i : MemInfo) (f : MemF) : List (Flaw × Bool) :=
  [ (.length, i.lens.testBit f.len.bit),
    (.uniform, ! f.u),
    (.flag, f.cf != 3 && (f.cf != 0 || ! i.cf)),
    (.type, inSet i.tys f.ty),
    (.laneMask, f.msk == 0 || (i.d != .scal && i.addr == .full)),
    (.unusedRegister, (i.d != .none || f.d == 0) && (i.a || f.a == 0)),
    (.index, if i.addr == .full then f.sc != 7 || f.b == 0 else f.sc == 7 && f.b == 0),
    (.order, i.ords.testBit f.ord.toNat && (if i.r166 then scope166 f else i.scopes.testBit f.scope.toNat)),
    (.accessField, (i.rdis || f.rdis == 0) && (i.spw || ! f.spw) && (i.nv || ! f.nv)),
    (.extension, (f.len != .l64 || f.w1 == 0) && f.w2 == 0 && (f.len == .l64 || f.off8 == 0)),
    (.opcodeField, i.extra f) ]

/-- No further check. -/
def mNone (_ : MemF) : Bool := true
/-- OFF8 and the offset are zero: a form that forms no address (R163). -/
def mNoOff (f : MemF) : Bool := f.off8 == 0
/-- The barrier number fits its kind (R193). -/
def mBar (f : MemF) : Bool := f.off8.toNat < (if f.scope == 1 then 16 else 8)
/-- BARW's OFF8 [63:57] is zero and P, W0 [56], is as given (R195). -/
def mBarw (p : Bool) (f : MemF) : Bool := f.off8 == (if p then 1 else 0)
/-- SPW needs ORD = 0 (R176). -/
def mSpw (f : MemF) : Bool := ! f.spw || f.ord == 0
/-- D even and at most m. -/
def mEven (m : Nat) (f : MemF) : Bool := f.d.toNat % 2 == 0 && f.d.toNat ≤ m
/-- LVL of PREF (R182). -/
def mLvl (f : MemF) : Bool := f.d.toNat ≤ 2

/-- A row of R163; the fields given in the table's order. -/
def mRow (maj sub lens tys : Nat) (d : DKind) (addr : AddrKind) (ords scopes : Nat) (cf : Bool) : MemInfo :=
  { maj := maj, sub := sub, lens := lens, tys := tys, d := d, addr := addr, a := addr != .none, ords := ords, scopes := scopes,
    r166 := false, rdis := false, spw := false, nv := false, cf := cf, extra := mNone }

/-- The TY codes of ATOM and RED by SUB (R59). -/
def atomTys (sub : Nat) : Nat :=
  match sub with
  | 6 => 0x0CF0
  | 7 => 0x0400
  | 8 => 0x0200
  | 9 => 0x0C00
  | _ => 0x00F0

/-- ATOM (R163). -/
def mAtom (sub : Nat) : MemInfo :=
  { mRow 0xA0 sub l6496 (atomTys sub) .vec .full 0x1F 0 true with r166 := true, nv := true }
/-- RED (R163). -/
def mRed (sub : Nat) : MemInfo := { mRow 0xA1 sub l6496 (atomTys sub) .vec .full 0x15 0 false with r166 := true }

/-! ### Control, system, matrix, Flume and headrace forms -/

/-- Whether a form takes, may take or must take a completion flag (R105, R122, R330). -/
inductive CfRule where
  | no
  | opt
  | req
deriving DecidableEq, Repr

/-- One row of R105, R122 or R330. -/
structure CtlInfo where
  maj : Nat
  sub : Nat
  lens : Nat
  tys : Nat
  d : Ctl → Bool
  a : Ctl → Bool
  b : Bool
  cf : CfRule
  immOk : Ctl → Bool
  regOk : Ctl → Bool

/-- A field of W0 [63:43], counted from bit 43. -/
def Ctl.at (f : Ctl) (lo len : Nat) : Nat := (f.imm.toNat >>> lo) % 2 ^ len

/-- The static checks of a control, system or engine instruction. -/
def CtlInfo.checks (i : CtlInfo) (f : Ctl) : List (Flaw × Bool) :=
  [ (.length, i.lens.testBit f.len.bit),
    (.uniform, ! f.u),
    (.flag, match i.cf with | .no => f.cf == 0 | .opt => f.cf != 3 | .req => f.cf == 1 || f.cf == 2),
    (.type, inSet i.tys f.ty),
    (.laneMask, f.msk == 0),
    (.unusedRegister, (i.d f || f.d == 0) && (i.a f || f.a == 0) && (i.b || f.b == 0)),
    (.extension, (f.len != .l64 || f.w1 == 0) && (f.len == .l128 || f.w2 == 0)),
    (.opcodeField, i.immOk f),
    (.registerRule, i.regOk f) ]

/-- Used. -/
def fYes (_ : Ctl) : Bool := true
/-- Not used. -/
def fNo (_ : Ctl) : Bool := false
/-- W0 [63:43] is below 2^n. -/
def immBits (n : Nat) (f : Ctl) : Bool := f.imm.toNat < 2 ^ n

/-- A row with no register and no immediate. -/
def kRow (maj sub lens : Nat) : CtlInfo :=
  { maj := maj, sub := sub, lens := lens, tys := 1, d := fNo, a := fNo, b := false, cf := .no,
    immOk := immBits 0, regOk := fYes }

/-- A branch offset: OFF21, or OFF32 with W0 [63:43] zero (R105). -/
def immOff (f : Ctl) : Bool := f.len == .l64 || f.imm == 0
/-- SPLIT: JN not 127; OFF14 zero in the 96-bit form (R112). -/
def immSplit (f : Ctl) : Bool := f.at 0 7 != 127 && (f.len == .l64 || f.at 7 14 == 0)
/-- The assigned system registers: readable, writable (R44). -/
def sysReadable (n : Nat) : Bool :=
  n ≤ 2 || n == 0x10 || n == 0x11 || n == 0x20 || n == 0x21 || (0x100 ≤ n && n ≤ 0x10F) || (0x200 ≤ n && n ≤ 0x2FF)
/-- The writable system registers (R44). -/
def sysWritable (n : Nat) : Bool := n ≤ 2 || n == 0x10 || n == 0x11 || n == 0x20
/-- OFF8 of a Flume or headrace form, with q its low bits allowed (R330). -/
def immAddr (q : Nat) (f : Ctl) : Bool := f.at q (13 - q) == 0 && (f.len == .l64 || f.at 13 8 == 0)
/-- MDRN (R344). -/
def immMdrn (f : Ctl) : Bool :=
  let n := 64 / tyWidth f.ty.toNat
  f.at 14 7 == 0 && f.at 0 5 + (f.at 5 2 + 1) * n ≤ 32 && f.at 9 2 != 3 && (f.at 9 2 != 0 || f.at 7 2 == 0)
    && (f.at 11 1 == 0 || inSet 0x7300 f.ty)

/-! ### The table -/

/-- What a row of the opcode table is: the fields of an instruction under its row of the opcode map, a header, or a step of
another agent. -/
inductive Info where
  | header (h : Header)
  | ctl (i : CtlInfo) (f : Ctl)
  | comp (i : CompInfo) (f : Comp)
  | mem (i : MemInfo) (f : MemF)
  | event

/-- The row of the opcode map that an instruction is encoded under (R55, R56, R58 to R60). -/
def Instr.info : Instr → Info
  | .clauseHeader h => .header h
  | .nop f => .ctl (kRow 0 0 lAll) f
  | .brk f => .ctl { kRow 1 0 lAll with immOk := fYes } f
  | .trap f => .ctl { kRow 2 0 lBase with immOk := fYes } f
  | .exit f => .ctl (kRow 3 0 lBase) f
  | .bra f => .ctl { kRow 4 0 l6496 with immOk := immOff } f
  | .braNz f => .ctl { kRow 4 1 l6496 with immOk := immOff, a := fYes } f
  | .braZ f => .ctl { kRow 4 2 l6496 with immOk := immOff, a := fYes } f
  | .braEz f => .ctl { kRow 4 3 l6496 with immOk := immOff } f
  | .brx f => .ctl { kRow 5 0 lBase with a := fYes } f
  | .call f => .ctl { kRow 6 0 l6496 with immOk := immOff, d := fYes } f
  | .ret f => .ctl { kRow 7 0 lBase with a := fYes } f
  | .split f => .ctl { kRow 8 0 l6496 with immOk := immSplit, a := fYes } f
  | .join f => .ctl { kRow 9 0 lBase with immOk := fun f => immBits 7 f && f.at 0 7 != 127 } f
  | .loop f => .ctl { kRow 0xA 0 l6496 with immOk := fun f => 1 ≤ f.imm.toNat && f.imm.toNat ≤ 64, a := fun f => f.len == .l64 } f
  | .rep f => .ctl { kRow 0xB 0 lBase with immOk := immBits 18 } f
  | .waitf f => .ctl { kRow 0xC 0 lBase with immOk := immBits 12 } f
  | .yield f => .ctl (kRow 0xD 0 lBase) f
  | .sadd f => .comp (cSInt 0) f
  | .ssub f => .comp (cSInt 1) f
  | .sand f => .comp (cSInt 2) f
  | .sor f => .comp (cSInt 3) f
  | .sxor f => .comp (cSInt 4) f
  | .sshl f => .comp (cSInt 5) f
  | .sshr f => .comp (cSInt 6) f
  | .ssar f => .comp (cSInt 7) f
  | .smin f => .comp (cSInt 8) f
  | .smax f => .comp (cSInt 9) f
  | .smul f => .comp (cSInt 10) f
  | .smulh f => .comp (cSInt 11) f
  | .spopc f => .comp (cSInt 12) f
  | .sclz f => .comp (cSInt 13) f
  | .sffs f => .comp (cSInt 14) f
  | .snot f => .comp (cSInt 15) f
  | .smad f => .comp { cRow 0x11 0 lExt tINT .tern with scalar := true } f
  | .sdiv f => .comp { cRow 0x12 0 lAll tINT .bin with scalar := true, vlat := true } f
  | .srem f => .comp { cRow 0x12 1 lAll tINT .bin with scalar := true, vlat := true } f
  | .sbfx f => .comp { cRow 0x13 0 l6496 tINT .bfx with scalar := true, opfOk := opfField } f
  | .sbfi f => .comp { cRow 0x13 1 l6496 tINT .bfi with scalar := true, opfOk := opfField } f
  | .ssel f => .comp { cRow 0x14 0 lExt tINT .tern with scalar := true } f
  | .scmp f => .comp { cRow 0x15 0 lAll tINT .bin with scalar := true, opfOk := opfCc 5 } f
  | .smov f => .comp { cRow 0x16 0 lBase tINT .un with scalar := true } f
  | .smovi f => .comp { cRow 0x16 1 lExt tINT .movi with scalar := true } f
  | .slea f => .comp { cRow 0x17 0 l6496 1 .slea with scalar := true, opfOk := opfCc 6, wa := fun _ => 0, wb := fun _ => 0, wd := fun _ => 0 } f
  | .sfadd f => .comp { cSFlt 0 lAll .bin with rnd := rYes } f
  | .sfsub f => .comp { cSFlt 1 lAll .bin with rnd := rYes } f
  | .sfmul f => .comp { cSFlt 2 lAll .bin with rnd := rYes } f
  | .sfdiv f => .comp { cSFlt 3 lAll .bin with rnd := rYes } f
  | .sfmin f => .comp (cSFlt 4 lAll .bin) f
  | .sfmax f => .comp (cSFlt 5 lAll .bin) f
  | .sffma f => .comp { cSFlt 6 lExt .tern with rnd := rYes } f
  | .sfcmp f => .comp { cSFlt 7 lAll .bin with opfOk := opfCc 6 } f
  | .sfcvt f => .comp { cSFlt 8 lAll .un with rnd := rYes, opfOk := opfSfcvt, wa := fun f => tyWidth f.sty } f
  | .sysr f => .ctl { kRow 0x19 0 lBase with d := fYes, immOk := fun f => immBits 12 f && sysReadable f.imm.toNat } f
  | .sysw f => .ctl { kRow 0x1A 0 lBase with a := fYes, immOk := fun f => immBits 12 f && sysWritable f.imm.toNat } f
  | .time f => .ctl { kRow 0x1B 0 lBase with d := fYes } f
  | .idx f => .ctl { kRow 0x1C 0 lBase with d := fYes, immOk := fun f => f.imm.toNat ≤ 13 } f
  | .launch f => .ctl { kRow 0x1D 0 lBase with d := fYes, a := fYes, cf := .req, immOk := immBits 2 } f
  | .icinv f => .ctl { kRow 0x1E 0 lBase with a := fYes, cf := .opt, immOk := immBits 9 } f
  | .vadd f => .comp (cVInt 0) f
  | .vsub f => .comp (cVInt 1) f
  | .vand f => .comp (cVInt 2) f
  | .vor f => .comp (cVInt 3) f
  | .vxor f => .comp (cVInt 4) f
  | .vshl f => .comp (cVInt 5) f
  | .vshr f => .comp (cVInt 6) f
  | .vsar f => .comp (cVInt 7) f
  | .vmin f => .comp (cVInt 8) f
  | .vmax f => .comp (cVInt 9) f
  | .vmul f => .comp (cVInt 10) f
  | .vmulh f => .comp (cVInt 11) f
  | .vpopc f => .comp (cVInt 12) f
  | .vclz f => .comp (cVInt 13) f
  | .vabs f => .comp (cVInt 14) f
  | .vnot f => .comp (cVInt 15) f
  | .vmad f => .comp (cRow 0x21 0 lExt tINT .tern) f
  | .vbfx f => .comp { cRow 0x22 0 l6496 tINT .bfx with opfOk := opfField } f
  | .vbfi f => .comp { cRow 0x22 1 l6496 tINT .bfi with opfOk := opfField } f
  | .vsel f => .comp (cRow 0x23 0 lExt tANY .tern) f
  | .vcmp f => .comp { cRow 0x24 0 lAll tINT .bin with opfOk := opfVcmp 5, wd := fun f => if f.opfAt 3 2 == 2 then f.w else 0 } f
  | .vmov f => .comp (cRow 0x25 0 l6496 tANY .un) f
  | .vmovAmax f => .comp { cRow 0x25 0 l6496 tANY .amax with opfOk := fun f => f.opfAt 0 1 == 1 && f.opf.toNat ≤ 7, wa := fun _ => 0, wb := fun _ => 0 } f
  | .vmovi f => .comp { cRow 0x25 1 lExt tANY .movi with rnd := rFlt, wa := fun _ => 0 } f
  | .vadds f => .comp { cRow 0x26 0 lAll tINT .bin with dual := true } f
  | .vsubs f => .comp { cRow 0x26 1 lAll tINT .bin with dual := true } f
  | .vfadd f => .comp (cVFlt 0) f
  | .vfsub f => .comp (cVFlt 1) f
  | .vfmul f => .comp (cVFlt 2) f
  | .vfmin f => .comp (cVFlt 3) f
  | .vfmax f => .comp (cVFlt 4) f
  | .vfabs f => .comp (cVFlt 5) f
  | .vfneg f => .comp (cVFlt 6) f
  | .vfcls f => .comp (cVFlt 7) f
  | .vffma f => .comp { cRow 0x29 0 lExt tFLT .tern with rnd := rYes } f
  | .vfcmp f => .comp { cRow 0x2A 0 lAll tFLT .bin with opfOk := opfVcmp 6, wd := fun f => if f.opfAt 3 2 == 2 then f.w else 0 } f
  | .vfdiv f => .comp { cRow 0x2C 0 lAll tFLT .bin with rnd := rYes, vlat := true } f
  | .vfrcp f => .comp (cSfn 0) f
  | .vfrsq f => .comp (cSfn 1) f
  | .vfexp2 f => .comp (cSfn 2) f
  | .vflog2 f => .comp (cSfn 3) f
  | .vfsin f => .comp (cSfn 4) f
  | .vfcos f => .comp (cSfn 5) f
  | .vfsqrt f => .comp (cSfn 6) f
  | .vftanh f => .comp (cSfn 7) f
  | .vcvt f => .comp { cRow 0x30 0 lAll tANY .scaled with dual := true, rnd := rYes, opfOk := opfVcvt, wa := fun f => tyWidth f.sty, wb := fun f => if f.scl then 32 else 0 } f
  | .vpack f => .comp { cRow 0x31 0 l6496 tANY .bin with dual := true, opfOk := opfPack true, wa := fun f => 2 * f.w, wb := fun f => 2 * f.w } f
  | .vunpk f => .comp { cRow 0x32 0 l6496 tANY .un with dual := true, opfOk := opfPack false, wd := fun f => 2 * f.w } f
  | .vdoth f => .comp (cDot 0 0x030C) f
  | .vdotb f => .comp (cDot 1 0x3003) f
  | .vdotn f => .comp (cDot 2 0xC000) f
  | .vqadd f => .comp (cRat 0 lAll .bin) f
  | .vqsub f => .comp (cRat 1 lAll .bin) f
  | .vqmul f => .comp (cRat 2 lAll .bin) f
  | .vqdiv f => .comp (cRat 3 lAll .bin) f
  | .vqcmp f => .comp { cRat 4 lAll .bin with opfOk := fun f => opfCc 6 f && f.qr == 0 } f
  | .vqcvt f => .comp { cRat 5 lAll .un with opfOk := opfVqcvt, wa := fun f => if f.opfAt 4 1 == 1 then f.w else vqOther f, wd := fun f => if f.opfAt 4 1 == 1 then vqOther f else f.w } f
  | .vqrnd f => .comp { cRat 6 lAll .un with opfOk := fun f => f.opfAt 6 7 == 0 && 2 ≤ f.opfAt 0 6 && f.opfAt 0 6 ≤ (if f.ty == 10 then 26 else 57) } f
  | .vqfma f => .comp (cRat 7 lExt .tern) f
  | .vshfl f => .comp { cRow 0x40 0 l6496 tANY .shfl with wb := fun _ => 0 } f
  | .vshfi f => .comp { cRow 0x41 0 lExt tANY .shfi with opfOk := opfShfi } f
  | .vrfal f => .comp { cRow 0x42 0 lBase tINT .un with wd := fun _ => 0 } f
  | .vrdln f => .comp { cRow 0x43 0 l6496 tINT .laneNo with opfOk := fun f => opfNone f && f.msk == 0 && (! Shape.immB .laneNo f || f.immRaw < 32), wb := fun _ => 0, wd := fun _ => 0 } f
  | .vwrln f => .comp { cRow 0x44 0 l6496 tINT .laneNo with opfOk := fun f => opfNone f && f.ax && (! Shape.immB .laneNo f || f.immRaw < 32), wb := fun _ => 0 } f
  | .vredu f => .comp { cRow 0x45 0 l6496 (tINT + tFLT) .un with rnd := fun f => rFlt f && f.cc == 0, opfOk := opfRed 7, wd := fun _ => 0 } f
  | .vscan f => .comp { cRow 0x46 0 l6496 (tINT + tFLT) .un with rnd := fun f => rFlt f && f.cc == 0, opfOk := opfRed 15 } f
  | .vmatch f => .comp { cRow 0x47 0 lBase (tINT + tFLT) .un with opfOk := fun f => f.opf.toNat ≤ 1 && (f.opf == 0 || rFlt f) } f
  | .vredm f => .comp { cRow 0x48 0 l6496 0x0700 .validity with rnd := rYes, opfOk := fun f => f.opf.toNat ≤ 1 && f.d.toNat % 2 == 0 && f.d.toNat ≤ 60, wb := fun _ => 0, wd := fun _ => 0 } f
  | .ld f => .mem { mRow 0x80 0 l6496 tANY .vec .full 0x23 0 true with r166 := true, rdis := true, nv := true } f
  | .st f => .mem { mRow 0x81 0 l6496 tANY .vec .full 0x05 0 false with r166 := true, rdis := true, spw := true, extra := mSpw } f
  | .ldu f => .mem { mRow 0x82 0 l6496 tANY .scal .base 0x23 0 true with r166 := true, rdis := true } f
  | .stu f => .mem { mRow 0x83 0 l6496 tANY .scal .base 0x05 0 false with r166 := true, rdis := true, spw := true, extra := mSpw } f
  | .lds f => .mem { mRow 0x84 0 l6496 tANY .vec .full 0x01 0x01 true with nv := true } f
  | .sts f => .mem (mRow 0x85 0 l6496 tANY .vec .full 0x01 0x01 false) f
  | .ldc f => .mem { mRow 0x86 0 l6496 tANY .vec .full 0x03 0x05 true with nv := true } f
  | .stc f => .mem (mRow 0x87 0 l6496 tANY .vec .full 0x05 0x05 false) f
  | .ldv f => .mem { mRow 0x88 0 l6496 1 .vec .full 0x03 0 true with r166 := true } f
  | .clrv f => .mem (mRow 0x88 1 l6496 1 .scal .base 0x01 0x01 false) f
  | .pref f => .mem { mRow 0x89 0 l6496 1 .level .full 0x01 0x01 false with rdis := true, extra := mLvl } f
  | .cinv f => .mem (mRow 0x8A 0 l6496 1 .scal .base 0x01 0x7C false) f
  | .cwb f => .mem (mRow 0x8B 0 l6496 1 .scal .base 0x01 0x7C false) f
  | .llck f => .mem (mRow 0x8C 0 lBase 1 .scal .base 0x01 0x01 true) f
  | .lunl f => .mem (mRow 0x8D 0 lBase 1 .scal .base 0x01 0x01 false) f
  | .presQuery f => .mem (mRow 0x8E 0 l6496 1 .scal .base 0x01 0x01 true) f
  | .presSet f => .mem (mRow 0x8E 1 l6496 1 .scal .base 0x01 0x01 false) f
  | .presClr f => .mem (mRow 0x8E 2 l6496 1 .scal .base 0x01 0x01 false) f
  | .fence f => .mem { mRow 0x8F 0 lBase 1 .none .none 0x1E 0x7F false with extra := mNoOff } f
  | .rdsb f => .mem { mRow 0x90 0 lBase 1 .none .none 0x01 0x01 false with extra := mNoOff } f
  | .rdse f => .mem { mRow 0x91 0 lBase 1 .none .none 0x01 0x01 false with extra := mNoOff } f
  | .publ f => .mem (mRow 0x92 0 l6496 1 .scal .base 0x04 0x7E false) f
  | .retq f => .mem { mRow 0x93 0 l6496 1 .scal .base 0x01 0x30 true with extra := mEven 60 } f
  | .gpwt f => .mem { mRow 0x94 0 lBase 1 .scal .none 0x01 0x01 true with a := true, extra := mNoOff } f
  | .gpqy f => .mem { mRow 0x95 0 lBase 1 .scal .none 0x01 0x30 true with extra := mNoOff } f
  | .atomAdd f => .mem (mAtom 0) f
  | .atomMin f => .mem (mAtom 1) f
  | .atomMax f => .mem (mAtom 2) f
  | .atomAnd f => .mem (mAtom 3) f
  | .atomOr f => .mem (mAtom 4) f
  | .atomXor f => .mem (mAtom 5) f
  | .atomXchg f => .mem (mAtom 6) f
  | .atomFaddF32 f => .mem (mAtom 7) f
  | .atomFaddBf16 f => .mem (mAtom 8) f
  | .atomQadd f => .mem (mAtom 9) f
  | .redAdd f => .mem (mRed 0) f
  | .redMin f => .mem (mRed 1) f
  | .redMax f => .mem (mRed 2) f
  | .redAnd f => .mem (mRed 3) f
  | .redOr f => .mem (mRed 4) f
  | .redXor f => .mem (mRed 5) f
  | .redXchg f => .mem (mRed 6) f
  | .redFaddF32 f => .mem (mRed 7) f
  | .redFaddBf16 f => .mem (mRed 8) f
  | .redQadd f => .mem (mRed 9) f
  | .acas f => .mem { mRow 0xA2 0 l6496 0x00F0 .vec .full 0x1F 0 true with r166 := true, nv := true, extra := mEven 62 } f
  | .barv f => .mem { mRow 0xA8 0 lBase 1 .scal .none 0x05 0x06 true with extra := mBar } f
  | .barw f => .mem { mRow 0xA9 0 lBase 1 .none .none 0x03 0x06 true with a := true, extra := mBarw false } f
  | .barwP f => .mem { mRow 0xA9 0 lBase 1 .none .none 0x03 0x06 true with a := true, extra := mBarw true } f
  | .bars f => .mem { mRow 0xAA 0 lBase 1 .scal .none 0x01 0x06 true with a := true, extra := mBar } f
  | .sigp f => .mem { mRow 0xAC 0 l6496 1 .scal .base 0x05 0 false with r166 := true } f
  | .sigw f => .mem { mRow 0xAB 0 l6496 1 .scal .base 0x03 0 true with r166 := true, spw := true, nv := true } f
  | .lease f => .ctl { kRow 0xB0 0 lBase with cf := .opt, immOk := immBits 10 } f
  | .rels f => .ctl { kRow 0xB1 0 lBase with cf := .opt } f
  | .gang f => .ctl { kRow 0xB2 0 lBase with cf := .opt, a := fYes } f
  | .mma f => .ctl { kRow 0xB3 0 lBase with cf := .opt, d := fYes, a := fYes, b := true, immOk := immBits 8, regOk := fun f => f.a.toNat % 4 == 0 } f
  | .mzero f => .ctl { kRow 0xB4 0 lBase with cf := .opt, d := fYes, immOk := immBits 6 } f
  | .mdrn f => .ctl { kRow 0xB5 0 l6496 with tys := 0x7F00, cf := .req, d := fYes, a := fYes, immOk := immMdrn, regOk := fun f => f.d.toNat + f.at 5 2 ≤ 63 } f
  | .ldfr f => .ctl { kRow 0xB6 0 l6496 with cf := .req, d := fYes, a := fYes, b := true, regOk := fun f => f.d.toNat % 4 == 0 } f
  | .mstat f => .ctl { kRow 0xB7 0 lBase with cf := .opt, d := fYes, immOk := immBits 1 } f
  | .flcp f => .ctl { kRow 0xC0 0 l6496 with cf := .opt, a := fYes, immOk := immAddr 0 } f
  | .flmc f => .ctl { kRow 0xC1 0 l6496 with cf := .opt, a := fYes, immOk := immAddr 0 } f
  | .flrd f => .ctl { kRow 0xC2 0 l6496 with cf := .opt, a := fYes, immOk := immAddr 0 } f
  | .flwt f => .ctl { kRow 0xC3 0 lBase with cf := .req, a := fYes } f
  | .flst f => .ctl { kRow 0xC4 0 lBase with cf := .req, d := fYes, a := fYes } f
  | .hrst f => .ctl { kRow 0xC8 0 l6496 with cf := .opt, a := fYes, immOk := immAddr 2 } f
  | .hrsp f => .ctl { kRow 0xC9 0 lBase with cf := .opt, immOk := immBits 2 } f
  | .hrqs f => .ctl { kRow 0xCA 0 lBase with cf := .req, d := fYes, immOk := immBits 2 } f
  | .sigwSatisfied _ => .event
  | .walkComplete _ _ => .event
  | .operationComplete _ => .event
  | .memoryOpComplete _ => .event
  | .atomicPerform _ => .event
  | .homeWritePerform _ _ => .event
  | .staleMapRetry _ _ => .event
  | .trapReport _ => .event
  | .trapHandlerEntry _ => .event
  | .groupRetire _ => .event
  | .gridComplete _ => .event
  | .regionAbort _ => .event
  | .preempt _ _ => .event
  | .preemptDeferExpire _ _ => .event
  | .teamSave _ => .event
  | .resume _ _ => .event
  | .remove _ _ => .event
  | .replayPage _ _ => .event
  | .replayToken _ _ => .event
  | .tlbInvalidatePage _ _ => .event
  | .tlbInvalidateAll _ _ => .event
  | .weirAttempt => .event
  | .weirSumDone => .event
  | .weirAdopted _ => .event
  | .weirFree => .event
  | .weirAppend => .event
  | .graceStall => .event
  | .podAdvance => .event
  | .mapChange _ _ _ => .event
  | .mapLineHandover _ _ => .event
  | .mapChangeComplete _ => .event
  | .stackUncorrectable _ _ => .event
  | .hostWrite _ _ _ => .event
  | .hostRead _ _ _ _ => .event
  | .hqdoor _ _ _ => .event
  | .hqidxHalt _ _ _ => .event
  | .packetTake _ _ => .event
  | .launchQueueTake _ => .event
  | .teamStart _ => .event
  | .clusterStart _ => .event
  | .tcbSend _ => .event
  | .stealRequest _ => .event
  | .tcbArrival _ => .event
  | .slotUrgent _ _ => .event
  | .leaseGrant _ => .event
  | .leaseExpire _ => .event
  | .jointMmaStart _ => .event
  | .flumeLineArrival _ _ => .event
  | .flumeComplete _ => .event
  | .headraceFetchReturn _ _ => .event
  | .numberedFlitReceive _ _ => .event
  | .controlFlitReceive _ _ => .event
  | .replayTimeout _ => .event
  | .relayForward _ => .event
  | .rdl _ _ => .event
  | .rdh _ _ => .event
  | .wrl _ _ => .event
  | .wrs _ _ => .event
  | .atm _ _ => .event
  | .fabricRed _ _ => .event
  | .clb _ _ => .event
  | .vld _ _ => .event
  | .wat _ _ => .event
  | .clm _ _ => .event
  | .rdata _ _ => .event
  | .rdone _ _ => .event
  | .rnack _ _ => .event
  | .adopt _ => .event
  | .report _ _ _ _ => .event
  | .scrub _ _ _ _ => .event
  | .scrubDone _ _ => .event
  | .linkDownExchange _ _ => .event
  | .channelsLit _ _ => .event
  | .lossOfLight _ _ _ => .event
  | .spareTrained _ => .event
  | .channelLightReturn _ _ _ => .event
  | .keyLimit _ _ => .event
  | .linkctlRetrain _ _ => .event
  | .linkctlRotate _ _ => .event
  | .rotationComplete _ => .event
  | .keyloadTransmit _ => .event
  | .keyloadReceive _ => .event
  | .accessTableUpdate _ _ _ _ => .event
  | .vdmapWrite _ _ => .event
  | .attestRequest _ => .event
  | .mrext _ => .event
  | .stepclr _ => .event
  | .deviceReset => .event
  | .registerWrite _ _ _ => .event
  | .spillwayFlitReceive _ _ => .event

/-- The static checks of a clause header (R17). -/
def Header.checks (h : Header) : List (Flaw × Bool) :=
  [ (.header, h.nins != 0 && h.rsv == 0 && ! (12 ≤ h.setA.toNat && h.setA.toNat ≤ 14) && ! (12 ≤ h.setB.toNat && h.setB.toNat ≤ 14)) ]

/-- The static checks of an instruction; a step of another agent has no words to check. -/
def Info.checks : Info → List (Flaw × Bool)
  | .header h => h.checks
  | .ctl i f => i.checks f
  | .comp i f => i.checks f
  | .mem i f => i.checks f
  | .event => []

/-- The first check that an instruction fails. -/
def Instr.flaw (i : Instr) : Option Flaw := (i.info.checks.find? (fun c => ! c.2)).map Prod.fst

/-- Every static check holds. -/
def Instr.wf (i : Instr) : Bool := i.info.checks.all (fun c => c.2)

end Sys2Proof
end

