-- ==== Sys2Proof/Decode.lean ====
section
/-! DEFINITION. Decoding of instruction words and clause headers, total on any bytes, and the encoder written from the same
layouts (R13, R17, R29, R32, R33, R38, R65). -/
namespace Sys2Proof
open Sys2Proof.Machine

/-- Why bytes are no instruction; each is an ILL (R50) but `short`, which says that too few bytes were given. -/
inductive Reject where
  /-- MAJ is unassigned, or SUB under an assigned MAJ (R52, R61). -/
  | unassigned
  /-- A field is against the form (R50). -/
  | illFormed (why : Flaw)
  /-- Fewer bytes than the instruction's length. -/
  | short
deriving DecidableEq, Repr

/-- The words of an instruction or header: W0, and W1 and W2 where the length has them. -/
structure Words where
  w0 : BitVec 64
  w1 : BitVec 32
  w2 : BitVec 32
deriving DecidableEq, Repr

/-! ### Layouts -/

/-- The LEN code (R13). -/
def Len.code : Len → BitVec 2
  | .l64 => 0
  | .l96 => 1
  | .l128 => 2

/-- The length of a LEN code; 3 is a header's. -/
def lenOf (c : BitVec 2) : Option Len :=
  match c.toNat with
  | 0 => some .l64
  | 1 => some .l96
  | 2 => some .l128
  | _ => none

/-- W0 from its fields (R29), W0 [63:43] as one field. -/
def packW0 (len : BitVec 2) (maj : BitVec 8) (sub : BitVec 4) (d a b : BitVec 6) (ty msk : BitVec 4) (cf : BitVec 2) (u : Bool)
    (imm : BitVec 21) : BitVec 64 :=
  imm ++ BitVec.ofBool u ++ cf ++ msk ++ ty ++ b ++ a ++ d ++ sub ++ maj ++ len

/-- W0 [63:43] of a computational instruction (R32). -/
def packComp (f : Comp) : BitVec 21 :=
  f.opf ++ f.qr ++ BitVec.ofBool f.ow ++ f.rm ++ BitVec.ofBool f.bx ++ BitVec.ofBool f.ax

/-- W0 [63:43] of a memory instruction (R38). -/
def packMem (f : MemF) : BitVec 21 :=
  f.off8 ++ BitVec.ofBool f.nv ++ BitVec.ofBool f.spw ++ f.scope ++ f.ord ++ f.rdis ++ f.sc

/-- A clause header (R17). -/
def packHeader (h : Header) : BitVec 64 :=
  h.rsv ++ BitVec.ofBool h.ser ++ BitVec.ofBool h.yld ++ h.setB ++ h.setA ++ h.wait ++ h.nins ++ (3 : BitVec 2)

/-- A clause header's fields (R17). -/
def unpackHeader (w : BitVec 64) : Header :=
  { nins := w.extractLsb' 2 6, wait := w.extractLsb' 8 12, setA := w.extractLsb' 20 4, setB := w.extractLsb' 24 4,
    yld := w.getLsbD 28, ser := w.getLsbD 29, rsv := w.extractLsb' 30 34 }

/-- The fields of a computational instruction (R29, R32). -/
def unpackComp (len : Len) (x : Words) : Comp :=
  { len := len, d := x.w0.extractLsb' 14 6, a := x.w0.extractLsb' 20 6, b := x.w0.extractLsb' 26 6, ty := x.w0.extractLsb' 32 4,
    msk := x.w0.extractLsb' 36 4, cf := x.w0.extractLsb' 40 2, u := x.w0.getLsbD 42, ax := x.w0.getLsbD 43, bx := x.w0.getLsbD 44,
    rm := x.w0.extractLsb' 45 2, ow := x.w0.getLsbD 47, qr := x.w0.extractLsb' 48 3, opf := x.w0.extractLsb' 51 13,
    w1 := x.w1, w2 := x.w2 }

/-- The fields of a memory instruction (R29, R38). -/
def unpackMem (len : Len) (x : Words) : MemF :=
  { len := len, d := x.w0.extractLsb' 14 6, a := x.w0.extractLsb' 20 6, b := x.w0.extractLsb' 26 6, ty := x.w0.extractLsb' 32 4,
    msk := x.w0.extractLsb' 36 4, cf := x.w0.extractLsb' 40 2, u := x.w0.getLsbD 42, sc := x.w0.extractLsb' 43 3,
    rdis := x.w0.extractLsb' 46 2, ord := x.w0.extractLsb' 48 3, scope := x.w0.extractLsb' 51 3, spw := x.w0.getLsbD 54,
    nv := x.w0.getLsbD 55, off8 := x.w0.extractLsb' 56 8, w1 := x.w1, w2 := x.w2 }

/-- The fields of a control, system or engine instruction (R29, R65). -/
def unpackCtl (len : Len) (x : Words) : Ctl :=
  { len := len, d := x.w0.extractLsb' 14 6, a := x.w0.extractLsb' 20 6, b := x.w0.extractLsb' 26 6, ty := x.w0.extractLsb' 32 4,
    msk := x.w0.extractLsb' 36 4, cf := x.w0.extractLsb' 40 2, u := x.w0.getLsbD 42, imm := x.w0.extractLsb' 43 21,
    w1 := x.w1, w2 := x.w2 }

/-! ### Opcode parse (R55, R56, R58 to R61) -/

/-- The control, system and engine form of MAJ and SUB. -/
def ctlOf (maj sub : Nat) : Option (Ctl → Instr) :=
  let one (c : Ctl → Instr) : Option (Ctl → Instr) := if sub = 0 then some c else none
  match maj with
  | 0x00 => one .nop
  | 0x01 => one .brk
  | 0x02 => one .trap
  | 0x03 => one .exit
  | 0x04 => [Instr.bra, .braNz, .braZ, .braEz][sub]?
  | 0x05 => one .brx
  | 0x06 => one .call
  | 0x07 => one .ret
  | 0x08 => one .split
  | 0x09 => one .join
  | 0x0A => one .loop
  | 0x0B => one .rep
  | 0x0C => one .waitf
  | 0x0D => one .yield
  | 0x19 => one .sysr
  | 0x1A => one .sysw
  | 0x1B => one .time
  | 0x1C => one .idx
  | 0x1D => one .launch
  | 0x1E => one .icinv
  | 0xB0 => one .lease
  | 0xB1 => one .rels
  | 0xB2 => one .gang
  | 0xB3 => one .mma
  | 0xB4 => one .mzero
  | 0xB5 => one .mdrn
  | 0xB6 => one .ldfr
  | 0xB7 => one .mstat
  | 0xC0 => one .flcp
  | 0xC1 => one .flmc
  | 0xC2 => one .flrd
  | 0xC3 => one .flwt
  | 0xC4 => one .flst
  | 0xC8 => one .hrst
  | 0xC9 => one .hrsp
  | 0xCA => one .hrqs
  | _ => none

/-- The computational form of MAJ and SUB; VMOV with AM = 1 is `vmovAmax` (R133). -/
def compOf (maj sub : Nat) (am : Bool) : Option (Comp → Instr) :=
  let one (c : Comp → Instr) : Option (Comp → Instr) := if sub = 0 then some c else none
  match maj with
  | 0x10 => [Instr.sadd, .ssub, .sand, .sor, .sxor, .sshl, .sshr, .ssar, .smin, .smax, .smul, .smulh, .spopc, .sclz, .sffs, .snot][sub]?
  | 0x11 => one .smad
  | 0x12 => [Instr.sdiv, .srem][sub]?
  | 0x13 => [Instr.sbfx, .sbfi][sub]?
  | 0x14 => one .ssel
  | 0x15 => one .scmp
  | 0x16 => [Instr.smov, .smovi][sub]?
  | 0x17 => one .slea
  | 0x18 => [Instr.sfadd, .sfsub, .sfmul, .sfdiv, .sfmin, .sfmax, .sffma, .sfcmp, .sfcvt][sub]?
  | 0x20 => [Instr.vadd, .vsub, .vand, .vor, .vxor, .vshl, .vshr, .vsar, .vmin, .vmax, .vmul, .vmulh, .vpopc, .vclz, .vabs, .vnot][sub]?
  | 0x21 => one .vmad
  | 0x22 => [Instr.vbfx, .vbfi][sub]?
  | 0x23 => one .vsel
  | 0x24 => one .vcmp
  | 0x25 => [if am then Instr.vmovAmax else .vmov, .vmovi][sub]?
  | 0x26 => [Instr.vadds, .vsubs][sub]?
  | 0x28 => [Instr.vfadd, .vfsub, .vfmul, .vfmin, .vfmax, .vfabs, .vfneg, .vfcls][sub]?
  | 0x29 => one .vffma
  | 0x2A => one .vfcmp
  | 0x2B => [Instr.vfrcp, .vfrsq, .vfexp2, .vflog2, .vfsin, .vfcos, .vfsqrt, .vftanh][sub]?
  | 0x2C => one .vfdiv
  | 0x30 => one .vcvt
  | 0x31 => one .vpack
  | 0x32 => one .vunpk
  | 0x34 => [Instr.vdoth, .vdotb, .vdotn][sub]?
  | 0x38 => [Instr.vqadd, .vqsub, .vqmul, .vqdiv, .vqcmp, .vqcvt, .vqrnd, .vqfma][sub]?
  | 0x40 => one .vshfl
  | 0x41 => one .vshfi
  | 0x42 => one .vrfal
  | 0x43 => one .vrdln
  | 0x44 => one .vwrln
  | 0x45 => one .vredu
  | 0x46 => one .vscan
  | 0x47 => one .vmatch
  | 0x48 => one .vredm
  | _ => none

/-- The memory form of MAJ and SUB; BARW with P, W0 [56], set is `barwP` (R195). -/
def memOf (maj sub : Nat) (p : Bool) : Option (MemF → Instr) :=
  let one (c : MemF → Instr) : Option (MemF → Instr) := if sub = 0 then some c else none
  match maj with
  | 0x80 => one .ld
  | 0x81 => one .st
  | 0x82 => one .ldu
  | 0x83 => one .stu
  | 0x84 => one .lds
  | 0x85 => one .sts
  | 0x86 => one .ldc
  | 0x87 => one .stc
  | 0x88 => [Instr.ldv, .clrv][sub]?
  | 0x89 => one .pref
  | 0x8A => one .cinv
  | 0x8B => one .cwb
  | 0x8C => one .llck
  | 0x8D => one .lunl
  | 0x8E => [Instr.presQuery, .presSet, .presClr][sub]?
  | 0x8F => one .fence
  | 0x90 => one .rdsb
  | 0x91 => one .rdse
  | 0x92 => one .publ
  | 0x93 => one .retq
  | 0x94 => one .gpwt
  | 0x95 => one .gpqy
  | 0xA0 => [Instr.atomAdd, .atomMin, .atomMax, .atomAnd, .atomOr, .atomXor, .atomXchg, .atomFaddF32, .atomFaddBf16, .atomQadd][sub]?
  | 0xA1 => [Instr.redAdd, .redMin, .redMax, .redAnd, .redOr, .redXor, .redXchg, .redFaddF32, .redFaddBf16, .redQadd][sub]?
  | 0xA2 => one .acas
  | 0xA8 => one .barv
  | 0xA9 => one (if p then .barwP else .barw)
  | 0xAA => one .bars
  | 0xAB => one .sigw
  | 0xAC => one .sigp
  | _ => none

/-- Words to fields by the class of MAJ (R65), with no check but the opcode's. -/
def parse (x : Words) : Option Instr :=
  match lenOf (x.w0.extractLsb' 0 2) with
  | none => some (.clauseHeader (unpackHeader x.w0))
  | some len =>
    let maj := (x.w0.extractLsb' 2 8).toNat
    let sub := (x.w0.extractLsb' 10 4).toNat
    match compOf maj sub (x.w0.getLsbD 51) with
    | some c => some (c (unpackComp len x))
    | none =>
      match memOf maj sub (x.w0.getLsbD 56) with
      | some c => some (c (unpackMem len x))
      | none => (ctlOf maj sub).map (fun c => c (unpackCtl len x))

/-- The instruction of its words, or the reason why there is none (R50). -/
def decodeWords (x : Words) : Except Reject Instr :=
  match parse x with
  | none => .error .unassigned
  | some i =>
    match i.flaw with
    | some why => .error (.illFormed why)
    | none => .ok i

/-- The number of bytes that a first byte announces (R13). -/
def lenBytes (b : Byte) : Nat :=
  match lenOf (b.extractLsb' 0 2) with
  | some len => 4 * len.words
  | none => 8

/-- A little-endian number of bytes. -/
def leNat : List Byte → Nat
  | [] => 0
  | b :: t => b.toNat + 256 * leNat t

/-- Read one instruction from bytes, lowest address first (R9), and the bytes after it. -/
def decode (bs : List Byte) : Except Reject (Instr × List Byte) :=
  match bs with
  | [] => .error .short
  | b :: _ =>
    let n := lenBytes b
    if bs.length < n then .error .short
    else
      let v := leNat (bs.take n)
      match decodeWords ⟨BitVec.ofNat 64 v, BitVec.ofNat 32 (v / 2 ^ 64), BitVec.ofNat 32 (v / 2 ^ 96)⟩ with
      | .ok i => .ok (i, bs.drop n)
      | .error e => .error e

/-- The words of an instruction (R17, R29, R32, R38); a step of another agent has none. -/
def encode (i : Instr) : Option Words :=
  match i.info with
  | .header h => some ⟨packHeader h, 0, 0⟩
  | .ctl r f => some ⟨packW0 f.len.code (BitVec.ofNat 8 r.maj) (BitVec.ofNat 4 r.sub) f.d f.a f.b f.ty f.msk f.cf f.u f.imm, f.w1, f.w2⟩
  | .comp r f => some ⟨packW0 f.len.code (BitVec.ofNat 8 r.maj) (BitVec.ofNat 4 r.sub) f.d f.a f.b f.ty f.msk f.cf f.u (packComp f), f.w1, f.w2⟩
  | .mem r f => some ⟨packW0 f.len.code (BitVec.ofNat 8 r.maj) (BitVec.ofNat 4 r.sub) f.d f.a f.b f.ty f.msk f.cf f.u (packMem f), f.w1, f.w2⟩
  | .event => none

/-- The low n bytes of a number, lowest first. -/
def leBytes : Nat → Nat → List Byte
  | 0, _ => []
  | n + 1, v => BitVec.ofNat 8 v :: leBytes n (v / 256)

/-- The words of an instruction as one number, W0 lowest. -/
def Words.toNat (x : Words) : Nat := x.w0.toNat + 2 ^ 64 * x.w1.toNat + 2 ^ 96 * x.w2.toNat

/-- The number of bytes of an instruction. -/
def Instr.size (i : Instr) : Nat :=
  match i.info with
  | .header _ => 8
  | .ctl _ f => 4 * f.len.words
  | .comp _ f => 4 * f.len.words
  | .mem _ f => 4 * f.len.words
  | .event => 0

/-- An instruction's bytes in memory, lowest address first (R9). -/
def encodeBytes (i : Instr) : List Byte :=
  match encode i with
  | some x => leBytes i.size x.toNat
  | none => []

/-- The instruction that the decoder reads from bits numbered as spec/opcode_table.json numbers them; bits at and above `nbits`
are 0. -/
def decodeTableWord (nbits w : Nat) : Option Instr :=
  match decode (leBytes 16 (w % 2 ^ nbits)) with
  | .ok (i, _) => some i
  | .error _ => none

end Sys2Proof
end

