-- ==== Sys2Proof/Machine/State.lean ====
section
/-! DEFINITION. The state of one WX-816: everything the spec gives the machine, as plain data, and the state at device reset.
The group and the team of the slot that issues are held in focus (`grp`, `team`); the others stand in lists. -/
namespace Sys2Proof.Machine

/-! ### PC slots -/

/-- The clause that a slot runs (R17, R19, R22): its header's address, NINS, the index of the next instruction, its set flags. -/
structure Clause where
  hdr : Nat
  nins : Nat
  idx : Nat
  setA : Nat
  setB : Nat
  yld : Bool
deriving DecidableEq, Repr

/-- The loop buffer's hold on a body (R116): not fetched yet, held as these bytes, or unpinned by ICINV. -/
inductive Pin where
  | want
  | held (bytes : List Byte)
  | dropped
deriving DecidableEq, Repr

/-- A loop (R116, R117): the body's address and length in bytes, the count, the iteration from 0, and whether the body runs. -/
structure Loop where
  body : Nat
  len : Nat
  count : Nat
  iter : Nat
  run : Bool
  pin : Pin
deriving DecidableEq, Repr

/-- A repeat in progress (R118). -/
structure Rep where
  n : Nat
  i : Nat
  sdd : Nat
  sda : Nat
  sdb : Nat
  sdc : Nat
deriving DecidableEq, Repr

/-- The state of a PC slot (R223). A held slot issues again when something has changed since it held; a parked slot waits for
the wake event of its cause. -/
inductive SlotSt where
  /-- Holds no path. -/
  | dead
  | ready
  | held
  /-- At a JOIN of this number, by its case 4 (`stack`) or its case 1 (R113). -/
  | parkJoin (k : Nat) (stack : Bool)
  /-- At an absent scratchpad line of a team of the cluster (R177). -/
  | parkPresence (team line : Nat)
  /-- At a translation miss under a token, since a time (R317, R321). -/
  | parkTrans (token since : Nat)
  /-- At the gang rendezvous (R339). -/
  | parkGang
deriving DecidableEq, Repr

/-- A PC slot (R40, R110, R116, R118, R223). -/
structure Slot where
  st : SlotSt
  pc : Nat
  exec : BitVec 32
  flags : Vector Nat 12
  tag : Nat
  cl : Option Clause
  loop : Option Loop
  rep : Option Rep
  /-- Cycles ready without issuing, and whether they have been 96 (R402). -/
  waited : Nat
  urgent : Bool
  /-- The next issue ignores the comparators (R311). -/
  skipBp : Bool
  /-- The header's WAIT, SER and skip are not evaluated again (R22). -/
  reenter : Bool
  /-- A release at this instruction has sent its write-backs and advanced the cut count (R269, R280). -/
  flushed : Bool
  /-- The change counter when the slot last held. -/
  seen : Nat
  /-- While it is held: the lines at whose home a request of its instruction waits (R260). -/
  waitsAt : List Nat
deriving DecidableEq, Repr

/-- A slot that is not live (R223). -/
def Slot.vacant : Slot :=
  { st := .dead, pc := 0, exec := 0, flags := Vector.replicate 12 0, tag := 127, cl := Option.none, loop := Option.none,
    rep := Option.none, waited := 0, urgent := false, skipBp := false, reenter := false, flushed := false, seen := 0,
    waitsAt := [] }

/-! ### Outstanding operations -/

/-- A register write that an operation makes at completion (R25, R41). `bits` are the bits written. -/
inductive RegWrite where
  | vec (d : Nat) (lanes : BitVec 32) (v : List Word) (bits : Word)
  | scal (d : Nat) (v bits : Word)
  /-- AMOP 1 and 2 of an MDRN (R344). -/
  | amax (k : Nat) (op : Nat) (mag : Nat) (nan : Bool)
deriving DecidableEq, Repr

/-- A trap to report (R307, R310); `s0` and the time are those of the report. -/
structure TrapInfo where
  code : Nat
  slot : Bool
  index : Nat
  compl : Bool
  lanes : BitVec 32
  hdr : Nat
  iaddr : Nat
  addr : Nat
  detail : Nat
  iter : Nat
  repx : Nat
  s0 : Word
  time : Nat
deriving DecidableEq, Repr

/-- A write of an instruction that issues in the same cycle as one of the other slot of its group: it is made at the cycle's end, so that
both read the values from before (R90, R123, R129). -/
inductive Late where
  /-- Registers of a slot's instruction, and flags of `qstat` (q) or `fpstat`. -/
  | result (sl : Bool) (ws : List RegWrite) (q : Bool) (fl : Nat)
  /-- A value for a system register, GANG's among them (R123, R336). -/
  | sysw (n : Nat) (v : Word)
  /-- MSTAT's clear (R346). -/
  | mclr
  /-- Bank conflicts that an LDFR adds (R349). -/
  | bank (n : Nat)
deriving DecidableEq, Repr

/-- One lane's access (R39, R167). -/
structure LaneAcc where
  lane : Nat
  va : Nat
  pa : Nat
  sreq : Bool
deriving DecidableEq, Repr

/-- Which read-modify-write an atomic makes (R59, R188, R192). -/
inductive AtomKind where
  | rmw (sub : Nat)
  | cas
deriving DecidableEq, Repr

/-- One lane's atomic operation; `no` is a peer's refusal (R419). -/
structure AtomReq where
  acc : LaneAcc
  operand : Word
  newVal : Word
  done : Bool
  old : Word
  bad : Bool
  no : Bool
deriving DecidableEq, Repr

/-- An atomic or reduction on its way to its sorting group (R187, R190); `tmpl` is what a trap of it would record, `acq` the scope of an
acquire action that follows it. -/
structure AtomOp where
  kind : AtomKind
  ty : Nat
  ret : Bool
  nv : Bool
  d : Nat
  qmode : Nat
  ticket : Option Nat
  acq : Option Nat
  tmpl : TrapInfo
  reqs : List AtomReq
deriving DecidableEq, Repr

/-- A wait on a signal (R198): its virtual address, and the physical one once it is translated; condition, comparand, destination, acquire and scope; is
its home a peer; the token under which its translation waits where it has been issued again (R317, R324). -/
structure SigWait where
  va : Nat
  pa : Option Nat
  cnd : Nat
  cmp : Word
  d : Nat
  acq : Nat
  scope : Nat
  peer : Bool
  stall : Option Nat
deriving DecidableEq, Repr

/-- A load, or an LDV (`valid`), that waits for words of peer memory (R242, R419): words found already, by physical word address; the
issuing slot's buffered bytes over them; lanes that a peer refused. -/
structure Gather where
  d : Nat
  scalar : Bool
  ty : Nat
  nv : Bool
  valid : Bool
  acq : Option Nat
  tmpl : TrapInfo
  /-- The re-reference position at which its lines are kept (R174, R253). -/
  rdis : Nat
  accs : List LaneAcc
  got : List (Nat × TWord)
  mine : List (Nat × List Byte)
  no : List Nat
deriving DecidableEq, Repr

/-- A signal watched at its home here (R198): whose wait it is, twice an operation's number, or for a peer's one more than twice its device and TAG;
the word's number, the condition and the comparand; and the value that met the condition, once a write has. -/
structure Watch where
  key : Nat
  word : Nat
  cnd : Nat
  cmp : Word
  met : Option TWord
deriving DecidableEq, Repr

/-- What an outstanding operation waits for. -/
inductive OpKind where
  /-- Nothing: its results stand in the operation, and it may complete. -/
  | done
  /-- A relaxed store whose bytes are in the region buffer (R320). -/
  | buffered
  | gather (g : Gather)
  | atomic (a : AtomOp)
  /-- BARW: scope is cluster, barrier, the phase awaited, whether its parity was given (R195). -/
  | barw (clus : Bool) (bar phase : Nat) (parity : Bool) (acq scope : Nat)
  /-- SIGW (R198). -/
  | sigw (w : SigWait)
  | gpwt (ticket d : Nat)
  | lease
  /-- An MMA that waits for its joint operation (R339). -/
  | mma
  | mdrn (d tile row nreg ty rm amx amop : Nat) (nsat : Bool) (mul : Option Nat)
  /-- A Flume command (R351). -/
  | flume (cmd : Nat)
  | flwt (ccb : Nat)
  /-- PRES.set and PRES.clr, whose bits change at completion (R179): team, first line, mask. -/
  | pres (tid line mask : Nat) (set : Bool)
  /-- HRST: the words of its record and the queue (R358). -/
  | hrst (g : Gather) (q : Nat)
  /-- Responses of a peer that have not arrived (R419), and what a record of its refusal would say. -/
  | peer (tags : List Nat) (tmpl : TrapInfo)
deriving DecidableEq, Repr

/-- An outstanding operation of a group (R24, R25, R173). -/
structure Op where
  id : Nat
  slot : Bool
  flag : Option Nat
  region : Nat
  /-- Is it a load, LDV, atomic or publication read (R186, R199)? -/
  isLoad : Bool
  /-- Is it a write that a release covers (R269)? -/
  isWrite : Bool
  kind : OpKind
  writes : List RegWrite
  fp : Nat
  qp : Nat
  ms : Nat
  trap : Option TrapInfo
  /-- Does it occupy a return slot of its core (R187)? -/
  ret : Bool
  /-- Its region was aborted: it writes no register (R321). -/
  void : Bool
deriving DecidableEq, Repr

/-! ### Operand queues and regions -/

/-- A walk record as read (R347). -/
structure Walk where
  base : Nat
  ext : List Nat
  str : List Int
  esz : Nat
  swz : Nat
  fill : Bool
  fty : Nat
  sks : Nat
deriving DecidableEq, Repr

/-- An entry of an operand queue: 32 words (R358). -/
structure QEntry where
  words : List TWord
  /-- Did a word come from a page with the stamp-required attribute, by lane? -/
  sreq : BitVec 32
deriving DecidableEq, Repr

/-- A word that an engine reads: its address, where it is at home, the page's stamp-required attribute, and the word once it is there. -/
structure SrcWord where
  va : Nat
  pa : Nat
  sreq : Bool
  w : Option TWord
deriving DecidableEq, Repr

/-- An operand queue with a bound stream (R358, R380): the words of the next entry as far as they are there, the token of a miss (R317),
and what a trap of the stream would record. -/
structure Queue where
  walk : Walk
  total : Nat
  fetched : Nat
  entries : List QEntry
  popped : Nat
  pend : List SrcWord
  stall : Option Nat
  tmpl : TrapInfo
deriving DecidableEq, Repr

/-- A store in the region's buffer (R320): bytes at a physical address, or in a team's scratchpad. -/
structure BufStore where
  op : Nat
  slot : Bool
  /-- The target team of a scratchpad store. -/
  spad : Option Nat
  va : Nat
  addr : Nat
  /-- The re-reference position at which its line is kept (R174, R253). -/
  rdis : Nat
  /-- A spillway store, which leaves for its peer at the merge, with its core's cut count at issue (R176, R281). -/
  spill : Option Nat
  bytes : List Byte
deriving DecidableEq, Repr

/-- What is recorded of a slot at a region's start (R320). -/
structure SlotStart where
  live : Bool
  pc : Nat
  cl : Option Clause
  exec : BitVec 32
  tag : Nat
  loop : Option Loop
  rep : Option Rep
deriving DecidableEq, Repr

/-- The region-start record (R320, R361). -/
structure RegionStart where
  s0 : SlotStart
  s1 : SlotStart
  depth : Nat
  cap : Nat
  fpstat : Nat
  qstat : Nat
  rdDepth : Nat
  rdPar : Bool
  queues : Vector (Option Queue) 4
deriving DecidableEq, Repr

/-- A wait-list entry: an outstanding BARW, SIGW or GPWT that was cancelled and is issued again (R306, R325). -/
structure WaitEnt where
  slot : Bool
  flag : Option Nat
  kind : OpKind
deriving DecidableEq, Repr

/-! ### Groups, teams, clusters, grids -/

/-- The life state of a group (R228). -/
inductive Life where
  | pending
  | resident
  | suspended
  | draining
  | retired
deriving DecidableEq, Repr

/-- A group (R207, R219). -/
structure Group where
  gid : Nat
  part : Nat
  grid : Nat
  team : Nat
  cluster : Nat
  index : Nat
  core : Nat
  place : Nat
  gslot : Nat
  life : Life
  sregs : Vector Word 64
  vregs : Vector Lanes 64
  slot0 : Slot
  slot1 : Slot
  fpstat : Nat
  qstat : Nat
  qmode : Nat
  dvDepth : Nat
  dvCap : Nat
  pgtok : Nat
  pgPend : Bool
  amax : Vector Nat 4
  rdDepth : Nat
  rdPar : Bool
  queues : Vector (Option Queue) 4
  /-- Of each queue's last stream, once it has unbound: the entries popped, and whether every entry had been fetched (R360). -/
  past : Vector (Nat × Bool) 4
  window : Nat
  ops : List Op
  /-- The region number, its buffered stores and its start record. -/
  region : Nat
  buf : List BufStore
  start : RegionStart
  waitList : List WaitEnt
  /-- The trap being reported, waiting for the group to drain (R309). -/
  trap : Option TrapInfo
  /-- Completion traps held until the group runs again (R308). -/
  heldTraps : List TrapInfo
  /-- Completion traps held when the group entered its handler: reported at the stop point, after the handler's return (R308). -/
  laterTraps : List TrapInfo
  inHandler : Bool
  /-- Suspended under R309: no handler, or a trap in the handler. -/
  noHandler : Bool
  /-- Stopped for a save (R322). -/
  stopped : Bool
  /-- Retires without running again (R445). -/
  removed : Bool
  /-- The region was aborted: its slots wait for the outstanding operations before they run again (R321). -/
  aborting : Bool
  rmode : Bool
deriving DecidableEq, Repr

/-- A barrier (R193). -/
structure Barrier where
  count : Nat
  arr : Nat
  lastc : Nat
  next : Option Nat
deriving DecidableEq, Repr

/-- A chain's scale record (R340). -/
structure Chain where
  set : Bool
  saa : Nat
  sab : Nat
  alen : Nat
  blen : Nat
  roff : Nat
  coff : Nat
deriving DecidableEq, Repr

/-- An accumulator tile: 32 rows of 32 binary32 elements, and its chain; no chain until the first MZERO (R340, R343). -/
structure Tile where
  rows : List (List Nat)
  chain : Option Chain
deriving DecidableEq, Repr

/-- A member's arrival at the latch: its fragment, captured from four registers (R337, R339), the flag that its MMA counts on, the lanes
that met a postmark mismatch, what a trap would record, and the operation, once there is one. -/
structure Frag where
  member : Nat
  gid : Nat
  slot : Bool
  flag : Option Nat
  bad : BitVec 32
  tmpl : TrapInfo
  op : Nat
  regs : List Lanes
deriving DecidableEq, Repr

/-- The rendezvous latch (R339). -/
structure Latch where
  tag : Nat
  d : Nat
  sb : Word
  arrived : List Frag
  broken : Bool
deriving DecidableEq, Repr

/-- A queued joint MMA (R339, R340), numbered in the order of operations. -/
structure Joint where
  no : Nat
  d : Nat
  sb : Nat
  gang : Word
  frags : List Frag
deriving DecidableEq, Repr

/-- A team (R207, R221). -/
structure Team where
  tid : Nat
  part : Nat
  grid : Nat
  cluster : Nat
  index : Nat
  place : Nat
  core : Nat
  life : Life
  ngroups : Nat
  retired : Nat
  regGran : Nat
  spadGran : Nat
  accGran : Nat
  /-- Scratchpad words that are not zero and unstamped, by word offset (R221, R237). -/
  spad : List (Nat × TWord)
  /-- Lines whose presence bit is clear (R239). -/
  absent : List Nat
  tiles : List Tile
  bars : Vector Barrier 16
  gang : Word
  /-- The sticky bits [5:0] of `mstat` and BANKC (R345). -/
  mfl : Nat
  bankc : Nat
  lheld : Bool
  lcnt : Nat
  lpend : Bool
  pn : Nat
  /-- What a save recorded of the lease: remaining count or requested count (R322, R324). -/
  savedLease : Option Nat
  latch : Latch
  joints : List Joint
  ctx : Nat
  /-- The release of its save has been sent (R322). -/
  released : Bool
  /-- It is saved: its scratchpad, tiles and presence bits stand in its image (R322, R323). -/
  saved : Bool
deriving DecidableEq, Repr

/-- A cluster (R207, R210): its teams by place, its barriers, where it stands, and a pre-emption in progress (R322). -/
structure Cluster where
  cid : Nat
  part : Nat
  grid : Nat
  number : Nat
  w : Nat
  h : Nat
  teams : List Nat
  cb : Vector Barrier 8
  vdie : Nat
  pdie : Nat
  life : Life
  ctx : Nat
  /-- Pre-emption: none, waiting on partly arrived barriers since this time, or stopping. -/
  preempt : Option Nat
  stopping : Bool
  removing : Bool
deriving DecidableEq, Repr

/-- The fields of a dispatch packet (R391). -/
structure Packet where
  gm1 : Nat
  code : Nat
  rmode : Bool
  trapH : Nat
  w : Nat
  h : Nat
  cap : Nat
  argp : Nat
  x : Nat
  y : Nat
  z : Nat
  pword : Nat
  alen : Nat
  dep0 : Nat
  thr0 : Nat
  dep1 : Nat
  thr1 : Nat
  compl : Nat
  raw : List Word
deriving DecidableEq, Repr

/-- A grid in flight (R207, R393 to R395). -/
structure Grid where
  id : Nat
  part : Nat
  pkt : Packet
  snap : Nat
  pri : Nat
  frontier : Nat
  /-- TCBs sent so far (R399). -/
  sent : Nat
  retired : Nat
  cores : List Nat
  /-- The release at its end has been sent; the page and token of a miss on its completion signal (R395). -/
  released : Bool
  stall : Option (Nat × Nat)
  /-- Its completion signal is on its way to a peer. -/
  posted : Bool
deriving DecidableEq, Repr

/-! ### Caches, cores and dies -/

/-- A cached word: whether it is there, whether it is dirty, and its value with its postmark (R240). -/
structure CWord where
  valid : Bool
  dirty : Bool
  w : TWord
deriving DecidableEq, Repr

/-- A cached line, with the partition that last dirtied it (R419); way and RRPV in the die cache (R253). -/
structure CLine where
  line : Nat
  part : Nat
  way : Nat
  rrpv : Nat
  words : List CWord
deriving DecidableEq, Repr

/-- A block of the instruction cache, tagged with its address space (R452). -/
structure IBlock where
  part : Nat
  block : Nat
  bytes : List Byte
deriving DecidableEq, Repr

/-- An entry of the wait table (R317): its key, since when it stands, and the access that its record names. -/
structure WaitPage where
  part : Nat
  page : Nat
  token : Nat
  since : Nat
  acc : Nat
  va : Nat
deriving DecidableEq, Repr

/-- A cached translation (R312 to R314). -/
structure Tlb where
  base : Nat
  size : Nat
  pa : Nat
  r : Bool
  w : Bool
  x : Bool
  sreq : Bool
deriving DecidableEq, Repr

/-- A core (R236, R240, R280, R291, R314, R331, R402). -/
structure Core where
  /-- The first-level TLB of 256 entries and the second-level TLB of 4,096, newest entry first, each with its partition (R314). -/
  tlb1 : List (Nat × Tlb)
  tlb2 : List (Nat × Tlb)
  /-- L1 lines, most recently used first. -/
  l1 : List CLine
  /-- Instruction-cache blocks, oldest first. -/
  icache : List IBlock
  known : Nat
  c0 : Nat
  c1 : Nat
  waits : List WaitPage
  cut : Nat
  /-- Teams whose lease requests wait, in request order (R365), and the holder. -/
  leaseQ : List Nat
  holder : Option Nat
  /-- The holder's lease has expired (R332, R366). -/
  expired : Bool
  /-- The age order of PC slots, oldest first: group and slot; group 0 is the sorting group's name (R258, R402). -/
  age : List (Nat × Bool)
  /-- The group and queue that the headrace engine served last (R380). -/
  served : Option (Nat × Nat)
deriving DecidableEq, Repr

/-- A compute die: its die cache (R240), lines on their way into it, and its translation cache of 65,536 entries, newest first (R314). -/
structure Die where
  lines : List CLine
  /-- Lines that came from peers for misses of the die's cores and that no access has taken yet (R242). -/
  fills : List CLine
  xc : List (Nat × Tlb)
deriving DecidableEq, Repr

/-- An LLC slice's counter (R233, R260). -/
structure Slice where
  accept : Nat
deriving DecidableEq, Repr

/-! ### The Flume -/

/-- The copy control block as read (R350). -/
structure Ccb where
  src : Walk
  dst : Walk
  org : List Int
  box : List Nat
  srcSp : Bool
  dstSp : Bool
  rop : Nat
  sigen : Bool
  cmask : Nat
  sig : Nat
deriving DecidableEq, Repr

/-- Which Flume command (R353 to R355). -/
inductive FlumeKind where
  | copy
  | multicast
  | reduce
deriving DecidableEq, Repr

/-- A destination line still to be written: the target's place, the line number by virtual address or scratchpad offset, the physical line
that the command claims for it, and whether the claim is granted (R259, R376). -/
structure FLine where
  place : Nat
  line : Nat
  own : Option Nat
  granted : Bool
deriving DecidableEq, Repr

/-- Where a Flume command stands (R351): its CCB to be read, its box to be copied, its record written, its signal posted. -/
inductive FlumePh where
  | fetch
  | copy
  | record
  | signal
deriving DecidableEq, Repr

/-- An outstanding Flume command (R351): its words of the CCB, STATUS and GONE so far, lines to write in walk order, source words and old
words of peers' lines, words of lines not yet written that elements across a line's end have changed and the lines at whose end they were
combined (R355), the token of a miss, and requests to peers that are not answered. -/
structure Flume where
  id : Nat
  gid : Nat
  slot : Bool
  op : Nat
  core : Nat
  tid : Nat
  partn : Nat
  kind : FlumeKind
  ccbVa : Nat
  words : List SrcWord
  ccb : Option Ccb
  ph : FlumePh
  status : Nat
  gone : Nat
  lines : List FLine
  got : List SrcWord
  old : List (Nat × TWord)
  carry : List (Nat × TWord)
  crossed : List Nat
  stall : Option Nat
  tags : List Nat
deriving DecidableEq, Repr

/-! ### Partitions -/

/-- A slot that waits for a walk, with the access (R314, R319). -/
structure Waiter where
  gid : Nat
  slot : Bool
  acc : Nat
  va : Nat
  lanes : Nat
deriving DecidableEq, Repr

/-- A walk in progress, and replays held until it returns (R318). -/
structure WalkReq where
  page : Nat
  core : Nat
  waiters : List Waiter
  held : List Word
deriving DecidableEq, Repr

/-- An access that an invalidation waits for (R315): an operation, a request to a peer, a word that a Flume command or an operand queue reads, a line that a
command writes, a write-back that waits at its home. -/
inductive InvItem where
  | op (id : Nat)
  | req (tag : Nat)
  | word (flume pa : Nat)
  | line (flume line : Nat)
  | queue (gid q pa : Nat)
  | back (line : Nat)
deriving DecidableEq, Repr

/-- A host queue's registers (R387). -/
structure HostQueue where
  base : Word
  rdx : Nat
  halt : Bool
  wrx : Nat
  /-- The page and token of a miss on the head packet's argument buffer (R392). -/
  stall : Option (Nat × Nat)
deriving DecidableEq, Repr

/-- An entry of the device launch queue (R396). -/
structure LaunchEnt where
  pkt : Packet
  pri : Nat
  snap : Nat
  /-- The LAUNCH's operation, which is outstanding until it completes. -/
  seq : Nat
  /-- The page and token of a miss on a dependence (R396). -/
  stall : Option (Nat × Nat)
deriving DecidableEq, Repr

/-- A map change in progress (R248): the map before it, lines handed over, and register writes held until it completes. -/
structure MapChange where
  oldS : Nat
  oldList : List Nat
  oldTiled : List Word
  oldMask : Nat
  /-- The lines handed over so far, while the rest has not been gone through. -/
  moved : List Nat
  /-- Once the slices have gone through their lines: those that still wait for an engine; every other line is handed over. -/
  left : Option (List Nat)
  held : List (Nat × Word)
deriving DecidableEq, Repr

/-- Event-queue registers (R436, R445). -/
structure EvQueue where
  base : Word
  tail : Nat
  head : Nat
  lost : Nat
deriving DecidableEq, Repr

/-- A partition's window of the management block, and what the device keeps for the partition (R443 to R445). -/
structure Partition where
  mapS : Nat
  mapVer : Nat
  mapTiled : Nat
  mapList : Vector Nat 256
  tiled : Vector Word 64
  change : Option MapChange
  /-- The requesters that still hold the version before the last change: a core with its engines, its field's sorting group among them, by its number;
  384 the host port; 385 the fabric endpoints; 386 the page walkers, the distributor and the management block (R248, R249). -/
  stale : List Nat
  llcquota : Nat
  pgtbase : Word
  tlbinv : Word
  tlbBusy : Bool
  /-- Writes of `tlbinv` that wait until BUSY clears (R445). -/
  tlbHeld : List Word
  /-- The accesses for which the invalidation in progress waits (R315). -/
  tlbOut : List InvItem
  fq : EvQueue
  parklim : Nat
  plim : Nat
  preempt : Word
  resume : Word
  remove : Word
  ctxbase : Word
  ctxcfg : Word
  snapreg : Word
  dsreg : Word
  bpcmp : Vector Word 8
  pools : Vector Word 256
  hq : Vector HostQueue 64
  heq : EvQueue
  mailbox : Vector Word 8
  /-- Local ranges that the partition owns: base and length (R244). -/
  owned : List (Nat × Nat)
  walks : List WalkReq
  launchQ : List LaunchEnt
  snapsUsed : List Nat
  windowsUsed : List Nat
  ctxUsed : List Nat
  /-- The round-robin position of packet taking, per priority (R389): host queue k is member k, the launch queue member 64. -/
  rr : Vector Nat 4
  /-- Dependences of packets that have been met: host queue, or 64 more than the priority of a launch; address and threshold (R390). -/
  depDone : List (Nat × Nat × Nat)
  /-- Words of packets and arguments that peers have sent, and lines that they have refused with a status, per reader: a host queue, or a slot at its
  LAUNCH or at its release store (R392, R394, R419). -/
  argGot : List (Nat × Nat × TWord)
  argNo : List (Nat × Nat × Nat)
deriving DecidableEq, Repr

/-! ### The Weir -/

/-- The attempt machine (R294). -/
inductive WeirSt where
  | idle
  | summing (q : Nat)
  | adopting
deriving DecidableEq, Repr

/-- A retire-queue entry (R296). -/
structure Retire where
  ticket : Nat
  tag : Nat
  pod : Bool
  base : Nat
  ngran : Nat
  pool : Nat
  /-- The physical address of its signal, if it has one. -/
  sig : Option Nat
  part : Nat
deriving DecidableEq, Repr

/-- Where the freeing of the head entry stands (R297): not begun, waiting for peers' scrubs, runs to append, or its signal on its way to a peer. -/
inductive Freeing where
  | idle
  | scrubbing (missing : List Nat) (runs : List (Word × Nat))
  | appending (runs : List (Word × Nat))
  | posting
deriving DecidableEq, Repr

/-- The Weir (R290 to R305). -/
structure Weir where
  e : Nat
  st : WeirSt
  u0 : Nat
  u1 : Nat
  queue : List Retire
  lastTicket : Nat
  freeing : Freeing
  aint : Nat
  gstall : Nat
  poden : Bool
  podroot : Nat
  stall : Bool
  /-- The times from which the present waits count: of a retirement for E, of a pod entry for P, of the freeing unit on a pool (R304); and the parity
  last summed to nonzero. -/
  graceFrom : Nat
  podFrom : Nat
  poolFrom : Nat
  lastQ : Nat
  /-- The times up to which ticks of AINT have been used, by the attempt machine and by the pod root (R294, R305). -/
  lastAttempt : Nat
  podLast : Nat
  /-- Signals posted with their freeing: epochs at which tickets were freed. -/
  freed : List (Nat × Nat)
  /-- The pod root's epoch, the epoch known here, the highest that GPQY has read here, and per device: adopted P, e_d, E reported, demand (R203,
  R305). -/
  podP : Nat
  knownP : Nat
  seenP : Nat
  /-- E at the moment when the P known here was adopted from the present pod root, none before that; and the E last reported (R305). -/
  ed : Option Nat
  lastE : Nat
  reports : List (Nat × Nat × Nat × Nat × Bool)
  podDemand : Bool
deriving DecidableEq, Repr

/-! ### The fabric -/

/-- What an outstanding request to a peer is for (R419). -/
inductive Purpose where
  /-- A fill of the die cache and L1 of a core, with its re-reference position (R174). -/
  | fill (core rdis : Nat)
  /-- A prefetch into a level, for a word's index: a refusal drops it (R182). -/
  | pref (core lvl rdis ix : Nat)
  /-- A line of a load or publication read. -/
  | load (op : Nat)
  | atomic (op lane : Nat)
  | write (op : Option Nat)
  | clrv (op : Nat)
  | valid (op lane : Nat)
  | watch (op : Nat)
  /-- The watch of a packet's dependence: partition, member of the rotation, address, threshold (R390). -/
  | dep (p m va thr : Nat)
  /-- A line of a packet or of its arguments, for a reader of a partition (R394). -/
  | arg (p reader line : Nat)
  /-- The signal of a retirement that is freed (R297), and of a grid that ends (R395). -/
  | freed (ticket : Nat)
  | gridEnd (id : Nat)
  /-- An entry of a free list, for the ticket that is freed (R299). -/
  | append (ticket : Nat)
  | flumeClaim (id : Nat)
  /-- A source line, or a word of the CCB. -/
  | flumeRead (id : Nat)
  /-- The old words of a destination line. -/
  | flumeOld (id : Nat)
  | flumeWrite (id : Nat)
  | headrace (gid q : Nat)
  | ifetch (core part block : Nat)
  /-- Nothing any more: its answer is dropped (R381). -/
  | dropped
deriving DecidableEq, Repr

/-- An outstanding tagged request (R414, R419). -/
structure Req where
  /-- Its number; TAG is its low 10 bits. -/
  tag : Nat
  /-- The step and slot that made it: lines of one instruction ride together (R406). -/
  step : Nat
  dev : Nat
  line : Nat
  link : Nat
  part : Nat
  gid : Nat
  purpose : Purpose
  hdr : FabHdr
  data : List TWord
  /-- It has left: while its line has no path entry, or an earlier request to its line is to be sent again, a request waits (R414). -/
  sent : Bool
  /-- It was answered RNACK 3 and is sent again, or waits for that with its TAG and path entry kept (R414). -/
  again : Bool
  /-- The core on whose account it is sent, where its count travels (R281). -/
  cnt : Option Nat
  /-- A copy of its line was dropped since it was sent: what it brings is not kept (R266, R269). -/
  stale : Bool
deriving DecidableEq, Repr

/-- A window of numbered flits, or a spillway flit (class 1), whose tag is to be made or checked (R428, R430): its first ESN, phase, and the
authenticated bytes. -/
structure AuthWin where
  cls : Nat
  start : Nat
  kph : Bool
  bytes : List Byte
  complete : Bool
deriving DecidableEq, Repr

/-- A control segment (R418): kind, source and destination device, and the bytes from byte 4 on. -/
structure CtlSeg where
  kind : Nat
  src : Nat
  dst : Nat
  bytes : List Byte
deriving DecidableEq, Repr

/-- What a link carries in a numbered or spillway flit: a request or response with its data, or a control segment (R418, R419). -/
inductive FabItem where
  | msg (h : FabHdr) (d : List TWord)
  | seg (c : CtlSeg)
deriving DecidableEq, Repr

/-- A numbered flit that is kept until ACK covers it, with its extended sequence number and what it carries (R415, R421). -/
structure Kept where
  esn : Nat
  flit : Flit
  items : List FabItem
deriving DecidableEq, Repr

/-- A flit sent: the number of its first beat in the stripe, and the channels lit (R420). -/
structure Sent where
  flit : Flit
  beat : Nat
  lit : Word
deriving DecidableEq, Repr

/-- The keys of a direction, per phase (R427). -/
structure Keys where
  k0 : Option (BitVec 256)
  k1 : Option (BitVec 256)
deriving DecidableEq, Repr

/-- A Javin link (R409, R410, R416 to R431). -/
structure Link where
  up : Bool
  training : Bool
  /-- Lit channels, bit 16f + λ. -/
  txLit : Word
  rxLit : Word
  /-- Channels of the link's own fibres that each end's light sensor sees lit (R424). -/
  txSeen : Word
  rxSeen : Word
  txKph : Bool
  /-- The phase of the newest numbered flit accepted. -/
  rxKph : Bool
  rot : Bool
  /-- The receive direction has seen a new phase, and keeps the old key (R431). -/
  rxRot : Bool
  /-- The sequence number at which a commanded rotation flips KPH. -/
  flipAt : Option Nat
  txKeys : Keys
  rxKeys : Keys
  loadTx : BitVec 256
  loadRx : BitVec 256
  /-- ESN of the next flit to send, per class 0 to 2. -/
  txEsn : Vector Nat 3
  /-- Next expected numbered ESN, and the last ESN received in classes 1 and 2. -/
  rxEsn : Vector Nat 3
  kept : List Kept
  /-- When ACK last advanced, a replay began, or the first flit was kept (R421). -/
  ackSeen : Nat
  credits : Nat
  replays : Nat
  replayFrom : Option Nat
  needRrq : Bool
  breld : Nat
  /-- The number after that of the ACK last sent (R417). -/
  ackSent : Nat
  /-- Flits sent, oldest first, and the next beat of the stripe (R420). -/
  out : List Sent
  beat : Nat
  /-- The transmit queue: items for numbered flits, each with the step and slot that made it, and spillway flits (R406, R412); and what came in here for
  another device, item by item, a spillway flit whole (R413). -/
  waiting : List (Nat × FabItem)
  spillWait : List (List (FabHdr × List TWord))
  relayQ : List (List FabItem)
  /-- What a link that went down had sent and not seen accepted, by sequence number, until the exchange (R415). -/
  undone : List (Nat × List FabItem)
  /-- The exchange is still to come; and the number of an exchange that came before this end went down (R415). -/
  owed : Bool
  heard : Option Nat
  /-- The link was retrained: the number of the next numbered flit is taken from it (log entry 22). -/
  rxSync : Bool
  /-- Losses of light whose restripe has not ended: direction, channels, time of detection (R407, R422). -/
  restripes : List (Bool × Word × Nat)
  txWin : List AuthWin
  /-- Entries of spillway flits, with the number of GMAC flits that are still to carry each (R428). -/
  spillTags : List (List Byte × Nat)
  /-- Windows completed since the last GMAC flit (R428). -/
  gmacDue : Nat
  rxWin : List AuthWin
  /-- Depth reports received: device and link, depth, time (R412). -/
  depths : List (Nat × Nat × Nat)
  /-- The spare that serves each fibre, bit f. -/
  spf : Nat
  /-- A spare assigned to a failed fibre: fibre 0 to 7, spare, time at which the failure was detected (R423). -/
  sparing : List (Nat × Nat × Nat)
  /-- A commanded restripe: the number at which it takes effect, its channels, the time of the command; and one that has taken effect, its channels
  gained, with no record yet (R424). -/
  restripeAt : Option (Nat × Word × Nat)
  restored : Option (Nat × Word × Nat)
  /-- Channels that the receiver has announced, with the number of the flit that told its peer, and those of the link's own fibres among them (R424). -/
  rxNew : Option (Nat × Word × Word)
  /-- The record of a spent key has been written (R427). -/
  keyHold : Bool
  /-- The ESN of each class at which the present transmit key began (R427). -/
  keyFrom : Vector Nat 3
  linkctl : Word
deriving DecidableEq, Repr

/-- The fabric endpoint (R411, R414, R419, R432). -/
structure Fabric where
  links : Vector Link 15
  spares : Vector Nat 8
  reqs : List Req
  nextTag : Nat
  /-- Highest cut count per source device and core (R280). -/
  cuts : List (Nat × Nat)
  /-- Next sequence to perform per peer and ownership index, and peers' requests that wait: for a gap, an engine's line, an earlier request of their device
  to the line, or as a watch for its condition (R198, R277, R414, R432). -/
  inSeq : List (Nat × Nat)
  held : List (FabHdr × List TWord)
  outSeq : List (Nat × Nat)
  /-- Items of accepted flits, in order, that are not taken up yet. -/
  inbox : List FabItem
  /-- Spillway flits that are kept and not performed, each with the link whose buffer it takes, at most 64 of a link (R426). -/
  spill : List (Nat × List (FabHdr × List TWord))
  relayDrop : Nat
deriving DecidableEq, Repr

/-! ### Management -/

/-- One access-table entry (R439). -/
structure AccEnt where
  base : Nat
  len : Nat
  rd : Bool
  wr : Bool
  atomic : Bool
  ex : Bool
  rsv : Bool
deriving DecidableEq, Repr

/-- The record of a start step for a unit (R451). -/
inductive StepRec where
  | none
  | attempted
  | succeeded
  | failed
  | skipped
  | altSucceeded
  | altFailed
deriving DecidableEq, Repr

/-- An entry of the measurement log (R446). -/
structure LogEnt where
  step : Nat
  k : Nat
  h : BitVec 384
  time : Nat
deriving DecidableEq, Repr

/-- A partition of a configuration record (R448): its ranges, pin quota and initial map. -/
structure CfgPart where
  p : Nat
  ranges : List (Nat × Nat)
  quota : Nat
  mapS : Nat
  mapList : List Nat
  mapTiled : Nat
  tiled : List Word
deriving DecidableEq, Repr

/-- A configuration record in the persistent store (R448): its bytes, and what they say. -/
structure CfgRecord where
  bytes : List Byte
  version : Nat
  podSize : Nat
  device : Nat
  parts : List CfgPart
  tables : List (Nat × Nat × Nat × AccEnt)
  parklim : Nat
  plim : Nat
  keys : List (List Byte)
deriving DecidableEq, Repr

/-- The management block and the persistent store (R444 to R451). -/
structure Mgmt where
  /-- Access tables: (target, master, slot, entry). A target's number is its kind and, times eight, which of the kind it is: 0 the slice sets, 1 the
  register block, 2 the host port, 3 the memory controller of a stack, 4 the fabric endpoint, 5 the Flume engine of a core (R439; log entry 11). -/
  tables : List (Nat × Nat × Nat × AccEnt)
  vdmap : Vector Nat 8
  owner : Vector Nat 128
  mr : Vector (BitVec 384) 8
  mrdigest : BitVec 384
  log : List LogEnt
  heq : EvQueue
  mailbox : Vector Word 8
  tokens : Nat
  steps : List (Nat × Nat × StepRec)
  started : Bool
  /-- The last version accepted, and the record (R448). -/
  cfgVersion : Nat
  cfg : Option CfgRecord
  /-- The start firmware and its backup, the management firmware, and the sorting groups' images (R446, R450). -/
  firmware : List Byte
  backup : List Byte
  mgmtFirmware : List Byte
  sortFirmware : List (List Byte)
  device : Nat
  podSize : Nat
  keys : List (List Byte)
  /-- Records that wait for room in a fault queue, or for the line of their place: partition and record (R277, R319). -/
  pending : List (Nat × List Word)
  /-- Event records that wait for the line of their place: function and record (R277, R436). -/
  evPending : List (Nat × List Word)
  /-- Access-table updates that wait for accesses checked under the old entries (R441). -/
  accPending : List (Nat × Nat × Nat × BitVec 128)
  /-- Functions whose mailboxes ask for a report, in order (R447); and for the first, once its report has been sent to peers, the TAGs of the requests
  and what its CTL then reads (R445). -/
  attestQ : List Nat
  attestOut : Option (List Nat × Word)
  /-- Peers' requests for reports: 33 + device, with nonce, DST and CAP as a mailbox has them (R447). -/
  peerAsks : List (Nat × Vector Word 8)
  starts : Nat
deriving DecidableEq, Repr

/-! ### The distributor -/

/-- A team control block (R399). -/
structure Tcb where
  grid : Nat
  t : Nat
  pri : Nat
deriving DecidableEq, Repr

/-- The device distributor and the field queues (R389, R397 to R401). -/
structure Distr where
  fields : Vector (List Tcb) 96
  /-- Donated TCBs on their way: field and TCBs. -/
  transit : List (Nat × List Tcb)
  /-- Fields to whose last request a donor answered with none, and when. -/
  refusedAt : List (Nat × Nat)
  rrPart : Nat
deriving DecidableEq, Repr

/-! ### The machine -/

/-- What left the device for its host (R279, R436): reads answered, MSI-X vectors, reports. -/
inductive HostOut where
  | readDone (pa : Nat) (bytes : List Byte)
  | unsupported (fn : Nat)
  | msix (fn vec : Nat)
deriving DecidableEq, Repr

/-- An access of the host that waits: a write or a read of memory or of a register (R279). -/
inductive HostAcc where
  | write (fn : Nat) (bar2 : Bool) (pa : Nat) (bs : List Byte)
  | read (fn : Nat) (sp : HostSpace) (pa n : Nat)
  | reg (master off n : Nat) (v : Word)
  | door (p k : Nat) (v : Word)
deriving DecidableEq, Repr

/-- The whole machine. -/
structure State where
  grp : Group
  cur : Bool
  groups : List Group
  team : Team
  teams : List Team
  clusters : List Cluster
  grids : List Grid
  parts : Vector Partition 16
  cores : Vector Core 384
  dies : Vector Die 8
  slices : Vector Slice 256
  /-- Bytes of local and host memory by physical address, in canonical form; an unlisted byte reads as 0. -/
  mem : List Host.Cell
  /-- Postmarks by word address (pa div 8), in canonical form; an unlisted word is unstamped, 0x00. -/
  marks : List (Nat × Mark)
  /-- Valid 64-byte blocks (pa div 64), strictly rising. -/
  valid : List Nat
  /-- Pinned granules (pa div 4096) and the partition each counts against (R252). -/
  pins : List (Nat × Nat)
  /-- Lines owned by Flume commands (R259): line, and the owner: an even number for a command here, an odd one for a peer's core. -/
  claims : List (Nat × Nat)
  /-- Write-backs that wait for a line that an engine owns or that a change of the map holds, oldest first, each with its requester (R248, R277). -/
  wbs : List (Nat × CLine)
  /-- The signals that waits watch at their homes here (R198). -/
  watches : List Watch
  flumes : List Flume
  weir : Weir
  distr : Distr
  fabric : Fabric
  mgmt : Mgmt
  /-- The global sequencer (R190). -/
  ticket : Nat
  hostOut : List HostOut
  /-- Host accesses that wait at an engine's line, in order (R277, R279). -/
  hostHeld : List HostAcc
  /-- The global time counter (R124). -/
  time : Nat
  /-- The model's own: steps made, the counter that free values are drawn with, names, changes, inputs due, whose turn it is. -/
  tick : Nat
  free : Nat
  nextId : Nat
  change : Nat
  /-- The model's own: instructions issued; writes that wait for the end of a cycle in which both slots of a group issue. -/
  issues : Nat
  late : Option (List Late)
  agenda : List Instr
  turn : Bool
  /-- The model's own: the core whose slots were picked last. -/
  lastCore : Nat
deriving DecidableEq, Repr

/-- No step of this model ends in a fault: the spec gives every stop as a trap, a park or a record, which are next states. The type
has one name so that a reader finds it empty of causes. -/
inductive Fault where
  /-- Raised by nothing. -/
  | never
deriving DecidableEq, Repr

/-- Why an instruction has no meaning. -/
inductive Refusal where
  /-- An arm of `exec` without a meaning; safe. -/
  | notModelled (mnemonic : String)
deriving DecidableEq, Repr

/-! ### Reset -/

/-- A barrier with a count (R193). -/
def Barrier.fresh (n : Nat) : Barrier := { count := n, arr := 0, lastc := 0xFFFF, next := none }

/-- Nothing recorded of a slot. -/
def SlotStart.vacant : SlotStart :=
  { live := false, pc := 0, cl := Option.none, exec := 0, tag := 127, loop := Option.none, rep := Option.none }

/-- The empty region-start record. -/
def RegionStart.empty : RegionStart :=
  { s0 := .vacant, s1 := .vacant, depth := 0, cap := 64, fpstat := 0, qstat := 0, rdDepth := 0, rdPar := false, queues := Vector.replicate 4 none }

/-- No group: what stands in focus while none exists. Registers hold 0 (log entry 2). -/
def Group.empty : Group :=
  { gid := 0, part := 0, grid := 0, team := 0, cluster := 0, index := 0, core := 0, place := 0, gslot := 0, life := .retired,
    sregs := Vector.replicate 64 0, vregs := Vector.replicate 64 (Vector.replicate 32 0), slot0 := Slot.vacant, slot1 := Slot.vacant,
    fpstat := 0, qstat := 0, qmode := 1, dvDepth := 0, dvCap := 64, pgtok := 0, pgPend := false, amax := Vector.replicate 4 0,
    rdDepth := 0, rdPar := false, queues := Vector.replicate 4 none, past := Vector.replicate 4 (0, false), window := 0, ops := [], region := 0, buf := [],
    start := .empty, waitList := [], trap := none, heldTraps := [], laterTraps := [], inHandler := false, noHandler := false, stopped := false,
    removed := false, aborting := false, rmode := false }

/-- An empty latch. -/
def Latch.empty : Latch := { tag := 0, d := 0, sb := 0, arrived := [], broken := false }

/-- No team. -/
def Team.empty : Team :=
  { tid := 0, part := 0, grid := 0, cluster := 0, index := 0, place := 0, core := 0, life := .retired, ngroups := 0, retired := 0,
    regGran := 0, spadGran := 0, accGran := 0, spad := [], absent := [], tiles := [], bars := Vector.replicate 16 (.fresh 0),
    gang := 0, mfl := 0, bankc := 0, lheld := false, lcnt := 0, lpend := false, pn := 0, savedLease := none, latch := .empty,
    joints := [], ctx := 0, released := false, saved := false }

/-- A core at reset. -/
def Core.empty : Core :=
  { tlb1 := [], tlb2 := [], l1 := [], icache := [], known := 0, c0 := 0, c1 := 0, waits := [], cut := 0, leaseQ := [], holder := none, expired := false, age := [], served := none }

/-- An event queue at reset (R436, R445). -/
def EvQueue.empty : EvQueue := { base := 0, tail := 0, head := 0, lost := 0 }

/-- A partition at reset (R246, R387, R393, R436, R443, R445). -/
def Partition.empty : Partition :=
  { mapS := 0, mapVer := 0, mapTiled := 0, mapList := Vector.replicate 256 0, tiled := Vector.replicate 64 0, change := none,
    stale := [], llcquota := 0, pgtbase := 0, tlbinv := 0, tlbBusy := false, tlbHeld := [], tlbOut := [], fq := .empty, parklim := 1000, plim := 200,
    preempt := 0, resume := 0, remove := 0, ctxbase := 0, ctxcfg := 0, snapreg := 0, dsreg := 0, bpcmp := Vector.replicate 8 0,
    pools := Vector.replicate 256 0, hq := Vector.replicate 64 { base := 0, rdx := 0, halt := false, wrx := 0, stall := none }, heq := .empty,
    mailbox := Vector.replicate 8 0, owned := [], walks := [], launchQ := [], snapsUsed := [], windowsUsed := [],
    ctxUsed := [], rr := Vector.replicate 4 0, depDone := [], argGot := [], argNo := [] }

/-- A link at reset: down and dark (R410). -/
def Link.empty : Link :=
  { up := false, training := false, txLit := 0, rxLit := 0, txSeen := 0, rxSeen := 0, txKph := false, rxKph := false, rot := false, rxRot := false,
    flipAt := none, txKeys := ⟨none, none⟩, rxKeys := ⟨none, none⟩, loadTx := 0, loadRx := 0, txEsn := Vector.replicate 3 0,
    rxEsn := Vector.replicate 3 0, kept := [], ackSeen := 0, credits := 512, replays := 0, replayFrom := none, needRrq := false,
    breld := 0, ackSent := 0, out := [], beat := 0, waiting := [], spillWait := [], relayQ := [], undone := [], owed := false, heard := none, rxSync := false, restripes := [],
    txWin := [], spillTags := [], gmacDue := 0, rxWin := [], depths := [], spf := 0, sparing := [], restripeAt := none, restored := none, rxNew := none,
    keyHold := false, keyFrom := Vector.replicate 3 0, linkctl := 0 }

/-- The Weir at reset (R292, R294, R303). -/
def Weir.empty : Weir :=
  { e := 0, st := .idle, u0 := 0, u1 := 0, queue := [], lastTicket := 0, freeing := .idle, aint := 1000, gstall := 10000,
    poden := false, podroot := 0, stall := false, graceFrom := 0, podFrom := 0, poolFrom := 0, lastQ := 0, lastAttempt := 0, podLast := 0, freed := [], podP := 0, knownP := 0, seenP := 0, ed := some 0, lastE := 0,
    reports := [], podDemand := false }

/-- The fabric endpoint at reset: no link up, every spare free (R410, R411). -/
def Fabric.empty : Fabric :=
  { links := Vector.replicate 15 .empty, spares := Vector.replicate 8 15, reqs := [], nextTag := 0, cuts := [], inSeq := [],
    held := [], outSeq := [], inbox := [], spill := [], relayDrop := 0 }

/-- The targets: slice sets, register block, host port, fabric endpoint, memory controllers of the sixteen stacks, Flume engines of the cores (R439; log
entry 11). -/
def allTargets : List Nat := [0, 1, 2, 4] ++ (List.range 16).map (fun k => 3 + 8 * k) ++ (List.range 384).map (fun c => 5 + 8 * c)

/-- The one entry that an access table holds at reset: master 49, all rights, the whole target (R439). -/
def resetTables : List (Nat × Nat × Nat × AccEnt) :=
  allTargets.map (fun t => (t, 49, 0, { base := 0, len := 2 ^ 52, rd := true, wr := true, atomic := true, ex := true, rsv := false }))

/-- The ownership table at reset: entry i names field i mod 96 (R258). -/
def resetOwner : Vector Nat 128 := ⟨((List.range 128).map (fun i => i % 96)).toArray, by simp⟩

/-- The management block at reset (R439, R444, R446). -/
def Mgmt.empty : Mgmt :=
  { tables := resetTables, vdmap := ⟨((List.range 8).map (fun i => i + 8)).toArray, by simp⟩, owner := resetOwner,
    mr := Vector.replicate 8 0, mrdigest := 0, log := [], heq := .empty, mailbox := Vector.replicate 8 0, tokens := 0, steps := [],
    started := false, cfgVersion := 0, cfg := none, firmware := [], backup := [], mgmtFirmware := [],
    sortFirmware := [], device := 0, podSize := 1, keys := [], pending := [], evPending := [],
    accPending := [], attestQ := [], attestOut := none, peerAsks := [], starts := 0 }

/-- The machine right after device reset, before the start steps run (R439, R446, R450): every register at its reset value, no group,
memory with nothing listed. -/
def State.reset : State :=
  { grp := .empty, cur := false, groups := [], team := .empty, teams := [], clusters := [], grids := [],
    parts := Vector.replicate 16 .empty, cores := Vector.replicate 384 .empty, dies := Vector.replicate 8 ⟨[], [], []⟩,
    slices := Vector.replicate 256 ⟨0⟩, mem := [], marks := [], valid := [], pins := [], claims := [], wbs := [], watches := [], flumes := [],
    weir := .empty, distr := { fields := Vector.replicate 96 [], transit := [], refusedAt := [], rrPart := 0 },
    fabric := .empty, mgmt := .empty, ticket := 0, hostOut := [], hostHeld := [], time := 0, tick := 0, free := 0, nextId := 1, change := 0, issues := 0, late := none, agenda := [], turn := false, lastCore := 0 }

end Sys2Proof.Machine
end

