-- ==== Sys2Proof/Machine/Access.lean ====
section
/-! DEFINITION. Reading and changing the parts of the state: groups, teams, clusters and grids by name, partitions, cores, dies and
slices by number, and the PC slot in focus. -/
namespace Sys2Proof.Machine

/-- Entry i of a vector, or d. -/
def vget {α : Type} {n : Nat} (v : Vector α n) (i : Nat) (d : α) : α := v[i]?.getD d

/-- A vector with entry i replaced; unchanged where i is out of range. -/
def vset {α : Type} {n : Nat} (v : Vector α n) (i : Nat) (x : α) : Vector α n := v.setIfInBounds i x

/-- A vector with entry i changed. -/
def vmod {α : Type} {n : Nat} (v : Vector α n) (i : Nat) (f : α → α) : Vector α n :=
  match v[i]? with
  | some x => v.setIfInBounds i (f x)
  | none => v

/-- A partition (R443). -/
def part (s : State) (p : Nat) : Partition := vget s.parts p .empty
/-- A partition changed. -/
def modPart (p : Nat) (f : Partition → Partition) (s : State) : State := { s with parts := vmod s.parts p f }
/-- A core, numbered 48 × die + core (R419). -/
def core (s : State) (c : Nat) : Core := vget s.cores c .empty
/-- A core changed. -/
def modCore (c : Nat) (f : Core → Core) (s : State) : State := { s with cores := vmod s.cores c f }
/-- The compute die of a core. -/
def dieOf (c : Nat) : Nat := c / 48
/-- A die. -/
def die (s : State) (d : Nat) : Die := vget s.dies d ⟨[], [], []⟩
/-- A die changed. -/
def modDie (d : Nat) (f : Die → Die) (s : State) : State := { s with dies := vmod s.dies d f }
/-- A slice changed. -/
def modSlice (i : Nat) (f : Slice → Slice) (s : State) : State := { s with slices := vmod s.slices i f }
/-- The Weir changed. -/
def modWeir (f : Weir → Weir) (s : State) : State := { s with weir := f s.weir }
/-- The fabric changed. -/
def modFabric (f : Fabric → Fabric) (s : State) : State := { s with fabric := f s.fabric }
/-- A link. -/
def link (s : State) (k : Nat) : Link := vget s.fabric.links k .empty
/-- A link changed. -/
def modLink (k : Nat) (f : Link → Link) (s : State) : State :=
  { s with fabric := { s.fabric with links := vmod s.fabric.links k f } }
/-- The management block changed. -/
def modMgmt (f : Mgmt → Mgmt) (s : State) : State := { s with mgmt := f s.mgmt }
/-- The distributor changed. -/
def modDistr (f : Distr → Distr) (s : State) : State := { s with distr := f s.distr }

/-- The group of a name. -/
def groupOf (s : State) (gid : Nat) : Option Group := if s.grp.gid = gid then some s.grp else s.groups.find? (fun g => g.gid == gid)
/-- A group changed. -/
def modGroup (gid : Nat) (f : Group → Group) (s : State) : State :=
  if s.grp.gid = gid then { s with grp := f s.grp }
  else { s with groups := s.groups.map (fun g => if g.gid = gid then f g else g) }
/-- Every group. -/
def allGroups (s : State) : List Group := s.grp :: s.groups
/-- Every group changed. -/
def mapGroups (f : Group → Group) (s : State) : State := { s with grp := f s.grp, groups := s.groups.map f }
/-- The team of a name. -/
def teamOf (s : State) (tid : Nat) : Option Team := if s.team.tid = tid then some s.team else s.teams.find? (fun t => t.tid == tid)
/-- A team changed. -/
def modTeam (tid : Nat) (f : Team → Team) (s : State) : State :=
  if s.team.tid = tid then { s with team := f s.team }
  else { s with teams := s.teams.map (fun t => if t.tid = tid then f t else t) }
/-- Every team. -/
def allTeams (s : State) : List Team := s.team :: s.teams
/-- The cluster of a name. -/
def clusterOf (s : State) (cid : Nat) : Option Cluster := s.clusters.find? (fun c => c.cid == cid)
/-- A cluster changed. -/
def modCluster (cid : Nat) (f : Cluster → Cluster) (s : State) : State :=
  { s with clusters := s.clusters.map (fun c => if c.cid = cid then f c else c) }
/-- The grid of a name. -/
def gridOf (s : State) (g : Nat) : Option Grid := s.grids.find? (fun x => x.id == g)
/-- A grid changed. -/
def modGrid (g : Nat) (f : Grid → Grid) (s : State) : State := { s with grids := s.grids.map (fun x => if x.id = g then f x else x) }

/-- The groups of a team. -/
def groupsOfTeam (s : State) (tid : Nat) : List Group := (allGroups s).filter (fun g => g.team == tid && g.life != .retired)
/-- The groups of a cluster. -/
def groupsOfCluster (s : State) (cid : Nat) : List Group := (allGroups s).filter (fun g => g.cluster == cid && g.life != .retired)

/-- A fresh name. -/
def fresh (s : State) : Nat × State := (s.nextId, { s with nextId := s.nextId + 1 })
/-- A fresh free value (log entry 3). -/
def freeWord (s : State) : Word × State := (Config.freeWord s.free, { s with free := s.free + 1 })
/-- A fresh vector of free values, one per lane. -/
def freeLanes (s : State) : Lanes × State :=
  (lanesOf (fun l => Config.freeWord (s.free + l)), { s with free := s.free + 32 })
/-- Something changed: held slots may issue again. -/
def bump (s : State) : State := { s with change := s.change + 1 }

/-- A slot of a group. -/
def Group.slot (g : Group) (b : Bool) : Slot := if b then g.slot1 else g.slot0
/-- A slot of a group changed. -/
def Group.modSlot (g : Group) (b : Bool) (f : Slot → Slot) : Group :=
  if b then { g with slot1 := f g.slot1 } else { g with slot0 := f g.slot0 }
/-- Is a slot live: in any state but not live (R223)? -/
def Slot.live (x : Slot) : Bool := x.st != .dead
/-- Is no slot of the group live? -/
def Group.noLive (g : Group) : Bool := ! g.slot0.live && ! g.slot1.live

/-- The slot that issues. -/
def slot (s : State) : Slot := s.grp.slot s.cur
/-- The other slot of the group. -/
def other (s : State) : Slot := s.grp.slot (! s.cur)
/-- The focused group changed. -/
def modGrp (f : Group → Group) (s : State) : State := { s with grp := f s.grp }
/-- The slot that issues changed. -/
def modCur (f : Slot → Slot) (s : State) : State := { s with grp := s.grp.modSlot s.cur f }
/-- The other slot changed. -/
def modOther (f : Slot → Slot) (s : State) : State := { s with grp := s.grp.modSlot (! s.cur) f }
/-- Is a slot parked at JOIN #k (R113)? -/
def Slot.atJoin (x : Slot) (k : Nat) : Bool := match x.st with | .parkJoin j _ => j == k | _ => false
/-- The top entry of the divergence stack is another, or has changed: the other slot is released where it is parked at a JOIN by case 4 (R113). -/
def wakeStack (s : State) : State := modOther (fun y => match y.st with | .parkJoin _ true => { y with st := .ready } | _ => y) s

/-- Bring a group's slot, and its team, into focus. -/
def focus (gid : Nat) (b : Bool) (s : State) : State :=
  let s :=
    if s.grp.gid = gid then s
    else match s.groups.find? (fun g => g.gid == gid) with
      | none => s
      | some g => { s with grp := g, groups := (if s.grp.life == .retired then [] else [s.grp]) ++ s.groups.filter (fun x => x.gid != gid) }
  let s := { s with cur := b }
  if s.team.tid = s.grp.team then s
  else match s.teams.find? (fun t => t.tid == s.grp.team) with
    | none => s
    | some t => { s with team := t, teams := (if s.team.life == .retired then [] else [s.team]) ++ s.teams.filter (fun x => x.tid != t.tid) }

/-! ### Masks and registers (R41, R43, R128, R222) -/

/-- The `exec` of a slot; zero where it is not live (R41). -/
def execOf (x : Slot) : BitVec 32 := if x.live then x.exec else 0

/-- A scalar register as the issuing slot reads it: 63 is its mask and 62 the other slot's (R41). -/
def readS (s : State) (r : Nat) : Word :=
  if r = 63 then (slot s).exec.setWidth 64
  else if r = 62 then (execOf (other s)).setWidth 64
  else vget s.grp.sregs r 0

/-- A scalar register of a group written for a slot, in the bits given; a mask of a slot that is not live keeps its value (R41). -/
def Group.writeS (g : Group) (sl : Bool) (r : Nat) (v bits : Word) : Group :=
  if r < 62 then { g with sregs := vmod g.sregs r (fun o => (o &&& ~~~bits) ||| (v &&& bits)) }
  else
    let b := if r = 63 then sl else ! sl
    g.modSlot b (fun x => if x.live then { x with exec := (x.exec &&& ~~~(bits.setWidth 32)) ||| (v.setWidth 32 &&& bits.setWidth 32) } else x)

/-- All 64 bits. -/
def allBits : Word := BitVec.allOnes 64

/-- A write of the issuing instruction: made now, or at the end of the cycle where the other slot issues in it too (R90, R123, R129). -/
def defer (x : Late) (now : State → State) (s : State) : State :=
  match s.late with
  | none => now s
  | some l => { s with late := some (l ++ [x]) }

/-- A whole scalar register written by the issuing slot. -/
def writeS (r : Nat) (v : Word) (s : State) : State :=
  defer (.result s.cur [.scal r v allBits] false 0) (modGrp (fun g => g.writeS s.cur r v allBits)) s

/-- A vector register: one value per lane. -/
def readV (s : State) (r : Nat) : Lanes := vget s.grp.vregs r (Vector.replicate 32 0)

/-- A vector register of a group written in some lanes and bits (R35, R128). -/
def Group.writeV (g : Group) (r : Nat) (m : Mask) (v : Nat → Word) (bits : Word) : Group :=
  { g with vregs := vmod g.vregs r (fun o => blend m o (fun l => (lane o l &&& ~~~bits) ||| (v l &&& bits))) }

/-- The lanes that MK selects (R31). -/
def active (s : State) (mk : Nat) : Mask :=
  if mk = 0 then (slot s).exec else (slot s).exec &&& (readS s (47 + mk)).setWidth 32

/-- A value stored in `qmode`: 0 and 7 are stored as 1 (R82). -/
def qmodeStore (v : Nat) : Nat := if v % 8 = 0 || v % 8 = 7 then 1 else v % 8

end Sys2Proof.Machine
end

