-- ==== Sys2Proof/Machine/Memory.lean ====
section
/-! DEFINITION. Memory at home: bytes, postmarks and validity bits (R85 to R87, R243 to R245, R255 to R257), the sluice map (R246, R247) and
the slices' counters (R233, R260). -/
namespace Sys2Proof.Machine

/-! ### Canonical lists -/

/-- Write a value under a key of a sorted list that does not list the default value: equal contents are equal lists. -/
def canonSet {β : Type} [DecidableEq β] (dflt : β) (k : Nat) (v : β) (l : List (Nat × β)) : List (Nat × β) :=
  if v = dflt then assocDel k l else assocSet k v l

/-- The value under a key, or the default. -/
def canonGet {β : Type} (dflt : β) (k : Nat) (l : List (Nat × β)) : β := (assocGet k l).getD dflt

/-- Keys strictly rising from a bound on, and no default value listed. -/
def canonFrom {β : Type} [DecidableEq β] (dflt : β) : Nat → List (Nat × β) → Bool
  | _, [] => true
  | lo, (k, v) :: t => decide (lo ≤ k) && decide (v ≠ dflt) && canonFrom dflt (k + 1) t

/-- Insert a number into a strictly rising list. -/
def insNat (n : Nat) : List Nat → List Nat
  | [] => [n]
  | m :: t => if n < m then n :: m :: t else if n = m then m :: t else m :: insNat n t

/-- Remove a number. -/
def delNat (n : Nat) (l : List Nat) : List Nat := l.filter (fun m => m != n)

/-- A list of numbers is strictly rising from a bound on. -/
def risingFrom : Nat → List Nat → Bool
  | _, [] => true
  | lo, n :: t => decide (lo ≤ n) && risingFrom (n + 1) t

/-- The canonical form of memory, postmarks and validity bits. -/
def Memory.wf (s : State) : Bool := canonFrom 0 0 s.mem && canonFrom 0 0 s.marks && risingFrom 0 s.valid

/-! ### The physical address space (R243, R244) -/

/-- Where a physical address is at home. -/
inductive Home where
  | localMem
  | peer (dev lpa : Nat)
  | host
  | nowhere
deriving DecidableEq, Repr

/-- The region of a physical address; this device's own window aliases local memory (R243). -/
def homeOf (s : State) (pa : Nat) : Home :=
  if pa < 2 ^ 40 then .localMem
  else if 0x100000000000 ≤ pa && pa < 0x200000000000 then
    let d := (pa - 0x100000000000) / 2 ^ 40
    if d = s.mgmt.device then .localMem else .peer d (pa % 2 ^ 40)
  else if 0x8000000000000 ≤ pa && pa < 0x10000000000000 then .host
  else .nowhere

/-- The one address of a byte: the alias of R243 resolved. -/
def canonPa (s : State) (pa : Nat) : Nat :=
  if 0x100000000000 ≤ pa && pa < 0x200000000000 && (pa - 0x100000000000) / 2 ^ 40 = s.mgmt.device then pa % 2 ^ 40 else pa

/-- The stack of a local address: the exclusive or of the 4-bit fields from bit 12 on (R254). -/
def stackOf (pa : Nat) : Nat := (List.range 10).foldl (fun x j => x ^^^ ((pa >>> (12 + 4 * j)) % 16)) 0

/-- The partition that owns a local address (R244). -/
def ownerOf (s : State) (pa : Nat) : Option Nat :=
  (List.range 16).find? (fun p => (part s p).owned.any (fun r => r.1 ≤ pa && pa < r.1 + r.2))

/-! ### The sluice map (R246, R247) -/

/-- A tiled-region entry's four words. -/
def tiledWord (t : Nat → Word) (e i : Nat) : Nat := (t (4 * e + i)).toNat

/-- Is a tiled entry in use: marked, with every field in its range (R247)? PITCH 0, by which nothing can be divided, counts as out of range (DESIGN
CHOICE, log entry 78). -/
def tiledOk (mask : Nat) (t : Nat → Word) (e : Nat) : Bool :=
  let w0 := tiledWord t e 0
  let w1 := tiledWord t e 1
  let w2 := tiledWord t e 2
  let twl := (w2 >>> 24) % 16
  let pitch := w2 % 2 ^ 24
  mask.testBit e && w0 < 2 ^ 52 && w0 % 4096 == 0 && w1 < 2 ^ 52 && w1 % 4096 == 0 && 7 ≤ twl && twl ≤ 13
    && (w2 >>> 28) % 16 ≤ 10 && pitch != 0 && pitch % 2 ^ twl == 0 && w2 >>> 48 == 0 && tiledWord t e 3 == 0

/-- `SliceOf` (R247). -/
def sliceIn (S : Nat) (list : Nat → Nat) (mask : Nat) (t : Nat → Word) (pa : Nat) : Nat :=
  match (List.range 16).find? (fun e => tiledOk mask t e && tiledWord t e 0 ≤ pa && pa < tiledWord t e 0 + tiledWord t e 1) with
  | some e =>
    let w2 := tiledWord t e 2
    let off := pa - tiledWord t e 0
    let pitch := w2 % 2 ^ 24
    let r := (off / pitch) / 2 ^ ((w2 >>> 28) % 16)
    let c := (off % pitch) / 2 ^ ((w2 >>> 24) % 16)
    list ((c + r * ((w2 >>> 32) % 256) + (w2 >>> 40) % 256) % 2 ^ S)
  | none =>
    if S = 0 then list 0
    else list ((List.range 45).foldl (fun x j =>
      let lo := 7 + S * j
      if lo ≤ 51 then x ^^^ ((pa >>> lo) % 2 ^ (min S (52 - lo))) else x) 0)

/-- The slice of an address under a partition's map (R247). -/
def newSlice (q : Partition) (pa : Nat) : Nat := sliceIn q.mapS (fun k => vget q.mapList k 0) q.mapTiled (fun k => vget q.tiled k 0) pa

/-- The slice of an address under the map before a change (R248). -/
def MapChange.oldSlice (c : MapChange) (pa : Nat) : Nat := sliceIn c.oldS (fun k => c.oldList.getD k 0) c.oldMask (fun k => c.oldTiled.getD k 0) pa

/-- Has a line been handed over (R248 step 4)? -/
def MapChange.over (c : MapChange) (line : Nat) : Bool := match c.left with | none => c.moved.contains line | some l => ! l.contains line

/-- The home slice of a local line under its owner's map; before its handover the old slice (R247, R248). -/
def sliceOf (s : State) (pa : Nat) : Option Nat :=
  match ownerOf s pa with
  | none => none
  | some p =>
    let q := part s p
    match q.change with
    | some c => some (if c.over (pa / 128) then newSlice q pa else c.oldSlice pa)
    | none => some (newSlice q pa)

/-- Does a line of a partition wait for its handover: its home changes, and it has not been handed over (R248)? -/
def waitsHandover (s : State) (p line : Nat) : Bool :=
  match (part s p).change with
  | some c => ownerOf s (line * 128) == some p && ! c.over line && c.oldSlice (line * 128) != newSlice (part s p) (line * 128)
  | none => false

/-- Is a requester's request for a line held by a change of the map: under the new map, at the new slice, until the line is handed over (R248 step 5);
or under the old one, once the line is retired, until the requester has adopted the new one and sends the request again (R249)? -/
def mapHeld (s : State) (r line : Nat) : Bool :=
  match ownerOf s (line * 128) with
  | none => false
  | some p =>
    match (part s p).change with
    | some c => c.oldSlice (line * 128) != newSlice (part s p) (line * 128) && c.over line == (part s p).stale.contains r
    | none => false

/-- A request accepted by the home slice of an address is counted (R233). -/
def accept (s : State) (pa : Nat) : State :=
  if homeOf s pa = .localMem then
    match sliceOf s (canonPa s pa) with
    | some k => modSlice k (fun x => { x with accept := (x.accept + 1) % 2 ^ 32 }) s
    | none => s
  else s

/-! ### Words at home -/

/-- The default content of memory that nothing has written (log entry 4). -/
def memDefault : Byte := 0

/-- A byte of memory. -/
def readByte (s : State) (pa : Nat) : Byte := canonGet memDefault (canonPa s pa) s.mem

/-- A byte of memory written. -/
def writeByte (s : State) (pa : Nat) (b : Byte) : State := { s with mem := canonSet memDefault (canonPa s pa) b s.mem }

/-- n bytes from an address on. -/
def readBytes (s : State) (pa : Nat) : Nat → List Byte
  | 0 => []
  | n + 1 => readByte s pa :: readBytes s (pa + 1) n

/-- Bytes written from an address on. -/
def writeBytes (s : State) (pa : Nat) : List Byte → State
  | [] => s
  | b :: t => writeBytes (writeByte s pa b) (pa + 1) t

/-- The postmark of the word that holds an address; host memory keeps none (R245). -/
def readMark (s : State) (pa : Nat) : Mark := if homeOf s pa = .host then 0 else canonGet 0 (canonPa s pa / 8) s.marks

/-- The word that holds an address, at its home (R266). -/
def homeWord (s : State) (pa : Nat) : TWord := ⟨wordOfBytes (readBytes s (pa / 8 * 8) 8), readMark s pa⟩

/-- The validity bit of the block that holds an address (R86). -/
def readValid (s : State) (pa : Nat) : Bool := s.valid.contains (canonPa s pa / 64)

/-- The validity bit set or cleared; host memory keeps none (R256). -/
def setValid (s : State) (pa : Nat) (b : Bool) : State :=
  if homeOf s pa = .host then s
  else { s with valid := if b then insNat (canonPa s pa / 64) s.valid else delNat (canonPa s pa / 64) s.valid }

/-- A postmark written; the host port drops it (R245). -/
def writeMark (s : State) (pa : Nat) (m : Mark) : State :=
  if homeOf s pa = .host then s else { s with marks := canonSet 0 (canonPa s pa / 8) m s.marks }

/-- Does a signal satisfy a wait (R198)? -/
def sigHolds (cnd : Nat) (v cmp : Word) : Bool :=
  match cnd with
  | 0 => v == cmp
  | 1 => v != cmp
  | 2 => decide (v.toInt < cmp.toInt)
  | _ => decide (cmp.toInt ≤ v.toInt)

/-- A watch after a write of a word: a value that meets the condition ends the wait, whatever is written later (R198). -/
def Watch.note (n : Nat) (t : TWord) (w : Watch) : Watch :=
  if w.word = n && w.met.isNone && sigHolds w.cnd t.data w.cmp then { w with met := some t } else w

/-- A write of a word performed at home is seen by those that watch it (R198). -/
def sigNote (s : State) (pa : Nat) : State := { s with watches := s.watches.map (Watch.note (canonPa s pa / 8) (homeWord s pa)) }

/-- A whole word with its postmark written, the validity bit untouched. -/
def putWord (s : State) (pa : Nat) (t : TWord) : State := sigNote (writeMark (writeBytes s (pa / 8 * 8) (bytesOf t.data)) pa t.mark) pa

/-- A watch of a word, under a key. -/
def addWatch (key pa cnd : Nat) (cmp : Word) (s : State) : State :=
  { s with watches := s.watches ++ [{ key := key, word := canonPa s pa / 8, cnd := cnd, cmp := cmp, met := none }] }

/-- Watches given up. -/
def dropWatches (f : Nat → Bool) (s : State) : State := { s with watches := s.watches.filter (fun w => ! f w.key) }

/-- The value that met the condition of a watch, if a write has. -/
def watchMet (s : State) (key : Nat) : Option TWord := (s.watches.find? (fun w => w.key == key)).bind Watch.met

/-- The key of an operation's watch. -/
def opWatch (id : Nat) : Nat := 2 * id

/-- A write of a word performed at home: it sets its block's validity bit (R86, R257, R266). -/
def homeWrite (s : State) (pa : Nat) (t : TWord) : State := setValid (putWord s pa t) pa true

/-- A block zeroed at home: eight zero words stamped 0xE0, its validity bit cleared, in one step (R181, R257). -/
def clearBlock (s : State) (pa : Nat) : State :=
  setValid ((List.range 8).foldl (fun s i => putWord s (pa / 64 * 64 + 8 * i) ⟨0, 0xE0⟩) s) pa false

/-- The validity word of the 4 KiB region of an address (R87, R180). -/
def validityWord (s : State) (pa : Nat) : Word :=
  BitVec.ofNat 64 ((List.range 64).foldl (fun a i => if readValid s (pa / 4096 * 4096 + 64 * i) then a ||| (1 <<< i) else a) 0)

end Sys2Proof.Machine
end

