-- ==== Sys2Proof/Machine/Wire.lean ====
section
/-! DEFINITION. Requests, responses and flits on their way out of the device: headers (R419), paths (R412, R414), flits (R416 to R418),
encryption and authentication (R427 to R429), credits and replay (R421). -/
namespace Sys2Proof.Machine

/-! ### Bytes and codes -/

/-- The low n bytes of a number. -/
def leB (n v : Nat) : List Byte := leBytes n v

/-- Zero bytes. -/
def zeros (n : Nat) : List Byte := List.replicate n 0

/-- A list of bytes cut or padded with zeros to n. -/
def padTo (n : Nat) (l : List Byte) : List Byte := (l ++ zeros n).take n

/-- The bits of a CRC register shifted by one byte (IEEE 802.3, reflected). -/
def crcByte (c : Nat) (b : Byte) : Nat :=
  (List.range 8).foldl (fun x _ => if x % 2 = 1 then (x / 2) ^^^ 0xEDB88320 else x / 2) (c ^^^ b.toNat)

/-- CRC-32 with the IEEE 802.3 generator (R417; log entry 25). -/
def crc32 (l : List Byte) : Nat := (l.foldl crcByte 0xFFFFFFFF) ^^^ 0xFFFFFFFF

/-- A header as its 96-bit number (R419). -/
def hdrNat (h : FabHdr) : Nat :=
  h.op.toNat + (h.sdev.toNat <<< 4) + (h.ddev.toNat <<< 8) + (b2n h.rly <<< 12) + (h.score.toNat <<< 13) + (h.tag.toNat <<< 22)
    + (h.laddr.toNat <<< 32) + (h.wmask.toNat <<< 65) + (h.cut.toNat <<< 81) + (b2n h.cv <<< 93) + (h.rsv.toNat <<< 94)

/-- A header from its 96-bit number (R419). -/
def hdrOfNat (n : Nat) : FabHdr :=
  { op := BitVec.ofNat 4 n, sdev := BitVec.ofNat 4 (n >>> 4), ddev := BitVec.ofNat 4 (n >>> 8), rly := n.testBit 12,
    score := BitVec.ofNat 9 (n >>> 13), tag := BitVec.ofNat 10 (n >>> 22), laddr := BitVec.ofNat 33 (n >>> 32),
    wmask := BitVec.ofNat 16 (n >>> 65), cut := BitVec.ofNat 12 (n >>> 81), cv := n.testBit 93, rsv := BitVec.ofNat 2 (n >>> 94) }

/-- The 96-bit IV of a flit: class, phase, extended sequence number (R427). -/
def ivOf (cls : Nat) (kph : Bool) (esn : Nat) : BitVec 96 := BitVec.ofNat 96 (cls * 2 ^ 94 + b2n kph * 2 ^ 93 + esn % 2 ^ 48)

/-- Bytes 16 to 639 encrypted or decrypted: exclusive or with the keystream (R427). -/
def crypt (key : BitVec 256) (iv : BitVec 96) (l : List Byte) : List Byte :=
  (l.zip (List.range l.length)).map (fun x => x.1 ^^^ Config.keystream key iv (32 + x.2))

/-- The key of a phase. -/
def Keys.get (k : Keys) (ph : Bool) : Option (BitVec 256) := if ph then k.k1 else k.k0

/-- The control part without its CRC (R417). -/
def ctlPart (seq ack : Nat) (kph : Bool) (cls : Nat) (rrq : Bool) (kinds : List Nat) (brel : Nat) (reps : List Nat) : Nat :=
  seq % 4096 + (ack % 4096) * 2 ^ 12 + b2n kph * 2 ^ 24 + cls * 2 ^ 25 + b2n rrq * 2 ^ 27
    + ((kinds.zip (List.range 9)).foldl (fun a x => a + (x.1 <<< (28 + 3 * x.2))) 0) + (min brel 255) * 2 ^ 55
    + ((reps.zip (List.range 4)).foldl (fun a x => a + (x.1 <<< (64 + 8 * x.2))) 0)

/-- The bytes that a flit's CRC and tags cover: 0 to 11 and 16 to 639 (R417, R428). -/
def flitCovered (x : Flit) : List Byte := leB 12 x.ctl.toNat ++ padTo 624 x.body

/-- A flit with its CRC put in. -/
def sealFlit (ctl : Nat) (body : List Byte) : Flit :=
  let c := crc32 (leB 12 ctl ++ padTo 624 body)
  { ctl := BitVec.ofNat 128 (ctl + c * 2 ^ 96), body := padTo 624 body }

/-- The words of a message in whole data segments (R419). -/
def wholeSegs (d : List TWord) : List TWord := d ++ List.replicate ((8 - d.length % 8) % 8) ⟨0, 0⟩

/-- The clear bytes 16 to 639 of a flit with up to four messages, their headers in the header slots and their data in order, and the segments'
kinds (R416, R418). -/
def flitBody (ms : List (FabHdr × List TWord)) : List Byte × List Nat :=
  let ws := ms.flatMap (fun m => wholeSegs m.2)
  let nseg := ws.length / 8
  (padTo 48 (ms.flatMap (fun m => leB 12 (hdrNat m.1))) ++ ws.flatMap (fun t => bytesOf t.data)
      ++ (if nseg = 0 then [] else padTo 64 (ws.map (fun t => (t.mark : Byte)))),
    List.replicate nseg 3 ++ (if nseg = 0 then [] else [4]))

/-- The clear bytes of a flit that carries one control segment (R418). -/
def segBody (c : CtlSeg) : List Byte × List Nat :=
  (zeros 48 ++ [BitVec.ofNat 8 c.kind, BitVec.ofNat 8 c.src, BitVec.ofNat 8 c.dst, 0] ++ c.bytes, [5])

/-- The clear bytes and segment kinds of a flit with one control segment, or with messages. -/
def itemsBody (is : List FabItem) : List Byte × List Nat :=
  match is with
  | .seg c :: _ => segBody c
  | _ => flitBody (is.filterMap (fun i => match i with | .msg h d => some (h, d) | .seg _ => none))

/-! ### Beats (R420) -/

/-- The 80 beats of a flit. -/
def flitBeats (x : Flit) : List Word :=
  let b := leB 16 x.ctl.toNat ++ padTo 624 x.body
  (List.range 80).map (fun i => wordOfBytes ((b.drop (8 * i)).take 8))

/-- The channels of a set in the order of striping: by wavelength, and by fibre within a wavelength. -/
def litChannels (m : Word) : List Nat :=
  (List.range 16).flatMap (fun k => (List.range 4).filterMap (fun f => if bit m (16 * f + k) then some (16 * f + k) else none))

/-- The beats of a flit sent, each with its channel: beat b of the stripe goes on listed channel b mod n. Beats are counted from the start of a
stripe, over flits only (DESIGN CHOICE, log entry 72). -/
def Sent.onChannels (x : Sent) : List (Nat × Word) :=
  let l := litChannels x.lit
  ((List.range 80).zip (flitBeats x.flit)).map (fun p => (l.getD ((x.beat + p.1) % l.length) 0, p.2))

/-- Flits put on the wire, back to back. -/
def Link.onWire (l : Link) (xs : List Flit) : Link :=
  { l with
    out := l.out ++ (xs.zip (List.range xs.length)).map (fun x => { flit := x.1, beat := l.beat + 80 * x.2, lit := l.txLit }),
    beat := l.beat + 80 * xs.length }

/-! ### Sending -/

/-- The link of this device to a peer (R409). -/
def linkTo (s : State) (dev : Nat) : Nat := (dev + 31 - s.mgmt.device) % 16
/-- The peer of a link (R409). -/
def peerOf (s : State) (k : Nat) : Nat := (s.mgmt.device + k + 1) % 16

/-- Do two items of a transmit queue ride in one data flit: requests of one instruction, or answers of one step, with data (R406)? -/
def joins (a b : Nat × FabItem) : Bool :=
  a.1 == b.1 && (match a.2, b.2 with
    | .msg g c, .msg h d => g.op == h.op && ! c.isEmpty && ! d.isEmpty
    | _, _ => false)

/-- The line that an item names. -/
def FabItem.laddr : FabItem → Nat
  | .msg h _ => h.laddr.toNat
  | .seg _ => 0

/-- An item put into a list in address order, before those of its line. -/
def putByLine (x : Nat × FabItem) : List (Nat × FabItem) → List (Nat × FabItem)
  | [] => [x]
  | y :: t => if x.2.laddr ≤ y.2.laddr then x :: y :: t else y :: putByLine x t

/-- What the next numbered flit carries of a queue, and what is left: one item, or up to four lines of one instruction in address order (R406, R418). -/
def takeRun (x : Nat × FabItem) (t : List (Nat × FabItem)) : List FabItem × List (Nat × FabItem) :=
  let run := (x :: t.takeWhile (joins x)).foldr putByLine []
  ((run.take 4).map Prod.snd, run.drop 4 ++ t.dropWhile (joins x))

/-- How many flits the items of a queue make. -/
def flitCount (l : List (Nat × FabItem)) : Nat :=
  (l.foldl (fun (a : Option (Nat × FabItem) × Nat × Nat) x =>
    match a.1 with
    | some y => if joins y x && a.2.1 < 4 then (some y, a.2.1 + 1, a.2.2) else (some x, 1, a.2.2 + 1)
    | none => (some x, 1, a.2.2 + 1)) (none, 0, 0)).2.2

/-- The flits of a transmit queue. -/
def queueFlits (l : Link) : Nat := flitCount l.waiting + l.spillWait.length

/-- A transmit-queue depth in units of 8 flits (R412). -/
def depthOf (l : Link) : Nat := queueFlits l / 8

/-- Four depth reports, in rotation (R417). -/
def reportsOf (s : State) (esn : Nat) : List Nat :=
  (List.range 4).map (fun q => let k := (4 * esn + q) % 15; k + 16 * min 15 (depthOf (link s k)))

/-- The phase of a numbered flit: a commanded rotation flips it at its sequence number (R431). -/
def phaseAt (l : Link) (esn : Nat) : Bool := match l.flipAt with | some n => if n ≤ esn then ! l.txKph else l.txKph | none => l.txKph

/-- Has a class sent as many flits as a key allows (R427)? -/
def Link.spent (l : Link) (c : Nat) : Bool := 2 ^ 47 ≤ vget l.txEsn c 0 - vget l.keyFrom c 0

/-- Does a direction hold: a class of it has spent its key (R427)? -/
def Link.holds (l : Link) : Bool := l.spent 0 || l.spent 1 || l.spent 2

/-- Does a link send at all: it is up, and no restripe of its transmit direction is under way (R422)? -/
def Link.sends (l : Link) : Bool := l.up && ! l.restripes.any (fun r => ! r.1)

/-- Is an item the exchange of a link that went down (R415)? -/
def FabItem.isExchange : FabItem → Bool
  | .seg c => c.kind == 0x20
  | .msg _ _ => false

/-- May a link send its next numbered flit (R421, R427)? A direction that holds goes on only as far as a commanded rotation, and only where the class
itself has flits left; what an exchange is still to settle goes first (R415). -/
def canSend (l : Link) : Bool :=
  match l.waiting with
  | [] => false
  | x :: _ =>
    let ph := phaseAt l (vget l.txEsn 0 0)
    l.sends && l.credits != 0 && l.kept.length < 256 && (l.txKeys.get ph).isSome && (l.undone.isEmpty || x.2.isExchange)
      && (ph != l.txKph || ! l.holds || (l.flipAt.isSome && ! l.spent 0))

/-- May a link send flits of the other classes (R427)? -/
def canOther (l : Link) : Bool := l.sends && (l.txKeys.get l.txKph).isSome && ! l.holds

/-- The sixteen-byte entry of a window or spillway flit in a GMAC flit (R428). -/
def tagEntry (ctr ecls : Nat) (kph : Bool) (tag : BitVec 96) : List Byte :=
  leB 16 (ctr % 4096 + ecls * 2 ^ 12 + b2n kph * 2 ^ 14 + 2 ^ 15 + tag.toNat * 2 ^ 32)

/-- The entries that a link's next GMAC flit carries: the last four completed windows', then spillway flits' (R428). -/
def gmacBody (l : Link) : List Byte :=
  ((l.txWin.filter AuthWin.complete).take 4).flatMap (fun w => match l.txKeys.get w.kph with
    | some key => tagEntry w.start 0 w.kph (Config.gmac key (ivOf 0 w.kph w.start) w.bytes)
    | none => []) ++ (l.spillTags.take 35).flatMap Prod.fst

/-- Spillway entries after one more GMAC flit: each rides in two (R428). -/
def spillTagsLeft (ts : List (List Byte × Nat)) : List (List Byte × Nat) :=
  (ts.take 35).filterMap (fun t => if 2 ≤ t.2 then some (t.1, t.2 - 1) else none) ++ ts.drop 35

/-- A flit put on its link: the ACK, the replay request and the freed buffers that it reports are reported (R417). -/
def Link.put (l : Link) (x : Flit) (cls : Nat) : Link :=
  { l.onWire [x] with txEsn := vset l.txEsn cls (vget l.txEsn cls 0 + 1), needRrq := false, breld := l.breld - 255, ackSent := vget l.rxEsn 0 0 }

/-- A GMAC flit (R428, R429). -/
def sendGmac (k : Nat) (s : State) : State :=
  let l := link s k
  let esn := vget l.txEsn 2 0
  match l.txKeys.get l.txKph with
  | none => s
  | some key =>
    let body := crypt key (ivOf 2 l.txKph esn) (padTo 624 (gmacBody l))
    let x := sealFlit (ctlPart esn (vget l.rxEsn 0 0 + 4095) l.txKph 2 l.needRrq [] l.breld (reportsOf s esn)) body
    modLink k (fun l => { l.put x 2 with spillTags := spillTagsLeft l.spillTags, gmacDue := 0 }) s

/-- A numbered flit in its authentication window; a GMAC flit is due when the window is full (R428). -/
def Link.window (l : Link) (esn : Nat) (x : Flit) : Link :=
  let new : AuthWin := { cls := 0, start := esn / 32 * 32, kph := l.txKph, bytes := flitCovered x, complete := false }
  let cur := match l.txWin with
    | w :: t => if w.complete then new :: w :: t else { w with bytes := w.bytes ++ flitCovered x } :: t
    | [] => [new]
  if esn % 32 = 31 then
    { l with txWin := (match cur with | w :: t => { w with complete := true } :: t.take 3 | [] => []), gmacDue := l.gmacDue + 1 }
  else { l with txWin := cur }

/-- A link at the sequence number of its next numbered flit: a commanded restripe and a commanded rotation take effect (R424, R431). -/
def Link.atEsn (l : Link) (esn : Nat) : Link :=
  let l := match l.restripeAt with
    | some (n, m, t) => if n ≤ esn then { l with txLit := m, beat := 0, restripeAt := none, restored := some (esn, m &&& ~~~ l.txLit, t) } else l
    | none => l
  let ph := phaseAt l esn
  if ph = l.txKph then l
  else { l with txKph := ph, flipAt := none, keyHold := false, keyFrom := vset l.txEsn 0 esn }

/-- The channels that a control segment of kind 0x21 names (R424). -/
def litNamed (is : List FabItem) : Option Word :=
  is.findSome? (fun i => match i with
    | .seg c => if c.kind = 0x21 then some (wordOfBytes ((c.bytes.drop 4).take 8)) else none
    | .msg _ _ => none)

/-- The next numbered flit of a link: sequenced, encrypted, kept for replay (R421, R427). -/
def emitNumbered (k : Nat) (s : State) : State :=
  match (link s k).waiting with
  | [] => s
  | w :: t =>
    let r := takeRun w t
    let b := itemsBody r.1
    let esn := vget (link s k).txEsn 0 0
    let s := modLink k (fun l => l.atEsn esn) s
    let l := link s k
    match l.txKeys.get l.txKph with
    | none => s
    | some key =>
      let x := sealFlit (ctlPart esn (vget l.rxEsn 0 0 + 4095) l.txKph 0 l.needRrq b.2 l.breld (reportsOf s esn))
        (crypt key (ivOf 0 l.txKph esn) (padTo 624 b.1))
      modLink k (fun l => { (l.put x 0).window esn x with
        waiting := r.2, kept := l.kept ++ [⟨esn, x, r.1⟩], ackSeen := (if l.kept.isEmpty then s.time else l.ackSeen), credits := l.credits - 1,
        rxNew := match litNamed r.1 with | some m => some (esn, m, l.rxSeen) | none => l.rxNew }) s

/-- Queue an item on a link as one of a step (R412). -/
def transmitAs (step k : Nat) (i : FabItem) (s : State) : State := modLink k (fun l => { l with waiting := l.waiting ++ [(step, i)] }) s

/-- The step and the slot that make a request or an answer: what one instruction sends has one number (R406). -/
def stepKey (s : State) : Nat := 2 * s.tick + b2n s.cur

/-- Queue an item on a link (R412). -/
def transmitItem (k : Nat) (i : FabItem) (s : State) : State := transmitAs (stepKey s) k i s

/-- Queue a header with its data on a link. -/
def transmit (k : Nat) (h : FabHdr) (d : List TWord) (s : State) : State := transmitItem k (.msg h d) s

/-- Queue a spillway flit of up to four lines on a link: it is handed over (R173, R406, R426). -/
def queueSpill (k : Nat) (ms : List (FabHdr × List TWord)) (s : State) : State :=
  modLink k (fun l => { l with spillWait := l.spillWait ++ [ms] }) s

/-- The next spillway flit of a link: sent once, never kept, with its own tag in a GMAC flit (R426, R428). -/
def emitSpillway (k : Nat) (s : State) : State :=
  let l := link s k
  match l.spillWait, l.txKeys.get l.txKph with
  | ms :: t, some key =>
    let esn := vget l.txEsn 1 0
    let b := flitBody ms
    let x := sealFlit (ctlPart esn (vget l.rxEsn 0 0 + 4095) l.txKph 1 l.needRrq b.2 l.breld (reportsOf s esn))
      (crypt key (ivOf 1 l.txKph esn) (padTo 624 b.1))
    let e := tagEntry esn 1 l.txKph (Config.gmac key (ivOf 1 l.txKph esn) (flitCovered x))
    modLink k (fun l => { l.put x 1 with spillWait := t, spillTags := l.spillTags ++ [(e, 2)] }) s
  | _, _ => s

/-- Has a link something to report with no flit to carry it: an acceptance, freed buffers, a replay request, or entries (R417, R421, R428)? -/
def reportWaits (l : Link) : Bool :=
  canOther l && (l.gmacDue != 0 || l.ackSent != vget l.rxEsn 0 0 || l.needRrq || l.breld != 0 || ! l.spillTags.isEmpty)

/-- Does a GMAC flit go before other flits: are 24 entries pending (R428; log entry 72)? -/
def gmacFirst (l : Link) : Bool := canOther l && 24 ≤ l.gmacDue + l.spillTags.length

/-- May a link send a spillway flit? -/
def canSpill (l : Link) : Bool := canOther l && ! l.spillWait.isEmpty

/-- Has a link a flit to send now? -/
def linkMay (l : Link) : Bool := gmacFirst l || canSpill l || canSend l || reportWaits l

/-- The next flit of a link: spillway and numbered flits go before a GMAC flit that is not pressing; a GMAC flit also carries what there is to report
(R421, R428; log entry 72). -/
def sendNext (k : Nat) (s : State) : State :=
  let l := link s k
  if gmacFirst l then sendGmac k s
  else if canSpill l then emitSpillway k s
  else if canSend l then emitNumbered k s
  else if reportWaits l then sendGmac k s
  else s

/-- The cost of a detour by relay r, if it is a candidate: an old report counts as 15 (R412). -/
def detourCost (s : State) (dev r : Nat) : Option Nat :=
  let k := linkTo s r
  if r = dev || r = s.mgmt.device || k ≥ 15 || ! (link s k).up then none
  else
    -- r's own link to dev, numbered at r
    let kr := (dev + 31 - r) % 16
    match (link s k).depths.find? (fun x => x.1 == kr) with
    | some (_, dep, at') => some (depthOf (link s k) + (if s.time < at' + 2000 then dep else 15) + 4)
    | none => none

/-- The least cost among detours, the lowest-numbered relay on a tie (R412). -/
def bestDetour (s : State) (dev : Nat) : Option (Nat × Nat) :=
  (List.range 16).foldl (fun acc r => match detourCost s dev r, acc with
    | some c, some (_, b) => if c < b then some (r, c) else acc
    | some c, none => some (r, c)
    | none, _ => acc) none

/-- The first hop of a request (R412): the link. -/
def pathTo (s : State) (dev : Nat) : Nat :=
  let k := linkTo s dev
  match bestDetour s dev with
  | some (r, c) => if ! (link s k).up || c < depthOf (link s k) then linkTo s r else k
  | none => k

/-- The source-core number of a request: 48 × virtual die + core (R419). -/
def scoreOf (s : State) (c : Nat) : Nat :=
  let v := ((List.range 8).find? (fun v => vget s.mgmt.vdmap v 0 == dieOf c + 8)).getD (dieOf c)
  48 * v + c % 48

/-- A request's header; `cnt` is the core whose cut count it carries (R281). -/
def reqHdr (s : State) (op dev : Nat) (line wmask : Nat) (cnt : Option Nat) (tag : Nat) : FabHdr :=
  { op := BitVec.ofNat 4 op, sdev := BitVec.ofNat 4 s.mgmt.device, ddev := BitVec.ofNat 4 dev, rly := false,
    score := match cnt with | some c => BitVec.ofNat 9 (scoreOf s c) | none => 0, tag := BitVec.ofNat 10 tag,
    laddr := BitVec.ofNat 33 line, wmask := BitVec.ofNat 16 wmask,
    cut := match cnt with | some c => BitVec.ofNat 12 (core s c).cut | none => 0, cv := cnt.isSome, rsv := 0 }

/-- Do two requests go to one line (R414)? -/
def Req.sameLine (a b : Req) : Bool := a.dev == b.dev && a.line == b.line

/-- Does a request hold its TAG and its line's path entry: it has left, or is to be sent again (R414)? -/
def Req.outstanding (r : Req) : Bool := r.sent || r.again

/-- May a request be sent now: no request to its line waits or is to be sent again, its TAG is free, and its line has a path entry or one of
the 4,096 is free (R414)? -/
def mayRequest (reqs : List Req) (tag dev line : Nat) : Bool :=
  let mine := reqs.filter (fun r => r.dev == dev && r.line == line)
  mine.all (fun r => r.sent && ! r.again) && ! reqs.any (fun r => r.outstanding && r.tag % 1024 == tag % 1024)
    && (! mine.isEmpty || ((reqs.filter Req.outstanding).map (fun r => (r.dev, r.line))).eraseDups.length < 4096)

/-- The path of a request: its line's entry, or a choice (R412, R414). -/
def reqPath (s : State) (reqs : List Req) (dev line : Nat) : Nat :=
  match reqs.find? (fun r => r.dev == dev && r.line == line && r.sent) with
  | some r => r.link
  | none => pathTo s dev

/-- Send a numbered request to a peer for a line of its memory, or let it wait, and remember what it is for (R414, R419). -/
def sendReq (op dev line wmask : Nat) (d : List TWord) (cnt : Option Nat) (p gid : Nat) (pu : Purpose) (s : State) : State :=
  let tag := s.fabric.nextTag
  let go := mayRequest s.fabric.reqs tag dev line
  let k := reqPath s s.fabric.reqs dev line
  let h := reqHdr s op dev line wmask cnt tag
  let r : Req := {
    tag := tag, step := stepKey s, dev := dev, line := line, link := k, part := p, gid := gid, purpose := pu, hdr := h, data := d, sent := go, again := false,
    cnt := cnt, stale := false }
  let s := modFabric (fun f => { f with nextTag := tag + 1, reqs := f.reqs ++ [r] }) s
  if go then transmit k h d s else s

/-- A request's header as it leaves: one on a core's account carries the core's count of now; a release's write-back carries the count that it was
given (R281). -/
def leavingHdr (s : State) (r : Req) : FabHdr :=
  match r.cnt, r.purpose with
  | some _, .write none => r.hdr
  | some c, _ => { r.hdr with cut := BitVec.ofNat 12 (core s c).cut }
  | none, _ => r.hdr

/-- A waiting request leaves on a link. -/
def sendNow (r : Req) (step k : Nat) (h : FabHdr) (s : State) : State :=
  transmitAs step k (.msg h r.data)
    (modFabric (fun f => { f with reqs := f.reqs.map (fun x => if x.tag = r.tag then { x with sent := true, link := k, hdr := h } else x) }) s)

/-- The requests made before one. -/
def reqsBefore (s : State) (r : Req) : List Req := s.fabric.reqs.takeWhile (fun x => x.tag != r.tag)

/-- A request that was answered "no path" goes on a new path, once every earlier request to its line has been performed (R414). -/
def sendAgain (r : Req) (s : State) : State := if (reqsBefore s r).any r.sameLine then s else sendNow r (stepKey s) (pathTo s r.dev) r.hdr s

/-- May requests go one after the other, beside those that stand before them and those that have left? -/
def mayAll (others : List Req) : List Req → Bool
  | [] => true
  | r :: t => mayRequest others r.tag r.dev r.line && mayAll (others ++ [{ r with sent := true }]) t

/-- Does a waiting request ride in one flit with another: a line of the same instruction for the same device (R406)? -/
def Req.rides (a b : Req) : Bool :=
  a.step == b.step && a.dev == b.dev && a.hdr.op == b.hdr.op && ! a.data.isEmpty && ! b.data.isEmpty && ! b.again

/-- Waiting requests, sent in order as far as they may be: the lines of one instruction leave four at a time, or as many as are left, so that each flit
is as full as R406 has it; one verdict holds for the n requests that are left of its four (R414; log entry 72). -/
def pumpList : List Req → Nat → Bool → State → State
  | [], _, _, s => s
  | r :: t, n, go, s =>
    if r.again then pumpList t 0 false (sendAgain r s)
    else
      let four := r :: (t.takeWhile r.rides).take 3
      let ok := if n = 0 then mayAll (reqsBefore s r ++ (s.fabric.reqs.drop (reqsBefore s r).length).filter Req.outstanding) four else go
      let s := if ok then sendNow r r.step (reqPath s s.fabric.reqs r.dev r.line) (leavingHdr s r) s else s
      pumpList t (if n = 0 then four.length - 1 else n - 1) ok s

/-- Requests that waited, sent in order as far as they may be (R414). -/
def pumpReqs (s : State) : State := pumpList (s.fabric.reqs.filter (fun r => ! r.sent)) 0 false s

/-- A response to a request (R419). -/
def sendRsp (op : Nat) (h : FabHdr) (wmask : Nat) (d : List TWord) (s : State) : State :=
  let r : FabHdr := {
    op := BitVec.ofNat 4 op, sdev := BitVec.ofNat 4 s.mgmt.device, ddev := h.sdev, rly := false, score := 0,
    tag := h.tag, laddr := h.laddr, wmask := BitVec.ofNat 16 wmask, cut := 0, cv := false, rsv := 0 }
  transmit (pathTo s h.sdev.toNat) r d s

/-- A control segment to a device, in a numbered flit (R418, R433). -/
def sendSeg (c : CtlSeg) (s : State) : State := transmitItem (pathTo s c.dst) (.seg c) s

/-- A control segment of this device (R418). -/
def sendCtl (kind dst : Nat) (bytes : List Byte) (s : State) : State := sendSeg { kind := kind, src := s.mgmt.device, dst := dst, bytes := bytes } s

end Sys2Proof.Machine
end

