-- ==== Sys2Proof/Machine/Cache.lean ====
section
/-! DEFINITION. The L1 data caches and the die caches (R240 to R242, R253), release and acquire actions (R269), and reads and writes through
them. -/
namespace Sys2Proof.Machine

/-- No word of a line. -/
def noWords : List CWord := List.replicate 16 { valid := false, dirty := false, w := ⟨0, 0⟩ }

/-- The line number of an address. -/
def lineNo (s : State) (pa : Nat) : Nat := canonPa s pa / 128
/-- The index of an address's word in its line. -/
def wordIx (pa : Nat) : Nat := (pa / 8) % 16
/-- Is a line at home on a peer: device and line there? -/
def peerLine (s : State) (line : Nat) : Option (Nat × Nat) :=
  match homeOf s (line * 128) with
  | .peer d lpa => some (d, lpa / 128)
  | _ => none

/-- The line number of a peer's line in this device's address space (R243). -/
def globalLine (dev line : Nat) : Nat := (0x100000000000 + dev * 2 ^ 40) / 128 + line

/-- The core for whose die's cache a request brings a line, if it does. -/
def fillCore (s : State) (r : Req) : Option Nat :=
  match r.purpose with
  | .fill c _ => some c
  | .pref c _ _ _ => some c
  | .load _ => if r.hdr.op = 0 then (groupOf s r.gid).map Group.core else none
  | _ => none

/-- Lines that a die's cache drops are not brought back by what was asked of peers before, for whichever of its cores, be it on its way or here
(R266, R269, R275). -/
def dropFills (d : Nat) (hit : Nat → Bool) (s : State) : State :=
  modFabric (fun x => { x with reqs := x.reqs.map (fun r =>
    if (fillCore s r).map dieOf = some d && hit (globalLine r.dev r.line) then { r with stale := true } else r) })
    (modDie d (fun q => { q with fills := q.fills.filter (fun x => ! hit x.line) }) s)

/-- A cached line by number. -/
def findLine (l : List CLine) (line : Nat) : Option CLine := l.find? (fun x => x.line == line)
/-- Word i of a line. -/
def CLine.word (x : CLine) (i : Nat) : CWord := x.words.getD i { valid := false, dirty := false, w := ⟨0, 0⟩ }
/-- Does a line hold a dirty word? -/
def CLine.isDirty (x : CLine) : Bool := x.words.any (fun w => w.dirty && w.valid)
/-- Every word of a line valid? -/
def CLine.full (x : CLine) : Bool := x.words.all (fun w => w.valid)

/-- The word mask of a line's dirty words. -/
def CLine.dirtyMask (x : CLine) : Nat := (List.range 16).foldl (fun a i => if (x.word i).dirty then a ||| (1 <<< i) else a) 0

/-! ### Write-back to home (R241) -/

/-- Is a peer's line among those that a command of this device claims or owns there (R259)? What this device sends for it waits here. -/
def Flume.claimsAway (f : Flume) (s : State) (line : Nat) : Bool := (peerLine s line).isSome && f.lines.any (fun x => x.own == some line)

/-- Is a line owned by a Flume command (R259)? -/
def claimed (s : State) (line : Nat) : Bool := s.claims.any (fun c => c.1 == line) || s.flumes.any (fun f => f.claimsAway s line)

/-- Does a write-back wait at a line's home? What comes after it waits behind it. -/
def backWaits (s : State) (line : Nat) : Bool := s.wbs.any (fun x => x.2.line == line)

/-- Is a requester's request for a line held: an engine owns the line, the map of its partition is being changed, or a write-back of the line is held
so (R248, R249, R259)? -/
def lineHeld (s : State) (r line : Nat) : Bool := claimed s line || mapHeld s r line || backWaits s line

/-- Is a line of the 4 KiB page of an address held for a requester? -/
def pageHeld (s : State) (r pa : Nat) : Bool :=
  let n := lineNo s pa / 32
  s.claims.any (fun c => c.1 / 32 == n) || s.wbs.any (fun x => x.2.line / 32 == n)
    || s.flumes.any (fun f => f.lines.any (fun x => x.own.any (fun l => l / 32 == n && (peerLine s l).isSome)))
    || (match ownerOf s (n * 4096) with
        | some p => (part s p).change.isSome && (List.range 32).any (fun i => mapHeld s r (32 * n + i))
        | none => false)

/-- The requester as which a die's cache writes back what no core's instruction makes it write: the die's first core (DESIGN CHOICE, log entry 16: R248
names no die cache among the requesters). -/
def dieReq (d : Nat) : Nat := 48 * d

/-- A line's dirty words performed at their home here (R86, R241, R266). -/
def performLine (x : CLine) (s : State) : State :=
  (List.range 16).foldl (fun s i => let w := x.word i; if w.valid && w.dirty then homeWrite s (x.line * 128 + 8 * i) w.w else s)
    (accept s (x.line * 128))

/-- A line's dirty words performed at their home, or sent to the peer that is their home; at a line that is held they wait; `r` is the requester,
`cnt` the releasing core, which waits before its release until no line is held (R241, R248, R277, R281). -/
def writeHome (r : Nat) (x : CLine) (cnt : Option Nat) (s : State) : State :=
  if lineHeld s r x.line then { s with wbs := s.wbs ++ [(r, x)] }
  else match peerLine s x.line with
    | some (dev, pl) => sendReq 2 dev pl x.dirtyMask (x.words.map (fun w => w.w)) cnt x.part 0 (.write none) s
    | none => performLine x s

/-- The write-backs that waited at a line go on in their order, as far as nothing holds them any more (R248, R259, R277). -/
def lineFree (line : Nat) (s : State) : State :=
  (s.wbs.filter (fun x => x.2.line == line)).foldl (fun s x => writeHome x.1 x.2 none s) { s with wbs := s.wbs.filter (fun x => x.2.line != line) }

/-- Write-backs that waited go on where nothing holds their lines any more (R248, R259, R277). -/
def freeLines (s : State) : State := ((s.wbs.map (fun x => x.2.line)).eraseDups).foldl (fun s l => lineFree l s) s

/-- A command gives up its ownership of a line: what waited there is performed (R259, R277). -/
def unclaim (line id : Nat) (s : State) : State := lineFree line { s with claims := s.claims.filter (fun c => c != (line, id)) }

/-- Words written at the home of their line, or sent to the peer that is their home, on a partition's account (R85, R233, R243, R419). -/
def putHome (p pa : Nat) (ws : List TWord) (pu : Purpose) (s : State) : State :=
  match peerLine s (lineNo s pa) with
  | some (dev, pl) =>
    sendReq 2 dev pl ((2 ^ ws.length - 1) <<< wordIx pa) ((List.replicate (wordIx pa) (⟨0, 0⟩ : TWord) ++ ws ++ List.replicate 16 (⟨0, 0⟩ : TWord)).take 16) none p 0 pu s
  | none => (ws.zip (List.range ws.length)).foldl (fun s x => homeWrite s (pa + 8 * x.2) x.1) (accept s pa)

/-- A line with its dirty words marked clean. -/
def CLine.clean (x : CLine) : CLine := { x with words := x.words.map (fun w => { w with dirty := false }) }

/-! ### The die cache -/

/-- One search round of R253: every line of the set one step further. -/
def ageSet (lines : List CLine) (set : Nat) : List CLine :=
  lines.map (fun x => if (Config.dieSet x.line).val = set && x.rrpv < 3 then { x with rrpv := x.rrpv + 1 } else x)

/-- The victim of a full set: the lowest-numbered way with RRPV 3, after as many rounds as it takes (R253). -/
def dieVictim (set : Nat) : Nat → List CLine → Option CLine × List CLine
  | 0, lines => (none, lines)
  | n + 1, lines =>
    match (List.range 16).findSome? (fun w => lines.find? (fun x => (Config.dieSet x.line).val == set && x.way == w && x.rrpv == 3)) with
    | some v => (some v, lines)
    | none => dieVictim set n (ageSet lines set)

/-- A way for a new line of a die cache: a free one, or the victim's, which is written back (R242, R253). -/
def dieRoom (d line : Nat) (s : State) : Nat × State :=
  let set := (Config.dieSet line).val
  let ls := (die s d).lines
  match (List.range 16).find? (fun w => ! ls.any (fun x => (Config.dieSet x.line).val == set && x.way == w)) with
  | some w => (w, s)
  | none =>
    match dieVictim set 5 ls with
    | (some v, ls') =>
      let s := dropFills d (fun l => l == v.line) (modDie d (fun q => { q with lines := ls'.filter (fun x => x.line != v.line) }) s)
      (v.way, if v.isDirty then writeHome (dieReq d) v none s else s)
    | (none, ls') => (0, modDie d (fun q => { q with lines := ls' }) s)

/-- The die-cache line of a number, allocated with no words where it was absent; a hit sets RRPV 0 (R253). -/
def dieTouch (d line rrpv : Nat) (s : State) : State :=
  if (findLine (die s d).lines line).isSome then
    modDie d (fun x => { x with lines := x.lines.map (fun y => if y.line = line then { y with rrpv := 0 } else y) }) s
  else
    let r := dieRoom d line s
    modDie d (fun x => { x with lines := { line := line, part := 0, way := r.1, rrpv := rrpv, words := noWords } :: x.lines }) r.2

/-- The words of a die-cache line changed. -/
def dieWords (d line : Nat) (f : Nat → CWord → CWord) (s : State) : State :=
  modDie d (fun x => { x with lines := x.lines.map (fun y =>
    if y.line = line then { y with words := (y.words.zip (List.range 16)).map (fun z => f z.2 z.1) } else y) }) s

/-- Fill a die-cache line from home; words of a peer's line come only by RDATA (R242). -/
def dieFill (d line rdis : Nat) (s : State) : State :=
  let s := dieTouch d line rdis s
  match findLine (die s d).lines line with
  | none => s
  | some x =>
    if x.full || (peerLine s line).isSome then s
    else
      let s := accept s (line * 128)
      dieWords d line (fun i w => if w.valid then w else { valid := true, dirty := false, w := homeWord s (line * 128 + 8 * i) }) s

/-! ### The L1 -/

/-- Put a line in front; the least recently used line of a full set is written back to the die cache (R240, R242). -/
def l1Insert (c : Nat) (x : CLine) (s : State) : State :=
  let rest := (core s c).l1.filter (fun y => y.line != x.line)
  let set := (Config.l1Set x.line).val
  let inSet := rest.filter (fun y => (Config.l1Set y.line).val == set)
  if inSet.length < 20 then modCore c (fun k => { k with l1 := x :: rest }) s
  else
    match inSet.getLast? with
    | none => modCore c (fun k => { k with l1 := x :: rest }) s
    | some v =>
      let s := modCore c (fun k => { k with l1 := x :: rest.filter (fun y => y.line != v.line) }) s
      if v.isDirty then
        let s := dieTouch (dieOf c) v.line 2 s
        let s := modDie (dieOf c) (fun q => { q with lines := q.lines.map (fun y => if y.line = v.line then { y with part := v.part } else y) }) s
        dieWords (dieOf c) v.line (fun i w => if (v.word i).dirty then v.word i else w) s
      else s

/-- A line that came for a miss of a core goes into its die's cache, where words are missing (R242). -/
def takeFill (c line : Nat) (s : State) : State :=
  match findLine (die s (dieOf c)).fills line with
  | none => s
  | some x => dieWords (dieOf c) line (fun i w => if w.valid then w else x.word i)
      (modDie (dieOf c) (fun q => { q with fills := q.fills.filter (fun y => y.line != line) }) s)

/-- A core's L1 line, or one without words. -/
def l1Line (s : State) (c line : Nat) : CLine :=
  (findLine (core s c).l1 line).getD { line := line, part := 0, way := 0, rrpv := 0, words := noWords }

/-- Does the sector of word i lack a word in the L1? -/
def l1Lacks (s : State) (c line i : Nat) : Bool := (List.range 4).any (fun k => ! ((l1Line s c line).word (i / 4 * 4 + k)).valid)

/-- The sector of word i taken from the die cache's line into the L1 (R240, R242). -/
def l1Take (c line i : Nat) (s : State) : State :=
  let x := l1Line s c line
  let dl := (findLine (die s (dieOf c)).lines line).getD x
  l1Insert c { x with words := (x.words.zip (List.range 16)).map (fun z =>
    if z.2 / 4 = i / 4 && ! z.1.valid then { (dl.word z.2) with dirty := false } else z.1) } s

/-- The L1's line with the sector of word i filled through the die cache (R240, R242). -/
def l1Fill (c line i rdis : Nat) (s : State) : State :=
  if l1Lacks s c line i then l1Take c line i (takeFill c line (dieFill (dieOf c) line rdis s)) else l1Insert c (l1Line s c line) s

/-- Does an access through the L1 reach the home of its line: the sector is not whole in the L1, nor the line in the die cache? -/
def reachesHome (s : State) (c pa : Nat) : Bool :=
  ! (findLine (core s c).l1 (lineNo s pa)).any (fun x => (List.range 4).all (fun k => (x.word (wordIx pa / 4 * 4 + k)).valid))
    && ! (findLine (die s (dieOf c)).lines (lineNo s pa)).any CLine.full

/-- Must an access of a core wait: an engine owns its line, or a change of the map holds it (R248, R249, R277)? -/
def mustWait (s : State) (c pa : Nat) : Bool := lineHeld s c (lineNo s pa) && reachesHome s c pa

/-- Can a word be had without asking a peer: it is at home here, or a copy stands in the core's L1 or its die's cache, or has come for it? -/
def wordHere (s : State) (c pa : Nat) : Bool :=
  (peerLine s (lineNo s pa)).isNone
    || ((findLine (core s c).l1 (lineNo s pa)).any (fun x => (x.word (wordIx pa)).valid))
    || ((findLine (die s (dieOf c)).lines (lineNo s pa)).any (fun x => (x.word (wordIx pa)).valid))
    || (findLine (die s (dieOf c)).fills (lineNo s pa)).isSome

/-- The word that holds an address, read through the L1 (R174, R266). -/
def cacheRead (c pa rdis : Nat) (s : State) : TWord × State :=
  let s := l1Fill c (lineNo s pa) (wordIx pa) rdis s
  (((findLine (core s c).l1 (lineNo s pa)).getD { line := 0, part := 0, way := 0, rrpv := 0, words := noWords }).word (wordIx pa) |>.w, s)

/-- A word written into the L1 after its sector is filled (R171, R174); the line is dirty on a partition's account (R419). -/
def cacheWrite (c pa p rdis : Nat) (t : TWord) (s : State) : State :=
  let line := lineNo s pa
  let s := l1Fill c line (wordIx pa) rdis s
  modCore c (fun k => { k with
    l1 := k.l1.map (fun x => if x.line = line then
      { x with part := p, words := x.words.set (wordIx pa) { valid := true, dirty := true, w := t } } else x) }) s

/-- The bytes given stored into the word that holds an address: merged, and stamped as a whole (R171). -/
def mergeInto (t : TWord) (off : Nat) (bs : List Byte) : TWord :=
  let old := bytesOf t.data
  stamped (wordOfBytes ((List.range 8).map (fun i => if off ≤ i && i < off + bs.length then bs.getD (i - off) 0 else old.getD i 0)))

/-- Store bytes that lie in one word through the L1. -/
def cacheStore (c pa p rdis : Nat) (bs : List Byte) (s : State) : State :=
  let r := cacheRead c pa rdis s
  cacheWrite c pa p rdis (mergeInto r.1 (pa % 8) bs) r.2

/-! ### Write-back and invalidation of lines (R183, R187, R200, R275) -/

/-- Write a line's dirty words from the L1 to the die cache; the line stays clean. -/
def l1WriteBack (c line : Nat) (s : State) : State :=
  match findLine (core s c).l1 line with
  | none => s
  | some v =>
    if v.isDirty then
      let s := modCore c (fun k => { k with l1 := k.l1.map (fun x => if x.line = line then x.clean else x) }) s
      let s := dieTouch (dieOf c) line 2 s
      let s := modDie (dieOf c) (fun q => { q with lines := q.lines.map (fun y => if y.line = line then { y with part := v.part } else y) }) s
      dieWords (dieOf c) line (fun i w => if (v.word i).dirty then v.word i else w) s
    else s

/-- Write a line's dirty words from the die cache to home for a requester; the line stays clean. -/
def dieWriteBack (d r line : Nat) (cnt : Option Nat) (s : State) : State :=
  match findLine (die s d).lines line with
  | none => s
  | some v =>
    if v.isDirty then
      writeHome r v cnt (modDie d (fun q => { q with lines := q.lines.map (fun y => if y.line = line then y.clean else y) }) s)
    else s

/-- Drop a line from an L1. -/
def l1Drop (c line : Nat) (s : State) : State := modCore c (fun k => { k with l1 := k.l1.filter (fun x => x.line != line) }) s
/-- Drop a line from a die cache. -/
def dieDrop (d line : Nat) (s : State) : State := dropFills d (fun l => l == line) <| modDie d (fun q => { q with lines := q.lines.filter (fun x => x.line != line) }) s

/-- Write a line back from a core's L1 and its die cache to home, and invalidate it in both (R187, R275, R277). -/
def flushLine (c line : Nat) (s : State) : State :=
  dieDrop (dieOf c) line (l1Drop c line (dieWriteBack (dieOf c) c line none (l1WriteBack c line s)))

/-- Invalidate a line in a core's L1 and its die cache, without write-back of what a home write has replaced (R181, R200). -/
def dropLine (c line : Nat) (s : State) : State := dieDrop (dieOf c) line (l1Drop c line s)

/-! ### Release and acquire actions (R269) -/

/-- Every dirty word of a core's L1 written back to the die cache. -/
def releaseL1 (c : Nat) (s : State) : State := ((core s c).l1.map CLine.line).foldl (fun s n => l1WriteBack c n s) s

/-- Every dirty word of a die cache written back to its home, for a requester. -/
def releaseDie (d r : Nat) (cnt : Option Nat) (s : State) : State :=
  ((die s d).lines.map CLine.line).foldl (fun s n => dieWriteBack d r n cnt s) s

/-- The release action of a scope (R269): grp and team none, clus and die the L1, dev and above the die cache too. -/
def releaseAction (c scope : Nat) (s : State) : State :=
  if scope < 2 then s
  else if scope < 4 then releaseL1 c s
  else releaseDie (dieOf c) c (some c) (releaseL1 c s)

/-- Does an acquire of a scope invalidate clean words of a line in the die cache (and, from dev on, in the L1): by memory class (R269)? -/
def acqClass (s : State) (scope line : Nat) : Bool :=
  match homeOf s (line * 128) with
  | .localMem => 4 ≤ scope
  | .peer _ _ => 5 ≤ scope
  | .host => 6 ≤ scope
  | .nowhere => 4 ≤ scope

/-- A line without its clean words. -/
def CLine.dropClean (x : CLine) : CLine := { x with words := x.words.map (fun w => if w.dirty then w else { w with valid := false }) }

/-- The lines that hold a word still. -/
def keepLive (l : List CLine) : List CLine := l.filter (fun x => x.words.any (fun w => w.valid))

/-- The acquire action of a scope (R269). -/
def acquireAction (c scope : Nat) (s : State) : State :=
  if scope < 2 then s
  else if scope < 4 then modCore c (fun k => { k with l1 := keepLive (k.l1.map CLine.dropClean) }) s
  else
    let f := fun x : CLine => if acqClass s scope x.line then x.dropClean else x
    dropFills (dieOf c) (acqClass s scope) <| modDie (dieOf c) (fun q => { q with lines := keepLive (q.lines.map f) }) (modCore c (fun k => { k with l1 := keepLive (k.l1.map f) }) s)

/-- Does the core or its die hold a dirty line that a release of a scope must send to a peer (R269)? -/
def dirtyPeers (s : State) (c scope : Nat) : Bool :=
  4 ≤ scope && ((core s c).l1 ++ (die s (dieOf c)).lines).any (fun x => x.isDirty && (peerLine s x.line).isSome)

/-- Does the core or its die hold a dirty line that a Flume command owns, or that a change of the map holds (R248, R259)? -/
def dirtyHeld (s : State) (c scope : Nat) : Bool :=
  4 ≤ scope && ((core s c).l1 ++ (die s (dieOf c)).lines).any (fun x => x.isDirty && lineHeld s c x.line)

/-- Are write-backs of a core on their way to peers? -/
def writesOut (s : State) : Bool := s.fabric.reqs.any (fun r => match r.purpose with | .write none => true | _ => false)

/-- A line of a peer that came for a miss of a core, kept for its die until an access takes it: no other fill displaces it (R242, R419). -/
def keepFill (c line : Nat) (ws : List TWord) (s : State) : State :=
  let x : CLine := { line := line, part := 0, way := 0, rrpv := 0,
                     words := (List.range 16).map (fun i => { valid := true, dirty := false, w := ws.getD i ⟨0, 0⟩ }) }
  modDie (dieOf c) (fun q => { q with fills := x :: q.fills.filter (fun y => y.line != line) }) s

/-- A line of a peer kept as a cached copy in the die cache after a fill: words that stand there already stay (R242, R253, R266, R419). -/
def peerFill (c line rdis : Nat) (ws : List TWord) (s : State) : State :=
  let s := if (findLine (die s (dieOf c)).lines line).isSome then s else dieTouch (dieOf c) line rdis s
  dieWords (dieOf c) line (fun i w => if w.valid then w else { valid := true, dirty := false, w := ws.getD i ⟨0, 0⟩ }) s

/-- The same, and the sectors of some words in the L1, which a load or PREF.0 fills (R182, R242). -/
def peerFillL1 (c line rdis : Nat) (ixs : List Nat) (ws : List TWord) (s : State) : State :=
  ixs.foldl (fun s i => if l1Lacks s c line i then l1Take c line i s else s) (peerFill c line rdis ws s)

/-- A line scrubbed from every L1 and die cache; its dirty words are discarded (R297). -/
def scrubLine (line : Nat) (s : State) : State :=
  let s := (List.range 384).foldl (fun s c => if (findLine (core s c).l1 line).isSome then l1Drop c line s else s) s
  (List.range 8).foldl (fun s d => dieDrop d line s) s

end Sys2Proof.Machine
end

