-- ==== Sys2Proof/Machine/Xlate.lean ====
section
/-! DEFINITION. Address translation and access rights: the table walk (R312, R313), cached translations (R314), the access tables (R439) and
what each kind of access needs. -/
namespace Sys2Proof.Machine

/-! ### Virtual addresses (R39, R312) -/

/-- Is a 64-bit address canonical: bits [63:57] copies of bit 56 (R39)? -/
def canonical (va : Nat) : Bool := if va.testBit 56 then va / 2 ^ 57 == 127 else va / 2 ^ 57 == 0

/-- The 57 bits that are translated. -/
def va57 (va : Nat) : Nat := va % 2 ^ 57

/-- The 4 KiB virtual page of an address. -/
def pageOf (va : Nat) : Nat := va57 va / 4096

/-! ### The walk (R312, R313) -/

/-- Is a table entry valid: V = 1 and no reserved bit set (R313)? -/
def pteValid (e : Word) : Bool := bit e 0 && field e 7 5 == 0 && field e 52 12 == 0

/-- The physical base that a table entry holds. -/
def ptePa (e : Word) : Nat := field e 12 40 * 4096

/-- The size of the page that a leaf at a level maps, a contiguous group counted whole (R312). -/
def leafSize (lv : Nat) (e : Word) : Nat :=
  if lv = 0 then (if bit e 6 then 2 ^ 16 else 2 ^ 12)
  else if lv = 1 then 2 ^ 21
  else (if bit e 6 then 2 ^ 36 else 2 ^ 30)

/-! ### Rights (R313, R439) -/

/-- What an access needs of its page and of the access tables; `eng` is the core whose Flume engine makes it, where one does. -/
structure Need where
  pr : Bool
  pw : Bool
  px : Bool
  rd : Bool
  wr : Bool
  atomic : Bool
  ex : Bool
  eng : Option Nat
deriving DecidableEq, Repr

/-- Nothing but a translation. -/
def needNone : Need := { pr := false, pw := false, px := false, rd := false, wr := false, atomic := false, ex := false, eng := none }
/-- A load, LDV, headrace source. -/
def needLoad : Need := { needNone with pr := true, rd := true }
/-- A store, CLRV, PUBL. -/
def needStore : Need := { needNone with pw := true, wr := true }
/-- An atomic, a reduction or a signal: R and W of the page, RD, WR and AT of the table (R313, R439). -/
def needAtomic : Need := { needNone with pr := true, pw := true, rd := true, wr := true, atomic := true }
/-- An instruction fetch. -/
def needFetch : Need := { needNone with px := true, ex := true }
/-- CINV and CWB: R of the page (R313). The bytes that they write back were stored under WR (R439, R441). -/
def needCache : Need := { needNone with pr := true, rd := true }
/-- RETQ, LLCK and LUNL: AT of the table (R439). -/
def needPin : Need := { needNone with atomic := true }
/-- A walker's read of a table entry: RD of the table (R314, R438). -/
def needWalk : Need := { needNone with rd := true }
/-- The same access made by the Flume engine of a core. -/
def Need.byFlume (n : Need) (c : Nat) : Need := { n with eng := some c }

/-- Does an access-table entry cover n bytes and grant what is needed (R439)? -/
def accEntOk (e : AccEnt) (nd : Need) (pa n : Nat) : Bool :=
  ! e.rsv && e.len != 0 && e.base ≤ pa && pa + n ≤ e.base + e.len
    && (e.rd || ! nd.rd) && (e.wr || ! nd.wr) && (e.atomic || ! nd.atomic) && (e.ex || ! nd.ex)

/-- Does a target's table pass an access of a master (R439)? -/
def tableOk (s : State) (target master : Nat) (nd : Need) (pa n : Nat) : Bool :=
  s.mgmt.tables.any (fun t => t.1 == target && t.2.1 == master && t.2.2.1 < 16 && accEntOk t.2.2.2 nd pa n)

/-- The targets of n bytes of local memory: the slice sets, and the memory controllers of their stacks (R254, R439; log entry 11). -/
def localTargets (pa n : Nat) : List Nat :=
  0 :: ((List.range ((pa % 4096 + n - 1) / 4096 + 1)).map (fun i => 3 + 8 * stackOf (pa + 4096 * i))).eraseDups

/-- The targets that an access of n bytes passes (R439; log entry 11): those of local memory, the host port, or the fabric endpoint; the Flume engine
too, where one makes it. -/
def targetsOf (s : State) (pa n : Nat) (nd : Need) : List Nat :=
  (match homeOf s pa with | .host => [2] | .peer _ _ => [4] | _ => localTargets (canonPa s pa) n)
    ++ (match nd.eng with | some c => [5 + 8 * c] | none => [])

/-- Do the tables of every target on its way pass an access of a master (R438, R439)? -/
def tablesOk (s : State) (master : Nat) (nd : Need) (pa n : Nat) : Bool := (targetsOf s pa n nd).all (fun t => tableOk s t master nd (canonPa s pa) n)

/-- Has start stopped: physical function 0 then presents the management block, whose tables may not be loaded, and nothing else is presented (R451;
log entry 41). -/
def startStopped (s : State) : Bool := 0 < s.mgmt.starts && ! s.mgmt.started

/-- Does the register block pass an access of a master: by its table, or after a stopped start for physical function 0 alone among the functions
(R439, R442, R451)? -/
def blockOk (s : State) (master : Nat) (nd : Need) (off n : Nat) : Bool :=
  if startStopped s && 16 ≤ master && master ≤ 32 then master == 16 else tableOk s 1 master nd off n

/-! ### The walk, continued (R312 to R314) -/

/-- How a walk ends: refused by the access tables, as its partition's accesses are (R438, R440), without a translation, or with one. -/
inductive WalkRes where
  | refused
  | miss
  | found (t : Tlb)
deriving DecidableEq, Repr

/-- The address of the leaf that gives a page's base: the entry's own, or with CONT that of the first of its group (R312; log entry 10). -/
def leafAddr (va lv table : Nat) (e : Word) : Nat :=
  let n := leafSize lv e / 2 ^ (12 + 9 * lv)
  table + 8 * ((va >>> (12 + 9 * lv)) % 512 / n * n)

/-- A leaf as a translation; with CONT, the first leaf of the group gives the group's base (R312, R313; log entry 10). -/
def leafPage (s : State) (va lv table : Nat) (e : Word) : Option Tlb :=
  let size := leafSize lv e
  let own := 2 ^ (12 + 9 * lv)
  let first := if size = own then e else (homeWord s (leafAddr va lv table e)).data
  if ptePa e % own ≠ 0 || ! pteValid first || ptePa first % size ≠ 0 then none
  else some { base := va57 va / size * size, size := size, pa := ptePa first, r := bit e 2, w := bit e 3, x := bit e 4, sreq := bit e 5 }

/-- A leaf as a walk's end: the read of its group's first leaf passes the tables too (R438). -/
def leafEnd (s : State) (p va lv table : Nat) (e : Word) : WalkRes :=
  if ! tablesOk s p needWalk (leafAddr va lv table e) 8 then .refused
  else match leafPage s va lv table e with | some t => .found t | none => .miss

/-- The addresses of the entries that a walk of the levels below `lv + 1` reads, the first leaf of a group among them. -/
def walkPath (s : State) (va : Nat) : Nat → Nat → List Nat
  | 0, table =>
    let a := table + 8 * ((va >>> 12) % 512)
    let e := (homeWord s a).data
    if pteValid e then [a, leafAddr va 0 table e] else [a]
  | lv + 1, table =>
    let a := table + 8 * ((va >>> (12 + 9 * (lv + 1))) % 512)
    let e := (homeWord s a).data
    a :: (if ! pteValid e then [] else if bit e 1 then (if lv + 1 < 3 then [leafAddr va (lv + 1) table e] else []) else walkPath s va lv (ptePa e))

/-- Walk the levels below `lv + 1` from a table's base, for a partition, whose tables each read passes (R312, R313, R438). -/
def walkFrom (s : State) (p va : Nat) : Nat → Nat → WalkRes
  | 0, table =>
    let a := table + 8 * ((va >>> 12) % 512)
    let e := (homeWord s a).data
    if ! tablesOk s p needWalk a 8 then .refused
    else if pteValid e then leafEnd s p va 0 table e else .miss
  | lv + 1, table =>
    let a := table + 8 * ((va >>> (12 + 9 * (lv + 1))) % 512)
    let e := (homeWord s a).data
    if ! tablesOk s p needWalk a 8 then .refused
    else if ! pteValid e then .miss
    else if bit e 1 then (if lv + 1 < 3 then leafEnd s p va (lv + 1) table e else .miss)
    else walkFrom s p va lv (ptePa e)

/-- A walk of a partition's table. -/
def walkEnd (s : State) (p va : Nat) : WalkRes := walkFrom s p (va57 va) 4 (field (part s p).pgtbase 12 40 * 4096)

/-- The entry at which a walk waits: an engine owns its line, or a change of the map holds it (R248, R249, R277). -/
def walkWaits (s : State) (p va : Nat) : Option Nat :=
  (walkPath s (va57 va) 4 (field (part s p).pgtbase 12 40 * 4096)).find? (fun a => lineHeld s 386 (lineNo s a))

/-- Does a walk wait at an entry that it reads? -/
def walkHeld (s : State) (p va : Nat) : Bool := (walkWaits s p va).isSome

/-- The translation that a walk of a partition's table finds. -/
def walkPage (s : State) (p va : Nat) : Option Tlb := match walkEnd s p va with | .found t => some t | _ => none

/-- Is a walk refused its table's words? Its access is then refused (R438, R440; log entry 11). -/
def walkRefused (s : State) (p va : Nat) : Bool := walkEnd s p va == .refused

/-- Does a translation cover an address? -/
def Tlb.covers (t : Tlb) (va : Nat) : Bool := t.base ≤ va57 va && va57 va < t.base + t.size

/-- A partition's translation of an address in one cache of translations. -/
def tlbFind (p va : Nat) (l : List (Nat × Tlb)) : Option Tlb := (l.find? (fun e => e.1 == p && e.2.covers va)).map Prod.snd

/-- The translation of an address without a new walk of a core: in its first-level TLB, its second-level TLB, its die's translation cache, in this
order (R314). A unit that is no core, or uses none's TLBs, has its addresses walked. -/
def lookup (s : State) (c : Option Nat) (p va : Nat) : Option Tlb :=
  match c with
  | none => walkPage s p va
  | some c => match tlbFind p va (core s c).tlb1 with
    | some t => some t
    | none => match tlbFind p va (core s c).tlb2 with
      | some t => some t
      | none => tlbFind p va (die s (dieOf c)).xc

/-- A translation that a walk of a core found is kept in its TLBs and its die's cache; one that is full gives up its oldest entry (R314; DESIGN
CHOICE, log entry 68: the spec says neither which levels keep it nor which entry is replaced). -/
def addTlb (c p : Nat) (t : Tlb) (s : State) : State :=
  let s := modCore c (fun k => { k with tlb1 := ((p, t) :: k.tlb1).take 256, tlb2 := ((p, t) :: k.tlb2).take 4096 }) s
  modDie (dieOf c) (fun d => { d with xc := ((p, t) :: d.xc).take 65536 }) s

/-- The physical address under a translation. -/
def Tlb.phys (t : Tlb) (va : Nat) : Nat := t.pa + (va57 va - t.base)

/-! ### Physical addresses and the access (R167, R219, R243) -/

/-- Is a physical address there: local memory that a partition owns, a peer or the host (R243, R244)? -/
def physOk (s : State) (pa : Nat) : Bool :=
  match homeOf s pa with
  | .localMem => (ownerOf s (canonPa s pa)).isSome
  | .nowhere => false
  | _ => true

/-- Is a virtual address in the partition's snapshot region: no store, atomic or CLRV goes there (R219, R393)? -/
def inSnapshot (s : State) (p va : Nat) : Bool :=
  let b := field (part s p).snapreg 12 45 * 4096
  let n := field (part s p).snapreg 0 12 + 1
  (part s p).snapsUsed.any (fun k => b + 4096 * k ≤ va57 va && va57 va < b + 4096 * (k + 1) && k < n)

/-- What came of one address: not translated (the page named), refused, or its physical address and the page's stamp-required
attribute. -/
inductive Xres where
  | miss (page : Nat)
  | refused
  | ok (pa : Nat) (sreq : Bool)
deriving DecidableEq, Repr

/-- A translation looked up by an engine, or by a prefetch: a cached one, or one that its walk finds and that is cached from now on (R314). -/
def engineTlb (c p va : Nat) (s : State) : State :=
  if (lookup s (some c) p va).isSome then s else match walkPage s p va with | some t => addTlb c p t s | none => s

/-- Rights on a translated address (R167 step 4). -/
def rightsOk (s : State) (p va pa n : Nat) (nd : Need) (t : Tlb) : Bool :=
  (t.r || ! nd.pr) && (t.w || ! nd.pw) && (t.x || ! nd.px) && physOk s pa && tablesOk s p nd pa n
    && ! (nd.wr && inSnapshot s p va)

/-- Translate one access of n bytes, made by a core or by no core, for a partition and check its rights (R167 steps 3 and 4). -/
def xlate (s : State) (c : Option Nat) (p va n : Nat) (nd : Need) : Xres :=
  match lookup s c p va with
  | none => if walkRefused s p va then .refused else .miss (pageOf va)
  | some t => if rightsOk s p va (t.phys va) n nd t then .ok (t.phys va) t.sreq else .refused

/-! ### Accesses of the host (R435) -/

/-- The master number of a host function (R438). -/
def hostMaster (fn : Nat) : Nat := 16 + fn

/-- Bytes n from an offset in ranges that stand one after another, as address and length; none where they do not cover them (R435). -/
def piecesIn : List (Nat × Nat) → Nat → Nat → Option (List (Nat × Nat))
  | _, _, 0 => some []
  | [], _, _ + 1 => none
  | (b, len) :: t, off, n + 1 =>
    if len ≤ off then piecesIn t (off - len) (n + 1)
    else
      let m := min (n + 1) (len - off)
      (piecesIn t 0 (n + 1 - m)).map (fun l => (b + off, m) :: l)

/-- A range put among others in ascending address order. -/
def putRange (x : Nat × Nat) : List (Nat × Nat) → List (Nat × Nat)
  | [] => [x]
  | y :: t => if x.1 ≤ y.1 then x :: y :: t else y :: putRange x t

/-- The physical addresses of n bytes: at an address itself, or at an offset in BAR2, the window of a virtual function onto its partition's local
ranges in ascending order, whose size is the least power of two that covers them (R435). -/
def hostPieces (s : State) (fn : Nat) (bar2 : Bool) (pa n : Nat) : Option (List (Nat × Nat)) :=
  if ! bar2 then some [(pa, n)]
  else if fn = 0 || 16 < fn then none
  else piecesIn ((part s (fn - 1)).owned.foldr putRange []) pa n

/-- May a function access n bytes of local memory: all of it owned, and passed by its access table (R435, R439)? -/
def hostMay (s : State) (fn pa n : Nat) (nd : Need) : Bool :=
  s.mgmt.started && fn ≤ 16 && n != 0 && pa + n ≤ 2 ^ 40 && (ownerOf s pa).isSome && (ownerOf s (pa + n - 1)).isSome && tablesOk s (hostMaster fn) nd pa n

/-- The pieces of an access that is passed. -/
def hostTakes (s : State) (fn : Nat) (bar2 : Bool) (pa n : Nat) (nd : Need) : Option (List (Nat × Nat)) :=
  (hostPieces s fn bar2 pa n).filter (fun l => ! l.isEmpty && l.all (fun x => hostMay s fn x.1 x.2 nd))

/-- The lines that n bytes touch. -/
def linesIn (pa n : Nat) : List Nat := (List.range (n / 128 + 2)).map (fun i => pa / 128 + i) |>.filter (fun l => l * 128 < pa + n)

/-- The host function that makes an access; doorbells are the writes of the function that owns the partition (R279, R387). -/
def hostFn (i : HostAcc) : Option Nat :=
  match i with
  | .write f _ _ _ => some f
  | .read f _ _ _ => some f
  | .reg m _ _ _ => if 16 ≤ m && m ≤ 32 then some (m - 16) else none
  | .door p _ _ => some (p + 1)

/-- The lines of local memory that an access of the host touches, where it is passed. -/
def hostLines (s : State) (i : HostAcc) : List Nat :=
  let l : Option (List (Nat × Nat)) := match i with
    | .write fn bar2 pa bs => hostTakes s fn bar2 pa bs.length needStore
    | .read _ .regs _ _ => none
    | .read fn sp pa n => hostTakes s fn (sp == HostSpace.bar2) pa n needLoad
    | _ => none
  (l.getD []).flatMap (fun x => linesIn x.1 x.2)

end Sys2Proof.Machine
end

