-- ==== Sys2Proof/Machine/Records.lean ====
section
/-! DEFINITION. Records that the device writes: fault records and their ring (R319, R445), host event records and their rings (R436, R437). -/
namespace Sys2Proof.Machine

/-- A record of 64 bytes from fields given as (byte offset, bytes, value). -/
def recordOf (l : List (Nat × Nat × Nat)) : List Word :=
  words64 8 (l.foldl (fun a x => a ||| ((x.2.2 % 2 ^ (8 * x.2.1)) <<< (8 * x.1))) 0)

/-- A record written stamped at its home: one request of its slice (R85, R233, R243). -/
def putRecord (p pa : Nat) (ws : List Word) (s : State) : State := putHome p pa (ws.map stamped) (.write none) s

/-- The virtual die of a physical die (R326). -/
def virtualDie (s : State) (d : Nat) : Nat := ((List.range 8).find? (fun v => vget s.mgmt.vdmap v 0 == d + 8)).getD d

/-- CORE of a fault record: the virtual die on which the core's cluster runs, which a later remap leaves, and the core within the die (R319,
R326). -/
def coreName (s : State) (cluster c : Nat) : Nat :=
  (match clusterOf s cluster with | some k => k.vdie | none => virtualDie s (dieOf c)) + 8 * (c % 48)

/-! ### Fault records (R319, R445) -/

/-- What a fault record says, but for its time; `core` is its CORE field, where a core made the access. -/
structure FaultInfo where
  kind : Nat
  acc : Nat
  core : Option Nat
  token : Nat
  va : Nat
  pa : Nat
  lanes : Nat
  hdr : Nat
  index : Nat
  slot : Nat
  detail : Nat
deriving DecidableEq, Repr

/-- A fault record with only a kind. -/
def FaultInfo.ofKind (k : Nat) : FaultInfo :=
  { kind := k, acc := 0, core := none, token := 0, va := 0, pa := 0, lanes := 0, hdr := 0, index := 0, slot := 0, detail := 0 }

/-- The 64 bytes of a fault record (R319). -/
def faultWords (s : State) (f : FaultInfo) : List Word :=
  recordOf [(0, 1, f.kind), (1, 1, f.acc), (2, 2, f.core.getD 0xFFFF), (4, 4, f.token), (8, 8, f.va), (16, 8, f.pa), (24, 4, f.lanes),
    (28, 8, f.hdr), (36, 1, f.index), (37, 1, f.slot), (48, 8, f.detail), (56, 8, s.time)]

/-- SIZEL of a ring's base register. -/
def ringLog (base : Word) : Nat := field base 52 4

/-- May a fault record be written: the ring enabled, of an allowed size and not full (R445)? -/
def fqOpen (q : EvQueue) : Bool :=
  bit q.base 56 && 4 ≤ ringLog q.base && (q.tail + 2 ^ 32 - q.head) % 2 ^ 32 != 2 ^ ringLog q.base

/-- MSI-X vectors fired at a function (R436, R445). -/
def fire (fn vec : Nat) (on : Bool) (s : State) : State := if on then { s with hostOut := s.hostOut ++ [.msix fn vec] } else s

/-- The place of a partition's next fault record, at the tail of its ring (R445). -/
def faultPlace (s : State) (p : Nat) : Nat := let q := (part s p).fq; field q.base 0 52 + 64 * (q.tail % 2 ^ ringLog q.base)

/-- A fault record written at the tail (R445). -/
def putFault (p : Nat) (ws : List Word) (s : State) : State :=
  let q := (part s p).fq
  let s := putRecord p (faultPlace s p) ws s
  let s := modPart p (fun x => { x with fq := { x.fq with tail := (x.fq.tail + 1) % 2 ^ 32 } }) s
  fire (p + 1) 1 (bit q.base 57) s

/-- Has a partition's ring room for the next fault record, with none waiting before it (R319)? -/
def ringRoom (s : State) (p : Nat) : Bool := fqOpen (part s p).fq && ! s.mgmt.pending.any (fun x => x.1 == p)

/-- May a fault record be written at the tail: the ring takes it, and nothing holds the line of its place (R248, R277, R445)? -/
def tailFree (s : State) (p : Nat) : Bool := fqOpen (part s p).fq && ! lineHeld s 386 (lineNo s (faultPlace s p))

/-- May a partition's next fault record be written? While its ring is full or disabled, or the line of its place is held, the producer of a
record is held (R277, R319). -/
def faultRoom (s : State) (p : Nat) : Bool := ringRoom s p && ! lineHeld s 386 (lineNo s (faultPlace s p))

/-- Post a fault record. Its producer has waited for room; one that finds none all the same is kept, and every producer waits with it (R319). -/
def postFault (p : Nat) (f : FaultInfo) (s : State) : State :=
  if faultRoom s p then putFault p (faultWords s f) s
  else modMgmt (fun m => { m with pending := m.pending ++ [(p, faultWords s f)] }) s

/-- Write the records that wait for a partition's ring, while it has room. -/
def drainFaults (p : Nat) : Nat → State → State
  | 0, s => s
  | n + 1, s =>
    match s.mgmt.pending.find? (fun x => x.1 == p) with
    | none => s
    | some x =>
      if tailFree s p then
        drainFaults p n (putFault p x.2 (modMgmt (fun m => { m with pending := m.pending.erase x }) s))
      else s

/-! ### Host event records (R436, R437) -/

/-- A function's event queue: function 0 is the device queue. -/
def heqOf (s : State) (fn : Nat) : EvQueue := if fn = 0 then s.mgmt.heq else (part s (fn - 1)).heq

/-- A function's event queue changed. -/
def modHeq (fn : Nat) (f : EvQueue → EvQueue) (s : State) : State :=
  if fn = 0 then modMgmt (fun m => { m with heq := f m.heq }) s else modPart (fn - 1) (fun x => { x with heq := f x.heq }) s

/-- Has an event queue, enabled and of an allowed size, room for one more record beside n that wait (R436)? -/
def evOpen (q : EvQueue) (n : Nat) : Bool :=
  bit q.base 56 && 4 ≤ ringLog q.base && ringLog q.base ≤ 12 && (q.tail + n + 2 ^ 16 - q.head) % 2 ^ 16 != 2 ^ ringLog q.base

/-- The place of a function's next event record (R436). -/
def evPlace (s : State) (fn : Nat) : Nat := let q := heqOf s fn; field q.base 0 52 + 64 * (q.tail % 2 ^ ringLog q.base)

/-- An event record that is dropped is counted (R436). -/
def evLost (fn : Nat) (s : State) : State := modHeq fn (fun x => { x with lost := (x.lost + 1) % 2 ^ 16 }) s

/-- An event record written at the tail (R436). -/
def putEvent (fn : Nat) (ws : List Word) (s : State) : State :=
  let on := bit (heqOf s fn).base 57
  fire fn 0 on (modHeq fn (fun x => { x with tail := (x.tail + 1) % 2 ^ 16 }) (putRecord (fn - 1) (evPlace s fn) ws s))

/-- How many event records of a function wait. -/
def evWaiting (s : State) (fn : Nat) : Nat := (s.mgmt.evPending.filter (fun x => x.1 == fn)).length

/-- Post an event record of a kind with the fields given: dropped and counted where the queue is full or disabled (R436, R437). While the line of its
place is held it waits, and later ones behind it (R277). -/
def postEvent (fn kind : Nat) (l : List (Nat × Nat × Nat)) (s : State) : State :=
  let ws := recordOf ((0, 1, kind) :: (56, 8, s.time) :: l)
  if ! evOpen (heqOf s fn) (evWaiting s fn) then evLost fn s
  else if evWaiting s fn = 0 && ! lineHeld s 386 (lineNo s (evPlace s fn)) then putEvent fn ws s
  else modMgmt (fun m => { m with evPending := m.evPending ++ [(fn, ws)] }) s

/-- The event record that waited and may be written, or is dropped, now: the first of its function. -/
def evReady (s : State) : Option (Nat × List Word) :=
  s.mgmt.evPending.find? (fun x => s.mgmt.evPending.find? (fun y => y.1 == x.1) == some x
    && ! (evOpen (heqOf s x.1) 0 && lineHeld s 386 (lineNo s (evPlace s x.1))))

/-- An event record that waited, written; dropped where its queue has been closed since (R436). -/
def evDrain (x : Nat × List Word) (s : State) : State :=
  let s := modMgmt (fun m => { m with evPending := m.evPending.erase x }) s
  if evOpen (heqOf s x.1) 0 then putEvent x.1 x.2 s else evLost x.1 s

/-- A partition with a fault record that waited and may be written now. -/
def faultReady (s : State) : Option Nat := (s.mgmt.pending.find? (fun x => tailFree s x.1)).map Prod.fst

/-! ### The heads of host queues (R387) -/

/-- Has a queue a head packet that may be looked at (R387)? -/
def queueOpen (h : HostQueue) : Bool :=
  bit h.base 58 && 4 ≤ ringLog h.base && ringLog h.base ≤ 12 && ! h.halt && h.stall.isNone && h.wrx != h.rdx

/-- The address of a queue's head packet. -/
def headAddr (h : HostQueue) : Nat := field h.base 0 52 + 64 * (h.rdx % 2 ^ ringLog h.base)

end Sys2Proof.Machine
end

