-- ==== Sys2Proof/Machine/Image.lean ====
section
/-! DEFINITION. The context image of a group (R310, R325): its words, writing it and restoring a group from it. Byte places that R325 leaves
open are the model's (log entry 12). -/
namespace Sys2Proof.Machine

/-! ### Memory under a context address (R445) -/

/-- The physical address of a context address: the core's cached translation or a walk. -/
def ctxPa (s : State) (c p va : Nat) : Option Nat :=
  match lookup s (some c) p va with
  | some t => some (t.phys va)
  | none => (walkPage s p va).map (fun t => t.phys va)

/-- The addresses of the pages of n bytes at a context address. -/
def ctxPages (va n : Nat) : List Nat := (List.range ((n + 4095) / 4096 + 1)).map (fun i => va + min (4096 * i) (n - 1))

/-- What an image's accesses need of the access tables, made for its partition (R438, R439). -/
def needImage : Need := { needNone with rd := true, wr := true }

/-- May an image's page be read and written now: it is at home here or in host memory, the tables pass it, and nothing holds a line of it (R248, R277,
R438, R439; log entry 76). -/
def ctxPageOk (s : State) (p pa : Nat) : Bool :=
  ! pageHeld s 386 pa && (peerLine s (lineNo s pa)).isNone && tablesOk s p needImage pa 1

/-- Has every page of n bytes a translation, and may it be read and written now? -/
def ctxMapped (s : State) (c p va n : Nat) : Bool := (ctxPages va n).all (fun a => (ctxPa s c p a).any (ctxPageOk s p))

/-- The first page of n bytes that has no translation. -/
def ctxMiss (s : State) (c p va n : Nat) : Option Nat := (ctxPages va n).find? (fun a => (ctxPa s c p a).isNone)

/-- A word written at home under a context address; copies in the core's caches are dropped. -/
def ctxPut (p c va : Nat) (t : TWord) (s : State) : State :=
  match ctxPa s c p va with
  | some pa => dropLine c (lineNo s pa) (homeWrite s pa t)
  | none => s

/-- A word read at home under a context address, after the core's caches have given up the line. -/
def ctxGet (s : State) (p c va : Nat) : TWord :=
  match ctxPa s c p va with
  | some pa => homeWord (flushLine c (lineNo s pa) s) pa
  | none => ⟨0, 0⟩

/-- The slices accept a request for each line of n bytes at a context address (R233). -/
def ctxAccept (p c va n : Nat) (s : State) : State :=
  (List.range ((va + n + 127) / 128 - va / 128)).foldl (fun s i =>
    match ctxPa s c p (128 * (va / 128 + i)) with | some pa => accept s pa | none => s) s

/-- The context slot n of a partition: its virtual address (R445). -/
def ctxSlot (s : State) (p n : Nat) : Nat :=
  field (part s p).ctxbase 12 45 * 4096 + field (part s p).ctxcfg 12 16 * 4096 * n

/-- The address of a group's image: in its team's context slot, after 4 KiB, 20 KiB for each group (R325). -/
def imageVa (s : State) (g : Group) : Nat :=
  ctxSlot s g.part ((teamOf s g.team).map Team.ctx |>.getD 0) + 0x1000 + 0x5000 * g.index

/-! ### Words of the group part (R310, R325) -/

/-- `dvsp` (R110). -/
def dvspWord (g : Group) : Word :=
  packFields [(0, 8, g.dvDepth), (8, 8, g.dvCap), (16, 7, g.slot0.tag), (23, 7, g.slot1.tag)]

/-- The 64 bytes of the trap record (R310). -/
def trapWords (t : TrapInfo) : List Word :=
  recordOf [(0, 1, t.code), (1, 1, b2n t.slot), (2, 1, t.index), (3, 1, 2 * b2n t.compl), (4, 4, t.lanes.toNat), (8, 8, t.hdr),
    (16, 8, t.iaddr), (24, 8, t.addr), (32, 8, t.detail), (40, 4, t.iter), (44, 1, t.repx), (48, 8, t.s0.toNat), (56, 8, t.time)]

/-- The state code of a slot (R325). -/
def slotCode (x : Slot) : Nat :=
  match x.st with
  | .dead => 0
  | .ready => 1
  | .held => 1
  | .parkJoin _ _ => 2
  | .parkPresence _ _ => 3
  | .parkTrans _ _ => 4
  | .parkGang => 5

/-- The header address of a slot's stop point (R306). -/
def stopHdr (x : Slot) : Nat := match x.cl with | some c => c.hdr | none => x.pc
/-- The index of a slot's stop point; 0xFF where its next word is the header itself (log entry 12). -/
def stopIdx (x : Slot) : Nat := match x.cl with | some c => c.idx | none => 0xFF
/-- The repeat index of a slot, 0xFF outside REP (R310). -/
def repIdx (x : Slot) : Nat := match x.rep with | some r => r.i | none => 0xFF
/-- The loop iteration of a slot, all ones outside a loop (R310). -/
def iterOf (x : Slot) : Nat := match x.loop with | some l => if l.run then l.iter else 0xFFFFFFFF | none => 0xFFFFFFFF

/-- The 64 bytes of a slot's state (R325; places: log entry 12). -/
def slotWords (x : Slot) : List Word :=
  let k := match x.st with | .parkJoin k stack => [(36, 1, k), (37, 1, b2n stack)] | _ => []
  let lp := match x.loop with
    | some l => [(24, 8, l.body), (32, 2, l.len), (34, 1, 2 + b2n l.run), (40, 8, l.count), (48, 8, l.iter)]
    | none => []
  recordOf ([(0, 8, stopHdr x), (8, 1, stopIdx x), (9, 1, slotCode x), (10, 1, x.tag), (11, 1, repIdx x), (12, 4, x.exec.toNat)] ++ k ++ lp)

/-- A wait-list entry's 32 bytes (R325; places: log entry 12). -/
def waitWords (w : WaitEnt) : List Word :=
  let fl := match w.flag with | some k => k | none => 0xFF
  let l := match w.kind with
    | .barw clus bar phase parity acq scope =>
      [(0, 1, 1), (3, 1, b2n clus + 2 * b2n parity + 4 * acq), (4, 1, bar), (5, 1, scope), (16, 8, phase)]
    | .sigw w => [(0, 1, 2), (3, 1, w.cnd + 4 * w.acq), (4, 1, w.d), (5, 1, w.scope), (8, 8, w.va), (16, 8, w.cmp.toNat)]
    | .gpwt ticket d => [(0, 1, 3), (4, 1, d), (16, 8, ticket)]
    | _ => []
  (recordOf ([(1, 1, b2n w.slot), (2, 1, fl)] ++ l)).take 4

/-- A wait-list entry read back. -/
def waitOf (ws : List Word) : Option WaitEnt :=
  let n := natOfWords ws
  let byte (i k : Nat) : Nat := (n >>> (8 * i)) % 2 ^ (8 * k)
  let m := byte 3 1
  let fl := if byte 2 1 < 12 then some (byte 2 1) else none
  let ent (k : OpKind) : Option WaitEnt := some { slot := byte 1 1 == 1, flag := fl, kind := k }
  match byte 0 1 with
  | 1 => ent (.barw (m % 2 == 1) (byte 4 1) (byte 16 8) (m / 2 % 2 == 1) (m / 4) (byte 5 1))
  | 2 => ent (.sigw ⟨byte 8 8, none, m % 4, BitVec.ofNat 64 (byte 16 8), byte 4 1, m / 4 % 2, byte 5 1, false, none⟩)
  | 3 => ent (.gpwt (byte 16 8) (byte 4 1))
  | _ => none

/-- The words of a list placed from an offset on. -/
def placeWords (off : Nat) (l : List Word) : List (Nat × Word) := (l.zip (List.range l.length)).map (fun x => (off + 8 * x.2, x.1))

/-- The pop count of a queue, 0 where no stream is bound (R361). -/
def popCount (g : Group) (k : Nat) : Nat := match vget g.queues k none with | some q => q.popped | none => 0

/-- A queue rewound to a pop count: its later entries are fetched again (R361). -/
def rewindQ (n : Nat) (q : Queue) : Queue := { q with fetched := n, entries := [], popped := n, pend := [], stall := none }

/-- What is recorded of a slot at a region's start (R320). -/
def startOf (x : Slot) : SlotStart :=
  { live := x.live, pc := x.pc, cl := x.cl, exec := x.exec, tag := x.tag, loop := x.loop, rep := x.rep }

/-- The region-start record of a group. -/
def Group.record (g : Group) : RegionStart :=
  { s0 := startOf g.slot0, s1 := startOf g.slot1, depth := g.dvDepth, cap := g.dvCap, fpstat := g.fpstat, qstat := g.qstat,
    rdDepth := g.rdDepth, rdPar := g.rdPar,
    queues := ⟨((List.range 4).map (fun k => (vget g.queues k none).map (fun q => rewindQ q.popped q))).toArray, by simp⟩ }

/-- The iteration of a slot in a region-start record, in 32 bits; all ones where no body runs. -/
def startIter (r : SlotStart) : Nat := match r.loop with | some l => if l.run then l.iter % 2 ^ 32 else 0xFFFFFFFF | none => 0xFFFFFFFF

/-- A slot's stop point in a region-start record: its header's address, over 4, and its index in seven bits; 0x7F where the next word is the
header, 0x7E where the slot is not live. -/
def startPoint (r : SlotStart) : Word :=
  let p : Nat × Nat := match r.cl with | some c => (c.hdr, c.idx) | none => (r.pc, 0x7F)
  packFields [(0, 7, if r.live then p.2 else 0x7E), (7, 57, p.1 / 4)]

/-- The 64 bytes at 0x0100: section DEPTH and PAR, pop counts and the region-start record (R325, R361). An image is written where a region has
just ended, so the record agrees with the slot part, which holds the body and the count of its loops (places: log entry 12). -/
def startWords (g : Group) : List Word :=
  let r := g.record
  [packFields [(0, 8, g.rdDepth), (8, 1, b2n g.rdPar), (16, 8, r.rdDepth), (24, 1, b2n r.rdPar), (32, 6, r.fpstat), (40, 6, r.qstat)],
   packFields [(0, 32, popCount g 0), (32, 32, popCount g 1)], packFields [(0, 32, popCount g 2), (32, 32, popCount g 3)],
   packFields [(0, 8, r.depth), (8, 8, r.cap), (16, 7, r.s0.tag), (23, 7, r.s1.tag)], packFields [(0, 32, r.s0.exec.toNat), (32, 32, r.s1.exec.toNat)],
   startPoint r.s0, startPoint r.s1, packFields [(0, 32, startIter r.s0), (32, 32, startIter r.s1)]]

/-- The group image as (offset, word) pairs; `rec` is the trap record's eight words (R325). -/
def imageWords (g : Group) (rec : List Word) : List (Nat × Word) :=
  placeWords 0 rec ++ placeWords 0x40 (slotWords g.slot0) ++ placeWords 0x80 (slotWords g.slot1)
    ++ placeWords 0xC0 ([BitVec.ofNat 64 g.fpstat, BitVec.ofNat 64 g.qstat, BitVec.ofNat 64 g.qmode, dvspWord g]
        ++ (List.range 4).map (fun k => BitVec.ofNat 64 (vget g.amax k 0)))
    ++ placeWords 0x100 (startWords g)
    ++ placeWords 0x200 ((List.range 64).map (fun r =>
        if r = 63 then g.slot0.exec.setWidth 64 else if r = 62 then (execOf g.slot1).setWidth 64 else vget g.sregs r 0))
    ++ (List.range 64).flatMap (fun r => placeWords (0x400 + 256 * r) ((List.range 32).map (fun l => lane (vget g.vregs r (splat 0)) l)))
    ++ (List.range 16).flatMap (fun i => placeWords (0x4400 + 32 * i)
        (match g.waitList[i]? with | some w => waitWords w | none => List.replicate 4 0))

/-- Write a group's image into its context slot (R309, R325). -/
def writeImage (g : Group) (rec : List Word) (s : State) : State :=
  let va := imageVa s g
  (imageWords g rec).foldl (fun s x => ctxPut g.part g.core (va + x.1) (stamped x.2) s) (ctxAccept g.part g.core va 0x5000 s)

/-! ### Restoring a group (R311, R324) -/

/-- A slot from its state in the image: its place in the code is found again from header and index (R22). Its loop pins the body anew, also where
ICINV had unpinned it (DESIGN CHOICE, log entry 67). -/
def slotOfWords (ws : List Word) (skip : Bool) : Slot :=
  let n := natOfWords ws
  let byte (i k : Nat) : Nat := (n >>> (8 * i)) % 2 ^ (8 * k)
  let st : SlotSt := match byte 9 1 with
    | 0 => .dead
    | 2 => .parkJoin (byte 36 1) (byte 37 1 % 2 == 1)
    | 5 => .parkGang
    | _ => .ready
  let idx := byte 8 1
  let lp : Option Loop := if byte 34 1 < 2 then none else some
    { body := byte 24 8, len := byte 32 2, count := byte 40 8, iter := byte 48 8, run := byte 34 1 % 2 == 1, pin := .want }
  { st := st, pc := byte 0 8, exec := BitVec.ofNat 32 (byte 12 4), flags := Vector.replicate 12 0, tag := byte 10 1 % 128,
    cl := if idx = 0xFF then none else some { hdr := byte 0 8, nins := 0, idx := idx, setA := 15, setB := 15, yld := false },
    loop := lp, rep := if byte 11 1 = 0xFF then none else some { n := 0, i := byte 11 1, sdd := 0, sda := 0, sdb := 0, sdc := 0 },
    waited := 0, urgent := false, skipBp := skip, reenter := idx != 0xFF, flushed := false, seen := 0, waitsAt := [] }

/-- n words of a group's image from an offset on. -/
def imageGet (s : State) (g : Group) (off n : Nat) : List Word :=
  (List.range n).map (fun i => (ctxGet s g.part g.core (imageVa s g + off + 8 * i)).data)

/-- A group with what its image holds (R311, R324, R325). -/
def restoreGroup (s : State) (g : Group) (skip : Bool) : Group :=
  let st := imageGet s g 0xC0 8
  let w (i : Nat) : Word := st.getD i 0
  let rg := imageGet s g 0x100 3
  let sec := rg.getD 0 0
  let pops (k : Nat) : Nat := field (rg.getD (1 + k / 2) 0) (32 * (k % 2)) 32
  let sr := imageGet s g 0x200 64
  let sl0 := slotOfWords (imageGet s g 0x40 8) skip
  let sl1 := slotOfWords (imageGet s g 0x80 8) skip
  { g with
    slot0 := { sl0 with tag := field (w 3) 16 7 }, slot1 := { sl1 with tag := field (w 3) 23 7 },
    fpstat := field (w 0) 0 6, qstat := field (w 1) 0 6, qmode := qmodeStore (field (w 2) 0 3), dvDepth := field (w 3) 0 8,
    amax := ⟨((List.range 4).map (fun k => (w (4 + k)).toNat % 2 ^ 33)).toArray, by simp⟩,
    rdDepth := field sec 0 8, rdPar := bit sec 8, pgPend := false,
    queues := ⟨((List.range 4).map (fun k => (vget g.queues k none).map (rewindQ (pops k)))).toArray, by simp⟩,
    sregs := ⟨((List.range 64).map (fun r => sr.getD r 0)).toArray, by simp⟩,
    vregs := ⟨((List.range 64).map (fun r => lanesOf (fun l => (imageGet s g (0x400 + 256 * r) 32).getD l 0))).toArray, by simp⟩,
    waitList := (List.range 16).filterMap (fun i => waitOf (imageGet s g (0x4400 + 32 * i) 4)) }

end Sys2Proof.Machine
end

