-- ==== Sys2Proof/Machine/Rational.lean ====
section
/-! DEFINITION. The floating-slash rationals q32 and q64 (R74 to R82). -/
namespace Sys2Proof.Machine

/-- The rational sticky flags of `qstat` (R81). -/
def QINEXACT : Nat := 1
/-- OVF of R81. -/
def QOVF : Nat := 2
/-- UNF of R81. -/
def QUNF : Nat := 4
/-- ZDIV of R81. -/
def QZDIV : Nat := 8
/-- INV of R81. -/
def QINV : Nat := 16
/-- NONCAN of R81. -/
def QNONCAN : Nat := 32

/-- A rational value: NaQ, an infinity, or the exact n/d with d > 0 in lowest terms. -/
inductive QV where
  | naq
  | inf (neg : Bool)
  | fin (n : Int) (d : Nat)
deriving DecidableEq, Repr

/-- The payload width of a Q type code: 10 is q32, 11 is q64 (R74). -/
def qPay (ty : Nat) : Nat := if ty = 10 then 26 else 57

/-- The width of the slash field of a payload width. -/
def qSlash (p : Nat) : Nat := if p = 26 then 5 else 6

/-- The element width of a payload width. -/
def qWidth (p : Nat) : Nat := if p = 26 then 32 else 64

/-- `QRead` (R75): the value and whether NONCAN is raised. -/
def qRead (p x : Nat) : QV × Bool :=
  let s := x.testBit (qWidth p - 1)
  let k := (x >>> p) % 2 ^ qSlash p
  let pay := x % 2 ^ p
  if p - 1 < k then (.naq, true)
  else
    let n := pay >>> (p - k)
    let d := pay % 2 ^ (p - k)
    if n = 0 ∧ d = 0 then (.naq, s || k != 0)
    else if d = 0 then (.inf s, n != 1 || k != 1)
    else if n = 0 then (.fin 0 1, d != 1 || s || k != 0)
    else
      let g := Nat.gcd n d
      (.fin ((if s then -1 else 1) * ((n / g : Nat) : Int)) (d / g), g != 1 || decide (bitlen n < k))

/-- The canonical encoding of a value that fits (R76). -/
def qWrite (p : Nat) : QV → Nat
  | .naq => 0
  | .inf s => (if s then 2 ^ (qWidth p - 1) else 0) + 2 ^ p + 2 ^ (p - 1)
  | .fin n d =>
    if n = 0 then 1
    else
      let a := n.natAbs
      let k := bitlen a
      (if n < 0 then 2 ^ (qWidth p - 1) else 0) + k * 2 ^ p + a * 2 ^ (p - k) + d

/-- The quotient n/d in lowest terms, d > 0. -/
def mkQ (n : Int) (d : Nat) : QV :=
  let g := Nat.gcd n.natAbs d
  if g = 0 then .fin 0 1 else .fin (n / (g : Int)) (d / g)

/-- Is a reduced magnitude n/d representable in a payload of p bits (R77)? -/
def qFits (p n d : Nat) : Bool := n = 0 || bitlen n + bitlen d ≤ p

/-- The largest k in 0 to 2^b - 1 that satisfies a downward-closed test, found bit by bit. -/
def searchMax (test : Nat → Bool) : Nat → Nat → Nat
  | 0, acc => acc
  | b + 1, acc => if test (acc + 2 ^ b) then searchMax test b (acc + 2 ^ b) else searchMax test b acc

/-- The Stern-Brocot descent of R78 towards xn/xd, runs of steps to one side taken at once: the neighbours
(lo.n, lo.d, hi.n, hi.d). -/
def descend (p xn xd : Nat) : Nat → Nat × Nat × Nat × Nat → Nat × Nat × Nat × Nat
  | 0, r => r
  | fuel + 1, (ln, ld, hn, hd) =>
    let mn := ln + hn
    let md := ld + hd
    if p < bitlen mn + bitlen md then (ln, ld, hn, hd)
    else if mn * xd < xn * md then
      let k := searchMax (fun k => (ln + k * hn) * xd < xn * (ld + k * hd) && bitlen (ln + k * hn) + bitlen (ld + k * hd) ≤ p) 64 0
      descend p xn xd fuel (ln + k * hn, ld + k * hd, hn, hd)
    else
      let k := searchMax (fun k => xn * (hd + k * ld) ≤ (hn + k * ln) * xd && bitlen (hn + k * ln) + bitlen (hd + k * ld) ≤ p) 64 0
      descend p xn xd fuel (ln, ld, hn + k * ln, hd + k * ld)

/-- The last convergent of the continued fraction of n/d that is representable in p bits (R78, QC). -/
def lastConvergent (p : Nat) : Nat → Nat → Nat → Nat × Nat → Nat × Nat → Nat × Nat
  | 0, _, _, _, cur => cur
  | fuel + 1, n, d, prev, cur =>
    if d = 0 then cur
    else
      let a := n / d
      let h := a * cur.1 + prev.1
      let k := a * cur.2 + prev.2
      if qFits p h k then lastConvergent p fuel d (n % d) cur (h, k) else cur

/-- The choice between two neighbours by smaller denominator, then even numerator (R78). -/
def qTie (lo hi : Nat × Nat) : Nat × Nat :=
  if lo.2 < hi.2 then lo else if hi.2 < lo.2 then hi else if lo.1 % 2 = 0 then lo else hi

/-- A rational value and the flags it raised. -/
structure QRes where
  val : QV
  fl : Nat
deriving DecidableEq, Repr

/-- The magnitude `a` with a sign, in lowest terms. -/
def signedQ (neg : Bool) (a : Nat × Nat) : QV := .fin ((if neg then -1 else 1) * (a.1 : Int)) a.2

/-- `QRound(n, d, P, mode)` of a reduced n/d, exact where representable (R77 to R79). Modes are QR codes 1 to 6. -/
def qRound (p mode : Nat) : QV → QRes
  | .naq => ⟨.naq, 0⟩
  | .inf s => ⟨.inf s, 0⟩
  | .fin n d =>
    let a := n.natAbs
    let neg := decide (n < 0)
    if qFits p a d then ⟨.fin n d, 0⟩
    else
      let mx := 2 ^ (p - 1) - 1
      if mx * d < a then
        ⟨if mode ≤ 3 then .inf neg else signedQ neg (mx, 1), QOVF + QINEXACT⟩
      else if a * mx < d then
        ⟨if mode ≤ 3 then .fin 0 1 else signedQ neg (1, mx), QUNF + QINEXACT⟩
      else
        let r := descend p a d 200 (0, 1, 1, 0)
        let lo := (r.1, r.2.1)
        let hi := (r.2.2.1, r.2.2.2)
        let mn := lo.1 + hi.1
        let md := lo.2 + hi.2
        -- distances scaled: x - lo = dl/(d*lo.2), hi - x = dh/(d*hi.2)
        let dl := (a * lo.2 - lo.1 * d) * hi.2
        let dh := (hi.1 * d - a * hi.2) * lo.2
        let c := match mode with
          | 1 => if dl < dh then lo else if dh < dl then hi else qTie lo hi
          | 2 => lastConvergent p 200 a d (0, 1) (1, 0)
          | 3 => if a * md < mn * d then lo else if mn * d < a * md then hi else qTie lo hi
          | 4 => if neg then hi else lo
          | 5 => if neg then lo else hi
          | _ => lo
        ⟨signedQ neg c, QINEXACT⟩

/-- A rational result written canonically, with its flags (R76). -/
def qFinish (p mode : Nat) (r : QRes) : FRes :=
  let q := qRound p mode r.val
  ⟨qWrite p q.val, r.fl ||| q.fl⟩

/-- Exact sum (R80). -/
def QV.add : QV → QV → QRes
  | .naq, _ => ⟨.naq, 0⟩
  | _, .naq => ⟨.naq, 0⟩
  | .inf s, .inf t => if s = t then ⟨.inf s, 0⟩ else ⟨.naq, QINV⟩
  | .inf s, _ => ⟨.inf s, 0⟩
  | _, .inf t => ⟨.inf t, 0⟩
  | .fin n d, .fin m e => ⟨mkQ (n * e + m * d) (d * e), 0⟩

/-- The value with its sign inverted; zero has none (R76). -/
def QV.neg : QV → QV
  | .naq => .naq
  | .inf s => .inf (! s)
  | .fin n d => .fin (-n) d

/-- Exact product (R80). -/
def QV.mul : QV → QV → QRes
  | .naq, _ => ⟨.naq, 0⟩
  | _, .naq => ⟨.naq, 0⟩
  | .inf s, .inf t => ⟨.inf (s != t), 0⟩
  | .inf s, .fin n _ => if n = 0 then ⟨.naq, QINV⟩ else ⟨.inf (s != decide (n < 0)), 0⟩
  | .fin n _, .inf t => if n = 0 then ⟨.naq, QINV⟩ else ⟨.inf (t != decide (n < 0)), 0⟩
  | .fin n d, .fin m e => ⟨mkQ (n * m) (d * e), 0⟩

/-- Exact quotient (R80). -/
def QV.div : QV → QV → QRes
  | .naq, _ => ⟨.naq, 0⟩
  | _, .naq => ⟨.naq, 0⟩
  | .inf _, .inf _ => ⟨.naq, QINV⟩
  | .inf s, .fin n _ => ⟨.inf (s != decide (n < 0)), 0⟩
  | .fin _ _, .inf _ => ⟨.fin 0 1, 0⟩
  | .fin n d, .fin m e =>
    if m = 0 then (if n = 0 then ⟨.naq, QINV⟩ else ⟨.inf (decide (n < 0)), QZDIV⟩)
    else ⟨mkQ (n * e * (if m < 0 then -1 else 1)) (d * m.natAbs), 0⟩

/-- a * b + c, exact (R150). -/
def QV.fma (a b c : QV) : QRes :=
  let p := a.mul b
  let r := p.val.add c
  ⟨r.val, p.fl ||| r.fl⟩

/-- The order of two values that are not NaQ (R151). -/
def cmpQ : QV → QV → Int
  | .inf s, .inf t => if s = t then 0 else if s then -1 else 1
  | .inf s, _ => if s then -1 else 1
  | _, .inf t => if t then 1 else -1
  | .fin n d, .fin m e => cmpInt (n * e) (m * d)
  | _, _ => 0

/-- Does a condition hold: NaQ is unordered (R151)? -/
def qCond (cc : Nat) (a b : QV) : Bool := condHolds cc (a == .naq || b == .naq) (cmpQ a b)

/-- Rational SFMIN and SFMAX (R104). -/
def qMinMax (isMax : Bool) (a b : QV) : QV :=
  match a, b with
  | .naq, y => y
  | x, .naq => x
  | x, y => if (cmpQ x y < 0) != isMax then x else y

/-- The floating rounding mode a rational mode maps to (R104): QD down, QU up, QZ toward zero, else nearest-even. -/
def qToRm (mode : Nat) : Nat := match mode with | 4 => 2 | 5 => 3 | 6 => 1 | _ => 0

/-- The `qstat` flags for the `fpstat` flags of a narrow conversion (R72). -/
def mapFlags (fl : Nat) : Nat :=
  (if fl.testBit 0 then QINEXACT else 0) ||| (if fl.testBit 2 || fl.testBit 5 then QOVF else 0) |||
  (if fl.testBit 4 then QINV else 0)

/-- Rational to floating (R104, R152): NaQ is read as a signalling NaN (R72). -/
def qToF (ty mode : Nat) (nsat : Bool) (q : QV) : FRes :=
  let x : Ex := match q with
    | .naq => .nan true
    | .inf s => .inf s
    | .fin n d => .real (decide (n < 0)) n.natAbs d
  let r := convF ty (qToRm mode) nsat x
  ⟨r.bits, mapFlags r.fl⟩

/-- Floating to a rational value, exact (R104): a NaN gives NaQ with INV, -0 gives 0. -/
def fToQ : FV → QRes
  | .nan _ => ⟨.naq, QINV⟩
  | .inf s => ⟨.inf s, 0⟩
  | .fin s m e => ⟨mkQ ((if s then -1 else 1) * ((m * 2 ^ e.toNat : Nat) : Int)) (2 ^ (-e).toNat), 0⟩

/-- Rational to integer (R152). -/
def qToInt (ty mode : Nat) : QV → FRes
  | .naq => ⟨0, QINV⟩
  | .inf s => ⟨wrapInt (tyWidth ty) (if s then intMin ty else intMax ty), QOVF⟩
  | .fin n d =>
    let r := roundInt (qToRm mode) (decide (n < 0)) n.natAbs d
    if r.1 < intMin ty || intMax ty < r.1 then ⟨wrapInt (tyWidth ty) (clampInt ty r.1), QOVF + QINEXACT⟩
    else ⟨wrapInt (tyWidth ty) r.1, if r.2 then QINEXACT else 0⟩

end Sys2Proof.Machine
end

