-- ==== Sys2Proof/Machine/Operands.lean ====
section
/-! DEFINITION. Operand forms: which registers an instruction names (R30, R40, R42, R118), sources with broadcast, selectors and
immediates (R32 to R36, R128), operand-queue heads (R42, R359), and destinations (R35, R41, R128). -/
namespace Sys2Proof.Machine

/-! ### Which registers an instruction names -/

/-- FORM of a vector compare (R135). -/
def cmpForm (f : Comp) : Nat := f.opfAt 3 2

/-- Does a computational instruction write a scalar register (R30, R128, R157 to R162)? -/
def scalarDest (i : CompInfo) (f : Comp) : Bool :=
  i.scalar || f.u || (i.maj == 0x24 || i.maj == 0x2A) && cmpForm f != 2 || i.maj == 0x42 || i.maj == 0x43 || i.maj == 0x45 || i.maj == 0x48

/-- The vector registers that an instruction writes. -/
def vecDests (x : Instr) : List Nat :=
  match x.info with
  | .comp i f => if scalarDest i f then [] else [f.d.toNat]
  | .mem i f => if i.d == .vec && i.maj != 0x81 && i.maj != 0x85 && i.maj != 0x87 && i.maj != 0xA1 then [f.d.toNat] else []
  | .ctl i f =>
    if i.maj = 0xB5 then (List.range (f.at 5 2 + 1)).map (fun j => f.d.toNat + j)
    else if i.maj = 0xB6 then (List.range 4).map (fun j => f.d.toNat + j)
    else []
  | _ => []

/-- The vector registers that a computational instruction reads. -/
def compSrcs (i : CompInfo) (f : Comp) : List Nat :=
  if i.scalar || f.u then []
  else (if i.shape.regA && ! f.ax then [f.a.toNat] else []) ++ (if i.shape.regB f && ! f.bx then [f.b.toNat] else [])
    ++ (if i.shape.usesC f && ! f.cx then [f.c.toNat] else [])

/-- The vector registers that an instruction reads. -/
def vecSrcs (x : Instr) : List Nat :=
  match x.info with
  | .comp i f => compSrcs i f
  | .mem i f =>
    (if i.addr == .full && f.sc != 7 then [f.b.toNat] else [])
      ++ (if i.maj = 0x81 || i.maj = 0x85 || i.maj = 0x87 || i.maj = 0xA0 || i.maj = 0xA1 then [f.d.toNat]
          else if i.maj = 0xA2 then [f.d.toNat, f.d.toNat + 1] else [])
  | .ctl i f => if i.maj = 0xB3 then (List.range 4).map (fun j => f.a.toNat + j) else []
  | _ => []

/-- The register fields that an instruction uses: D, A, B, C (R30, R118). -/
def usedFields (x : Instr) : Bool × Bool × Bool × Bool :=
  match x.info with
  | .comp i f => (true, i.shape.regA, i.shape.regB f, i.shape.usesC f)
  | .mem i f => (i.d == .vec || i.d == .scal, i.a, i.addr == .full && f.sc != 7, false)
  | .ctl i f => (i.d f, i.a f, i.b, false)
  | _ => (false, false, false, false)

/-- A field of W0 raised by a stride. -/
def strideField (w : BitVec 64) (lo k : Nat) (used : Bool) : BitVec 64 := if used then setField w lo 6 (field w lo 6 + k) else w

/-- The words of repetition i of an instruction (R118). -/
def strideWords (r : Rep) (x : Instr) (w : Words) : Words :=
  let u := usedFields x
  let w0 := strideField w.w0 14 (r.i * r.sdd) u.1
  let w0 := strideField w0 20 (r.i * r.sda) u.2.1
  let w0 := strideField w0 26 (r.i * r.sdb) u.2.2.1
  let c := w.w1.toNat % 64
  { w0 := w0, w1 := if u.2.2.2 then w.w1 - BitVec.ofNat 32 c + BitVec.ofNat 32 ((c + r.i * r.sdc) % 64) else w.w1, w2 := w.w2 }

/-- Does a used field pass 63 by the last repetition (R118)? -/
def strideOver (n sdd sda sdb sdc : Nat) (x : Instr) (w : Words) : Bool :=
  let u := usedFields x
  let past (lo k : Nat) (used : Bool) : Bool := used && 63 < field w.w0 lo 6 + (n - 1) * k
  past 14 sdd u.1 || past 20 sda u.2.1 || past 26 sdb u.2.2.1 || (u.2.2.2 && 63 < w.w1.toNat % 64 + (n - 1) * sdc)

/-! ### Operand queues (R42, R359) -/

/-- Is a stream bound to queue k? -/
def qBound (g : Group) (k : Nat) : Bool := (vget g.queues k none).isSome

/-- The entry at the head of queue k. -/
def qHead (g : Group) (k : Nat) : Option QEntry := (vget g.queues k none).bind (fun q => q.entries.head?)

/-- The bound queues that a list of vector registers names. -/
def poppedBy (g : Group) (regs : List Nat) : List Nat := (List.range 4).filter (fun k => regs.contains (60 + k) && qBound g k)

/-- The lanes of a queue entry that meet a postmark mismatch (R359). -/
def entryBad (e : QEntry) : Mask := maskOf (fun l => mismatch (e.sreq.getLsbD l) (e.words.getD l ⟨0, 0⟩))

/-- The lanes in which a pop by these registers meets a mismatch (R359). -/
def popBad (g : Group) (regs : List Nat) : Mask :=
  (poppedBy g regs).foldl (fun m k => match qHead g k with | some e => m ||| entryBad e | none => m) 0

/-- A queue unbound: what HRQS says of its stream stays (R359, R360). -/
def Group.unbind (g : Group) (k : Nat) (q : Queue) : Group :=
  { g with queues := vset g.queues k none, past := vset g.past k (q.popped, q.fetched == q.total) }

/-- Pop queue k: the register keeps the entry, and the queue unbinds with its last entry (R42, R359, R360). -/
def popOne (g : Group) (k : Nat) : Group :=
  match vget g.queues k none with
  | none => g
  | some q =>
    match q.entries with
    | [] => g
    | e :: t =>
      let g := { g with vregs := vset g.vregs (60 + k) (lanesOf (fun l => (e.words.getD l ⟨0, 0⟩).data)) }
      let q := { q with entries := t, popped := q.popped + 1 }
      if q.popped = q.total then g.unbind k q else { g with queues := vset g.queues k (some q) }

/-- Every pop that a list of registers makes (R42). -/
def popAll (regs : List Nat) (g : Group) : Group := (poppedBy g regs).foldl popOne g

/-- A vector register as an instruction reads it: the head of a bound queue, or the register (R42). -/
def readQ (s : State) (r : Nat) : Lanes :=
  if 60 ≤ r then
    match qHead s.grp (r - 60) with
    | some e => if qBound s.grp (r - 60) then lanesOf (fun l => (e.words.getD l ⟨0, 0⟩).data) else readV s r
    | none => readV s r
  else readV s r

/-! ### Sources (R32 to R36) -/

/-- A sub-element repeated into every position, or the whole register (R35). -/
def selWord (code : BitVec 5) (x : Word) : Word :=
  match selOf code.toNat with
  | some (w, pos) => ofElems w (fun _ => elem x pos w)
  | none => x

/-- The selector of a field where there is an operand word (R34). -/
def selIf (f : Comp) (code : BitVec 5) : BitVec 5 := if f.ow then code else 0

/-- Does an instruction take a 64-bit immediate (R33)? -/
def imm64 (f : Comp) : Bool := f.len == .l128 && ! f.ow

/-- The bits of the immediate (R33). -/
def immBitsOf (f : Comp) : Nat := if f.len == .l128 && f.ow then f.w2.toNat else f.immRaw

/-- The rounding mode of an instruction: W0 RM, or RM of the operand word (R32, R34). -/
def rmOf (f : Comp) : Nat := if f.rm == 0 && f.ow then f.rm3.toNat else f.rm.toNat

/-- An integer or floating immediate as an element of type ty (R36). A NaN immediate is the canonical quiet NaN from then on, so that a signalling one
raises no NV (DEDUCED, log entry 13). -/
def immElem (f : Comp) : Nat :=
  let ty := f.ty.toNat
  if tyFloat ty then (convF ty (rmOf f) false (valueOf (if imm64 f then 11 else 10) (immBitsOf f)).ex).bits
  else if imm64 f then immBitsOf f % 2 ^ f.w
  else (sext64 32 (immBitsOf f)).toNat % 2 ^ f.w

/-- A rational immediate as an element of payload p, with its flags (R36). -/
def immQ (p mode : Nat) (f : Comp) : FRes :=
  let pi := if imm64 f then 57 else 26
  let q := qRead pi (immBitsOf f)
  let r := qFinish p mode ⟨q.1, 0⟩
  ⟨r.bits, r.fl ||| (if q.2 then QNONCAN else 0)⟩

/-- Rational mode of an instruction: QR, or `qmode` (R82). -/
def qmodeOf (g : Group) (f : Comp) : Nat := if f.qr == 0 then g.qmode else f.qr.toNat

/-- The sources of one lane, or of the group in a scalar form. -/
structure Srcs where
  a : Word
  b : Word
  c : Word
  old : Word
deriving DecidableEq, Repr

/-- The immediate in every element position, or `reg` where source B is a register (R33, R36). -/
def srcB (i : CompInfo) (f : Comp) (immE : Nat) (w : Nat) (reg : Word) : Word :=
  if i.shape.immB f then ofElems w (fun _ => immE) else selWord (selIf f f.selb) reg

/-- The sources of a scalar form (R91). -/
def scalSrcs (s : State) (i : CompInfo) (f : Comp) (immE w : Nat) : Srcs :=
  { a := if i.shape.regA then selWord (selIf f f.sela) (readS s f.a.toNat) else 0,
    b := if i.shape.regB f || i.shape.immB f then srcB i f immE w (readS s f.b.toNat) else 0,
    c := if i.shape.usesC f then readS s f.c.toNat else 0,
    old := readS s f.d.toNat }

/-- The sources of lane l of a vector form (R128). -/
def laneSrcs (s : State) (i : CompInfo) (f : Comp) (immE w : Nat) (l : Nat) : Srcs :=
  { a := if i.shape.regA then selWord (selIf f f.sela) (if f.ax then readS s f.a.toNat else lane (readQ s f.a.toNat) l) else 0,
    b := if i.shape.regB f || i.shape.immB f then
        srcB i f immE w (if f.bx then readS s f.b.toNat else lane (readQ s f.b.toNat) l) else 0,
    c := if i.shape.usesC f then (if f.cx then readS s f.c.toNat else lane (readQ s f.c.toNat) l) else 0,
    old := if scalarDest i f then 0 else lane (readV s f.d.toNat) l }

/-- The lanes in which a computational instruction takes effect: those that MK selects, without the lanes whose popped word met a
mismatch (R31, R359; log entry 14). -/
def compMask (s : State) (i : CompInfo) (f : Comp) : Mask := active s f.msk.toNat &&& ~~~ popBad s.grp (compSrcs i f)

/-! ### Destinations (R35) -/

/-- What a lane writes: the value, the bits written, and the sticky flags raised. -/
structure LaneOut where
  val : Word
  bits : Word
  fl : Nat
deriving DecidableEq, Repr

/-- The one element position that SELD leaves, if any (R35). -/
def seldPos (f : Comp) : Option Nat := if f.ow then (selOf f.seld.toNat).map Prod.snd else none

/-- Elements of width w computed by f at every position, or at the one that SELD names, with the flags of those (R35). -/
def elements (w : Nat) (only : Option Nat) (f : Nat → FRes) : LaneOut :=
  match only with
  | some p => { val := setElem 0 p w (f p).bits, bits := setElem 0 p w (ones w), fl := (f p).fl }
  | none =>
    { val := ofElems w (fun i => (f i).bits), bits := allBits, fl := (List.range (64 / w)).foldl (fun a i => a ||| (f i).fl) 0 }

/-- A whole register, of which SELD writes only the selected element (R35). -/
def wholeOut (f : Comp) (v : Word) : LaneOut :=
  match if f.ow then selOf f.seld.toNat else none with
  | some (w, p) => { val := v, bits := setElem 0 p w (ones w), fl := 0 }
  | none => { val := v, bits := allBits, fl := 0 }

/-! ### Results -/

/-- What a computational instruction writes, and the flags it raises. -/
structure Out where
  writes : List RegWrite
  fl : Nat
deriving DecidableEq, Repr

/-- The result of a scalar form. -/
def scalOut (f : Comp) (o : LaneOut) : Out := { writes := [.scal f.d.toNat o.val o.bits], fl := o.fl }

/-- The result of a vector form: one result for each lane of the mask (R128). -/
def vecOut (f : Comp) (m : Mask) (g : Nat → LaneOut) : Out :=
  let os := (List.range 32).map g
  { writes := [.vec f.d.toNat m (os.map LaneOut.val) (match lanesIn m with | [] => 0 | l :: _ => (g l).bits)],
    fl := (lanesIn m).foldl (fun a l => a ||| (g l).fl) 0 }

/-- A form that computes each lane, or the group, from its own sources. -/
def perLane (s : State) (i : CompInfo) (f : Comp) (immE w : Nat) (g : Srcs → LaneOut) : Out :=
  if i.scalar || f.u then scalOut f (g (scalSrcs s i f immE w))
  else vecOut f (compMask s i f) (fun l => g (laneSrcs s i f immE w l))

/-! ### Register writes (R25, R41) -/

/-- `amax` after an update (R145): 1 takes the maximum, 2 restarts. -/
def amaxUpdate (old : Nat) (op mag : Nat) (nan : Bool) : Nat :=
  if op = 1 then max (old % 2 ^ 32) mag + 2 ^ 32 * b2n (nan || old.testBit 32)
  else if op = 2 then mag + 2 ^ 32 * b2n nan
  else old

/-- A register write made for a slot of a group. -/
def Group.apply (g : Group) (sl : Bool) (w : RegWrite) : Group :=
  match w with
  | .vec d m v bits => g.writeV d m (fun l => v.getD l 0) bits
  | .scal d v bits => g.writeS sl d v bits
  | .amax k op mag nan => { g with amax := vmod g.amax k (fun o => amaxUpdate o op mag nan) }

/-- Register writes in order. -/
def Group.applyAll (g : Group) (sl : Bool) (ws : List RegWrite) : Group := ws.foldl (fun g w => g.apply sl w) g

end Sys2Proof.Machine
end

