-- ==== Sys2Proof/Machine/Flags.lean ====
section
/-! DEFINITION. Flags: the sticky status of a group and of a team (R73, R81, R345), the mode register (R82), and completion flags (R24). -/
namespace Sys2Proof.Machine

/-! ### Sticky status -/

/-- Flags ORed into `fpstat` (R73). -/
def Group.orFp (g : Group) (fl : Nat) : Group := { g with fpstat := g.fpstat ||| (fl % 64) }
/-- Flags ORed into `qstat` (R81). -/
def Group.orQ (g : Group) (fl : Nat) : Group := { g with qstat := g.qstat ||| (fl % 64) }
/-- The bits of `mstat` that a floating flag set sets: NX, UF, OF, NV, SAT (R345). -/
def mstatBits (fl : Nat) : Nat :=
  (if fl.testBit 0 then 1 else 0) + (if fl.testBit 1 then 2 else 0) + (if fl.testBit 2 then 4 else 0)
    + (if fl.testBit 4 then 8 else 0) + (if fl.testBit 5 then 16 else 0)
/-- Bits ORed into the sticky part of `mstat` (R345). -/
def orMstat (tid bits : Nat) (s : State) : State := modTeam tid (fun t => { t with mfl := t.mfl ||| (bits % 64) }) s
/-- LATE of `mstat` (R195, R345). -/
def mLATE : Nat := 32

/-- `mstat` (R345). -/
def mstatWord (t : Team) : Word :=
  packFields [(0, 6, t.mfl), (8, 1, b2n t.lheld), (9, 1, b2n t.lpend), (10, 11, t.lcnt), (24, 1, b2n t.latch.broken), (32, 32, t.bankc)]

/-! ### Two slots in one cycle (R90, R123, R129) -/

/-- What a SYSW writes into a register of the group, reserved fields left out (R10, R44, R73, R81, R82, R110). -/
def Group.sysw (g : Group) (n : Nat) (v : Word) : Group :=
  match n with
  | 0 => { g with fpstat := field v 0 6 }
  | 1 => { g with qstat := field v 0 6 }
  | 2 => { g with qmode := qmodeStore (field v 0 3) }
  | 0x20 => { g with dvDepth := min (field v 0 8) g.dvCap, slot0 := { g.slot0 with tag := field v 16 7 }, slot1 := { g.slot1 with tag := field v 23 7 } }
  | _ => g

/-- The group's registers at the end of a cycle: the writes in the order of issue, the older slot's first, then the flags raised, which are ORed
in after a SYSW of the same cycle (R41, R73, R90, R123, R129). A younger AMOP 1 beside an older AMOP 2 of one amax register takes its maximum over the
restarted value (DESIGN CHOICE, log entry 78). -/
def Group.settle (l : List Late) (g : Group) : Group :=
  let g := l.foldl (fun g x => match x with
    | .result sl ws _ _ => g.applyAll sl ws
    | .sysw n v => g.sysw n v
    | _ => g) g
  l.foldl (fun g x => match x with
    | .result _ _ q fl => if q then g.orQ fl else g.orFp fl
    | _ => g) g

/-! ### Completion flags (R24, R26) -/

/-- The flag that CF names in the clause that runs: SETA or SETB; none where that is 15 or CF is 0 (R24, R26). -/
def flagNo (s : State) (cf : Nat) : Option Nat :=
  match (slot s).cl with
  | none => none
  | some c =>
    let k := if cf = 1 then c.setA else if cf = 2 then c.setB else 15
    if k < 12 then some k else none

/-- A flag of a slot. -/
def Slot.flag (x : Slot) (k : Nat) : Nat := vget x.flags k 0

/-- A flag changed. -/
def Slot.modFlag (x : Slot) (k : Nat) (f : Nat → Nat) : Slot := { x with flags := vmod x.flags k f }

/-- Is every flag of a slot zero (R23)? -/
def Slot.flagsZero (x : Slot) : Bool := (List.range 12).all (fun k => x.flag k == 0)

/-- Does every flag of a mask read zero (R19, R119)? -/
def Slot.maskZero (x : Slot) (m : Nat) : Bool := (List.range 12).all (fun k => ! m.testBit k || x.flag k == 0)

/-- The CF of an instruction (R24). -/
def cfOf (x : Instr) : Nat :=
  match x.info with
  | .comp _ f => f.cf.toNat
  | .mem _ f => f.cf.toNat
  | .ctl _ f => f.cf.toNat
  | _ => 0

end Sys2Proof.Machine
end

