-- ==== Sys2Proof/Machine/Fetch.lean ====
section
/-! DEFINITION. Instruction fetch: blocks through the instruction cache or a pinned loop body (R14, R15, R116, R452), and the scan over a
clause's remaining words (R18, R19, R106). -/
namespace Sys2Proof.Machine

/-- Why an instruction does not issue now. -/
inductive Stop where
  /-- It traps: code, lanes, ADDR, DETAIL (R307, R310). -/
  | trap (code : Nat) (lanes : BitVec 32) (addr detail : Nat)
  /-- It holds at issue until something changes (R223). -/
  | hold
  /-- A page has no cached translation: address, ACC of a fault record, lanes (R314, R317). -/
  | walk (va acc : Nat) (lanes : BitVec 32)
  /-- It holds while its requests wait at the home of lines that are held (R248, R260, R277). -/
  | recall (lines : List Nat)
  /-- It holds while lines of peer memory are filled, each at a re-reference position (R174, R242, R419). -/
  | fill (lines : List (Nat × Nat))
  /-- It holds while a packet's lines are read at peers (R126). -/
  | args (lines : List Nat)
  /-- It holds while a block of code is read at a peer. -/
  | codeFill (va pa : Nat)
  /-- It holds, and write-backs to peers are sent first (R269). -/
  | flush (scope : Nat)
  /-- The slot parks at a JOIN, by its case 4 (`stack`) or its case 1 (R113). -/
  | parkJoin (k : Nat) (stack : Bool)
  /-- The slot parks at an absent scratchpad line (R177). -/
  | parkPresence (team line : Nat)
  /-- It holds while the refusal of a peer, for a line of its store, is recorded: line, address, status (R319, R419). -/
  | refused (line va st : Nat)
  /-- A buffered store finds no translation at its merge: the region aborts (R321). -/
  | abort (va : Nat)
deriving DecidableEq, Repr

/-- ILL, for the whole group (R307). -/
def Stop.ill : Stop := .trap 0x01 (BitVec.allOnes 32) 0 0
/-- FETCHAL (R307). -/
def Stop.fetchal : Stop := .trap 0x02 (BitVec.allOnes 32) 0 0

/-- The hold of an access whose requests wait at the home of some lines, if there are any (R248, R277). -/
def atHome (ls : List Nat) : Option Stop := if ls.isEmpty then none else some (.recall ls.eraseDups)

/-- The address after an instruction of n bytes: a tail word at block offset 28 is skipped (R15). -/
def nextPc (pc n : Nat) : Nat := if (pc + n) % 32 = 28 then pc + n + 4 else pc + n

/-- The bytes of a pinned body at an address (R116). -/
def pinnedBytes (x : Slot) (va : Nat) : Option (List Byte) :=
  match x.loop with
  | some l =>
    match l.pin with
    | .held bs => if l.run && l.body ≤ va && va < l.body + l.len then some (bs.drop (va - l.body)) else none
    | _ => none
  | none => none

/-- A block that the instruction cache of a core holds for a partition (R452). -/
def icacheGet (s : State) (c p block : Nat) : Option (List Byte) :=
  ((core s c).icache.find? (fun b => b.block == block && b.part == p)).map IBlock.bytes

/-- Keep a block; the oldest goes when 2,048 are held (R452; log entry 8). -/
def icachePut (c p block : Nat) (bs : List Byte) (s : State) : State :=
  modCore c (fun k => { k with
    icache := (if 2048 ≤ k.icache.length then k.icache.drop 1 else k.icache) ++ [{ part := p, block := block, bytes := bs }] }) s

/-- The 32 bytes of the block that holds an address, for the issuing group (R14, R452). -/
def fetchBlock (s : State) (va : Nat) : Except Stop (List Byte × State) :=
  let c := s.grp.core
  let p := s.grp.part
  let block := va57 va / 32
  if ! canonical va then .error (.trap 0x05 (BitVec.allOnes 32) va 0) else
  match icacheGet s c p block with
  | some bs => .ok (bs, s)
  | none =>
    match xlate s (some c) p (block * 32) 32 needFetch with
    | .miss _ => .error (.walk va 3 (BitVec.allOnes 32))
    | .refused => .error (.trap 0x05 (BitVec.allOnes 32) va 0)
    | .ok pa _ =>
      match homeOf s pa with
      | .peer _ _ => .error (.codeFill va pa)
      | _ =>
        match atHome ([lineNo s pa].filter (lineHeld s c)) with
        | some e => .error e
        | none => let bs := readBytes s pa 32; .ok (bs, icachePut c p block bs s)

/-- The bytes from an address to the end of its block, or of the pinned body that holds it. -/
def fetchFrom (s : State) (va : Nat) : Except Stop (List Byte × State) :=
  match pinnedBytes (slot s) va with
  | some bs => .ok (bs, s)
  | none =>
    match fetchBlock s va with
    | .ok (bs, s) => .ok (bs.drop (va % 32), s)
    | .error e => .error e

/-- The words of the instruction at an address and its length in bytes; one that would cross its block is FETCHAL (R14). -/
def fetchWords (s : State) (va : Nat) : Except Stop (Words × Nat × State) :=
  match fetchFrom s va with
  | .error e => .error e
  | .ok (bs, s) =>
    let n := lenBytes (bs.getD 0 0)
    if 32 < va % 32 + n then .error .fetchal
    else
      let v := leNat (bs.take n)
      .ok (⟨BitVec.ofNat 64 v, BitVec.ofNat 32 (v / 2 ^ 64), BitVec.ofNat 32 (v / 2 ^ 96)⟩, n, s)

/-- The address after n instructions in sequence, tail words skipped (R18). -/
def scanOver (s : State) : Nat → Nat → Except Stop (Nat × State)
  | 0, va => .ok (va, s)
  | n + 1, va =>
    match fetchFrom s va with
    | .error e => .error e
    | .ok (bs, s) => scanOver s n (nextPc va (lenBytes (bs.getD 0 0)))

/-- The bytes of a loop body, block by block; `n` bounds the blocks (R116). -/
def bodyBytes (s : State) : Nat → Nat → Nat → Except Stop (List Byte × State)
  | 0, _, _ => .ok ([], s)
  | n + 1, va, len =>
    if len = 0 then .ok ([], s)
    else
      match fetchBlock s va with
      | .error e => .error e
      | .ok (bs, s) =>
        let here := (bs.drop (va % 32)).take len
        match bodyBytes s n (va + here.length) (len - here.length) with
        | .ok (t, s) => .ok (here ++ t, s)
        | .error e => .error e

/-- Pin the body of the loop that the slot runs, at its first iteration (R116). -/
def pinBody (s : State) : Except Stop State :=
  match (slot s).loop with
  | some l =>
    if l.run && l.pin == .want then
      match bodyBytes s 10 l.body l.len with
      | .ok (bs, s) => .ok (modCur (fun x => { x with loop := some { l with pin := .held bs } }) s)
      | .error e => .error e
    else .ok s
  | none => .ok s

/-- The end of a clause of n instructions within the bytes of a loop body, if it lies within them (R116). -/
def clauseEndIn (bs : List Byte) (base : Nat) : Nat → Nat → Option Nat
  | 0, va => some va
  | n + 1, va => if base + bs.length ≤ va then none else clauseEndIn bs base n (nextPc va (lenBytes (bs.getD (va - base) 0)))

end Sys2Proof.Machine
end

