-- ==== Sys2Proof/Machine/Ops.lean ====
section
/-! DEFINITION. The shared operations of issue: the PC and the age order (R15 to R22, R116, R402), outstanding operations (R24, R25), regions
(R320, R321), walks and parking (R314 to R318), releases (R269, R280), taking a trap and returning from its handler (R306 to R311). -/
namespace Sys2Proof.Machine

/-! ### The age order (R402) -/

/-- A slot made the youngest of its core. -/
def youngestOf (c gid : Nat) (b : Bool) (s : State) : State :=
  modCore c (fun k => { k with age := k.age.filter (fun x => x != (gid, b)) ++ [(gid, b)] }) s

/-- The issuing slot made the youngest. -/
def youngest (s : State) : State := youngestOf s.grp.core s.grp.gid s.cur s

/-! ### The program counter (R15, R18, R20, R116, R118) -/

/-- The address at which a loop body's end continues. -/
def Loop.endPc (l : Loop) : Nat := nextPc (l.body + l.len) 0

/-- A slot at the end of a clause: an armed body begins, a running one goes round or ends (R116). -/
def Slot.loopEnd (x : Slot) : Slot :=
  match x.loop with
  | none => x
  | some l =>
    if ! l.run then
      if l.count = 0 then { x with pc := nextPc (x.pc + l.len) 0, loop := none }
      else { x with loop := some { l with body := x.pc, run := true, iter := 0, pin := .want } }
    else if x.pc = l.endPc then
      if l.iter + 1 < l.count then { x with pc := l.body, loop := some { l with iter := l.iter + 1 } }
      else { x with loop := none }
    else x

/-- A slot past an instruction of n bytes (R15, R18). -/
def Slot.past (x : Slot) (n : Nat) : Slot :=
  match x.cl with
  | none => { x with pc := nextPc x.pc n }
  | some c =>
    if c.idx + 1 < c.nins then { x with pc := nextPc x.pc n, cl := some { c with idx := c.idx + 1 } }
    else Slot.loopEnd { x with pc := nextPc x.pc n, cl := none }

/-- Does the issuing repetition leave more to come (R118)? -/
def Slot.repeats (x : Slot) : Bool := match x.rep with | some r => r.i + 1 < r.n | none => false

/-- A slot after it has issued an instruction of n bytes: the next repetition, or past it (R118). -/
def Slot.step (x : Slot) (n : Nat) : Slot :=
  match x.rep with
  | some r => if r.i + 1 < r.n then { x with rep := some { r with i := r.i + 1 } } else Slot.past { x with rep := none } n
  | none => x.past n

/-- Is the instruction the last of its clause? -/
def Slot.atLast (x : Slot) : Bool := match x.cl with | some c => c.nins ≤ c.idx + 1 | none => false

/-- Does YLD make the slot the youngest after this instruction (R17, R120)? -/
def Slot.yieldsAt (x : Slot) : Bool := x.atLast && ! x.repeats && (match x.cl with | some c => c.yld | none => false)

/-- A slot that has issued: ready, and no longer urgent (R223, R402). -/
def Slot.issued (x : Slot) : Slot := { x with st := .ready, waited := 0, urgent := false, skipBp := false, flushed := false, waitsAt := [] }

/-- The issuing slot past an instruction of n bytes (R15, R18, R402). -/
def advance (n : Nat) (s : State) : State :=
  let y := (slot s).urgent || (slot s).yieldsAt
  let s := modCur (fun x => (Slot.issued x).step n) s
  if y then youngest s else s

/-- A slot sent to a clause header: its clause and a loop end (R20, R117). A loop whose body has not begun ends too: R117 speaks of a taken
branch inside the body alone; and so does one whose body ICINV has unpinned, by a CALL, BRX, RET or SPLIT too (DESIGN CHOICE, log entry 67). -/
def Slot.goto (x : Slot) (pc : Nat) : Slot := { x with pc := pc, cl := none, loop := none, rep := none }

/-- The issuing slot sent to a target (R20, R106). -/
def transfer (pc : Nat) (s : State) : State :=
  let y := (slot s).urgent || (slot s).yieldsAt
  let s := modCur (fun x => (Slot.issued x).goto pc) s
  if y then youngest s else s

/-- Is an address no target of a control transfer (R15)? -/
def badTarget (pc : Nat) : Bool := pc % 4 != 0 || pc % 32 == 28

/-- The continuation of the issuing instruction of n bytes: the address after its clause (R106). -/
def continuation (s : State) (n : Nat) : Except Stop (Nat × State) :=
  match (slot s).cl with
  | some c => scanOver s (c.nins - (c.idx + 1)) (nextPc (slot s).pc n)
  | none => .ok (nextPc (slot s).pc n, s)

/-! ### Outstanding operations (R24, R25, R173) -/

/-- An operation that waits for nothing and writes nothing yet. -/
def Op.new (k : OpKind) : Op :=
  { id := 0, slot := false, flag := none, region := 0, isLoad := false, isWrite := false, kind := k, writes := [], fp := 0, qp := 0,
    ms := 0, trap := none, ret := false, void := false }

/-- Count an instruction on a flag of a slot (R24). -/
def countOn (sl : Bool) (fl : Option Nat) (g : Group) : Group :=
  match fl with
  | some k => g.modSlot sl (fun x => x.modFlag k (· + 1))
  | none => g

/-- Make an operation outstanding for the issuing slot; it counts on the flag that CF names (R24). -/
def addOp (cf : Nat) (o : Op) (s : State) : State :=
  let fl := flagNo s cf
  let o := { o with id := s.nextId, slot := s.cur, flag := fl, region := s.grp.region }
  let s := modGrp (fun g => { countOn s.cur fl g with ops := g.ops ++ [o] }) s
  { s with nextId := s.nextId + 1 }

/-- An operation of a group. -/
def Group.op (g : Group) (id : Nat) : Option Op := g.ops.find? (fun o => o.id == id)

/-- The group that an operation belongs to. -/
def ownerOfOp (s : State) (id : Nat) : Option Group := (allGroups s).find? (fun g => (g.op id).isSome)

/-- An operation changed. -/
def modOp (gid id : Nat) (f : Op → Op) (s : State) : State :=
  modGroup gid (fun g => { g with ops := g.ops.map (fun o => if o.id = id then f o else o) }) s

/-- Watches of a group's operations given up. -/
def unwatch (g : Group) (s : State) : State := dropWatches (fun k => g.ops.any (fun o => k == opWatch o.id)) s

/-- Is the operation a wait that a trap or a save cancels (R306)? -/
def Op.isWait (o : Op) : Bool :=
  match o.kind with
  | .barw _ _ _ _ _ _ => true
  | .sigw _ => true
  | .gpwt _ _ => true
  | _ => false

/-- Has every operation of a group but its waits completed (R309)? -/
def Group.drained (g : Group) : Bool := g.ops.all Op.isWait

/-- Is a slot parked under a token? -/
def Slot.parkedUnder (x : Slot) (token : Nat) : Bool := match x.st with | .parkTrans t _ => t == token | _ => false

/-- Release a slot parked on translation; PEND falls when none is parked under the token that `pgtok` names (R316). -/
def Group.unpark (g : Group) (b : Bool) : Group :=
  let g := g.modSlot b (fun x => { x with st := .ready })
  { g with pgPend := g.slot0.parkedUnder g.pgtok || g.slot1.parkedUnder g.pgtok }

/-! ### Trap reports (R306 to R310, R339) -/

/-- What a trap at a slot's next instruction records (R310). -/
def slotTrap (x : Slot) (b : Bool) (code : Nat) (compl : Bool) (lanes : BitVec 32) (addr detail : Nat) : TrapInfo :=
  { code := code, slot := b, index := (match x.cl with | some c => c.idx | none => 0), compl := compl, lanes := lanes, hdr := stopHdr x,
    iaddr := x.pc, addr := addr, detail := detail, iter := iterOf x, repx := repIdx x, s0 := 0, time := 0 }

/-- The trap record's content for the issuing instruction, reported at completion (R307). -/
def complTrap (s : State) (code : Nat) (lanes : BitVec 32) (addr : Nat) : TrapInfo := slotTrap (slot s) s.cur code true lanes addr 0

/-- Report a trap of a group: it stops, and the record's `s0` and time are those of now (R310). While it drains for a trap or a save, a
completion trap is held, and an issue trap recurs (R308). -/
def reportBase (gid : Nat) (t : TrapInfo) (s : State) : State :=
  match groupOf s gid with
  | none => s
  | some g =>
    if g.life != .resident then s
    else if g.trap.isSome || g.stopped then
      (if t.compl then modGroup gid (fun g => { g with heldTraps := g.heldTraps ++ [t] }) s else s)
    else modGroup gid (fun g => { g with trap := some { t with s0 := vget g.sregs 0 0, time := s.time } }) s

/-- The member number of a group in its team's gang (R335). -/
def memberOf (t : Team) (index : Nat) : Option Nat :=
  if bit t.gang 36 then
    (List.range (field t.gang 0 3 + field t.gang 3 3)).find? (fun m => field t.gang (6 + 5 * m) 5 == index)
  else none

/-- The members that wait at the latch trap as GANGBRK at their MMA (R336, R339). -/
def gangTrap (tid : Nat) (broken : Bool) (s : State) : State :=
  match teamOf s tid with
  | none => s
  | some t =>
    let s := modTeam tid (fun t => { t with latch := { t.latch with broken := broken, arrived := [] } }) s
    t.latch.arrived.foldl (fun s f =>
      match groupOf s f.gid with
      | none => s
      | some _ =>
        let s := modGroup f.gid (fun g => g.modSlot f.slot (fun x => { x with st := .ready })) s
        reportBase f.gid { f.tmpl with code := 0x0A, lanes := BitVec.allOnes 32 } s) s

/-- A member that retires, traps or is removed breaks its team's latch (R339). -/
def gangBreak (g : Group) (s : State) : State :=
  match teamOf s g.team with
  | none => s
  | some t => if (memberOf t g.index).isSome then gangTrap g.team true s else s

/-- Report a trap of a group, and break its gang (R308, R339). -/
def reportTrap (gid : Nat) (t : TrapInfo) (s : State) : State :=
  match groupOf s gid with
  | none => s
  | some g =>
    let taken := g.life == .resident && ! (g.trap.isSome || g.stopped)
    let s := reportBase gid t s
    if taken then gangBreak g s else s

/-! ### Completion (R25, R41, R73, R229) -/

/-- A flag of a slot counts one less. -/
def countOff (sl : Bool) (fl : Option Nat) (g : Group) : Group :=
  match fl with
  | some k => g.modSlot sl (fun x => x.modFlag k (· - 1))
  | none => g

/-- Complete an operation: its registers, flags and status are written, and its trap is reported; a draining group's registers are not
written, nor those of an aborted region, and its trap is not reported then (R25, R173, R229, R321; DESIGN CHOICE, log entry 78). All lanes are written in this one step: a read before it gives the prior
value in every element, and of two results for one register the later one remains whole (DESIGN CHOICE, log entry 66: R27 and R28 allow
either value, element by element). -/
def completeOp (gid : Nat) (o : Op) (s : State) : State :=
  match groupOf s gid with
  | none => s
  | some g =>
    let keep := g.life == .draining || o.void
    let s := modGroup gid (fun g =>
      let g := if keep then g else ((g.applyAll o.slot o.writes).orFp o.fp).orQ o.qp
      { countOff o.slot o.flag g with ops := g.ops.filter (fun p => p.id != o.id) }) s
    let s := if o.ms = 0 then s else orMstat g.team o.ms s
    let s := match o.trap with
      | some t => if keep then s else reportTrap gid t s
      | none => s
    bump s

/-! ### Scratchpads (R177, R221, R237) -/

/-- A scratchpad word; an unlisted one is zero and unstamped (R221). -/
def Team.word (t : Team) (w : Nat) : TWord := canonGet ⟨0, 0⟩ w t.spad
/-- A scratchpad word written. -/
def Team.setWord (t : Team) (w : Nat) (x : TWord) : Team := { t with spad := canonSet ⟨0, 0⟩ w x t.spad }
/-- The scratchpad's size in bytes. -/
def Team.spadSize (t : Team) : Nat := 32768 * t.spadGran
/-- Is a line present (R239)? -/
def Team.present (t : Team) (line : Nat) : Bool := ! t.absent.contains line
/-- Bytes that lie in one word stored into a scratchpad, stamped (R85, R177). -/
def Team.store (t : Team) (off : Nat) (bs : List Byte) : Team := t.setWord (off / 8) (mergeInto (t.word (off / 8)) (off % 8) bs)

/-! ### Regions (R320, R361) -/

/-- A region begins (R320). -/
def startRegion (s : State) : State :=
  modGrp (fun g => { g with region := g.region + 1, start := (g.settle (s.late.getD [])).record }) s

/-- Where a buffered global store goes at the merge. -/
def BufStore.pa (b : BufStore) (s : State) : Nat :=
  match lookup s (some s.grp.core) s.grp.part b.va with | some t => canonPa s (t.phys b.va) | none => b.addr

/-- Does a buffered store leave by spillway: its home is a peer (R176)? -/
def BufStore.spills (b : BufStore) (s : State) : Bool := b.spad.isNone && b.spill.isSome && (peerLine s (lineNo s (b.pa s))).isSome

/-- Does a buffered store go through the L1? -/
def BufStore.caches (b : BufStore) (s : State) : Bool := b.spad.isNone && ! b.spills s

/-- A buffered store merged at its first level (R320); spillway stores leave by instruction. -/
def mergeOne (b : BufStore) (s : State) : State :=
  match b.spad with
  | some tid => modTeam tid (fun t => t.store b.addr b.bytes) s
  | none => if b.spills s then s else cacheStore s.grp.core (b.pa s) s.grp.part b.rdis b.bytes s

/-- A word with bytes over it: address and bytes, in order. -/
def overlay (bs : List (Nat × List Byte)) (pa : Nat) (t : TWord) : TWord :=
  bs.foldl (fun t b => if b.1 / 8 = pa / 8 then mergeInto t (b.1 % 8) b.2 else t) t

/-- The bytes that one instruction sends to a word by spillway: lanes merged in order, every other byte zero, stamped (R171). -/
def spillWord (ws : List (Nat × List Byte)) (pa : Nat) : TWord :=
  let t := overlay ws pa ⟨0, 0⟩
  stamped t.data

/-- One line's spillway write, with a cut count, and the device it is for (R171, R176, R281, R426). -/
def spillLine (s : State) (ws : List (Nat × List Byte)) (cut line : Nat) : Option (Nat × FabHdr × List TWord) :=
  match peerLine s line with
  | none => none
  | some (dev, pl) =>
    let touched := (List.range 16).filter (fun i => ws.any (fun w => w.1 / 8 == line * 16 + i))
    let mask := touched.foldl (fun a i => a ||| (1 <<< i)) 0
    let d := (List.range 16).map (fun i => if touched.contains i then spillWord ws (line * 128 + 8 * i) else ⟨0, 0⟩)
    some (dev, { reqHdr s 3 dev pl mask (some s.grp.core) 0 with cut := BitVec.ofNat 12 cut }, d)

/-- A list in pieces of at most four; `n` is at least their number. -/
def fours {α : Type} : Nat → List α → List (List α)
  | 0, _ => []
  | n + 1, l => if l.isEmpty then [] else l.take 4 :: fours n (l.drop 4)

/-- The spillway writes of one instruction leave: for each device flits of up to four lines, in address order (R406, R426). -/
def sendSpill (ms : List (Nat × FabHdr × List TWord)) (s : State) : State :=
  ((ms.map Prod.fst).eraseDups).foldl (fun s dev =>
    (fours ms.length ((ms.filter (fun m => m.1 == dev)).map Prod.snd)).foldl (fun s f => queueSpill (pathTo s dev) f s) s) s

/-- The spillway writes of one instruction of the region, in address order. -/
def spillOp (bs : List BufStore) (id : Nat) (s : State) : State :=
  let ws := (bs.filter (fun b => b.op == id)).map (fun b => (b.pa s, b.bytes))
  let cut := ((bs.find? (fun b => b.op == id)).bind BufStore.spill).getD 0
  sendSpill (((ws.map (fun w => lineNo s w.1)).foldr insNat []).filterMap (spillLine s ws cut)) s

/-- The region ends: its stores are merged in program order and complete, its spillway stores leave, and the next region begins (R320). -/
def endRegion (s : State) : State :=
  let out := s.grp.buf.filter (fun b => b.spills s)
  let s := s.grp.buf.foldl (fun s b => mergeOne b s) s
  let s := ((out.map BufStore.op).eraseDups).foldl (fun s id => spillOp out id s) s
  let s := modGrp (fun g => { g with
    buf := [], ops := g.ops.map (fun o => match o.kind with | .buffered => { o with kind := .done } | _ => o) }) s
  startRegion s

/-- The translations that the merge needs: cached, or walked now; the first that is missing aborts (R321). -/
def mergeXlate (c p : Nat) : List BufStore → State → Except Stop State
  | [], s => .ok s
  | b :: t, s =>
    if b.spad.isSome || (lookup s (some c) p b.va).isSome then mergeXlate c p t s
    else match walkPage s p b.va with
      | some e => mergeXlate c p t (addTlb c p e s)
      | none => .error (.abort b.va)

/-- The peer lines that the merge must fill first (R171). -/
def mergeFills (s : State) : List (Nat × Nat) :=
  s.grp.buf.filterMap (fun b => if ! b.caches s || wordHere s s.grp.core (b.pa s) then none else some (lineNo s (b.pa s), b.rdis))

/-- End the region now, or say what it waits for. -/
def regionGate (s : State) : Except Stop State :=
  if s.grp.buf.isEmpty then .ok (endRegion s)
  else match mergeXlate s.grp.core s.grp.part s.grp.buf s with
    | .error e => .error e
    | .ok s => match mergeFills s with
      | [] =>
        match atHome ((s.grp.buf.filter (fun b => b.caches s && mustWait s s.grp.core (b.pa s))).map (fun b => lineNo s (b.pa s))) with
        | some e => .error e
        | none => .ok (endRegion s)
      | l => .error (.fill l)

/-- The distinct lines that a region's buffered stores cover (R320). -/
def bufLines (g : Group) : Nat := (g.buf.map (fun b => (b.spad, (if b.spad.isSome then b.addr else b.va) / 128))).eraseDups.length

/-! ### Weir counters (R291, R300 to R302) -/

/-- A core's count of a parity changed. -/
def modCount (c : Nat) (par : Bool) (f : Nat → Nat) (s : State) : State :=
  modCore c (fun k => if par then { k with c1 := f k.c1 } else { k with c0 := f k.c0 }) s

/-- Close the open outermost section of a group, as RDSE at depth 1 (R199, R229, R301). -/
def closeSection (gid : Nat) (s : State) : State :=
  match groupOf s gid with
  | none => s
  | some g =>
    if g.rdDepth = 0 then s
    else modCount g.core g.rdPar (· - 1) (modGroup gid (fun g => { g with rdDepth := 0 }) s)

/-! ### Tokens, walks and parking (R314 to R319) -/

/-- The next token, 0 skipped (R317). -/
def nextToken (s : State) : Nat × State :=
  let t := (s.mgmt.tokens + 1) % 2 ^ 32
  let t := if t = 0 then 1 else t
  (t, modMgmt (fun m => { m with tokens := t }) s)

/-- The token under which a page is waited for on a core: an entry that is there, or a new one with a new token (marked true); none
while the table's 64 entries are in use (R317). -/
def tokenFor (c p acc va : Nat) (s : State) : Option (Nat × Bool × State) :=
  let page := pageOf va
  match (core s c).waits.find? (fun w => w.part == p && w.page == page) with
  | some w => some (w.token, false, s)
  | none =>
    if 64 ≤ (core s c).waits.length then none
    else
      let r := nextToken s
      some (r.1, true, modCore c (fun k => { k with waits := k.waits ++ [{ part := p, page := page, token := r.1, since := s.time, acc := acc, va := va }] }) r.2)

/-- Park a slot of a group under a token (R316, R317). -/
def parkUnder (gid : Nat) (b : Bool) (token : Nat) (s : State) : State :=
  modGroup gid (fun g => { g.modSlot b (fun x => { x with st := .parkTrans token s.time }) with pgtok := token, pgPend := true }) s

/-- A miss of an engine, or of a wait that is issued again, under a token; a new entry sends its record; no token while the wait table is full or the
record finds no room (R317, R319). -/
def engineStall (cl c p acc va : Nat) (t : TrapInfo) (s : State) : Option (Nat × State) :=
  match tokenFor c p acc va s with
  | none => none
  | some (k, isNew, s') =>
    if ! isNew then some (k, s')
    else if ! faultRoom s p then none
    else some (k, postFault p { FaultInfo.ofKind 1 with
        acc := acc, core := some (coreName s cl c), token := k, va := va, lanes := 2 ^ 32 - 1, hdr := t.hdr, index := t.index, slot := b2n t.slot } s')

/-- A walk begun for the issuing slot, which holds until it returns (R314). -/
def startWalk (va acc : Nat) (lanes : BitVec 32) (s : State) : State :=
  let w : Waiter := { gid := s.grp.gid, slot := s.cur, acc := acc, va := va, lanes := lanes.toNat }
  let page := pageOf va
  let c := s.grp.core
  modPart s.grp.part (fun q =>
    if q.walks.any (fun r => r.page == page && r.core == c) then
      { q with walks := q.walks.map (fun r => if r.page = page && r.core = c && ! r.waiters.contains w then { r with waiters := r.waiters ++ [w] } else r) }
    else { q with walks := q.walks ++ [{ page := page, core := c, waiters := [w], held := [] }] }) s

/-- Requests to peers that no longer matter: those that have left keep their TAG and path until they are answered, and their answers are dropped
(R381, R414). -/
def dropReqs (f : Req → Bool) (s : State) : State :=
  modFabric (fun x => { x with reqs := (x.reqs.filter (fun r => r.sent || ! f r)).map (fun r => if f r then { r with purpose := .dropped } else r) }) s

/-- The reader that a slot of a group is at its LAUNCH; host queue k is reader k (R126, R394). -/
def launchReader (gid : Nat) (b : Bool) : Nat := 64 + 2 * gid + b2n b

/-- What peers have sent to a reader, refused it or are to send it, forgotten. -/
def dropArgs (p reader : Nat) (s : State) : State :=
  dropReqs (fun r => match r.purpose with | .arg q k _ => q == p && k == reader | _ => false)
    (modPart p (fun q => { q with argGot := q.argGot.filter (fun x => x.1 != reader), argNo := q.argNo.filter (fun x => x.1 != reader) }) s)

/-- What a group's slots have read for a LAUNCH, forgotten. -/
def dropLaunch (p gid : Nat) (s : State) : State := dropArgs p (launchReader gid true) (dropArgs p (launchReader gid false) s)

/-- The status with which a peer refused a reader a line, if it did (R419). -/
def lineRefused (s : State) (p reader line : Nat) : Option Nat :=
  ((part s p).argNo.find? (fun x => x.1 == reader && x.2.1 == line)).map (fun x => x.2.2)

/-- A peer's refusal of a line noted for a reader. -/
def noteRefused (p reader line st : Nat) (s : State) : State := modPart p (fun q => { q with argNo := q.argNo ++ [(reader, line, st)] }) s

/-- The record of kind 0x13 of an access that a peer refuses with a status: its ACC, its core as a record names it, its address there, and what a
trap of its instruction would say (R319, R419). -/
def peerRefusal (p st dev pa acc va : Nat) (c : Option Nat) (t : Option TrapInfo) (s : State) : State :=
  let x := match t with | some t => (t.hdr, t.index, b2n t.slot, t.lanes.toNat) | none => (0, 0, 0, 0)
  postFault p { FaultInfo.ofKind 0x13 with
    acc := acc, core := c, va := va, pa := pa, lanes := x.2.2.2, hdr := x.1, index := x.2.1, slot := x.2.2.1, detail := st + 16 * dev } s

/-- The same, of a slot's store to a line. -/
def storeRefusal (g : Group) (b : Bool) (st line va : Nat) (s : State) : State :=
  peerRefusal g.part st (((peerLine s line).map Prod.fst).getD 0) (line * 128) 1 va (some (coreName s g.cluster g.core))
    (some (slotTrap (g.slot b) b 0 false (BitVec.allOnes 32) 0 0)) s

/-- A refusal of a line that has been recorded: status 0. -/
def noteRecorded (p reader line : Nat) (s : State) : State :=
  modPart p (fun q => { q with argNo := q.argNo.map (fun x => if x.1 = reader && x.2.1 = line then (reader, line, 0) else x) }) s

/-- Ask peers for lines of a packet or of its arguments, for a reader. -/
def askArgs (p reader : Nat) (ls : List Nat) (s : State) : State :=
  ls.foldl (fun s l => match peerLine s l with
    | some (dev, pl) =>
      if s.fabric.reqs.any (fun r => r.purpose == .arg p reader l) then s else sendReq 1 dev pl 0xFFFF [] none p 0 (.arg p reader l) s
    | none => s) s

/-- A wait as its list entry holds it: a signal's address, to be translated again when it is issued again (R315, R324, R325). -/
def Op.entry (o : Op) : WaitEnt :=
  { slot := o.slot, flag := o.flag, kind := match o.kind with | .sigw w => .sigw { w with pa := none, peer := false, stall := none } | k => k }

/-- A slot put back to a region's start and parked (R320, R321). -/
def restoreSlot (x : Slot) (r : SlotStart) (token since : Nat) : Slot :=
  { x with
    st := if r.live then .parkTrans token since else .dead, pc := r.pc, cl := r.cl, exec := r.exec, flags := Vector.replicate 12 0,
    tag := r.tag, loop := r.loop, rep := r.rep, waited := 0, skipBp := false, reenter := false, flushed := false, waitsAt := [] }

/-- A group put back to its region's start (R321, R361): its stores discarded, its later operations writing no register. -/
def Group.abort (g : Group) (token since : Nat) : Group :=
  let st := g.start
  let keepW := (g.ops.filter (fun o => o.isWait && o.region != g.region)).map Op.entry
  let ops := (g.ops.filter (fun o => ! o.isWait && o.kind != .buffered)).map (fun o =>
    { o with flag := none, void := o.void || o.region == g.region })
  { g with
    slot0 := restoreSlot g.slot0 st.s0 token since, slot1 := restoreSlot g.slot1 st.s1 token since, ops := ops, buf := [], waitList := g.waitList ++ keepW,
    dvDepth := st.depth, dvCap := st.cap, fpstat := st.fpstat, qstat := st.qstat, rdDepth := st.rdDepth, rdPar := st.rdPar,
    queues := st.queues, pgtok := token, pgPend := true, region := g.region + 1, aborting := true,
    -- an issue trap that was to be reported recurs if its instruction issues again (R308)
    trap := match g.trap with | some t => if t.compl then some t else none | none => none }

/-- Abort the region of a group, under a page and a token, with a record of the kind given (R302, R319, R321). -/
def abortUnder (gid kind acc va token : Nat) (s : State) : State :=
  match groupOf s gid with
  | none => s
  | some g =>
    let s := if g.start.rdDepth = 0 then s else modCount g.core g.start.rdPar (· + 1) s
    let s := if g.rdDepth = 0 then s else modCount g.core g.rdPar (· - 1) s
    let s := dropReqs (fun r => match r.purpose with | .headrace id _ => id == gid | _ => false) (dropLaunch g.part gid s)
    let s := modGroup gid (fun g => g.abort token s.time) (unwatch g s)
    -- an MMA that waited at the latch is issued again with its region
    let s := modTeam g.team (fun t => { t with latch := { t.latch with arrived := t.latch.arrived.filter (fun f => f.gid != gid) } }) s
    let x := if g.start.s0.live then g.start.s0 else g.start.s1
    let h := match x.cl with | some c => c.hdr | none => x.pc
    let ix := match x.cl with | some c => c.idx | none => 0
    postFault g.part { FaultInfo.ofKind kind with acc := acc, core := some (coreName s g.cluster g.core), token := token, va := va, lanes := 2 ^ 32 - 1, hdr := h,
                                                  index := ix, slot := b2n (! g.start.s0.live) } s

/-- Abort the issuing group's region because a buffered store finds no translation (R321). The group waits while the wait table is full, or
the record finds no room (R317, R319). -/
def abortMerge (va : Nat) (s : State) : State :=
  if ! faultRoom s s.grp.part then s
  else match tokenFor s.grp.core s.grp.part 1 va s with
    | none => s
    | some (t, _, s) => abortUnder s.grp.gid 3 1 va t s

/-- May the region of a group be aborted at an address now? -/
def abortReady (s : State) (g : Group) (va : Nat) : Bool := faultRoom s g.part && (tokenFor g.core g.part 1 va s).isSome

/-! ### Fills from peers (R242, R419) -/

/-- Is a line asked of a peer for a core's stores? -/
def fillAsked (s : State) (c dev pl : Nat) : Bool :=
  s.fabric.reqs.any (fun r => r.dev == dev && r.line == pl && (match r.purpose with | .fill k _ => k == c | _ => false))

/-- Ask the peers for lines that are not on their way yet, for a core, a partition and a group, each at its re-reference position (R174, R242,
R419). -/
def askFills (c p gid : Nat) (ls : List (Nat × Nat)) (s : State) : State :=
  ls.foldl (fun s l => match peerLine s l.1 with
    | some (dev, pl) => if fillAsked s c dev pl then s else sendReq 0 dev pl 0xFFFF [] none p gid (.fill c l.2) s
    | none => s) s

/-! ### Releases (R269, R280) -/

/-- A core's cut count advances with a release of pod or sys scope (R280). -/
def advanceCut (c scope : Nat) (s : State) : State :=
  if 5 ≤ scope then modCore c (fun k => { k with cut := (k.cut + 1) % 4096 }) s else s

/-- Are write-backs made before not performed yet: sent to peers, or waiting for an engine's line (R269, R271)? -/
def writesWait (s : State) (scope : Nat) : Bool := 4 ≤ scope && (writesOut s || ! s.wbs.isEmpty)

/-- What a release waits for: the group's earlier writes, lines that an engine owns, write-backs to peers (R259, R269, R271). -/
def releaseStop (s : State) (scope : Nat) : Option Stop :=
  if (slot s).flushed then (if writesWait s scope then some .hold else none)
  else if s.grp.ops.any (fun o => o.isWrite) then some .hold
  else if dirtyHeld s s.grp.core scope then some .hold
  else if dirtyPeers s s.grp.core scope then some (.flush scope)
  else if writesWait s scope then some .hold
  else none

/-- The release action, once nothing stops it (R269, R280). -/
def releaseNow (scope : Nat) (s : State) : State :=
  if (slot s).flushed then s else releaseAction s.grp.core scope (advanceCut s.grp.core scope s)

/-- The acquire action of a scope on the issuing core (R269). -/
def acquireNow (scope : Nat) (s : State) : State := acquireAction s.grp.core scope s

/-! ### The trap handler (R309, R311) -/

/-- The grid's trap handler address. -/
def handlerOf (s : State) (g : Group) : Nat := match gridOf s g.grid with | some x => x.pkt.trapH | none => 0

/-- The waits of a group recorded in its wait list and cancelled (R309, R325). -/
def Group.cancelWaits (g : Group) : Group :=
  let ws := g.ops.filter Op.isWait
  { g with ops := g.ops.filter (fun o => ! o.isWait), waitList := g.waitList ++ ws.map Op.entry }

/-- A group at the entry of its handler: slot 0 live there with all lanes, slot 1 not live, `s0` the record's address (R309). -/
def Group.enter (g : Group) (handler record : Nat) : Group :=
  { g with
    slot0 := { Slot.vacant with st := .ready, pc := handler, exec := BitVec.allOnes 32, tag := g.slot0.tag },
    slot1 := { Slot.vacant with tag := g.slot1.tag },
    sregs := vset g.sregs 0 (BitVec.ofNat 64 record), inHandler := true, trap := none, heldTraps := [],
    laterTraps := g.laterTraps ++ g.heldTraps, waitList := [], aborting := false, pgPend := false }

/-- Is the move of a group's section count held: the Weir sums its parity (R295, R300)? -/
def moveHeld (s : State) (g : Group) : Bool := g.rdDepth != 0 && s.weir.st == .summing (b2n g.rdPar)

/-- A group's section count moved from its core to the suspended counter (R300). -/
def countAway (g : Group) (s : State) : State :=
  if g.rdDepth = 0 then s
  else modCount g.core g.rdPar (· - 1) (modWeir (fun w => if g.rdPar then { w with u1 := w.u1 + 1 } else { w with u0 := w.u0 + 1 }) s)

/-- What keeps a group from being suspended under R309: the move of its count, a line that its release must write and an engine owns, or the want
of room for its record (R319). -/
def suspendHeld (s : State) (g : Group) : Bool :=
  (handlerOf s g == 0 || g.inHandler) && (moveHeld s g || dirtyHeld s g.core 4 || ! faultRoom s g.part)

/-- A team is suspended while it is saved or all of its groups are suspended, else resident (R228). -/
def settleTeam (tid : Nat) (s : State) : State :=
  let gs := groupsOfTeam s tid
  modTeam tid (fun t => { t with life := if t.saved || (! gs.isEmpty && gs.all (fun g => g.life == .suspended)) then .suspended else .resident }) s

/-- A group suspended under R309: no handler, or a trap in it; its writes are released at dev scope, and its section's count leaves the
core (R278, R300). -/
def suspendTrapped (gid kind : Nat) (s : State) : State :=
  match groupOf s gid with
  | none => s
  | some g =>
    let s := countAway g (releaseAction g.core 4 s)
    let s := settleTeam g.team (modGroup gid (fun g => { g with life := .suspended, noHandler := true, trap := none }) s)
    let ctx := match teamOf s g.team with | some t => t.ctx | none => 0
    let x := match g.trap with | some t => (t.hdr, t.index, b2n t.slot) | none => (0, 0, 0)
    postFault g.part { FaultInfo.ofKind kind with
      core := some (coreName s g.cluster g.core), hdr := x.1, index := x.2.1, slot := x.2.2, lanes := 2 ^ 32 - 1, detail := ctx } s

/-- The steps of R309 after the stop, as far as they can be made: the region ends, the operations drain, the image is written, and
the handler is entered or the group suspended. -/
def enterHandler (gid : Nat) (s : State) : State :=
  match groupOf s gid with
  | none => s
  | some g =>
    match g.trap with
    | none => s
    | some t =>
      let s := focus gid s.cur s
      match (if g.buf.isEmpty then Except.ok s else regionGate s) with
      | .error (.abort va) => abortMerge va s
      | .error (.fill ls) =>
        askFills g.core g.part gid ls s
      | .error _ => s
      | .ok s =>
        if ! s.grp.drained || ! ctxMapped s g.core g.part (imageVa s s.grp) 0x5000 || suspendHeld s s.grp then s
        else
          let s := modGrp Group.cancelWaits (unwatch s.grp s)
          let s := dropLaunch s.grp.part gid (writeImage s.grp (trapWords t) s)
          let h := handlerOf s s.grp
          if h = 0 then suspendTrapped gid 0x11 s
          else if s.grp.inHandler then suspendTrapped gid 0x12 s
          else startRegion (youngestOf s.grp.core gid false (modGrp (fun g => g.enter h (imageVa s g)) s))

/-- Taking a trap at the issuing instruction: it has no effect, the group stops, and enters its handler as soon as it has drained
(R306, R309), which is not before the end of the cycle in which the other slot issues too. -/
def takeTrap (code : Nat) (lanes : BitVec 32) (addr detail : Nat) (s : State) : State :=
  let t := slotTrap (slot s) s.cur code false lanes addr detail
  let s := reportTrap s.grp.gid t (modCur (fun x => { x with st := .ready }) s)
  bump (if s.late.isSome then s else enterHandler s.grp.gid s)

/-- A group's wait-list entries issued again (R311, R324). -/
def Group.reissue (g : Group) (next : Nat) : Group :=
  let es := g.waitList.zip (List.range g.waitList.length)
  es.foldl (fun g e => { countOn e.1.slot e.1.flag g with
    ops := g.ops ++ [{ Op.new e.1.kind with
      id := next + e.2, slot := e.1.slot, flag := e.1.flag, region := g.region, isLoad := (match e.1.kind with | .sigw _ => true | _ => false),
      trap := (match e.1.kind with
        | .sigw w => some (slotTrap (g.slot e.1.slot) e.1.slot 0x05 true (BitVec.allOnes 32) w.va 0)
        | _ => none) }] }) { g with waitList := [] }

/-- A signal that is translated, watched from now on: at its home here, or by the peer that is its home (R198, R419). -/
def sendWatch (g : Group) (id : Nat) (w : SigWait) (s : State) : State :=
  match w.pa with
  | none => s
  | some pa =>
    match peerLine s (lineNo s pa) with
    | none => addWatch (opWatch id) pa w.cnd w.cmp s
    | some (dev, pl) =>
      sendReq 8 dev pl (wordIx pa + (w.cnd <<< 4) + (6 <<< 8) + (w.acq <<< 12)) (⟨w.cmp, 0⟩ :: List.replicate 7 ⟨0, 0⟩) (some g.core) g.part g.gid (.watch id) s

/-- What a signal wait needs: R of the page, RD and AT of the table (R313, R439). -/
def needWatch : Need := { needNone with pr := true, rd := true, atomic := true }

/-- A wait on a signal that has been issued again translates its address again: it watches its signal, ends with ACCESS where its rights are refused, or
stalls under a token (R167, R317, R324; log entry 77). -/
def placeSig (gid id : Nat) (s : State) : State :=
  match (groupOf s gid).bind (fun g => (g.op id).map (fun o => (g, o))) with
  | none => s
  | some (g, o) => match o.kind with
    | .sigw w =>
      if w.pa.isSome || w.stall.isSome || ((lookup s (some g.core) g.part w.va).isNone && walkHeld s g.part w.va) then s
      else
        let s := engineTlb g.core g.part w.va s
        match xlate s (some g.core) g.part w.va 8 needWatch with
        | .ok pa _ =>
          let pa := canonPa s pa
          let w := { w with pa := some pa, peer := (peerLine s (lineNo s pa)).isSome }
          sendWatch g id w (modOp gid id (fun o => { o with kind := .sigw w }) s)
        | .refused => modOp gid id (fun o => { o with kind := .done }) s
        | .miss _ => match engineStall g.cluster g.core g.part 0 w.va (o.trap.getD (slotTrap (g.slot o.slot) o.slot 0x05 true 0 w.va 0)) s with
          | some (k, s) => modOp gid id (fun o => { o with kind := .sigw { w with stall := some k } }) s
          | none => s
    | _ => s

/-- A barrier of a group's team or cluster. -/
def barOfGroup (s : State) (g : Group) (clus : Bool) (k : Nat) : Barrier :=
  if clus then (match clusterOf s g.cluster with | some c => vget c.cb k (.fresh 0) | none => .fresh 0)
  else (match teamOf s g.team with | some t => vget t.bars k (.fresh 0) | none => .fresh 0)

/-- The phase that a parity names at issue: the last completed one where its number has that parity, else the one after it (R195). -/
def parityPhase (b : Barrier) (n : Nat) : Nat := if b.lastc % 2 = n % 2 then b.lastc else (b.lastc + 1) % 65536

/-- A wait as it is issued again: by parity, it reads the barrier of now (R195, R306). -/
def waitAgain (s : State) (g : Group) (w : WaitEnt) : WaitEnt :=
  match w.kind with
  | .barw clus k ph true acq scope => { w with kind := .barw clus k (parityPhase (barOfGroup s g clus k) ph) true acq scope }
  | _ => w

/-- Issue the wait list of a group again. -/
def reissueWaits (gid : Nat) (s : State) : State :=
  match groupOf s gid with
  | none => s
  | some g =>
    let g := { g with waitList := g.waitList.map (waitAgain s g) }
    let s := modGroup gid (fun h => { h with waitList := g.waitList }) s
    let s := { modGroup gid (fun g => g.reissue s.nextId) s with nextId := s.nextId + g.waitList.length }
    (List.range g.waitList.length).foldl (fun s' i => placeSig gid (s.nextId - g.waitList.length + i) s') s

/-- A group whose last live slot has ended drains: its waits are cancelled (R114, R228, R229). -/
def drainGroup (gid : Nat) (s : State) : State :=
  let s := match groupOf s gid with | some g => unwatch g s | none => s
  modGroup gid (fun g => { g with life := .draining, ops := g.ops.filter (fun o => ! o.isWait), waitList := [] }) s

/-- The return of a handler: with RESUME the group continues from its image, else it drains (R311). Its waits are cancelled, and its core counts
the section that the image holds instead of the one that is open (R291). -/
def handlerEnd (gid : Nat) (s : State) : State :=
  match groupOf s gid with
  | none => s
  | some g =>
    let ctl := byteOf ((imageGet s g 0 1).getD 0 0) 3
    if ctl.getLsbD 0 then
      let r := restoreGroup s { g with ops := [] } (ctl.getLsbD 2)
      -- a section that the image holds counts again, and one that the handler leaves open no more
      let s := if r.rdDepth = 0 then s else modCount g.core r.rdPar (· + 1) s
      let s := if g.rdDepth = 0 then s else modCount g.core g.rdPar (· - 1) s
      let s := unwatch g s
      let s := ctxAccept g.part g.core (imageVa s g) 0x5000 s
      let s := modGroup gid (fun g => { r with
        life := .resident, inHandler := false, heldTraps := g.heldTraps ++ g.laterTraps, laterTraps := [], pgPend := false }) s
      let s := youngestOf g.core gid true (youngestOf g.core gid false s)
      let s := reissueWaits gid s
      let s := focus gid s.cur s
      bump (startRegion s)
    else drainGroup gid (modGroup gid (fun g => { g with inHandler := false }) s)

/-! ### Stops (R223, R317) -/

/-- The issuing slot holds until something changes. -/
def holdSlot (s : State) : State := modCur (fun x => { x with st := .held, seen := s.change, waitsAt := [] }) s

/-- Ask a peer for the line of a code block (R452, R419). -/
def askCode (va pa : Nat) (s : State) : State :=
  let block := va57 va / 32
  let pu : Purpose := .ifetch s.grp.core s.grp.part block
  match peerLine s (lineNo s pa) with
  | some (dev, pl) =>
    if s.fabric.reqs.any (fun r => r.purpose == pu) then s else sendReq 1 dev pl 0xFFFF [] none s.grp.part s.grp.gid pu s
  | none => s

/-- The issuing slot parks at JOIN #k; where the other is parked there by case 1, that case applies to it now, and it evaluates its JOIN again
(R113). -/
def parkAtJoin (k : Nat) (stack : Bool) (s : State) : State :=
  let s := modCur (fun x => { x with st := .parkJoin k stack }) s
  if (other s).st = .parkJoin k false && (slot s).tag = k then modOther (fun y => { y with st := .ready }) s else s

/-- An instruction that does not issue now. -/
def applyStop (e : Stop) (s : State) : State :=
  match e with
  | .trap code lanes addr detail => takeTrap code lanes addr detail s
  | .hold => holdSlot s
  | .walk va acc lanes => holdSlot (startWalk va acc lanes s)
  | .recall ls => modCur (fun x => { x with waitsAt := ls }) (holdSlot s)
  | .fill ls => holdSlot (askFills s.grp.core s.grp.part s.grp.gid ls s)
  | .args ls => holdSlot (askArgs s.grp.part (launchReader s.grp.gid s.cur) ls s)
  | .codeFill va pa => holdSlot (askCode va pa s)
  | .flush scope =>
    let s := releaseAction s.grp.core scope (advanceCut s.grp.core scope s)
    holdSlot (modCur (fun x => { x with flushed := true }) s)
  | .parkJoin k stack => parkAtJoin k stack s
  | .parkPresence tid line => modCur (fun x => { x with st := .parkPresence tid line }) s
  | .refused line va st => bump (holdSlot (noteRecorded s.grp.part (launchReader s.grp.gid s.cur) line (storeRefusal s.grp s.cur st line va s)))
  | .abort va => if abortReady s s.grp va then bump (abortMerge va s) else holdSlot s

/-! ### Issue -/

/-- Is MAJ 0x18 read as rational: rational mode, and a type code 11 (R64)? -/
def ratScalar (g : Group) (i : CompInfo) (f : Comp) : Bool := g.rmode && i.maj == 0x18 && (f.ty == 11 || (i.sub == 8 && f.sty == 11))

/-- The checks of MAJ 0x18 that depend on the mode (R64). -/
def ratIll (g : Group) (x : Instr) : Bool :=
  match x.info with
  | .comp i f =>
    if i.maj != 0x18 then false
    else if ratScalar g i f then f.cf == 0 || f.rm != 0 || (f.ow && f.rm3 != 0)
    else f.qr != 0
  | _ => false

/-- The instructions that a pinned loop body may not hold (R117). -/
def pinBarred (x : Instr) : Bool :=
  match x.info with
  | .ctl i _ => [0x05, 0x06, 0x07, 0x08, 0x09, 0x0A, 0x1D].contains i.maj
  | _ => false

/-- Does a slot run a body that the loop buffer holds: not one that ICINV has unpinned (R116, R117)? -/
def Slot.inPinned (x : Slot) : Bool :=
  match x.loop with
  | some l => l.run && (match l.pin with | .held _ => true | _ => false)
  | none => false

/-- SPLIT and JOIN must be the last of their clause (R112, R113). -/
def mustBeLast (x : Instr) : Bool :=
  match x.info with
  | .ctl i _ => i.maj == 0x08 || i.maj == 0x09
  | _ => false

/-- Does a word trap as ILL where it stands (R18, R26, R42, R50, R64, R112, R113, R117)? -/
def illHere (s : State) (x : Instr) : Bool :=
  let sl := slot s
  ! x.wf
    || (match x.info with | .header _ => sl.cl.isSome | .event => false | _ => sl.cl.isNone)
    || (cfOf x != 0 && (flagNo s (cfOf x)).isNone)
    || ratIll s.grp x
    || (vecDests x).any (fun d => 60 ≤ d && qBound s.grp (d - 60))
    || (pinBarred x && sl.inPinned)
    || (mustBeLast x && ! sl.atLast)

/-- The instructions around which a region ends (R320; log entry 15 for which Flume and headrace forms are commands). -/
def commits (x : Instr) : Bool :=
  match x.info with
  | .header h => h.ser
  | .ctl i _ => [0x03, 0x08, 0x09, 0x1A, 0x1D, 0x1E, 0xC0, 0xC1, 0xC2, 0xC8, 0xC9].contains i.maj
  | .mem i f =>
    [0x8A, 0x8B, 0x8C, 0x8D, 0x92, 0x93, 0xA0, 0xA1, 0xA2, 0xA8, 0xAA, 0xAC].contains i.maj || (i.maj == 0x88 && i.sub == 1)
      || (i.maj == 0x8E && i.sub != 0) || (2 ≤ f.ord.toNat && f.ord.toNat ≤ 4)
  | _ => false

/-- Is the instruction a store that a region buffers? -/
def buffers (x : Instr) : Bool :=
  match x.info with
  | .mem i f => (i.maj == 0x81 || i.maj == 0x83 || i.maj == 0x85 || i.maj == 0x87) && f.ord == 0
  | _ => false

/-- The flags that an instruction waits for (R19, R119). -/
def waitsFor (x : Instr) : Nat :=
  match x.info with
  | .header h => h.wait.toNat
  | .ctl i f => if i.maj = 0x0C then f.at 0 12 else 0
  | _ => 0

/-- Is the flag that CF names full (R24)? -/
def flagFull (s : State) (x : Instr) : Bool :=
  match flagNo s (cfOf x) with
  | some k => (slot s).flag k == 63
  | none => false

/-- Does a buffered store of the region count on a flag of a mask? -/
def storeCounts (s : State) (m : Nat) : Bool :=
  s.grp.ops.any (fun o => o.kind == .buffered && o.slot == s.cur && (match o.flag with | some k => m.testBit k | none => false))

/-- Does the region end before this instruction (R320; log entry 15 for a full flag)? -/
def endsBefore (s : State) (x : Instr) : Bool :=
  commits x || (buffers x && 64 ≤ bufLines s.grp) || storeCounts s (waitsFor x) || (flagFull s x && ! s.grp.buf.isEmpty)

/-- What every instruction of a slot passes before its own conditions: ILL, the end of a region, a full flag, an empty queue (R24, R51,
R320, R359). -/
def prep (x : Instr) (s : State) : Except Stop State :=
  if illHere s x then .error .ill
  else match (if endsBefore s x then regionGate s else .ok s) with
    | .error e => .error e
    | .ok s =>
      if flagFull s x || (poppedBy s.grp (vecSrcs x)).any (fun k => (qHead s.grp k).isNone) then .error .hold
      else .ok s

/-- A completion trap of the instruction that has just issued: on its operation if it is outstanding, else reported now (R307, R359). -/
def raiseAfter (before : State) (t : TrapInfo) (s : State) : State :=
  match s.grp.op before.nextId with
  | some _ => modGrp (fun g => { g with
      ops := g.ops.map (fun o => if o.id = before.nextId then { o with trap := some t } else o) }) s
  | none => reportTrap s.grp.gid t s

/-- The pops of an instruction, with their check (R42, R359). -/
def popsOf (x : Instr) (before s : State) : State :=
  if (poppedBy before.grp (vecSrcs x)).isEmpty then s
  else
    let bad := popBad before.grp (vecSrcs x)
    let s := modGrp (popAll (vecSrcs x)) s
    -- an MMA keeps its mismatch with its fragment until its latch completes
    if bad = 0 || (match x with | .mma _ => true | _ => false) then s else raiseAfter before (complTrap before 0x06 bad 0) s

/-- One more instruction has issued. -/
def countIssue (s : State) : State := { s with issues := s.issues + 1 }

/-- After the effect: pops, the region's end around a committing instruction, and the change that held slots look for. -/
def finish (x : Instr) (before s : State) : State :=
  let s := popsOf x before s
  let s := if commits x && s.grp.gid = before.grp.gid then startRegion s else s
  bump (countIssue s)

/-- Issue an instruction of a slot: its own stops, then its effect. -/
def issue (x : Instr) (own : State → Option Stop) (eff : State → State) (s : State) : Host.Outcome State Fault Refusal :=
  if ! (slot s).live then .next s
  else match prep x s with
    | .error e => .next (applyStop e s)
    | .ok s1 => match own s1 with
      | some e => .next (applyStop e s1)
      | none => .next (finish x s1 (eff s1))

/-- No stop of its own. -/
def noStop (_ : State) : Option Stop := none

/-- The stop of an effect that may stop. -/
def actStop (act : State → Except Stop State) (s : State) : Option Stop := match act s with | .error e => some e | .ok _ => none

/-- An effect that may stop, where it does not. -/
def actDo (act : State → Except Stop State) (s : State) : State := match act s with | .error _ => s | .ok t => t

/-- Issue an instruction given as one effect that may stop: a stop leaves no effect behind. -/
def issueE (x : Instr) (act : State → Except Stop State) (s : State) : Host.Outcome State Fault Refusal := issue x (actStop act) (actDo act) s

end Sys2Proof.Machine
end

