-- ==== Sys2Proof/Machine/Compute.lean ====
section
/-! DEFINITION. The shared shape of the computational instructions: their issue and results (R25 to R28, R73, R81, R128), element operations
on integers (R67, R92 to R97), on floats (R100 to R102) and on rationals (R80, R149). -/
namespace Sys2Proof.Machine

/-! ### Issue -/

/-- The bytes of an instruction of a length. -/
def lenOf (l : Len) : Nat := 4 * l.words

/-- A fixed-latency result: registers and sticky flags at once (R27, R73, R81). -/
def fixedEff (f : Comp) (q : Bool) (o : Out) (s : State) : State :=
  advance (lenOf f.len) (defer (.result s.cur o.writes q o.fl)
    (modGrp (fun g => let g := g.applyAll s.cur o.writes; if q then g.orQ o.fl else g.orFp o.fl)) s)

/-- A variable-latency result: an operation that writes registers and flags when it completes (R24, R25). -/
def variableEff (f : Comp) (q : Bool) (o : Out) (s : State) : State :=
  advance (lenOf f.len)
    (addOp f.cf.toNat { Op.new .done with writes := o.writes, fp := if q then 0 else o.fl, qp := if q then o.fl else 0 } s)

/-- Issue a fixed-latency computational instruction, its flags going to `fpstat`. -/
def computeFixed (x : Instr) (out : CompInfo → Comp → State → Out) (s : State) : Host.Outcome State Fault Refusal :=
  match x.info with
  | .comp i f => issue x noStop (fun s => fixedEff f false (out i f s) s) s
  | _ => .next s

/-- Issue a variable-latency computational instruction; its flags go to `qstat` (q) or to `fpstat`. -/
def computeVar (x : Instr) (q : Bool) (out : CompInfo → Comp → State → Out) (s : State) : Host.Outcome State Fault Refusal :=
  match x.info with
  | .comp i f => issue x noStop (fun s => variableEff f q (out i f s) s) s
  | _ => .next s

/-! ### Elements -/

/-- A form that computes element by element from the elements of its sources, with `immE` as its immediate (R37, R92, R128). -/
def elemOut (immE : Nat) (fn : Nat → Nat → Nat → FRes) (i : CompInfo) (f : Comp) (s : State) : Out :=
  perLane s i f immE f.w (fun z =>
    elements f.w (seldPos f) (fun p => fn (elem z.a p f.w) (elem z.b p f.w) (elem z.c p f.w)))

/-- An integer form: results alone (R67, R92). The function takes TY and three elements. -/
def intOut (fn : Nat → Nat → Nat → Nat → Nat) (i : CompInfo) (f : Comp) (s : State) : Out :=
  elemOut (immElem f) (fun a b c => ⟨fn f.ty.toNat a b c, 0⟩) i f s

/-- A floating form: the function takes the rounding mode, the format and three elements (R100, R136). -/
def fltOut (fn : Nat → Fmt → Nat → Nat → Nat → FRes) (i : CompInfo) (f : Comp) (s : State) : Out :=
  elemOut (immElem f) (fn (rmOf f) (fmtOf f.ty.toNat)) i f s

/-- A rational form: the function takes payload width and mode; an immediate is read by R36, and its flags are raised where an element is
computed (R36, R149). -/
def ratOut (fn : Nat → Nat → Nat → Nat → Nat → FRes) (i : CompInfo) (f : Comp) (s : State) : Out :=
  let p := qPay f.ty.toNat
  let mode := qmodeOf s.grp f
  let imm := if i.shape.immB f then immQ p mode f else ⟨0, 0⟩
  elemOut imm.bits (fun a b c => let r := fn p mode a b c; ⟨r.bits, r.fl ||| imm.fl⟩) i f s

/-! ### Integers (R92 to R97): TY and elements a, b, c -/

/-- Addition (R92). -/
def iAdd (ty a b _c : Nat) : Nat := (a + b) % 2 ^ tyWidth ty
/-- Subtraction (R92). -/
def iSub (ty a b _c : Nat) : Nat := wrapInt (tyWidth ty) ((a : Int) - b)
/-- Bitwise and (R92). -/
def iAnd (_ty a b _c : Nat) : Nat := a &&& b
/-- Bitwise or (R92). -/
def iOr (_ty a b _c : Nat) : Nat := a ||| b
/-- Bitwise exclusive or (R92). -/
def iXor (_ty a b _c : Nat) : Nat := a ^^^ b
/-- Shift left by b mod w (R92). -/
def iShl (ty a b _c : Nat) : Nat := (a <<< (b % tyWidth ty)) % 2 ^ tyWidth ty
/-- Shift right, zeros in (R92). -/
def iShr (ty a b _c : Nat) : Nat := a >>> (b % tyWidth ty)
/-- Shift right, copies of the sign bit in (R92). -/
def iSar (ty a b _c : Nat) : Nat := wrapInt (tyWidth ty) (toSigned (tyWidth ty) a / (2 ^ (b % tyWidth ty) : Nat))
/-- The smaller (R92). -/
def iMin (ty a b _c : Nat) : Nat := if intOf ty a ≤ intOf ty b then a else b
/-- The larger (R92). -/
def iMax (ty a b _c : Nat) : Nat := if intOf ty a ≤ intOf ty b then b else a
/-- Low half of the product (R92). -/
def iMul (ty a b _c : Nat) : Nat := (a * b) % 2 ^ tyWidth ty
/-- High half of the product, signed or unsigned by TY (R92). -/
def iMulh (ty a b _c : Nat) : Nat := wrapInt (tyWidth ty) (intOf ty a * intOf ty b / (2 ^ tyWidth ty : Nat))
/-- Number of one bits (R92). -/
def iPopc (ty a _b _c : Nat) : Nat := popcount (tyWidth ty) a
/-- Number of leading zeros (R92). -/
def iClz (ty a _b _c : Nat) : Nat := tyWidth ty - bitlen a
/-- Index of the least significant one (R92). -/
def iFfs (ty a _b _c : Nat) : Nat := ((List.range (tyWidth ty)).find? (fun i => a.testBit i)).getD (tyWidth ty)
/-- Bitwise complement (R92). -/
def iNot (ty a _b _c : Nat) : Nat := ones (tyWidth ty) - a
/-- Magnitude, modulo 2^w (R131). -/
def iAbs (ty a _b _c : Nat) : Nat := (intOf ty a).natAbs % 2 ^ tyWidth ty
/-- Multiply and add (R93). -/
def iMad (ty a b c : Nat) : Nat := (a * b + c) % 2 ^ tyWidth ty
/-- Quotient, rounded toward zero; the edge cases of R94. -/
def iDiv (ty a b _c : Nat) : Nat := if b = 0 then ones (tyWidth ty) else wrapInt (tyWidth ty) ((intOf ty a).tdiv (intOf ty b))
/-- Remainder, with the sign of a (R94). -/
def iRem (ty a b _c : Nat) : Nat := if b = 0 then a else wrapInt (tyWidth ty) ((intOf ty a).tmod (intOf ty b))
/-- a where c is nonzero, else b (R96, R132). -/
def iSel (_ty a b c : Nat) : Nat := if c = 0 then b else a
/-- a (R98). -/
def iMov (_ty a _b _c : Nat) : Nat := a
/-- b: the immediate (R98, R133). -/
def iImm (_ty _a b _c : Nat) : Nat := b
/-- Sum clamped to the range of TY (R134). -/
def iAdds (ty a b _c : Nat) : Nat := wrapInt (tyWidth ty) (clampInt ty (intOf ty a + intOf ty b))
/-- Difference clamped to the range of TY (R134). -/
def iSubs (ty a b _c : Nat) : Nat := wrapInt (tyWidth ty) (clampInt ty (intOf ty a - intOf ty b))

/-- Does a condition of R97 hold of two elements? -/
def iCond (cc ty a b : Nat) : Bool := condHolds cc false (cmpInt (intOf ty a) (intOf ty b))

/-- The POS and length of a bit field: from OPF, or from source C (R95). -/
def fieldOf (f : Comp) (c : Word) : Nat × Nat :=
  if f.len = .l64 then (f.opfAt 0 6, f.opfAt 6 6 + 1) else (field c 0 6, field c 8 6 + 1)

/-- A field of an element, bits at or above w read as zero, extended by TY (R95). -/
def bfxElem (ty pos len a : Nat) : Nat :=
  let v := (a >>> pos) % 2 ^ len
  if tySigned ty then wrapInt (tyWidth ty) (toSigned len v) else v % 2 ^ tyWidth ty

/-- An element b with a field replaced by the low bits of a; bits at or above w are not written (R95). -/
def bfiElem (ty pos len a b : Nat) : Nat :=
  let m := ((2 ^ len - 1) <<< pos) % 2 ^ tyWidth ty
  (b - (b &&& m)) ||| ((a <<< pos) &&& m)

/-- SBFX and VBFX (R95, R132). -/
def bfxOut (i : CompInfo) (f : Comp) (s : State) : Out :=
  perLane s i f 0 f.w (fun z =>
    let g := fieldOf f z.c
    elements f.w (seldPos f) (fun p => ⟨bfxElem f.ty.toNat g.1 g.2 (elem z.a p f.w), 0⟩))

/-- SBFI and VBFI (R95, R132). -/
def bfiOut (i : CompInfo) (f : Comp) (s : State) : Out :=
  perLane s i f 0 f.w (fun z =>
    let g := fieldOf f z.c
    elements f.w (seldPos f) (fun p => ⟨bfiElem f.ty.toNat g.1 g.2 (elem z.a p f.w) (elem z.b p f.w), 0⟩))

/-- A whole register made of whole sources (R98, R99, R133). -/
def wholeForm (fn : Srcs → Word) (i : CompInfo) (f : Comp) (s : State) : Out :=
  perLane s i f (immElem f) 64 (fun z => wholeOut f (fn z))

/-! ### Floats (R100 to R102): rounding mode, format, elements -/

/-- Sum (R100). -/
def fAdd (rm : Nat) (f : Fmt) (a b _c : Nat) : FRes := roundEx f rm .ieee (sumEx rm [decodeF f a, decodeF f b])
/-- Difference (R100). -/
def fSub (rm : Nat) (f : Fmt) (a b _c : Nat) : FRes := roundEx f rm .ieee (sumEx rm [decodeF f a, (decodeF f b).neg])
/-- Product (R100). -/
def fMul (rm : Nat) (f : Fmt) (a b _c : Nat) : FRes := roundEx f rm .ieee ((decodeF f a).mul (decodeF f b)).ex
/-- Quotient (R100). -/
def fDiv (rm : Nat) (f : Fmt) (a b _c : Nat) : FRes :=
  let q := divEx (decodeF f a) (decodeF f b)
  let r := roundEx f rm .ieee q.1
  ⟨r.bits, r.fl ||| q.2⟩
/-- The smaller (R101). -/
def fMin (_rm : Nat) (f : Fmt) (a b _c : Nat) : FRes := minMaxF f false a b
/-- The larger (R101). -/
def fMax (_rm : Nat) (f : Fmt) (a b _c : Nat) : FRes := minMaxF f true a b
/-- a * b + c, rounded once (R100, R138). -/
def fFma (rm : Nat) (f : Fmt) (a b c : Nat) : FRes :=
  roundEx f rm .ieee (sumEx rm [(decodeF f a).mul (decodeF f b), decodeF f c])
/-- A comparison's element: all ones or zero (R102). -/
def fCmp (cc : Nat) (_rm : Nat) (f : Fmt) (a b _c : Nat) : FRes :=
  let r := cmpF f cc a b
  ⟨if r.1 then ones f.w else 0, r.2⟩
/-- Sign cleared or inverted; a NaN becomes the canonical one (R136). -/
def fSign (g : Bool → Bool) (_rm : Nat) (f : Fmt) (a _b _c : Nat) : FRes :=
  let x := decodeF f a
  if x.isNan then ⟨canonNan f, if x.isSnan then NV else 0⟩
  else ⟨a % 2 ^ (f.w - 1) + signBit f (g (a.testBit (f.w - 1))), 0⟩
/-- The class mask (R137). -/
def fCls (_rm : Nat) (f : Fmt) (a _b _c : Nat) : FRes := ⟨classF f a, 0⟩

/-! ### Rationals (R75 to R80, R149 to R153): payload width, mode, elements -/

/-- Two operands read, an exact result written canonically (R75, R149). -/
def qBin (fn : QV → QV → QRes) (p mode a b _c : Nat) : FRes :=
  let x := qRead p a
  let y := qRead p b
  let r := qFinish p mode (fn x.1 y.1)
  ⟨r.bits, r.fl ||| (if x.2 || y.2 then QNONCAN else 0)⟩

/-- The exact difference. -/
def QV.sub (a b : QV) : QRes := a.add b.neg

/-- a * b + c (R150). -/
def qFma (p mode a b c : Nat) : FRes :=
  let x := qRead p a
  let y := qRead p b
  let z := qRead p c
  let r := qFinish p mode (QV.fma x.1 y.1 z.1)
  ⟨r.bits, r.fl ||| (if x.2 || y.2 || z.2 then QNONCAN else 0)⟩

/-- The smaller or larger (R104). -/
def qSel (isMax : Bool) (p mode a b c : Nat) : FRes := qBin (fun x y => ⟨qMinMax isMax x y, 0⟩) p mode a b c

/-- A comparison's element (R104, R151). -/
def qCmp (cc : Nat) (p _mode a b _c : Nat) : FRes :=
  let x := qRead p a
  let y := qRead p b
  ⟨if qCond cc x.1 y.1 then ones (qWidth p) else 0, if x.2 || y.2 then QNONCAN else 0⟩

/-! ### Conversions (R103, R104, R152) -/

/-- n elements of width ws converted to width wd, element i to element i; the rest zero (R103, R152). -/
def cvtElems (f : Comp) (ws wd : Nat) (fn : Nat → FRes) (a : Word) : LaneOut :=
  let n := min (64 / ws) (64 / wd)
  let only : Option Nat := if f.ow then (selOf f.seld.toNat).map Prod.snd else none
  elements wd only (fun i => if i < n then fn (elem a i ws) else ⟨0, 0⟩)

/-- Float to rational (R104). -/
def cvtFQ (sty p mode x : Nat) : FRes := qFinish p mode (fToQ (valueOf sty x))

/-- Rational to float (R104, R152). -/
def cvtQF (p ty mode : Nat) (nsat : Bool) (x : Nat) : FRes :=
  let q := qRead p x
  let r := qToF ty mode nsat q.1
  ⟨r.bits, r.fl ||| (if q.2 then QNONCAN else 0)⟩

end Sys2Proof.Machine
end

