-- ==== Sys2Proof/Machine/MemAccess.lean ====
section
/-! DEFINITION. What the memory instructions share: addresses and their checks (R39, R165, R167), the words a slot sees (R172, R174, R275),
loaded and stored elements (R168, R169), and what holds a memory instruction at issue (R170, R172, R272). -/
namespace Sys2Proof.Machine

/-! ### Addresses (R39) -/

/-- The bytes of an access of a type: TY 14 and 15 access one byte (R165). -/
def tyBytes (ty : Nat) : Nat := if 14 ≤ ty then 1 else tyWidth ty / 8

/-- The offset of a memory form: OFF8 words, or the bytes in W1 (R39). -/
def memOff (f : MemF) : Word := if f.len = .l64 then BitVec.ofInt 64 (8 * f.off8.toInt) else f.w1.signExtend 64

/-- The address of lane l (R39). -/
def laneVa (s : State) (f : MemF) (l : Nat) : Nat :=
  (readS s f.a.toNat + (if f.sc = 7 then 0 else lane (readQ s f.b.toNat) l <<< f.sc.toNat) + memOff f).toNat

/-- The address of a uniform form (R39). -/
def baseVa (s : State) (f : MemF) : Nat := (readS s f.a.toNat + memOff f).toNat

/-- The lanes in which a memory form acts: those that MK selects, but for lanes whose popped index or data mismatched (R31, R359). -/
def memMask (s : State) (x : Instr) (f : MemF) : Mask := active s f.msk.toNat &&& ~~~ popBad s.grp (vecSrcs x)

/-- Every active lane with its address. -/
def laneVas (s : State) (x : Instr) (f : MemF) : List (Nat × Nat) := (lanesIn (memMask s x f)).map (fun l => (l, laneVa s f l))

/-! ### Checks (R165, R167) -/

/-- The trap that some lanes meet: every one of them named, ADDR the lowest one's; a scalar cause names all lanes (R307, R310). -/
def laneTrap (scalar : Bool) (code : Nat) (bad : List (Nat × Nat)) : Stop :=
  .trap code (if scalar then BitVec.allOnes 32 else maskOf (fun l => bad.any (fun x => x.1 == l))) ((bad.head?.map Prod.snd).getD 0) 0

/-- The stop that some lanes of a check cause, if any. -/
def anyBad (scalar : Bool) (code : Nat) (bad : List (Nat × Nat)) : Option Stop := if bad.isEmpty then none else some (laneTrap scalar code bad)

/-- The translations of some addresses, in order (R167 steps 3 and 4): a miss parks before rights are judged. -/
def accCheck (s : State) (scalar : Bool) (vas : List (Nat × Nat)) (size : Nat) (nd : Need) (acc : Nat) : Except Stop (List LaneAcc) :=
  match anyBad scalar 0x05 (vas.filter (fun x => ! canonical x.2)) with
  | some e => .error e
  | none =>
    match anyBad scalar 0x04 (vas.filter (fun x => x.2 % size != 0)) with
    | some e => .error e
    | none =>
      let rs := vas.map (fun x => (x, xlate s (some s.grp.core) s.grp.part x.2 size nd))
      let miss := rs.filterMap (fun r => match r.2 with | .miss _ => some r.1 | _ => none)
      match miss with
      | (_, va) :: _ => .error (.walk va acc (if scalar then BitVec.allOnes 32 else maskOf (fun l => miss.any (fun x => x.1 == l))))
      | [] =>
        match anyBad scalar 0x05 (rs.filterMap (fun r => match r.2 with | .refused => some r.1 | _ => none)) with
        | some e => .error e
        | none => .ok (rs.filterMap (fun r => match r.2 with
            | .ok pa sreq => some { lane := r.1.1, va := r.1.2, pa := canonPa s pa, sreq := sreq }
            | _ => none))

/-- A range cut at page boundaries, as (address, bytes); the first number bounds the pieces. -/
def pieces : Nat → Nat → Nat → List (Nat × Nat)
  | 0, _, _ => []
  | k + 1, va, n =>
    if n = 0 then []
    else
      let m := min n (4096 - va % 4096)
      (va, m) :: pieces k (va + m) (n - m)

/-- A range checked and translated page by page: (physical address, bytes) (R167, R181, R183). -/
def rangeCheck (s : State) (va n align : Nat) (nd : Need) (acc : Nat) : Except Stop (List (Nat × Nat)) :=
  if ! canonical va || (n != 0 && ! canonical ((va + n - 1) % 2 ^ 64)) then .error (laneTrap true 0x05 [(0, va)])
  else if va % align != 0 then .error (laneTrap true 0x04 [(0, va)])
  else
    let ps := pieces (n / 4096 + 2) va n
    let rs := ps.map (fun x => (x, xlate s (some s.grp.core) s.grp.part x.1 x.2 nd))
    match rs.find? (fun r => match r.2 with | .miss _ => true | _ => false) with
    | some r => .error (.walk r.1.1 acc (BitVec.allOnes 32))
    | none =>
      match rs.find? (fun r => r.2 == .refused) with
      | some r => .error (laneTrap true 0x05 [(0, r.1.1)])
      | none => .ok (rs.filterMap (fun r => match r.2 with | .ok pa _ => some (canonPa s pa, r.1.2) | _ => none))

/-! ### What holds a memory instruction -/

/-- The acquire that follows a load or a wait: its scope (R170). -/
def acqOf (f : MemF) : Option Nat := if f.ord = 1 then some f.scope.toNat else none


/-- Has a Flume command still lines to claim, or its CCB to be read (R351, R376)? -/
def Flume.claiming (f : Flume) : Bool :=
  match f.ph with
  | .fetch => true
  | .copy => f.lines.any (fun l => ! l.granted)
  | _ => false

/-- Has the issuing slot a Flume command that has not claimed its destination (R351)? -/
def flumeClaiming (s : State) : Bool := s.flumes.any (fun f => f.gid == s.grp.gid && f.slot == s.cur && f.claiming)

/-- Does the issuing slot hold its memory instructions: an acquiring read or wait of it is not performed (R170, R269), or a Flume command has not claimed
its lines (R351)? Barriers and the Weir's instructions wait for the latter alone (`flumeClaiming`): a slot with an outstanding SIGW goes on (R198). -/
def acquirePending (s : State) : Bool :=
  s.grp.ops.any (fun o => o.slot == s.cur && (match o.kind with
    | .gather g => g.acq.isSome
    | .atomic a => a.acq.isSome
    | .barw _ _ _ _ acq _ => acq == 1
    | .sigw w => w.acq == 1
    | _ => false)) || flumeClaiming s

/-- Has the issuing slot an atomic at such an address that its sorting group has not performed (R172, R272)? -/
def atomicPending (s : State) (hit : Nat → Bool) : Bool :=
  s.grp.ops.any (fun o => o.slot == s.cur && (match o.kind with
    | .atomic a => a.reqs.any (fun r => ! r.done && hit r.acc.pa)
    | _ => false))

/-- Is an address in the word of one of these? -/
def inWords (pas : List Nat) (pa : Nat) : Bool := pas.any (fun p => p / 8 == pa / 8)
/-- Is an address in one of some pieces: physical address and bytes? -/
def inPieces (ps : List (Nat × Nat)) (pa : Nat) : Bool := ps.any (fun p => p.1 ≤ pa && pa < p.1 + p.2)

/-- The hold of a memory instruction that touches such addresses, if any. -/
def memHold (s : State) (hit : Nat → Bool) : Option Stop := if acquirePending s || atomicPending s hit then some .hold else none

/-- The hold of an access through the L1 at lines that an engine owns (R277). -/
def recallHold (s : State) (pas : List Nat) : Option Stop := atHome ((pas.filter (mustWait s s.grp.core)).map (lineNo s))

/-- The hold of an access at home at lines that an engine owns (R277). -/
def claimHold (s : State) (pas : List Nat) : Option Stop := atHome ((pas.map (lineNo s)).filter (lineHeld s s.grp.core))

/-- The first of two stops. -/
def orStop (a b : Option Stop) : Option Stop := match a with | some e => some e | none => b

/-! ### The words that a slot sees (R172, R174, R275) -/

/-- Does a publication read of a scope go past the caches for an address (R170)? -/
def bypasses (s : State) (scope pa : Nat) : Bool :=
  match homeOf s pa with
  | .peer _ _ => 5 ≤ scope
  | .host => 6 ≤ scope
  | _ => true

/-- Is an address read at its home by a publication read? -/
def pubHome (pub : Option Nat) (s : State) (pa : Nat) : Bool := match pub with | some scope => bypasses s scope pa | none => false

/-- A word read for the issuing core: through its caches, or at home (R174, R275); none where a peer must be asked. -/
def readOne (c rdis : Nat) (pub : Option Nat) (pa : Nat) (s : State) : Option TWord × State :=
  if pubHome pub s pa then (if (peerLine s (lineNo s pa)).isSome then none else some (homeWord s pa), s)
  else if wordHere s c pa then let r := cacheRead c pa rdis s; (some r.1, r.2)
  else (none, s)

/-- A line that a publication read reads: its copies are written back and dropped, and its slice accepts one request (R233, R275). -/
def pubLine (c : Nat) (pub : Option Nat) (pa : Nat) (s : State) : State :=
  if pub.isSome then
    let s := flushLine c (lineNo s pa) s
    if pubHome pub s pa then accept s pa else s
  else s

/-- The distinct words of some accesses. -/
def wordsOf (accs : List LaneAcc) : List Nat := (accs.map (fun a => a.pa / 8 * 8)).eraseDups

/-- Read some words; those a peer must be asked for are left out. -/
def readWords (c rdis : Nat) (pub : Option Nat) (pas : List Nat) (s : State) : List (Nat × TWord) × State :=
  let s := ((pas.map (fun p => p / 128 * 128)).eraseDups).foldl (fun s pa => pubLine c pub pa s) s
  pas.foldl (fun r pa => match readOne c rdis pub pa r.2 with
    | (some t, s) => (r.1 ++ [(pa, t)], s)
    | (none, s) => (r.1, s)) ([], s)

/-- The issuing slot's buffered bytes, in program order: address and bytes (R172). -/
def bufferedBytes (s : State) (spad : Option Nat) : List (Nat × List Byte) :=
  (s.grp.buf.filter (fun b => b.slot == s.cur && b.spad == spad)).map (fun b => (b.addr, b.bytes))

/-! ### Elements (R168, R169) -/

/-- A loaded element, from the word that holds it (R169). -/
def loadElem (ty addr : Nat) (w : Word) : Word :=
  let n := 8 * tyBytes ty
  let raw := field w (8 * (addr % 8)) n
  if ty < 8 && tySigned ty && n < 64 then sext64 n raw else BitVec.ofNat 64 raw

/-- The bytes that a store of a type writes (R169). -/
def storeBytes (ty : Nat) (v : Word) : List Byte := (bytesOf v).take (tyBytes ty)

/-- The register writes of a load, and the lanes with a mismatch (R164, R168, R169): words by address, lanes refused left out. -/
def loadWrites (g : Gather) : List RegWrite × Mask :=
  let word (a : LaneAcc) : TWord := overlay g.mine a.pa ((assocGet (a.pa / 8 * 8) g.got).getD ⟨0, 0⟩)
  let accs := g.accs.filter (fun a => ! g.no.contains a.lane)
  let bad := maskOf (fun l => accs.any (fun a => a.lane == l && mismatch a.sreq (word a)))
  let val (l : Nat) : Word := match accs.find? (fun a => a.lane == l) with | some a => loadElem g.ty a.pa (word a).data | none => 0
  let m := maskOf (fun l => accs.any (fun a => a.lane == l) && (g.nv || ! bad.getLsbD l))
  if g.scalar then (if m.getLsbD 0 then [.scal g.d (val 0) allBits] else [], bad)
  else
    ([RegWrite.vec g.d m ((List.range 32).map val) allBits] ++ (if g.nv then [.scal g.d (bad.setWidth 64) allBits] else []), bad)

/-- A completion trap made from a template: code, lanes and the lowest lane's address (R168, R307). -/
def trapOn (t : TrapInfo) (scalar : Bool) (code : Nat) (bad : Mask) (accs : List LaneAcc) : TrapInfo :=
  { t with code := code, lanes := if scalar then BitVec.allOnes 32 else bad,
           addr := ((accs.find? (fun a => bad.getLsbD a.lane)).map LaneAcc.va).getD 0 }

/-- A load whose words are all there, as an operation that may complete (R168, R419). -/
def loadDone (g : Gather) (o : Op) : Op :=
  let r := loadWrites g
  let no := maskOf (fun l => g.no.contains l)
  { o with
    kind := .done, writes := r.1,
    trap := if no != 0 then some (trapOn g.tmpl g.scalar 0x05 no g.accs)
      else if r.2 != 0 && ! g.nv then some (trapOn g.tmpl g.scalar 0x06 r.2 g.accs)
      else none }

/-- A load of some words, by distinct keys. -/
def Gather.missing (g : Gather) : List Nat :=
  ((g.accs.filter (fun a => ! g.no.contains a.lane)).map (fun a => a.pa / 8 * 8)).eraseDups.filter (fun p => (assocGet p g.got).isNone)

/-! ### Requests to peers on an operation's account (R281, R419) -/

/-- Ask the peer at home of an address for its line. -/
def askLine (rop : Nat) (pa : Nat) (pu : Purpose) (s : State) : State :=
  match peerLine s (lineNo s pa) with
  | some (dev, pl) => sendReq rop dev pl 0xFFFF [] (some s.grp.core) s.grp.part s.grp.gid pu s
  | none => s

/-- Ask for every line of some addresses once, each with its operation. -/
def askLines (rop : Nat → Nat) (pas : List Nat) (pu : Purpose) (s : State) : State :=
  ((pas.map (fun p => p / 128 * 128)).eraseDups).foldl (fun s p => askLine (rop p) p pu s) s

/-- The tags of the requests sent since a state. -/
def tagsSince (before s : State) : List Nat := (s.fabric.reqs.drop before.fabric.reqs.length).map Req.tag

/-- An operation that waits for the answers to the requests sent since a state, or for nothing; `va` is its address in a record. -/
def peerOp (va : Nat) (before s : State) : Op :=
  match tagsSince before s with | [] => Op.new .done | ts => Op.new (.peer ts (complTrap before 0 0 va))

end Sys2Proof.Machine
end

