-- ==== Sys2Proof/Machine/Atomics.lean ====
section
/-! DEFINITION. Fences, atomics, reductions and signal posts: FENCE, ATOM, RED, ACAS, SIGP and the sorting group's performing of them (R59,
R186 to R192, R197, R258, R272, R273, R432). -/
namespace Sys2Proof.Machine

/-! ### FENCE (R186) -/

/-- Is a seq-cst atomic of the issuing group not performed? -/
def scPending (s : State) : Bool :=
  s.grp.ops.any (fun o => match o.kind with | .atomic a => a.ticket.isSome && a.reqs.any (fun r => ! r.done) | _ => false)

/-- FENCE's act: it holds at issue until its actions can be made, and then completes (R186). -/
def fenceAct (f : MemF) (s : State) : Except Stop State :=
  let rel := f.ord != 1
  let acq := f.ord != 2
  match orStop (if flumeClaiming s then some .hold else none) (if rel then releaseStop s f.scope.toNat else none) with
  | some e => .error e
  | none =>
    if acq && s.grp.ops.any (fun o => o.slot == s.cur && o.isLoad) then .error .hold
    else if f.ord == 4 && scPending s then .error .hold
    else
      let s := if rel then releaseNow f.scope.toNat s else s
      let s := if acq then acquireNow f.scope.toNat s else s
      .ok (advance (lenOf f.len) (addOp f.cf.toNat (Op.new .done) s))

/-- FENCE (R186). -/
def execFence (f : MemF) (s : State) : Host.Outcome State Fault Refusal := issueE (.fence f) (fenceAct f) s

/-! ### One element (R59, R188, R192) -/

/-- The new element of an operation, with the flags it raises (R188, R192). -/
def atomElem (k : AtomKind) (ty qm m a n : Nat) : FRes :=
  match k with
  | .cas => ⟨if m = a then n else m, 0⟩
  | .rmw 0 => ⟨iAdd ty m a 0, 0⟩
  | .rmw 1 => ⟨iMin ty m a 0, 0⟩
  | .rmw 2 => ⟨iMax ty m a 0, 0⟩
  | .rmw 3 => ⟨iAnd ty m a 0, 0⟩
  | .rmw 4 => ⟨iOr ty m a 0, 0⟩
  | .rmw 5 => ⟨iXor ty m a 0, 0⟩
  | .rmw 6 => ⟨a, 0⟩
  | .rmw 9 => qBin QV.add (qPay ty) qm m a 0
  | .rmw _ => fAdd 0 (fmtOf ty) m a 0

/-- What an operation does to a word: a mismatch, the word it writes if any, and its flags. -/
structure AtomRes where
  bad : Bool
  put : Option TWord
  fl : Nat
deriving DecidableEq, Repr

/-- An operation on element e of a word (R188, R191, R192): a mismatch leaves the word; a failed compare writes nothing. -/
def atomWord (k : AtomKind) (ty qm e : Nat) (sreq : Bool) (t : TWord) (operand newVal : Word) : AtomRes :=
  let w := tyWidth ty
  if mismatch sreq t then { bad := true, put := none, fl := 0 }
  else
    let m := elem t.data e w
    let a := elem operand 0 w
    if k = .cas && m != a then { bad := false, put := none, fl := 0 }
    else
      let r := atomElem k ty qm m a (elem newVal 0 w)
      { bad := false, put := some (stamped (setElem t.data e w r.bits)), fl := r.fl }

/-- Which element of its word an address names. -/
def elemIx (ty pa : Nat) : Nat := (pa % 8) / tyBytes ty

/-! ### Performing (R187, R189, R191) -/

/-- Flags of an operation: `qstat` for `.qadd`, else `fpstat` (R188). -/
def orAtomFlags (gid : Nat) (k : AtomKind) (fl : Nat) (s : State) : State :=
  modGroup gid (fun g => if k = .rmw 9 then g.orQ fl else g.orFp fl) s

/-- The record of a reduction's mismatch (R191, R319). -/
def redRecord (g : Group) (a : AtomOp) (r : AtomReq) (old : Word) (s : State) : State :=
  postFault g.part { FaultInfo.ofKind 0x10 with
    acc := 2, core := some (coreName s g.cluster g.core), va := r.acc.va, pa := r.acc.pa, lanes := 1 <<< r.acc.lane, hdr := a.tmpl.hdr, index := a.tmpl.index,
    slot := b2n a.tmpl.slot, detail := old.toNat } s

/-- One lane's operation performed at its home here. -/
def performReq (g : Group) (a : AtomOp) (r : AtomReq) (s : State) : AtomReq × State :=
  let pa := r.acc.pa
  let s := accept s pa
  let t := homeWord s pa
  let x := atomWord a.kind a.ty a.qmode (elemIx a.ty pa) r.acc.sreq t r.operand r.newVal
  let s := match x.put with | some w => homeWrite s pa w | none => s
  let s := orAtomFlags g.gid a.kind x.fl s
  let s := if x.bad && ! a.ret then redRecord g a r t.data s else s
  ({ r with done := true, old := loadElem a.ty pa t.data, bad := x.bad }, s)

/-- Is a lane's operation performed here: not at a peer? -/
def atomHere (s : State) (r : AtomReq) : Bool := (peerLine s (lineNo s r.acc.pa)).isNone

/-- The ownership index of a line (R258). -/
def ownerIx (pa : Nat) : Nat :=
  (List.range 6).foldl (fun a i => a ^^^ ((pa >>> (7 + 7 * i)) % 128)) ((pa >>> 49) % 8)

/-- The field whose sorting group performs an operation at an address: the ownership table's entry (R258). -/
def ownerField (s : State) (pa : Nat) : Nat := vget s.mgmt.owner (ownerIx (canonPa s pa)) 0

/-- The lines that the next sorting group holds for an atomic: those of the first due lane's owner, at most eight at a time (R258). -/
def heldLines (s : State) (a : AtomOp) : List Nat :=
  let due := a.reqs.filter (fun r => ! r.done && atomHere s r)
  match due with
  | [] => []
  | r :: _ => (((due.filter (fun q => ownerField s q.acc.pa == ownerField s r.acc.pa)).map (fun q => lineNo s q.acc.pa)).eraseDups).take 8

/-- Is a lane of a reduction one whose mismatch is to be recorded and finds no room (R191, R319)? -/
def laneHeld (s : State) (g : Group) (a : AtomOp) (r : AtomReq) : Bool :=
  ! a.ret && ! faultRoom s g.part && mismatch r.acc.sreq (homeWord s r.acc.pa)

/-- Every lane's operation that is at home here in a held line, in lane order (R189), up to one whose record finds no room (R319). The holds begin and
end in this step, so no access reaches a held line (R258; log entry 16). -/
def performReqs (g : Group) (a : AtomOp) (held : List Nat) : List AtomReq → State → List AtomReq × State
  | [], s => ([], s)
  | r :: t, s =>
    if ! r.done && atomHere s r && held.contains (lineNo s r.acc.pa) then
      if laneHeld s g a r then (r :: t, s)
      else
        let x := performReq g a r s
        let y := performReqs g a held t x.2
        (x.1 :: y.1, y.2)
    else
      let y := performReqs g a held t s
      (r :: y.1, y.2)

/-- An atomic all of whose lanes are done, as an operation that may complete (R164, R168, R187, R191). -/
def atomDone (a : AtomOp) (o : Op) : Op :=
  let accs := a.reqs.map AtomReq.acc
  let no := maskOf (fun l => a.reqs.any (fun r => r.acc.lane == l && r.no))
  let bad := maskOf (fun l => a.reqs.any (fun r => r.acc.lane == l && r.bad))
  let m := maskOf (fun l => a.reqs.any (fun r => r.acc.lane == l && ! r.no && (a.nv || ! r.bad)))
  let val (l : Nat) : Word := match a.reqs.find? (fun r => r.acc.lane == l) with | some r => r.old | none => 0
  if a.ret then
    { o with
      kind := .done,
      writes := [RegWrite.vec a.d m ((List.range 32).map val) allBits] ++ (if a.nv then [.scal a.d (bad.setWidth 64) allBits] else []),
      trap := if no != 0 then some (trapOn a.tmpl false 0x05 no accs)
        else if bad != 0 && ! a.nv then some (trapOn a.tmpl false 0x06 bad accs)
        else none }
  else { o with kind := .done }

/-- An atomic's operation with new lane states; when every lane is done it may complete, after its acquire (R170). -/
def setAtom (g : Group) (id : Nat) (a : AtomOp) (s : State) : State :=
  if a.reqs.all AtomReq.done then
    let s := match a.acq with | some scope => acquireAction g.core scope s | none => s
    modOp g.gid id (atomDone a) s
  else modOp g.gid id (fun o => { o with kind := .atomic a }) s

/-- Has an earlier operation of the same slot a lane on one of these words that is not performed (R189)? -/
def earlierAtom (g : Group) (o : Op) (a : AtomOp) : Bool :=
  (g.ops.takeWhile (fun p => p.id != o.id)).any (fun p => p.slot == o.slot && (match p.kind with
    | .atomic b => b.reqs.any (fun r => ! r.done && a.reqs.any (fun q => q.acc.pa / 8 == r.acc.pa / 8))
    | _ => false))

/-- Does a lower ticket wait for a sorting group here (R190)? -/
def lowerTicket (s : State) (t : Nat) : Bool :=
  (allGroups s).any (fun g => g.ops.any (fun o => match o.kind with
    | .atomic b => (match b.ticket with | some u => u < t && b.reqs.any (fun r => ! r.done && atomHere s r) | none => false)
    | _ => false))

/-- Is a reduction held: the record of its first due lane finds no room (R191, R319)? -/
def redHeld (s : State) (g : Group) (a : AtomOp) : Bool :=
  (a.reqs.find? (fun r => ! r.done && atomHere s r && (heldLines s a).contains (lineNo s r.acc.pa))).any (laneHeld s g a)

/-- May the sorting groups perform an atomic's lanes that are at home here: no engine owns a line, no earlier one is due (R189, R190,
R277)? -/
def atomReady (s : State) (g : Group) (o : Op) : Bool :=
  match o.kind with
  | .atomic a =>
    let held := heldLines s a
    ! held.isEmpty && ! held.any (lineHeld s g.core) && ! earlierAtom g o a && ! redHeld s g a
      && (match a.ticket with | some t => ! lowerTicket s t | none => true)
  | _ => false

/-- The sorting groups perform an atomic: each line once more written back and dropped from the issuing core's caches, so that what the
core itself has written is read (R172, R187). -/
def performAtomic (g : Group) (o : Op) (s : State) : State :=
  match o.kind with
  | .atomic a =>
    let held := heldLines s a
    let s := held.foldl (fun s l => flushLine g.core l s) s
    let x := performReqs g a held a.reqs s
    bump (setAtom g o.id { a with reqs := x.1 } x.2)
  | _ => s

/-- ATOMIC_PERFORM (R187). -/
def execAtomicPerform (id : Nat) (s : State) : Host.Outcome State Fault Refusal :=
  .next (match ownerOfOp s id with
    | none => s
    | some g => match g.op id with
      | some o => if atomReady s g o then performAtomic g o s else s
      | none => s)

/-! ### Issue (R187, R190, R432) -/

/-- The next sequence number of a peer and an ownership index (R432). -/
def nextSeq (dev ix : Nat) (s : State) : Nat × State :=
  let key := dev * 128 + ix
  let n := (assocGet key s.fabric.outSeq).getD 0
  (n, modFabric (fun x => { x with outSeq := assocSet key (n + 1) x.outSeq }) s)

/-- The SUB code that a request carries; an ACAS takes 10 (R419; log entry 18). -/
def subCode (k : AtomKind) : Nat := match k with | .rmw n => n | .cas => 10

/-- Send one lane's operation to the peer at its home (R419, R432). -/
def sendAtom (id ord : Nat) (a : AtomOp) (r : AtomReq) (s : State) : State :=
  match peerLine s (lineNo s r.acc.pa) with
  | none => s
  | some (dev, pl) =>
    let wm := wordIx r.acc.pa + (subCode a.kind <<< 4) + (a.ty <<< 8) + (ord <<< 12)
    let sq := if ord = 4 then nextSeq dev (ownerIx (pl * 128)) s else (0, s)
    let word4 := elemIx a.ty r.acc.pa + (a.qmode <<< 2)
    -- the operand's postmark says that the page asks for stamped words (R191; log entry 18)
    let d : List TWord := [if r.acc.sreq then stamped r.operand else ⟨r.operand, 0⟩, ⟨r.newVal, 0⟩, ⟨BitVec.ofNat 64 (a.ticket.getD 0), 0⟩, ⟨BitVec.ofNat 64 sq.1, 0⟩,
      ⟨BitVec.ofNat 64 word4, 0⟩, ⟨0, 0⟩, ⟨0, 0⟩, ⟨0, 0⟩]
    sendReq (if a.ret then 4 else 5) dev pl wm d (some s.grp.core) s.grp.part s.grp.gid (.atomic id r.acc.lane) sq.2

/-- Take a ticket of the global sequencer (R190). -/
def takeTicket (s : State) : Nat × State := (s.ticket + 1, { s with ticket := s.ticket + 1 })

/-- The return slots of a core that are in use (R187). -/
def returnSlots (s : State) (c : Nat) : Nat := ((allGroups s).flatMap (fun g => if g.core = c then g.ops.filter Op.ret else [])).length

/-- Issue an atomic operation: its lines leave the issuing core's caches, a seq-cst one takes a ticket, and peers are asked (R187,
R190). -/
def atomEff (f : MemF) (k : AtomKind) (ty qm : Nat) (ret : Bool) (reqs : List AtomReq) (va : Nat) (s : State) : State :=
  let tmpl := complTrap s 0 0 va
  let s := ((reqs.map (fun r => lineNo s r.acc.pa)).eraseDups).foldl (fun s l => flushLine s.grp.core l s) s
  let tk := if f.ord = 4 then (let t := takeTicket s; (some t.1, t.2)) else (none, s)
  let s := tk.2
  let a : AtomOp := {
    kind := k, ty := ty, ret := ret, nv := f.nv, d := f.d.toNat, qmode := qm, ticket := tk.1,
    acq := (if f.ord == 1 || f.ord == 3 || f.ord == 4 then some f.scope.toNat else none), tmpl := tmpl, reqs := reqs }
  let id := s.nextId
  let o : Op := { Op.new (.atomic a) with isLoad := ret, isWrite := true, ret := ret && k != .cas }
  let s := addOp f.cf.toNat (if reqs.isEmpty then { atomDone a o with isLoad := ret, isWrite := true, ret := o.ret } else o) s
  reqs.foldl (fun s r => sendAtom id f.ord.toNat a r s) s

/-- A lane's operation as issued. -/
def reqOf (s : State) (f : MemF) (k : AtomKind) (w : Nat) (a : LaneAcc) : AtomReq :=
  { acc := a, operand := BitVec.ofNat 64 (elem (lane (readQ s f.d.toNat) a.lane) 0 w),
    newVal := (if k = .cas then BitVec.ofNat 64 (elem (lane (readQ s (f.d.toNat + 1)) a.lane) 0 w) else 0),
    done := false, old := 0, bad := false, no := false }

/-- Does an atomic's order make a release first (R163, R190, R270)? -/
def atomReleases (f : MemF) : Bool := f.ord == 2 || f.ord == 3 || f.ord == 4

/-- What an atomic waits for at issue: an acquire of its slot, a return slot, its release (R170, R187, R269). -/
def atomStop (s : State) (f : MemF) (slots : Bool) : Option Stop :=
  if acquirePending s then some .hold
  else if slots && 16 ≤ returnSlots s s.grp.core then some .hold
  else if atomReleases f then releaseStop s f.scope.toNat
  else none

/-- The act of ATOM, RED and ACAS (R187, R192). -/
def atomAct (x : Instr) (f : MemF) (k : AtomKind) (ret : Bool) (s : State) : Except Stop State :=
  let ty := f.ty.toNat
  match accCheck s false (laneVas s x f) (tyBytes ty) needAtomic 2 with
  | .error e => .error e
  | .ok accs =>
    match atomStop s f (ret && k != .cas) with
    | some e => .error e
    | none =>
      let reqs := accs.map (reqOf s f k (tyWidth ty))
      let qm := if k = .rmw 9 then s.grp.qmode else 0
      let va := (accs.head?.map LaneAcc.va).getD 0
      let s := if atomReleases f then releaseNow f.scope.toNat s else s
      .ok (advance (lenOf f.len) (atomEff f k ty qm ret reqs va s))

/-- ATOM.add (R188). -/
def execAtomAdd (f : MemF) (s : State) : Host.Outcome State Fault Refusal := issueE (.atomAdd f) (atomAct (.atomAdd f) f (.rmw 0) true) s
/-- ATOM.min (R188). -/
def execAtomMin (f : MemF) (s : State) : Host.Outcome State Fault Refusal := issueE (.atomMin f) (atomAct (.atomMin f) f (.rmw 1) true) s
/-- ATOM.max (R188). -/
def execAtomMax (f : MemF) (s : State) : Host.Outcome State Fault Refusal := issueE (.atomMax f) (atomAct (.atomMax f) f (.rmw 2) true) s
/-- ATOM.and (R188). -/
def execAtomAnd (f : MemF) (s : State) : Host.Outcome State Fault Refusal := issueE (.atomAnd f) (atomAct (.atomAnd f) f (.rmw 3) true) s
/-- ATOM.or (R188). -/
def execAtomOr (f : MemF) (s : State) : Host.Outcome State Fault Refusal := issueE (.atomOr f) (atomAct (.atomOr f) f (.rmw 4) true) s
/-- ATOM.xor (R188). -/
def execAtomXor (f : MemF) (s : State) : Host.Outcome State Fault Refusal := issueE (.atomXor f) (atomAct (.atomXor f) f (.rmw 5) true) s
/-- ATOM.xchg (R188). -/
def execAtomXchg (f : MemF) (s : State) : Host.Outcome State Fault Refusal := issueE (.atomXchg f) (atomAct (.atomXchg f) f (.rmw 6) true) s
/-- ATOM.f32.fadd (R188). -/
def execAtomFaddF32 (f : MemF) (s : State) : Host.Outcome State Fault Refusal :=
  issueE (.atomFaddF32 f) (atomAct (.atomFaddF32 f) f (.rmw 7) true) s
/-- ATOM.bf16.fadd (R188). -/
def execAtomFaddBf16 (f : MemF) (s : State) : Host.Outcome State Fault Refusal :=
  issueE (.atomFaddBf16 f) (atomAct (.atomFaddBf16 f) f (.rmw 8) true) s
/-- ATOM.qadd (R188). -/
def execAtomQadd (f : MemF) (s : State) : Host.Outcome State Fault Refusal := issueE (.atomQadd f) (atomAct (.atomQadd f) f (.rmw 9) true) s
/-- RED.add (R188). -/
def execRedAdd (f : MemF) (s : State) : Host.Outcome State Fault Refusal := issueE (.redAdd f) (atomAct (.redAdd f) f (.rmw 0) false) s
/-- RED.min (R188). -/
def execRedMin (f : MemF) (s : State) : Host.Outcome State Fault Refusal := issueE (.redMin f) (atomAct (.redMin f) f (.rmw 1) false) s
/-- RED.max (R188). -/
def execRedMax (f : MemF) (s : State) : Host.Outcome State Fault Refusal := issueE (.redMax f) (atomAct (.redMax f) f (.rmw 2) false) s
/-- RED.and (R188). -/
def execRedAnd (f : MemF) (s : State) : Host.Outcome State Fault Refusal := issueE (.redAnd f) (atomAct (.redAnd f) f (.rmw 3) false) s
/-- RED.or (R188). -/
def execRedOr (f : MemF) (s : State) : Host.Outcome State Fault Refusal := issueE (.redOr f) (atomAct (.redOr f) f (.rmw 4) false) s
/-- RED.xor (R188). -/
def execRedXor (f : MemF) (s : State) : Host.Outcome State Fault Refusal := issueE (.redXor f) (atomAct (.redXor f) f (.rmw 5) false) s
/-- RED.xchg (R188). -/
def execRedXchg (f : MemF) (s : State) : Host.Outcome State Fault Refusal := issueE (.redXchg f) (atomAct (.redXchg f) f (.rmw 6) false) s
/-- RED.f32.fadd (R188). -/
def execRedFaddF32 (f : MemF) (s : State) : Host.Outcome State Fault Refusal :=
  issueE (.redFaddF32 f) (atomAct (.redFaddF32 f) f (.rmw 7) false) s
/-- RED.bf16.fadd (R188). -/
def execRedFaddBf16 (f : MemF) (s : State) : Host.Outcome State Fault Refusal :=
  issueE (.redFaddBf16 f) (atomAct (.redFaddBf16 f) f (.rmw 8) false) s
/-- RED.qadd (R188). -/
def execRedQadd (f : MemF) (s : State) : Host.Outcome State Fault Refusal := issueE (.redQadd f) (atomAct (.redQadd f) f (.rmw 9) false) s
/-- ACAS (R192). -/
def execAcas (f : MemF) (s : State) : Host.Outcome State Fault Refusal := issueE (.acas f) (atomAct (.acas f) f .cas true) s

/-! ### SIGP (R197) -/

/-- SIGP's act: a RED of `.add` on one i64 word (R197). -/
def sigpAct (f : MemF) (s : State) : Except Stop State :=
  let va := baseVa s f
  match accCheck s true [(0, va)] 8 needAtomic 2 with
  | .error e => .error e
  | .ok accs =>
    match atomStop s f false with
    | some e => .error e
    | none =>
      let v := readS s f.d.toNat
      let reqs := accs.map (fun a => ({ acc := a, operand := v, newVal := 0, done := false, old := 0, bad := false, no := false } : AtomReq))
      let s := if atomReleases f then releaseNow f.scope.toNat s else s
      .ok (advance (lenOf f.len) (atomEff f (.rmw 0) 6 0 false reqs va s))

/-- SIGP (R197). -/
def execSigp (f : MemF) (s : State) : Host.Outcome State Fault Refusal := issueE (.sigp f) (sigpAct f) s

end Sys2Proof.Machine
end

