-- ==== Sys2Proof/Machine/Inval.lean ====
section
/-! DEFINITION. Invalidation of translations (R315, R445). -/
namespace Sys2Proof.Machine

/-- Does a translation stand under a value of `tlbinv`? -/
def tlbHit (v : Word) (t : Tlb) : Bool :=
  bit v 0 || (let va := field v 12 45 * 4096; t.base ≤ va && va < t.base + t.size)

/-- The accesses of an operation that are not performed, as virtual (where it is kept) and physical addresses: a wait on a signal too (R198, R315). What
stands in a region's buffer is translated at its merge. -/
def Op.accesses (o : Op) : List (Option Nat × Nat) :=
  match o.kind with
  | .gather g => g.accs.map (fun a => (some a.va, a.pa))
  | .hrst g _ => g.accs.map (fun a => (some a.va, a.pa))
  | .atomic a => (a.reqs.filter (fun r => ! r.done)).map (fun r => (some r.acc.va, r.acc.pa))
  | .sigw w => match w.pa with | some pa => [(some w.va, pa)] | none => []
  | _ => []

/-- Are accesses of a partition outstanding that were checked and translated, write-backs that wait at home among them (R277, R441)? -/
def translated (s : State) (p : Nat) : Bool :=
  (allGroups s).any (fun g => g.part == p && g.ops.any (fun o => ! o.accesses.isEmpty)) || s.wbs.any (fun x => x.2.part == p) || s.flumes.any (fun f => f.partn == p)
    || s.fabric.reqs.any (fun r => r.part == p)

/-- The physical ranges of a partition's translations under a value of `tlbinv`, in every TLB and translation cache. -/
def invRanges (s : State) (p : Nat) (v : Word) : List (Nat × Nat) :=
  (s.cores.toList.flatMap (fun k => k.tlb1 ++ k.tlb2) ++ s.dies.toList.flatMap Die.xc).filterMap (fun e =>
    if e.1 = p && tlbHit v e.2 then some (canonPa s e.2.pa, e.2.size) else none)

/-- May an access have been translated by an entry that an invalidation drops: any with ALL; else one of the page named, or in the memory of an entry
dropped (R315)? -/
def invHits (s : State) (v : Word) (rs : List (Nat × Nat)) (a : Option Nat × Nat) : Bool :=
  bit v 0 || a.1.any (fun va => pageOf va == field v 12 45) || rs.any (fun r => r.1 ≤ canonPa s a.2 && canonPa s a.2 < r.1 + r.2)

/-- Does an access touch an operand queue's words that are not there yet? -/
def queueItems (g : Group) (hit : Option Nat × Nat → Bool) : List InvItem :=
  (List.range 4).flatMap (fun k => match vget g.queues k none with
    | some q => (q.pend.filter (fun w => w.w.isNone && hit (some w.va, w.pa))).map (fun w => .queue g.gid k w.pa)
    | none => [])

/-- The accesses of a partition that are outstanding and that an invalidation must see performed (R315). -/
def invItems (s : State) (p : Nat) (v : Word) : List InvItem :=
  let hit := invHits s v (invRanges s p v)
  let gs := (allGroups s).filter (fun g => g.part == p)
  gs.flatMap (fun g => (g.ops.filter (fun o => o.accesses.any hit)).map (fun o => .op o.id) ++ queueItems g hit)
    ++ (s.fabric.reqs.filter (fun r => r.part == p && hit (none, globalLine r.dev r.line * 128))).map (fun r => .req r.tag)
    ++ (s.flumes.filter (fun f => f.partn == p)).flatMap (fun f =>
      ((f.words ++ f.got).filter (fun w => w.w.isNone && hit (some w.va, w.pa))).map (fun w => .word f.id w.pa)
        ++ (f.lines.filterMap FLine.own).filterMap (fun l => if hit (none, l * 128) then some (.line f.id l) else none))
    ++ (s.wbs.filter (fun x => x.2.part == p && hit (none, x.2.line * 128))).map (fun x => .back x.2.line)

/-- Is such an access not performed yet? -/
def InvItem.out (s : State) (i : InvItem) : Bool :=
  match i with
  | .op id => (allGroups s).any (fun g => g.ops.any (fun o => o.id == id && ! o.accesses.isEmpty))
  | .req tag => s.fabric.reqs.any (fun r => r.tag == tag)
  | .word c pa => s.flumes.any (fun f => f.id == c && (f.words ++ f.got).any (fun w => w.pa == pa && w.w.isNone))
  | .line c l => s.flumes.any (fun f => f.id == c && f.lines.any (fun x => x.own == some l))
  | .queue gid k pa => (groupOf s gid).any (fun g => (vget g.queues k none).any (fun q => q.pend.any (fun w => w.pa == pa && w.w.isNone)))
  | .back l => s.wbs.any (fun x => x.2.line == l)

/-- Does an invalidation in progress wait for an access? -/
def invWaits (s : State) (p : Nat) : Bool := (part s p).tlbOut.any (InvItem.out s)

/-- A partition's translations under a value of `tlbinv` dropped from every TLB and translation cache (R315). -/
def dropTlbs (p : Nat) (v : Word) (s : State) : State :=
  let keep (e : Nat × Tlb) : Bool := ! (e.1 == p && tlbHit v e.2)
  { s with cores := s.cores.map (fun k => { k with tlb1 := k.tlb1.filter keep, tlb2 := k.tlb2.filter keep }),
           dies := s.dies.map (fun d => { d with xc := d.xc.filter keep }) }

/-- An invalidation started: its translations go, and BUSY stands until their accesses are performed (R315, R445). -/
def startInv (p : Nat) (v : Word) (s : State) : State :=
  let out := invItems s p v
  modPart p (fun q => { q with tlbinv := packFields [(0, 1, field v 0 1), (12, 45, field v 12 45)], tlbBusy := ! out.isEmpty, tlbOut := out })
    (dropTlbs p v s)

/-- Held writes of `tlbinv` taken up while none is in progress. -/
def nextInv (p : Nat) : Nat → State → State
  | 0, s => s
  | n + 1, s =>
    match (part s p).tlbHeld with
    | [] => s
    | v :: t => if (part s p).tlbBusy then s else nextInv p n (startInv p v (modPart p (fun q => { q with tlbHeld := t }) s))

/-- A write of `tlbinv`: started, or held while BUSY (R445). -/
def tlbInvalidate (p : Nat) (v : Word) (s : State) : State :=
  bump (if (part s p).tlbBusy then modPart p (fun q => { q with tlbHeld := q.tlbHeld ++ [v] }) s else startInv p v s)

/-- Accesses of a partition have been performed: an invalidation in progress ends once no access that a dropped entry translated is
outstanding, and the next one held starts (R315, R445). -/
def settleInv (p : Nat) (s : State) : State :=
  if (part s p).tlbBusy && ! invWaits s p then bump (nextInv p 64 (modPart p (fun q => { q with tlbBusy := false, tlbOut := [] }) s)) else s

/-- TLB_INVALIDATE_PAGE (R315): a write of `tlbinv` with ALL = 0. -/
def execTlbInvalidatePage (p : BitVec 4) (v : Word) (s : State) : Host.Outcome State Fault Refusal := .next (tlbInvalidate p.toNat v s)
/-- TLB_INVALIDATE_ALL (R315): a write of `tlbinv` with ALL = 1. -/
def execTlbInvalidateAll (p : BitVec 4) (v : Word) (s : State) : Host.Outcome State Fault Refusal := .next (tlbInvalidate p.toNat v s)

end Sys2Proof.Machine
end

