-- ==== Sys2Proof/Machine/LoadStore.lean ====
section
/-! DEFINITION. Loads and stores: global (R174 to R176), scratchpad (R177) and cluster scratchpad (R178). -/
namespace Sys2Proof.Machine

/-! ### Global loads (R174, R175) -/


/-- The load that an instruction makes of translated addresses (R168 to R170): at once where every word is at hand, else waiting for peers. -/
def loadEff (f : MemF) (scalar : Bool) (accs : List LaneAcc) (s : State) : State :=
  let pub := if f.ord = 5 then some f.scope.toNat else none
  let r := readWords s.grp.core f.rdis.toNat pub (wordsOf accs) s
  let g : Gather := {
    d := f.d.toNat, scalar := scalar, ty := f.ty.toNat, nv := f.nv, valid := false, acq := acqOf f, tmpl := complTrap s 0 0 0, rdis := f.rdis.toNat, accs := accs,
    got := r.1, mine := bufferedBytes s none, no := [] }
  let miss := g.missing
  if miss.isEmpty then
    let s := addOp f.cf.toNat { loadDone g (Op.new .done) with isLoad := true } r.2
    match acqOf f with | some scope => acquireNow scope s | none => s
  else
    let id := r.2.nextId
    askLines (fun pa => if pubHome pub s pa then 1 else 0) miss (.load id) (addOp f.cf.toNat { Op.new (.gather g) with isLoad := true } r.2)

/-- A global load's act (R167, R174, R175). -/
def loadAct (x : Instr) (f : MemF) (scalar : Bool) (s : State) : Except Stop State :=
  match accCheck s scalar (if scalar then [(0, baseVa s f)] else laneVas s x f) (tyBytes f.ty.toNat) needLoad 0 with
  | .error e => .error e
  | .ok accs =>
    let pas := accs.map LaneAcc.pa
    match orStop (memHold s (inWords pas)) (if f.ord = 5 then claimHold s pas else recallHold s pas) with
    | some e => .error e
    | none => .ok (advance (lenOf f.len) (loadEff f scalar accs s))

/-- LD (R174). -/
def execLd (f : MemF) (s : State) : Host.Outcome State Fault Refusal := issueE (.ld f) (loadAct (.ld f) f false) s
/-- LDU (R175). -/
def execLdu (f : MemF) (s : State) : Host.Outcome State Fault Refusal := issueE (.ldu f) (loadAct (.ldu f) f true) s

/-! ### Global stores (R174 to R176) -/

/-- The data of a store: lane by lane, or the scalar register. -/
def storeData (s : State) (f : MemF) (scalar : Bool) (l : Nat) : Word :=
  if scalar then readS s f.d.toNat else lane (readQ s f.d.toNat) l

/-- Is the store a spillway store to this address: SPW set and the home a peer (R176)? -/
def spills (s : State) (f : MemF) (pa : Nat) : Bool := f.spw && (peerLine s (lineNo s pa)).isSome

/-- A relaxed store goes into the region's buffer, a spillway store too (R173, R176, R320). -/
def relaxedStore (f : MemF) (scalar : Bool) (accs : List LaneAcc) (s : State) : State :=
  let bs := accs.map (fun a => ({
    op := s.nextId, slot := s.cur, spad := none, va := a.va, addr := a.pa, rdis := f.rdis.toNat,
    spill := (if spills s f a.pa then some (core s s.grp.core).cut else none),
    bytes := storeBytes f.ty.toNat (storeData s f scalar a.lane) } : BufStore))
  let s' := addOp f.cf.toNat { Op.new (if bs.isEmpty then .done else .buffered) with isWrite := bs.any (fun b => b.spill.isNone) } s
  modGrp (fun g => { g with buf := g.buf ++ bs }) s'

/-- Write one line back to the level of a scope: the die cache, or home (R173, R269). -/
def performAt (scope line : Nat) (s : State) : State :=
  let c := s.grp.core
  let s := if 2 ≤ scope then l1WriteBack c line s else s
  if 4 ≤ scope then dieWriteBack (dieOf c) c line (some c) s else s

/-- A release store: the release, then the store, performed at its scope (R170, R173). -/
def releaseStore (f : MemF) (scalar : Bool) (accs : List LaneAcc) (s : State) : State :=
  let s := releaseNow f.scope.toNat s
  let s1 := accs.foldl (fun s' a => cacheStore s.grp.core a.pa s.grp.part f.rdis.toNat (storeBytes f.ty.toNat (storeData s f scalar a.lane)) s') s
  let s2 := ((accs.map (fun a => lineNo s a.pa)).eraseDups).foldl (fun s n => performAt f.scope.toNat n s) s1
  addOp f.cf.toNat { peerOp ((accs.head?.map LaneAcc.va).getD 0) s1 s2 with isWrite := true } s2

/-- The accesses of a release store whose line a peer has refused, with its status (R419). -/
def storesRefused (s : State) (accs : List LaneAcc) : List (LaneAcc × Nat) :=
  accs.filterMap (fun a => (lineRefused s s.grp.part (launchReader s.grp.gid s.cur) (lineNo s a.pa)).map (fun st => (a, st)))

/-- What such a store waits for: the record of a refused line, one at a time, each once it finds room (R319, R419). -/
def refusedStop (s : State) (no : List (LaneAcc × Nat)) : Option Stop :=
  (no.find? (fun x => x.2 != 0)).map (fun x => if faultRoom s s.grp.part then .refused (lineNo s x.1.pa) x.1.va x.2 else .hold)

/-- The refusals of a store, forgotten with it. -/
def dropRefused (no : List (LaneAcc × Nat)) (s : State) : State :=
  if no.isEmpty then s else dropArgs s.grp.part (launchReader s.grp.gid s.cur) s

/-- A global store's act (R167, R174, R175). -/
def storeAct (x : Instr) (f : MemF) (scalar : Bool) (s : State) : Except Stop State :=
  match accCheck s scalar (if scalar then [(0, baseVa s f)] else laneVas s x f) (tyBytes f.ty.toNat) needStore 1 with
  | .error e => .error e
  | .ok accs =>
    match memHold s (inWords (accs.map LaneAcc.pa)) with
    | some e => .error e
    | none =>
      if f.ord = 0 then .ok (advance (lenOf f.len) (relaxedStore f scalar accs s))
      else match releaseStop s f.scope.toNat with
        | some e => .error e
        | none =>
          let no := storesRefused s accs
          let go := accs.filter (fun a => ! no.any (fun x => x.1 == a))
          match (go.filter (fun a => ! wordHere s s.grp.core a.pa)).map (fun a => (lineNo s a.pa, f.rdis.toNat)) with
          | [] => match refusedStop s no with
            | some e => .error e
            | none =>
              if 4 ≤ f.scope.toNat && go.any (fun a => lineHeld s s.grp.core (lineNo s a.pa)) || go.any (fun a => mustWait s s.grp.core a.pa) then
                .error .hold
              else .ok (advance (lenOf f.len) (dropRefused no (releaseStore f scalar go s)))
          | ls => .error (.fill ls.eraseDups)

/-- ST (R174, R176). -/
def execSt (f : MemF) (s : State) : Host.Outcome State Fault Refusal := issueE (.st f) (storeAct (.st f) f false) s
/-- STU (R175, R176). -/
def execStu (f : MemF) (s : State) : Host.Outcome State Fault Refusal := issueE (.stu f) (storeAct (.stu f) f true) s

/-! ### Scratchpads (R177, R178) -/

/-- A lane's place in a scratchpad: lane, team, byte offset, and the address as formed. -/
structure PadAcc where
  lane : Nat
  tid : Nat
  off : Nat
  va : Nat
deriving DecidableEq, Repr

/-- The team that a cluster address names, while it has not retired (R178, R231). -/
def clusterTeam (s : State) (place : Nat) : Option Team :=
  match clusterOf s s.grp.cluster with
  | none => none
  | some c => match c.teams[place]? with
    | none => none
    | some tid => (teamOf s tid).bind (fun t => if t.life = .retired then none else some t)

/-- The scratchpad that a lane's address names: the team's own (LDS, STS), or the cluster team's (LDC, STC). -/
def padOf (s : State) (clus : Bool) (x : Nat × Nat) : Option (Team × Nat) :=
  if clus then (if x.2 / 2 ^ 25 = 0 then (clusterTeam s (x.2 / 2 ^ 21)).map (fun t => (t, x.2 % 2 ^ 21)) else none)
  else some (s.team, x.2)

/-- The checks of a scratchpad access in the order of R167: the canonical test, but for LDS and STS (R177), alignment, bounds, presence (R39, R165, R177,
R178). -/
def padCheck (s : State) (clus : Bool) (vas : List (Nat × Nat)) (size : Nat) : Except Stop (List PadAcc) :=
  match orStop (if clus then anyBad false 0x05 (vas.filter (fun x => ! canonical x.2)) else none) (anyBad false 0x04 (vas.filter (fun x => x.2 % size != 0))) with
  | some e => .error e
  | none =>
    let inside (x : Nat × Nat) : Bool := match padOf s clus x with | some (t, off) => off + size ≤ t.spadSize | none => false
    match anyBad false 0x05 (vas.filter (fun x => ! inside x)) with
    | some e => .error e
    | none =>
      let ps := vas.filterMap (fun x => (padOf s clus x).map (fun p => (({ lane := x.1, tid := p.1.tid, off := p.2, va := x.2 } : PadAcc), p.1)))
      match ps.find? (fun p => ! p.2.present (p.1.off / 128)) with
      | some p => .error (.parkPresence p.1.tid (p.1.off / 128))
      | none => .ok (ps.map Prod.fst)

/-- A scratchpad word as the issuing slot sees it (R172, R177). -/
def padWord (s : State) (tid off : Nat) : TWord :=
  overlay (bufferedBytes s (some tid)) off (((teamOf s tid).map (fun t => t.word (off / 8))).getD ⟨0, 0⟩)

/-- A scratchpad load's result: the same writes and traps as a global load's (R164, R168, R169). -/
def padLoad (f : MemF) (ps : List PadAcc) (s : State) : State :=
  let accs := ps.map (fun p => ({ lane := p.lane, va := p.va, pa := p.tid * 2 ^ 21 + p.off, sreq := false } : LaneAcc))
  let g : Gather := {
    d := f.d.toNat, scalar := false, ty := f.ty.toNat, nv := f.nv, valid := false, acq := none, tmpl := complTrap s 0 0 0, rdis := 0, accs := accs,
    got := (ps.map (fun p => (p.tid * 2 ^ 21 + p.off / 8 * 8, padWord s p.tid p.off))), mine := [], no := [] }
  addOp f.cf.toNat { loadDone g (Op.new .done) with isLoad := true } s

/-- LDS's and LDC's act (R177, R178). -/
def padLoadAct (x : Instr) (f : MemF) (clus : Bool) (s : State) : Except Stop State :=
  match padCheck s clus (laneVas s x f) (tyBytes f.ty.toNat) with
  | .error e => .error e
  | .ok ps =>
    if acquirePending s then .error .hold
    else
      let s := padLoad f ps s
      .ok (advance (lenOf f.len) (match acqOf f with | some scope => acquireNow scope s | none => s))

/-- A relaxed scratchpad store, buffered by the region (R320). -/
def padStore (f : MemF) (ps : List PadAcc) (s : State) : State :=
  let bs := ps.map (fun p => ({
    op := s.nextId, slot := s.cur, spad := some p.tid, va := p.va, addr := p.off, rdis := 0, spill := none,
    bytes := storeBytes f.ty.toNat (storeData s f false p.lane) } : BufStore))
  let s := addOp f.cf.toNat { Op.new (if ps.isEmpty then .done else .buffered) with isWrite := ! ps.isEmpty } s
  modGrp (fun g => { g with buf := g.buf ++ bs }) s

/-- A release STC: the release, then the store at the target scratchpad (R170, R173, R178). -/
def padRelease (f : MemF) (ps : List PadAcc) (s : State) : State :=
  let s := releaseNow f.scope.toNat s
  let s' := ps.foldl (fun s' p => modTeam p.tid (fun t => t.store p.off (storeBytes f.ty.toNat (storeData s f false p.lane))) s') s
  addOp f.cf.toNat { Op.new .done with isWrite := true } s'

/-- STS's and STC's act (R177, R178). -/
def padStoreAct (x : Instr) (f : MemF) (clus : Bool) (s : State) : Except Stop State :=
  match padCheck s clus (laneVas s x f) (tyBytes f.ty.toNat) with
  | .error e => .error e
  | .ok ps =>
    if acquirePending s then .error .hold
    else if f.ord = 0 then .ok (advance (lenOf f.len) (padStore f ps s))
    else match releaseStop s f.scope.toNat with
      | some e => .error e
      | none => .ok (advance (lenOf f.len) (padRelease f ps s))

/-- LDS (R177). -/
def execLds (f : MemF) (s : State) : Host.Outcome State Fault Refusal := issueE (.lds f) (padLoadAct (.lds f) f false) s
/-- STS (R177). -/
def execSts (f : MemF) (s : State) : Host.Outcome State Fault Refusal := issueE (.sts f) (padStoreAct (.sts f) f false) s
/-- LDC (R178). -/
def execLdc (f : MemF) (s : State) : Host.Outcome State Fault Refusal := issueE (.ldc f) (padLoadAct (.ldc f) f true) s
/-- STC (R178). -/
def execStc (f : MemF) (s : State) : Host.Outcome State Fault Refusal := issueE (.stc f) (padStoreAct (.stc f) f true) s

end Sys2Proof.Machine
end

