-- ==== Sys2Proof/Machine/Convert.lean ====
section
/-! DEFINITION. Conversions, packing and packed dot products, MAJ 0x30 to 0x34 (R143 to R148). -/
namespace Sys2Proof.Machine

/-! ### VCVT (R143 to R145) -/

/-- POS of VCVT. -/
def cvtPos (f : Comp) : Nat := f.opfAt 6 3
/-- The number of elements that VCVT converts. -/
def cvtCount (f : Comp) : Nat := min (64 / tyWidth f.sty) (64 / f.w)
/-- The source element of destination element `di`, if VCVT writes it; with SELD, the selected one alone (R35, R143). -/
def cvtSource (f : Comp) (di : Nat) : Option Nat :=
  let n := cvtCount f
  let lo := if f.w < tyWidth f.sty then cvtPos f * n else 0
  if lo ≤ di && di < lo + n && (match seldPos f with | some p => p == di | none => true) then
    some (di - lo + (if tyWidth f.sty < f.w then cvtPos f * n else 0))
  else none

/-- The scale as an immediate: a binary32 value; a 64-bit one is a binary64 value rounded to it (R36). -/
def cvtImm (f : Comp) : Nat := if imm64 f then (convF 10 (rmOf f) false (valueOf 11 (immBitsOf f)).ex).bits else immBitsOf f % 2 ^ 32

/-- The product x of R143 for a source element. -/
def cvtProduct (f : Comp) (z : Srcs) (si : Nat) : FV :=
  let v := valueOf f.sty (elem z.a si (tyWidth f.sty))
  if f.scl then v.mul (valueOf 10 (elem z.b 0 32)) else v

/-- `Convert(x, TY, rm)` (R144). -/
def cvtElem (f : Comp) (x : FV) : FRes :=
  let ty := f.ty.toNat
  if tyInt ty then
    (if tyInt f.sty && ! f.scl then ⟨(exToInt ty 1 x.ex).bits, 0⟩ else exToInt ty (rmOf f) x.ex)
  else convF ty (rmOf f) (f.opfAt 4 1 == 1) x.ex

/-- One lane of VCVT (R143). -/
def cvtLane (f : Comp) (z : Srcs) : LaneOut :=
  let es := (List.range (64 / f.w)).map (fun di => (cvtSource f di).map (fun si => cvtElem f (cvtProduct f z si)))
  let el (di : Nat) : Option FRes := (es[di]?).join
  { val := ofElems f.w (fun di => match el di with | some r => r.bits | none => 0),
    bits := ofElems f.w (fun di => if (el di).isSome then ones f.w else 0),
    fl := es.foldl (fun a r => match r with | some r => a ||| r.fl | none => a) 0 }

/-- A magnitude rounded up to binary32 (R145). -/
def magUp (x : FV) : Nat :=
  match x with
  | .nan _ => 0
  | .inf _ => 0x7F800000
  | .fin _ m e => (roundEx (fmtOf 10) 3 .ieee (exOfFin false m e)).bits

/-- m and whether a NaN was seen, over the products of some lanes (R145). -/
def cvtAmax (f : Comp) (zs : List Srcs) : Nat × Bool :=
  let xs := zs.flatMap (fun z => (List.range (64 / f.w)).filterMap (fun di => (cvtSource f di).map (cvtProduct f z)))
  (xs.foldl (fun a x => max a (magUp x)) 0, xs.any FV.isNan)

/-- VCVT's results: registers, flags and the amax update (R143 to R145). -/
def cvtOut (i : CompInfo) (f : Comp) (s : State) : Out :=
  let imm := cvtImm f
  let zs := if f.u then [scalSrcs s i f imm 32] else (lanesIn (compMask s i f)).map (laneSrcs s i f imm 32)
  let op := f.opfAt 11 2
  let o := perLane s i f imm 32 (cvtLane f)
  let m := cvtAmax f zs
  if op = 0 then o else { o with writes := o.writes ++ [.amax (f.opfAt 9 2) op m.1 m.2] }

/-- VCVT (R143). -/
def execVcvt (f : Comp) (s : State) : Host.Outcome State Fault Refusal := computeFixed (.vcvt f) cvtOut s

/-! ### VPACK and VUNPK (R146, R147) -/

/-- A 2w-bit element narrowed to w bits (R146). -/
def packElem (f : Comp) (e : Nat) : Nat :=
  let ty := f.ty.toNat
  if f.opfAt 1 1 = 1 then
    wrapInt f.w (clampInt ty (if tySigned ty then toSigned (2 * f.w) e else (e : Int)))
  else if f.opfAt 0 1 = 1 then e >>> f.w
  else e % 2 ^ f.w

/-- VPACK's result (R146). -/
def packOut (i : CompInfo) (f : Comp) (s : State) : Out :=
  perLane s i f (immElem f) f.w (fun z =>
    let h := 32 / f.w
    elements f.w (seldPos f) (fun p => ⟨packElem f (if p < h then elem z.a p (2 * f.w) else elem z.b (p - h) (2 * f.w)), 0⟩))

/-- VPACK (R146). -/
def execVpack (f : Comp) (s : State) : Host.Outcome State Fault Refusal := computeFixed (.vpack f) packOut s

/-- A w-bit element widened to 2w bits (R147). -/
def unpackElem (f : Comp) (e : Nat) : Nat :=
  let ty := f.ty.toNat
  if tyInt ty then wrapInt (2 * f.w) (intOf ty e) else e <<< f.w

/-- VUNPK's result (R147). -/
def unpackOut (i : CompInfo) (f : Comp) (s : State) : Out :=
  perLane s i f 0 f.w (fun z =>
    let n := 32 / f.w
    elements (2 * f.w) (seldPos f) (fun p => ⟨unpackElem f (elem z.a (p + n * f.opfAt 0 1) f.w), 0⟩))

/-- VUNPK (R147). -/
def execVunpk (f : Comp) (s : State) : Host.Outcome State Fault Refusal := computeFixed (.vunpk f) unpackOut s

/-! ### Dot products (R148) -/

/-- The 32-bit result of one lane (R148). -/
def dotElem (f : Comp) (z : Srcs) : FRes :=
  let ty := f.ty.toNat
  let c := elem z.c (f.opfAt 0 1) 32
  let ns := List.range (64 / f.w)
  if tyInt ty then
    ⟨wrapInt 32 (ns.foldl (fun a i => a + intOf ty (elem z.a i f.w) * intOf ty (elem z.b i f.w)) (c : Int)), 0⟩
  else
    let terms := ns.map (fun i => (valueOf ty (elem z.a i f.w)).mul (valueOf ty (elem z.b i f.w)))
    roundEx (fmtOf 10) (rmOf f) .ieee (sumEx (rmOf f) (valueOf 10 c :: terms))

/-- A dot product's result: element J alone is written (R148). -/
def dotOut (i : CompInfo) (f : Comp) (s : State) : Out :=
  let j := f.opfAt 0 1
  perLane s i f (immElem f) f.w (fun z =>
    if (match seldPos f with | some p => p == j | none => true) then
      let r := dotElem f z
      { val := setElem 0 j 32 r.bits, bits := setElem 0 j 32 (ones 32), fl := r.fl }
    else { val := 0, bits := 0, fl := 0 })

/-- VDOTH (R148). -/
def execVdoth (f : Comp) (s : State) : Host.Outcome State Fault Refusal := computeFixed (.vdoth f) dotOut s
/-- VDOTB (R148). -/
def execVdotb (f : Comp) (s : State) : Host.Outcome State Fault Refusal := computeFixed (.vdotb f) dotOut s
/-- VDOTN (R148). -/
def execVdotn (f : Comp) (s : State) : Host.Outcome State Fault Refusal := computeFixed (.vdotn f) dotOut s

end Sys2Proof.Machine
end

