-- ==== Sys2Proof/Machine/System.lean ====
section
/-! DEFINITION. System instructions, MAJ 0x19 to 0x1C and 0x1E (R44, R122 to R125, R127), and the gang register (R335, R336). -/
namespace Sys2Proof.Machine

/-! ### Views of the device (R260, R410, R411) -/

/-- The number of lit channels, and which combs are lit: bit c for any channel at a wavelength of comb c (R410). -/
def litCount (w : Word) : Nat := popcount 64 w.toNat

/-- The combs of a direction that light some channel: comb c lights wavelength positions 4c to 4c + 3 of every fibre (R410). -/
def litCombs (w : Word) : Nat :=
  (List.range 4).foldl (fun a c => if (List.range 64).any (fun i => bit w i && (i % 16) / 4 == c) then a + 2 ^ c else a) 0

/-- STATE of a link (R410). -/
def linkState (l : Link) : Nat :=
  if l.training then 1 else if ! l.up then 0 else if litCount l.txLit = 64 && litCount l.rxLit = 64 then 2 else 3

/-- The link status register of link k (R410). -/
def linkWord (s : State) (k : Nat) : Word :=
  let l := link s k
  packFields [(0, 2, linkState l), (2, 1, b2n l.txKph), (3, 1, b2n (l.rot || l.rxRot)), (4, 4, peerOf s k), (8, 7, litCount l.txLit),
    (15, 7, litCount l.rxLit), (22, 4, litCombs l.txLit), (26, 4, litCombs l.rxLit), (30, 8, l.spf), (38, 12, vget l.txEsn 0 0),
    (50, 9, l.kept.length)]

/-- The spare pool register (R411). -/
def spareWord (s : State) : Word := packFields ((List.range 8).map (fun i => (4 * i, 4, vget s.fabric.spares i 15)))

/-- Is the home slice of a local address m? -/
def inSlice (s : State) (m pa : Nat) : Bool := homeOf s pa == .localMem && sliceOf s (canonPa s pa) == some m

/-- The line that a command of an engine waits to claim, where its address is translated. -/
def Flume.nextClaim (f : Flume) (s : State) : Option Nat :=
  match f.lines.find? (fun x => ! x.granted && x.own.isNone) with
  | some x => (lookup s (some f.core) f.partn (x.line * 128)).map (fun t => lineNo s (t.phys (x.line * 128)))
  | none => none

/-- The lines at whose home instructions of a group wait: those of slots that are held there (R260, R277). -/
def Group.waitsAt (g : Group) : List Nat := [g.slot0, g.slot1].flatMap (fun x => if x.st = .held then x.waitsAt else [])

/-- The addresses at which the walkers, the distributor and the management block wait: entries of a walk, heads of host queues, places of records (R260,
R277). -/
def deviceWaits (s : State) : List Nat :=
  (List.range 16).flatMap (fun p =>
    let q := part s p
    q.walks.filterMap (fun w => walkWaits s p (w.page * 4096))
      ++ (q.hq.toList.filter queueOpen).map headAddr
      ++ (if s.mgmt.pending.any (fun x => x.1 == p) && fqOpen q.fq then [faultPlace s p] else []))
  ++ s.mgmt.evPending.map (fun x => evPlace s x.1) |>.filter (fun pa => lineHeld s 386 (lineNo s pa))

/-- The addresses of the requests that wait at slices: those of instructions, atomics, write-backs, peers' requests, the host's accesses, the
device's own, and claims of engines (R258 to R260, R277). -/
def waitingPas (s : State) : List Nat :=
  let atoms := (allGroups s).flatMap (fun g => g.ops.flatMap (fun o => match o.kind with
    | .atomic a => (a.reqs.filter (fun r => ! r.done)).map (fun r => r.acc.pa)
    | _ => []))
  let hosts := ((s.hostHeld.filter (fun i => s.hostHeld.find? (fun x => hostFn x == hostFn i) == some i)).filterMap (fun i => (hostLines s i).find? (lineHeld s 384)))
  let lines := (allGroups s).flatMap Group.waitsAt ++ s.wbs.map (fun x => x.2.line) ++ (s.fabric.held ++ s.fabric.spill.flatMap Prod.snd).map (fun x => x.1.laddr.toNat) ++ hosts
    ++ s.flumes.filterMap (fun f => f.nextClaim s)
  atoms ++ deviceWaits s ++ lines.map (fun l => l * 128)

/-- How many requests wait at slice m (R260; log entry 74). -/
def waitingAt (s : State) (m : Nat) : Nat := ((waitingPas s).filter (inSlice s m)).length

/-- The slice occupancy register of slice m (R260). -/
def sliceWord (s : State) (m : Nat) : Word :=
  let held := (s.claims.filter (fun c => inSlice s m (c.1 * 128))).length
  let pinned := ((s.pins.flatMap (fun x => (List.range 32).map (fun i => x.1 * 4096 + 128 * i))).filter (inSlice s m)).length
  packFields [(0, 32, (vget s.slices m ⟨0⟩).accept), (32, 10, min 1023 (waitingAt s m)), (42, 6, min 63 held), (48, 14, min 8192 (pinned / 8))]

/-- Does the issuing partition hold read rights on the register block (R44)? -/
def blockReadable (s : State) : Bool :=
  s.mgmt.tables.any (fun t => t.1 == 1 && t.2.1 == s.grp.part && t.2.2.1 < 16 && ! t.2.2.2.rsv && t.2.2.2.len != 0 && t.2.2.2.rd)

/-! ### GANG (R335, R336) -/

/-- Is a value of `gang` valid for a team of n groups (R336)? -/
def gangValid (v : Word) (n : Nat) : Bool :=
  let a := field v 0 3
  let b := field v 3 3
  let m := fun i => field v (6 + 5 * i) 5
  v == 0 || (bit v 36 && field v 37 27 == 0 && 1 ≤ a && a ≤ 5 && 1 ≤ b && b ≤ 5 && a + b ≤ 6
    && (List.range 6).all (fun i => if i < a + b then m i < n && (List.range i).all (fun j => m j != m i) else m i == 0))

/-- The latch emptied, waiting members trapped, the register written (R336). -/
def gangSet (v : Word) (s : State) : State :=
  modTeam s.team.tid (fun t => { t with gang := v, latch := Latch.empty }) (gangTrap s.team.tid false s)

/-- GANG's value checked, and taken (R336). -/
def gangAct (v : Word) (s : State) : Except Stop State :=
  if ! gangValid v s.team.ngroups then .error .ill else .ok (defer (.sysw 0x10 v) (gangSet v) s)

/-- The writes of a cycle in which both slots issued are made (R90, R123, R129, R345). -/
def settle (l : List Late) (s : State) : State :=
  let s := modGrp (Group.settle l) s
  let s := l.foldl (fun s x => match x with
    | .sysw 0x10 v => gangSet v s
    | .sysw 0x11 v => modTeam s.team.tid (fun t => { t with mfl := field v 0 6, bankc := field v 32 32 }) s
    | .mclr => modTeam s.team.tid (fun t => { t with mfl := 0, bankc := 0 }) s
    | _ => s) s
  l.foldl (fun s x => match x with
    | .bank n => modTeam s.team.tid (fun t => { t with bankc := (t.bankc + n) % 2 ^ 32 }) s
    | _ => s) s

/-! ### SYSR and SYSW (R123) -/

/-- A system register's value (R44). -/
def sysRead (s : State) (n : Nat) : Word :=
  match n with
  | 0 => BitVec.ofNat 64 s.grp.fpstat
  | 1 => BitVec.ofNat 64 s.grp.qstat
  | 2 => BitVec.ofNat 64 s.grp.qmode
  | 0x10 => s.team.gang
  | 0x11 => mstatWord s.team
  | 0x20 => dvspWord s.grp
  | 0x21 => packFields [(0, 32, s.grp.pgtok), (32, 1, b2n s.grp.pgPend)]
  | _ => if n = 0x10F then spareWord s else if n < 0x200 then linkWord s (n - 0x100) else sliceWord s (n - 0x200)

/-- SYSR's effect (R123). -/
def sysrAct (f : Ctl) (s : State) : Except Stop State :=
  let n := f.imm.toNat
  if 0x100 ≤ n && ! blockReadable s then .error (.trap 0x05 (BitVec.allOnes 32) 0 0)
  else .ok (advance (lenOf f.len) (writeS f.d.toNat (sysRead s n) s))

/-- SYSR (R123). -/
def execSysr (f : Ctl) (s : State) : Host.Outcome State Fault Refusal := issueE (.sysr f) (sysrAct f) s

/-- A system register written: reserved fields ignore it (R10, R44, R73, R81, R82, R110, R345). Another depth makes another entry the top one, which
releases a slot parked at a JOIN by case 4; new join tags release none (R113). -/
def sysWrite (n : Nat) (v : Word) (s : State) : Except Stop State :=
  match n with
  | 0x10 => gangAct v s
  | 0x11 => .ok (defer (.sysw 0x11 v) (modTeam s.team.tid (fun t => { t with mfl := field v 0 6, bankc := field v 32 32 })) s)
  | 0x20 =>
    let t := defer (.sysw 0x20 v) (modGrp (fun g => g.sysw 0x20 v)) s
    .ok (if (s.grp.sysw 0x20 v).dvDepth = s.grp.dvDepth then t else wakeStack t)
  | _ => .ok (defer (.sysw n v) (modGrp (fun g => g.sysw n v)) s)

/-- SYSW's effect (R123). -/
def syswAct (f : Ctl) (s : State) : Except Stop State :=
  match sysWrite f.imm.toNat (readS s f.a.toNat) s with
  | .error e => .error e
  | .ok s => .ok (advance (lenOf f.len) s)

/-- SYSW (R123). -/
def execSysw (f : Ctl) (s : State) : Host.Outcome State Fault Refusal := issueE (.sysw f) (syswAct f) s

/-! ### TIME, IDX, ICINV (R124, R125, R127) -/

/-- TIME (R124). -/
def execTime (f : Ctl) (s : State) : Host.Outcome State Fault Refusal :=
  issue (.time f) noStop (fun s => advance (lenOf f.len) (writeS f.d.toNat (BitVec.ofNat 64 s.time) s)) s

/-- The uniform indices (R125, R210). -/
def idxValue (s : State) (sel : Nat) : Nat :=
  let t := s.team.index
  match gridOf s s.grp.grid with
  | none => if sel = 0 then s.grp.index else if sel = 7 then s.team.ngroups else if sel = 12 then t else if sel = 13 then b2n s.cur else 0
  | some g =>
    let p := t % (g.pkt.w * g.pkt.h)
    match sel with
    | 0 => s.grp.index
    | 1 => t % g.pkt.x
    | 2 => (t / g.pkt.x) % g.pkt.y
    | 3 => t / (g.pkt.x * g.pkt.y)
    | 4 => g.pkt.x
    | 5 => g.pkt.y
    | 6 => g.pkt.z
    | 7 => g.pkt.gm1 + 1
    | 8 => p % g.pkt.w
    | 9 => p / g.pkt.w
    | 10 => g.pkt.w
    | 11 => g.pkt.h
    | 12 => t
    | _ => b2n s.cur

/-- IDX (R125). -/
def execIdx (f : Ctl) (s : State) : Host.Outcome State Fault Refusal :=
  issue (.idx f) noStop (fun s => advance (lenOf f.len) (writeS f.d.toNat (BitVec.ofNat 64 (idxValue s f.imm.toNat)) s)) s

/-- A loop whose pinned body overlaps a byte range: unpinned (R127). -/
def Loop.unpin (lo n : Nat) (l : Loop) : Loop :=
  match l.pin with
  | .held _ => if va57 l.body < lo + n && lo < va57 l.body + l.len then { l with pin := .dropped } else l
  | _ => l

/-- A group's loops over a byte range unpinned: those of its slots, and those to which an abort would put them back (R127, R321). -/
def Group.unpin (lo n : Nat) (g : Group) : Group :=
  let f : Option Loop → Option Loop := fun l => l.map (Loop.unpin lo n)
  { g with
    slot0 := { g.slot0 with loop := f g.slot0.loop }, slot1 := { g.slot1 with loop := f g.slot1.loop },
    start := { g.start with s0 := { g.start.s0 with loop := f g.start.s0.loop }, s1 := { g.start.s1 with loop := f g.start.s1.loop } } }

/-- Fetches of blocks on their way from peers bring no copy: they were sent before the copies were dropped (R127). -/
def staleCode (p : Nat) (c : Option Nat) (b n : Nat) (s : State) : State :=
  modFabric (fun x => { x with reqs := x.reqs.map (fun r => match r.purpose with
    | .ifetch k q block => if q = p && b ≤ block && block < b + n && (match c with | some c => c == k | none => true) then { r with stale := true } else r
    | _ => r) }) s

/-- The copies of n blocks from block b on, in a partition's address space, dropped from a core or from all (R127). -/
def dropCode (p : Nat) (c : Option Nat) (b n : Nat) (s : State) : State :=
  let keep (k : Core) : Core := { k with icache := k.icache.filter (fun x => ! (x.part == p && b ≤ x.block && x.block < b + n)) }
  let s := match c with | some c => modCore c keep s | none => { s with cores := s.cores.map keep }
  mapGroups (fun g => if g.part = p && (match c with | some c => g.core == c | none => true) then g.unpin (32 * b) (32 * n) else g)
    (staleCode p c b n s)

/-- ICINV's effect (R127). -/
def icinvAct (f : Ctl) (s : State) : Except Stop State :=
  let va := (readS s f.a.toNat).toNat
  if ! canonical va then .error (.trap 0x05 (BitVec.allOnes 32) va 0)
  else
    let s := dropCode s.grp.part (if f.at 8 1 = 1 then none else some s.grp.core) (va57 va / 32) (f.at 0 8 + 1) s
    .ok (advance (lenOf f.len) (addOp f.cf.toNat (Op.new .done) s))

/-- ICINV (R127). -/
def execIcinv (f : Ctl) (s : State) : Host.Outcome State Fault Refusal := issueE (.icinv f) (icinvAct f) s

end Sys2Proof.Machine
end

