-- ==== Sys2Proof/Machine/Matrix.lean ====
section
/-! DEFINITION. The matrix engine: leases, gangs, MMA and the rendezvous latch, MZERO, MDRN, MSTAT (R329 to R346, R365 to R373). -/
namespace Sys2Proof.Machine

/-! ### Leases (R331 to R334, R365, R366) -/

/-- Every LEASE of a team that is outstanding may complete. -/
def leaseDone (tid : Nat) (s : State) : State :=
  mapGroups (fun g => if g.team = tid then
    { g with ops := g.ops.map (fun o => match o.kind with | .lease => { o with kind := .done } | _ => o) } else g) s

/-- Does another team than the one given wait at a core's arbiter? -/
def othersWait (s : State) (c tid : Nat) : Bool := (core s c).leaseQ.any (fun t => t != tid)

/-- The lease of a core expires where its holder has no count left and another team waits (R332). It stays expired whatever becomes of that
team (R366). -/
def expireNow (c : Nat) (s : State) : State :=
  match (core s c).holder with
  | some t =>
    if othersWait s c t && (match teamOf s t with | some x => x.lcnt == 0 | none => false) then modCore c (fun k => { k with expired := true }) s else s
  | none => s

/-- A team receives the lease with the count that it asked for (R332, R334); one that is resumed with none left holds it only while nobody waits
(R332, R368). -/
def giveLease (c tid : Nat) (s : State) : State :=
  let s := modCore c (fun k => { k with holder := some tid, expired := false, leaseQ := k.leaseQ.filter (fun t => t != tid) }) s
  bump (expireNow c (leaseDone tid (modTeam tid (fun t => { t with lheld := true, lcnt := t.pn, lpend := false }) s)))

/-- The team that the arbiter of a core grants now: the head, where the engine is free or the head holds it with no count left (R331,
R334; log entry 19). -/
def leaseHead (s : State) (c : Nat) : Option Nat :=
  match (core s c).leaseQ with
  | [] => none
  | h :: _ => match (core s c).holder with
    | none => some h
    | some t => if t = h && (match teamOf s t with | some x => x.lcnt == 0 | none => false) then some h else none

/-- The arbiter's grant (R334). -/
def grantHead (c : Nat) (s : State) : State := match leaseHead s c with | some h => giveLease c h s | none => s

/-- LEASE_GRANT (R334). -/
def execLeaseGrant (c : Nat) (s : State) : Host.Outcome State Fault Refusal := .next (grantHead c s)

/-- The team whose lease of a core has expired. -/
def leaseExpired (s : State) (c : Nat) : Option Nat := if (core s c).expired then (core s c).holder else none

/-- A team's request joins a core's queue, or replaces the count of the one that waits (R331, R332, R365). -/
def askLease (c tid n : Nat) (s : State) : State :=
  let s := modTeam tid (fun t => { t with lpend := true, pn := n }) s
  expireNow c (modCore c (fun k => { k with leaseQ := if k.leaseQ.contains tid then k.leaseQ else k.leaseQ ++ [tid] }) s)

/-- A team without the lease; the engine passes on (R332 to R334). -/
def dropLease (c tid : Nat) (s : State) : State :=
  let s := modTeam tid (fun t => { t with lheld := false, lcnt := 0 }) s
  modCore c (fun k => if k.holder = some tid then { k with holder := none, expired := false } else k) s

/-- LEASE_EXPIRE (R332): started MMAs have completed, since each completes in the step that starts it. -/
def execLeaseExpire (c : Nat) (s : State) : Host.Outcome State Fault Refusal :=
  .next (match leaseExpired s c with | some t => grantHead c (dropLease c t s) | none => s)

/-- LEASE's effect (R331). -/
def leaseEff (f : Ctl) (s : State) : State :=
  let n := f.at 0 10 + 1
  let c := s.grp.core
  let t := s.team.tid
  let go (k : OpKind) (s : State) : State := advance (lenOf f.len) (addOp f.cf.toNat (Op.new k) s)
  if s.team.lheld && ! othersWait s c t then go .done (modTeam t (fun x => { x with lcnt := n }) s)
  else grantHead c (go .lease (askLease c t n s))

/-- LEASE (R331). -/
def execLease (f : Ctl) (s : State) : Host.Outcome State Fault Refusal :=
  issue (.lease f) noStop (leaseEff f) s

/-- A team gives up its lease and its request (R333). -/
def releaseLease (c tid : Nat) (s : State) : State :=
  let s := modTeam tid (fun t => { t with lpend := false, pn := 0 }) (dropLease c tid s)
  let s := modCore c (fun k => { k with leaseQ := k.leaseQ.filter (fun t => t != tid) }) s
  leaseDone tid s

/-- RELS's effect (R333). -/
def relsEff (f : Ctl) (s : State) : State :=
  grantHead s.grp.core (advance (lenOf f.len) (addOp f.cf.toNat (Op.new .done) (releaseLease s.grp.core s.team.tid s)))

/-- RELS (R333). -/
def execRels (f : Ctl) (s : State) : Host.Outcome State Fault Refusal := issue (.rels f) noStop (relsEff f) s

/-! ### GANG (R336) -/

/-- GANG's act (R336). -/
def gangIssue (f : Ctl) (s : State) : Except Stop State :=
  match gangAct (readS s f.a.toNat) s with
  | .error e => .error e
  | .ok s => .ok (advance (lenOf f.len) (addOp f.cf.toNat (Op.new .done) s))

/-- GANG (R336). -/
def execGang (f : Ctl) (s : State) : Host.Outcome State Fault Refusal := issueE (.gang f) (gangIssue f) s

/-! ### MMA's arrival (R337, R339) -/

/-- NA of a gang. -/
def gangA (v : Word) : Nat := field v 0 3
/-- NB of a gang. -/
def gangB (v : Word) : Nat := field v 3 3

/-- The tiles of a team. -/
def Team.nTiles (t : Team) : Nat := 8 * t.accGran

/-- Does a slot stand at the instruction that a fragment came from? -/
def Frag.standsAt (a : Frag) (x : Slot) : Bool := a.tmpl == slotTrap x a.slot a.tmpl.code a.tmpl.compl a.tmpl.lanes a.tmpl.addr a.tmpl.detail

/-- Does the issuing slot stand at an MMA whose joint MMA is queued (R339, R366)? -/
def inJoint (s : State) : Bool :=
  s.team.joints.any (fun x => x.frags.any (fun a => a.gid == s.grp.gid && a.slot == s.cur && a.standsAt (slot s)))

/-- What stops an MMA, in the order of R339. A member whose latch has completed has left the park and is held until the joint MMA starts
(R366; log entry 62). -/
def mmaStop (f : Ctl) (s : State) : Option Stop :=
  let t := s.team
  let trap (c : Nat) : Option Stop := some (.trap c (BitVec.allOnes 32) 0 0)
  if inJoint s then some .hold else
  match memberOf t s.grp.index with
  | none => trap 0x01
  | some m =>
    if t.nTiles < f.d.toNat + gangA t.gang * gangB t.gang then trap 0x01
    else if t.latch.broken then trap 0x0A
    else if ! t.lheld && ! t.lpend then trap 0x09
    else if ! t.latch.arrived.isEmpty
        && (t.latch.tag != f.at 0 8 || t.latch.d != f.d.toNat || t.latch.sb != readS s f.b.toNat) then trap 0x0A
    else if t.latch.arrived.any (fun a => a.member == m) then some .hold
    else none

/-- The arrival of the issuing member: its fragment is captured now (R28, R339). -/
def arrival (f : Ctl) (m : Nat) (s : State) : Frag :=
  let regs := (List.range 4).map (fun j => f.a.toNat + j)
  { member := m, gid := s.grp.gid, slot := s.cur, flag := flagNo s f.cf.toNat, bad := popBad s.grp regs, tmpl := slotTrap (slot s) s.cur 0 false 0 0 0,
    op := 0,
    regs := regs.map (readQ s) }

/-- A member issues its MMA as the joint MMA starts: its operation is outstanding, and its slot goes on (R339, R340). -/
def memberOn (a : Frag) (s : State) : Frag × State :=
  let id := s.nextId
  let o : Op := { Op.new .mma with
    id := id, slot := a.slot, flag := a.flag,
    trap := if a.bad = 0 then none else some { a.tmpl with code := 0x06, compl := true, lanes := a.bad } }
  match groupOf s a.gid with
  | none => (a, s)
  | some g =>
    let y := (g.slot a.slot).urgent || (g.slot a.slot).yieldsAt
    let s := modGroup a.gid (fun g => { countOn a.slot a.flag (g.modSlot a.slot (fun x => (Slot.issued x).step 8)) with
      ops := g.ops ++ [{ o with region := g.region }] }) s
    let s := { s with nextId := id + 1 }
    ({ a with op := id }, if y then youngestOf g.core a.gid a.slot s else s)

/-- Every member issues. -/
def membersOn : List Frag → State → List Frag × State
  | [], s => ([], s)
  | a :: t, s =>
    let x := memberOn a s
    let y := membersOn t x.2
    (x.1 :: y.1, y.2)

/-- A member leaves the park and is held at its MMA; one restored in the park finds its place first (R324, R339, R366). -/
def unparkMember (a : Frag) (s : State) : State :=
  modGroup a.gid (fun g => g.modSlot a.slot (fun x => { x with st := if x.reenter then .ready else .held, seen := s.change })) s

/-- MMA's effect: the slot parks, or the latch completes, every member leaves the park, and the joint MMA is queued (R339). -/
def mmaEff (f : Ctl) (s : State) : State :=
  match memberOf s.team s.grp.index with
  | none => s
  | some m =>
    let tid := s.team.tid
    let l : Latch := if s.team.latch.arrived.isEmpty then
        { tag := f.at 0 8, d := f.d.toNat, sb := readS s f.b.toNat, arrived := [], broken := false }
      else s.team.latch
    let l := { l with arrived := l.arrived ++ [arrival f m s] }
    if l.arrived.length < gangA s.team.gang + gangB s.team.gang then
      modCur (fun x => { x with st := .parkGang }) (modTeam tid (fun t => { t with latch := l }) s)
    else
      let j : Joint := { no := s.nextId, d := l.d, sb := l.sb.toNat, gang := s.team.gang, frags := l.arrived }
      let s := l.arrived.foldl (fun s a => unparkMember a s) { s with nextId := s.nextId + 1 }
      modTeam tid (fun t => { t with latch := { l with arrived := [] }, joints := t.joints ++ [j] }) s

/-- MMA (R339). -/
def execMma (f : Ctl) (s : State) : Host.Outcome State Fault Refusal := issue (.mma f) (mmaStop f) (mmaEff f) s

/-! ### The format block (R338) -/

/-- A format block as read. -/
structure FmtBlk where
  aty : Nat
  bty : Nat
  alen : Nat
  blen : Nat
  saa : Nat
  sab : Nat
  ok : Bool
deriving DecidableEq, Repr

/-- The common element width of a pair of type codes, 0 where the pair is in no row (R338). -/
def pairWidth (a b : Nat) : Nat :=
  let both (p : Nat → Bool) : Bool := p a && p b
  if both (fun t => t == 8 || t == 9) then 16
  else if both (fun t => t == 0 || t == 1 || t == 12 || t == 13) then 8
  else if both (fun t => t == 14 || t == 15) then 4
  else if both (fun t => t == 10) || both (fun t => t == 4 || t == 5) then 32
  else 0

/-- "None" of a scale offset. -/
def noScale : Nat := 0xFFFFFFFF

/-- The format block at a scratchpad offset (R338). -/
def fmtBlock (t : Team) (sb : Nat) : FmtBlk :=
  let w (i : Nat) : Word := (t.word (sb / 8 + i)).data
  let saa := field (w 0) 32 32
  let sab := field (w 1) 0 32
  let aligned (x : Nat) : Bool := x == noScale || x % 4 == 0
  { aty := field (w 0) 0 4, bty := field (w 0) 4 4, alen := field (w 0) 8 5 + 1, blen := field (w 0) 13 5 + 1, saa := saa, sab := sab,
    ok := field (w 0) 18 14 == 0 && field (w 1) 32 32 == 0 && w 2 == 0 && w 3 == 0 && aligned saa && aligned sab
      && pairWidth (field (w 0) 0 4) (field (w 0) 4 4) != 0 }

/-- Do n bytes from an offset lie wholly within a team's scratchpad? -/
def Team.inside (t : Team) (off n : Nat) : Bool := off + n ≤ t.spadSize

/-! ### Accumulation (R340, R341, R369) -/

/-- A NaN as a term: it sets NV whatever its kind (R340). -/
def loudNan (x : FV) : FV := match x with | .nan _ => .nan true | y => y

/-- One exact product; a product with an integer factor is never -0 (R369). -/
def mmaTerm (aty bty a b : Nat) : FV :=
  match loudNan ((valueOf aty a).mul (valueOf bty b)) with
  | .fin s m e => .fin (s && ! (m == 0 && (tyInt aty || tyInt bty))) m e
  | y => y

/-- `MRound` of an exact sum (R340). -/
def mRound (ts : List FV) : FRes := roundEx (fmtOf 10) 0 .ieee (sumEx 0 ts)

/-- The accumulator as a term. -/
def accTerm (acc : Nat) : FV := loudNan (decodeF (fmtOf 10) acc)

/-- One pass over K pairs: a new accumulator, and its flags beside the earlier ones. -/
def accPass (terms : List FV) (x : FRes) : FRes :=
  let r := mRound (accTerm x.bits :: terms)
  ⟨r.bits, x.fl ||| r.fl⟩

/-- The three bf16 slices of a binary32 element: hi, mid, lo (R341). -/
def f32Slices (x : Nat) : Nat × Nat × Nat :=
  let cut (e : Ex) : Nat := (roundEx (fmtOf 9) 1 .ieee e).bits
  match decodeF (fmtOf 10) x with
  | .fin s m e =>
    let v : FV := .fin s m e
    let hi := cut v.ex
    let r1 := sumEx 0 [v, (decodeF (fmtOf 9) hi).neg]
    let mid := cut r1
    let lo := cut (sumEx 0 [v, (decodeF (fmtOf 9) hi).neg, (decodeF (fmtOf 9) mid).neg])
    (hi, mid, lo)
  | y => (cut y.ex, 0, 0)

/-- The slice of a binary32 element: 0 hi, 1 mid, 2 lo. -/
def f32Slice (i x : Nat) : Nat := let t := f32Slices x; if i = 0 then t.1 else if i = 1 then t.2.1 else t.2.2

/-- The passes of FP32 synthesis: A's slice and B's (R341). -/
def f32Passes : List (Nat × Nat) := [(2, 0), (0, 2), (1, 1), (1, 0), (0, 1), (0, 0)]

/-- Slice p of a 32-bit integer element (R341). -/
def intSlice (ty p x : Nat) : Int := if p = 3 && ty = 4 then toSigned 8 (x >>> 24) else (((x >>> (8 * p)) % 256 : Nat) : Int)

/-- The passes of the INT8 four-slice mode (R341). -/
def intPasses : List (Nat × Nat) := [(0, 3), (1, 2), (2, 1), (3, 0), (1, 3), (2, 2), (3, 1), (2, 3), (3, 2), (3, 3)]

/-- A term of an integer pass. -/
def intTerm (aty bty p q : Nat) (x : Nat × Nat) : FV :=
  let v := intSlice aty p x.1 * intSlice bty q x.2
  .fin (decide (v < 0)) v.natAbs (8 * ((p + q : Nat) : Int))

/-- A new accumulator element, from the old one and the K pairs of elements (R340, R341). -/
def accumulate (aty bty acc : Nat) (ps : List (Nat × Nat)) : FRes :=
  if aty = 10 then
    f32Passes.foldl (fun x q => accPass (ps.map (fun p => loudNan ((decodeF (fmtOf 9) (f32Slice q.1 p.1)).mul (decodeF (fmtOf 9) (f32Slice q.2 p.2))))) x)
      ⟨acc, 0⟩
  else if aty = 4 || aty = 5 then intPasses.foldl (fun x q => accPass (ps.map (intTerm aty bty q.1 q.2)) x) ⟨acc, 0⟩
  else accPass (ps.map (fun p => mmaTerm aty bty p.1 p.2)) ⟨acc, 0⟩

/-- Element k of row or column l of a member's fragment (R337). -/
def fragElem (a : Frag) (w l k : Nat) : Nat := elem (lane (a.regs.getD (k / (64 / w)) (splat 0)) l) (k % (64 / w)) w

/-- The new rows of one tile, from its old rows and two fragments, with the flags raised. -/
def tileRows (b : FmtBlk) (rows : List (List Nat)) (x y : Frag) : List (List Nat) × Nat :=
  let w := pairWidth b.aty b.bty
  let ks := List.range (4 * (64 / w))
  let rs := (List.range 32).map (fun r => (List.range 32).map (fun c =>
    accumulate b.aty b.bty ((rows.getD r []).getD c 0) (ks.map (fun k => (fragElem x w r k, fragElem y w c k)))))
  (rs.map (fun r => r.map FRes.bits), rs.foldl (fun a r => r.foldl (fun a e => a ||| e.fl) a) 0)

/-! ### The joint MMA (R340, R342, R366) -/

/-- The chain that tile i, j of a joint MMA would record (R340, R371). -/
def chainOf (b : FmtBlk) (i j : Nat) : Chain :=
  { set := true, saa := b.saa, sab := b.sab, alen := b.alen, blen := b.blen, roff := 32 * i, coff := 32 * j }

/-- The tiles of a joint MMA: tile number, i, j. -/
def jointTiles (x : Joint) : List (Nat × Nat × Nat) :=
  (List.range (gangA x.gang)).flatMap (fun i => (List.range (gangB x.gang)).map (fun j => (x.d + i * gangB x.gang + j, i, j)))

/-- May a tile take a joint MMA: it has a chain whose scales are unset, or set to the same values (R340)? -/
def chainOk (t : Team) (b : FmtBlk) (x : Nat × Nat × Nat) : Bool :=
  match t.tiles[x.1]? with
  | some ti => match ti.chain with
    | some c => ! c.set || c == chainOf b x.2.1 x.2.2
    | none => false
  | none => false

/-- The tiles of a team after a joint MMA, and the flags raised (R340). -/
def runJoint (t : Team) (b : FmtBlk) (x : Joint) : List Tile × Nat :=
  (jointTiles x).foldl (fun a z =>
    match a.1[z.1]?, x.frags.find? (fun g => g.member == z.2.1), x.frags.find? (fun g => g.member == gangA x.gang + z.2.2) with
    | some ti, some p, some q =>
      let r := tileRows b ti.rows p q
      (a.1.set z.1 { rows := r.1, chain := some (chainOf b z.2.1 z.2.2) }, a.2 ||| r.2)
    | _, _, _ => a) (t.tiles, 0)

/-- Every member's MMA done. -/
def jointEnd (fs : List Frag) (s : State) : State := fs.foldl (fun s a => modOp a.gid a.op (fun o => { o with kind := .done }) s) s

/-- Every member traps at its MMA, which has no effect (R307, R340), but for the pops of its fragment at its arrival (DESIGN CHOICE, log entry 62). -/
def jointFail (x : Joint) (code : Nat) (s : State) : State :=
  x.frags.foldl (fun s a =>
    reportBase a.gid { a.tmpl with code := code, lanes := BitVec.allOnes 32 } (modGroup a.gid (fun g => g.modSlot a.slot (fun x => { x with st := .ready })) s)) s

/-- The code with which the checks of a joint MMA fail, if they do (R338, R340). -/
def jointTrap (t : Team) (x : Joint) : Option Nat :=
  if x.sb % 32 != 0 || ! t.inside x.sb 32 || ! (fmtBlock t x.sb).ok then some 0x01
  else if (jointTiles x).any (fun z => ! chainOk t (fmtBlock t x.sb) z) then some 0x0B
  else none

/-- A joint MMA run: its checks, its tiles, its flags; its start takes one from the lease, which may expire (R332, R340, R345). -/
def startJoint (tid : Nat) (t : Team) (x : Joint) (s : State) : State :=
  let s := expireNow t.core (modTeam tid (fun t => { t with joints := t.joints.drop 1, lcnt := t.lcnt - 1 }) s)
  match jointTrap t x with
  | some c => bump (gangTrap tid true (jointFail x c s))
  | none =>
    let r := runJoint t (fmtBlock t x.sb) x
    let m := membersOn x.frags s
    bump (jointEnd m.1 (orMstat tid (mstatBits r.2) (modTeam tid (fun t => { t with tiles := r.1 }) m.2)))

/-- Is an MDRN with a lower number outstanding on one of these tiles (R342)? -/
def drainBefore (s : State) (tid no : Nat) (tiles : List Nat) : Bool :=
  (allGroups s).any (fun g => g.team == tid && g.ops.any (fun o => o.id < no && (match o.kind with
    | .mdrn _ tile _ _ _ _ _ _ _ _ => tiles.contains tile
    | _ => false)))

/-- Does a member stand held at its MMA: its group runs, and is not stopped for a trap or a save (R306, R322)? -/
def memberHere (s : State) (a : Frag) : Bool :=
  match groupOf s a.gid with
  | some g => g.life == .resident && g.trap.isNone && ! g.stopped && ! g.inHandler && ! g.aborting && (g.slot a.slot).st == .held
      && ! (g.slot a.slot).reenter && a.standsAt (g.slot a.slot)
  | none => false

/-- May a team's next joint MMA start: the lease is held and has not expired, its members are held at their MMAs, earlier drains are done, the
format block is present (R239, R340, R342, R366)? -/
def jointReady (s : State) (t : Team) : Option Joint :=
  match t.joints with
  | [] => none
  | x :: _ =>
    if t.lheld && ! t.saved && ! (core s t.core).expired && x.frags.all (memberHere s)
        && ! drainBefore s t.tid x.no ((jointTiles x).map Prod.fst)
        && (x.sb % 32 != 0 || ! t.inside x.sb 32 || t.present (x.sb / 128)) then some x
    else none

/-- JOINT_MMA_START (R340). -/
def execJointMmaStart (tid : Nat) (s : State) : Host.Outcome State Fault Refusal :=
  .next (match teamOf s tid with
    | some t => match jointReady s t with | some x => startJoint tid t x s | none => s
    | none => s)

/-! ### MZERO (R343) -/

/-- A tile of zeros with a new chain (R343). -/
def Tile.zero : Tile :=
  { rows := List.replicate 32 (List.replicate 32 0),
    chain := some { set := false, saa := noScale, sab := noScale, alen := 1, blen := 1, roff := 0, coff := 0 } }

/-- Is an MMA or MDRN outstanding on one of these tiles of the focused team (R342)? A joint MMA counts from its queueing on, not a member that waits at the
latch (DESIGN CHOICE, log entry 62). -/
def tilesBusy (s : State) (tiles : List Nat) : Bool :=
  s.team.joints.any (fun x => (jointTiles x).any (fun z => tiles.contains z.1)) || drainBefore s s.team.tid s.nextId tiles

/-- What stops an MZERO (R329, R342). -/
def mzeroStop (f : Ctl) (s : State) : Option Stop :=
  let n := f.at 0 6 + 1
  if s.team.nTiles < f.d.toNat + n then some .ill
  else if tilesBusy s ((List.range n).map (fun i => f.d.toNat + i)) then some .hold
  else none

/-- MZERO's effect (R343). -/
def mzeroEff (f : Ctl) (s : State) : State :=
  let s := modTeam s.team.tid (fun t => { t with
    tiles := (List.range (f.at 0 6 + 1)).foldl (fun ts i => ts.set (f.d.toNat + i) Tile.zero) t.tiles }) s
  advance (lenOf f.len) (addOp f.cf.toNat (Op.new .done) s)

/-- MZERO (R343). -/
def execMzero (f : Ctl) (s : State) : Host.Outcome State Fault Refusal := issue (.mzero f) (mzeroStop f) (mzeroEff f) s

/-! ### MDRN (R344, R370, R371) -/

/-- MDRN's stop: the tile's number (R329). -/
def mdrnStop (f : Ctl) (s : State) : Option Stop := if s.team.nTiles ≤ f.a.toNat then some .ill else none

/-- MDRN's effect: the drain is outstanding (R344). -/
def mdrnEff (f : Ctl) (s : State) : State :=
  let k : OpKind := .mdrn f.d.toNat f.a.toNat (f.at 0 5) (f.at 5 2 + 1) f.ty.toNat (f.at 12 2) (f.at 7 2) (f.at 9 2) (f.at 11 1 == 1)
    (if f.len = .l64 then none else some f.w1.toNat)
  let s := addOp f.cf.toNat { Op.new k with trap := some (complTrap s 0x05 (BitVec.allOnes 32) 0) } s
  advance (lenOf f.len) s

/-- MDRN (R344). -/
def execMdrn (f : Ctl) (s : State) : Host.Outcome State Fault Refusal := issue (.mdrn f) (mdrnStop f) (mdrnEff f) s

/-- The scratchpad offsets of the scales that a drain reads: rows, then columns (R344). -/
def scaleOffs (c : Chain) (row n : Nat) : List Nat :=
  (if c.saa = noScale then [] else (List.range n).map (fun i => c.saa + 4 * ((c.roff + row + i) / c.alen)))
    ++ (if c.sab = noScale then [] else (List.range 32).map (fun l => c.sab + 4 * ((c.coff + l) / c.blen)))

/-- A binary32 scale at a scratchpad offset. -/
def scaleAt (t : Team) (off : Nat) : FV := decodeF (fmtOf 10) (field (t.word (off / 8)).data (8 * (off % 8)) 32)

/-- A tile's element as drained: one without a chain has no defined content, so a free value (R344; log entry 3). -/
def tileElem (s : State) (ti : Tile) (row l : Nat) : Nat :=
  match ti.chain with
  | some _ => (ti.rows.getD row []).getD l 0
  | none => (Config.freeWord (s.free + 32 * row + l)).toNat % 2 ^ 32

/-- The exact product that a drain rounds (R344). -/
def drainProduct (s : State) (t : Team) (ti : Tile) (mul row l : Nat) : FV :=
  let x := decodeF (fmtOf 10) (tileElem s ti row l)
  let m := decodeF (fmtOf 10) mul
  match ti.chain with
  | some c =>
    if c.set then
      let sa := if c.saa = noScale then FV.fin false 1 0 else scaleAt t (c.saa + 4 * ((c.roff + row) / c.alen))
      let sb := if c.sab = noScale then FV.fin false 1 0 else scaleAt t (c.sab + 4 * ((c.coff + l) / c.blen))
      ((x.mul sa).mul sb).mul m
    else x.mul m
  | none => x.mul m

/-- The chain of a tile where its scales are set. -/
def setChain (ti : Tile) : Option Chain := match ti.chain with | some c => if c.set then some c else none | none => none

/-- May a drain be performed: earlier joint MMAs on its tile are done, its scale lines present, earlier drains of its group to the same
amax register done (R342, R344)? -/
def mdrnReady (s : State) (g : Group) (o : Op) : Bool :=
  match o.kind, teamOf s g.team with
  | .mdrn _ tile row nreg ty _ amx amop _ _, some t =>
    let offs := match t.tiles[tile]? with
      | some ti => (match setChain ti with | some c => scaleOffs c row (nreg * (64 / tyWidth ty)) | none => [])
      | none => []
    ! t.joints.any (fun x => x.no < o.id && (jointTiles x).any (fun z => z.1 == tile))
      && offs.all (fun a => ! t.inside a 4 || t.present (a / 128))
      && (amop == 0 || ! g.ops.any (fun p => p.id < o.id && (match p.kind with
          | .mdrn _ _ _ _ _ _ amx' amop' _ _ => amop' != 0 && amx' == amx
          | _ => false)))
  | _, _ => false

/-- A drain performed: its registers, flags and amax update, or its ACCESS trap (R344). -/
def mdrnResult (s : State) (t : Team) (o : Op) : Op :=
  match o.kind with
  | .mdrn d tile row nreg ty rm amx amop nsat mul =>
    let ti := t.tiles.getD tile { rows := [], chain := none }
    let n := 64 / tyWidth ty
    let offs := match setChain ti with | some c => scaleOffs c row (nreg * n) | none => []
    if offs.any (fun a => ! t.inside a 4) then { o with kind := .done }
    else
      let m := mul.getD 0x3F800000
      let x (j l i : Nat) : FV := drainProduct s t ti m (row + j * n + i) l
      let r (j l i : Nat) : FRes := convF ty rm nsat (x j l i).ex
      let xs := (List.range nreg).flatMap (fun j => (List.range 32).flatMap (fun l => (List.range n).map (fun i => x j l i)))
      let fl := xs.foldl (fun a v => a ||| (convF ty rm nsat v.ex).fl) 0
      { o with
        kind := .done, trap := none, ms := mstatBits fl,
        writes := (List.range nreg).map (fun j =>
            RegWrite.vec (d + j) (BitVec.allOnes 32) ((List.range 32).map (fun l => ofElems (tyWidth ty) (fun i => (r j l i).bits))) allBits)
          ++ (if amop = 0 then [] else [.amax amx amop (xs.foldl (fun a v => max a (magUp v)) 0) (xs.any FV.isNan)]) }
  | _ => o

/-! ### MSTAT (R346) -/

/-- MSTAT's effect: read, and with CLR cleared, in one step (R346). -/
def mstatEff (f : Ctl) (s : State) : State :=
  let s' := writeS f.d.toNat (mstatWord s.team) s
  let s' := if f.at 0 1 = 1 then defer .mclr (modTeam s.team.tid (fun t => { t with mfl := 0, bankc := 0 })) s' else s'
  advance (lenOf f.len) (addOp f.cf.toNat (Op.new .done) s')

/-- MSTAT (R346). -/
def execMstat (f : Ctl) (s : State) : Host.Outcome State Fault Refusal := issue (.mstat f) noStop (mstatEff f) s

end Sys2Proof.Machine
end

