-- ==== Sys2Proof/Machine/Walks.lean ====
section
/-! DEFINITION. Walk records (R347), the bank skew (R348), words that an engine assembles (R352, R358), what an engine reads (R277, R314, R317),
and LDFR (R349, R374). -/
namespace Sys2Proof.Machine

/-! ### Walk records (R347) -/

/-- Does a type have a NaN (R70)? -/
def tyNan (ty : Nat) : Bool := tyFloat ty && (fmtOf ty).nan.isSome

/-- A walk record from its eight words (R347). -/
def walkOf (ws : List Word) : Walk :=
  let n := natOfWords ws
  let f (lo len : Nat) : Nat := (n >>> lo) % 2 ^ len
  { base := f 0 64, ext := (List.range 5).map (fun k => f (64 + 32 * k) 32), str := (List.range 5).map (fun k => toSigned 40 (f (224 + 40 * k) 40)),
    esz := f 424 3, swz := f 427 2, fill := f 429 1 == 1, fty := f 430 4, sks := f 439 3 }

/-- Is a walk record valid on a side: scratchpad (`sp`) or global (R347)? -/
def walkValid (ws : List Word) (sp : Bool) : Bool :=
  let w := walkOf ws
  ! w.ext.contains 0 && w.esz ≤ 4 && w.swz != 3 && w.sks ≤ 4 && (w.swz != 0 || w.sks == 0) && natOfWords ws >>> 442 == 0
    && (sp || w.swz == 0) && ! (w.fill && tyNan w.fty && tyWidth w.fty != 4 * 2 ^ w.esz)

/-- The fill element (R347). -/
def Walk.fillElem (w : Walk) : Nat := if w.fill && tyNan w.fty then canonNan (fmtOf w.fty) else 0

/-- The nibbles of an element. -/
def Walk.nibs (w : Walk) : Nat := 2 ^ w.esz

/-- Nibble j of the fill element. -/
def Walk.fillNib (w : Walk) (j : Nat) : Nat := (w.fillElem >>> (4 * j)) % 16

/-- The nibble address of the element at an offset in elements (R347). -/
def Walk.nibAt (w : Walk) (off : Int) : Int := 2 * (w.base : Int) + off * (w.nibs : Int)

/-- The offset in elements of coordinates. -/
def Walk.offset (w : Walk) (cs : List Int) : Int := (cs.zip w.str).foldl (fun a x => a + x.1 * x.2) 0

/-- Are coordinates within the extents? -/
def Walk.within (w : Walk) (cs : List Int) : Bool := (cs.zip w.ext).all (fun x => 0 ≤ x.1 && x.1 < (x.2 : Int))

/-! ### The bank skew (R348) -/

/-- A scratchpad address skewed within its bank row (R348). -/
def skew (swz sks o : Nat) : Nat :=
  let w := o / 8
  let b := w % 32
  let row := w / 32
  let b2 := if swz = 1 then (b + row * 2 ^ sks) % 32 else if swz = 2 then b ^^^ ((row * 2 ^ sks) % 32) else b
  256 * row + 8 * b2 + o % 8

/-- A nibble of a scratchpad side after the skew; one of a global side is taken modulo 2^64 bytes. -/
def Walk.place (w : Walk) (sp : Bool) (n : Int) : Nat :=
  if sp then 2 * skew w.swz w.sks (n.toNat / 2) + n.toNat % 2 else (n % (2 ^ 65 : Nat)).toNat

/-- Does an element at a nibble address lie wholly within a scratchpad of a size in bytes? -/
def Walk.insidePad (w : Walk) (size : Nat) (n : Int) : Bool := 0 ≤ n && n + (w.nibs : Int) ≤ (2 * size : Nat)

/-! ### Words that an engine assembles (R85, R352, R358) -/

/-- Where a nibble comes from: a nibble address of the source, or a fill. -/
inductive NibSrc where
  | src (n : Nat)
  | fill (v : Nat)
deriving DecidableEq, Repr

/-- Nibble i of a word. -/
def nibOf (w : Word) (i : Nat) : Nat := field w (4 * i) 4

/-- The source word of a nibble: its byte address, a multiple of 8. -/
def NibSrc.word : NibSrc → Option Nat
  | .src n => some (n / 16 * 8)
  | .fill _ => none

/-- Is every nibble there and copied from its own place in one word? -/
def wholeFrom (l : List (Option NibSrc)) : Option Nat :=
  match l with
  | some (.src n) :: _ =>
    if l.length = 16 && (l.zip (List.range 16)).all (fun x => x.1 == some (.src (n / 16 * 16 + x.2))) then some (n / 16 * 8) else none
  | _ => none

/-- A word assembled from sixteen nibbles over an old word: copied whole with its postmark, or stamped, or stamped bad where a source word
mismatched (R352). `look` gives a source word and its page's stamp-required attribute. -/
def assemble (l : List (Option NibSrc)) (old : TWord) (look : Nat → TWord × Bool) : TWord :=
  match wholeFrom l with
  | some a => (look a).1
  | none =>
    let nib (i : Nat) : Nat := match l.getD i none with
      | some (.src n) => nibOf (look (n / 16 * 8)).1.data (n % 16)
      | some (.fill v) => v
      | none => nibOf old.data i
    let w := ofElems 4 nib
    let srcs := l.filterMap (fun x => x.bind NibSrc.word)
    if srcs.any (fun a => mismatch (look a).2 (look a).1) then stampedBad w else stamped w

/-! ### What an engine reads (R277, R314, R317, R319) -/

/-- What came of an engine's read of one word. -/
inductive EngRead where
  | ok (w : SrcWord) (s : State)
  | miss
  | refused
  | busy
deriving DecidableEq, Repr

/-- Does another command, here or at a peer's line, own the line of an engine's read (R277)? -/
def ownedApart (s : State) (own line : Nat) : Bool :=
  s.claims.any (fun x => x.1 == line && x.2 != own) || s.flumes.any (fun f => 2 * f.id != own && f.claimsAway s line)

/-- Read a word under a virtual address at its home: host and local memory at once; a peer's word is to be asked for; a line that another
command owns, or that a change of the map holds, is waited for (R248, R277, R382). -/
def engineRead (nd : Need) (c p own va : Nat) (count : Bool) (s : State) : EngRead :=
  if ! canonical va then .refused
  else
    let s := engineTlb c p va s
    match xlate s (some c) p va 8 nd with
    | .miss _ => .miss
    | .refused => .refused
    | .ok pa sreq =>
      let pa := canonPa s pa
      if ownedApart s own (lineNo s pa) || (mapHeld s c (lineNo s pa) && ! claimed s (lineNo s pa)) then .busy
      else
        let w : Option TWord := if (peerLine s (lineNo s pa)).isSome then none else some (homeWord s pa)
        .ok { va := va, pa := pa, sreq := sreq, w := w } (if count && w.isSome then accept s pa else s)

/-- How reading a list of words ended. -/
inductive EngEnd where
  | done
  | miss (va : Nat)
  | refused
  | busy
deriving DecidableEq, Repr

/-- Read the words of a list that are not among those read already, in order; a line is counted once (R233, R277). -/
def engineReads (nd : Need) (c p own : Nat) : List Nat → List SrcWord → State → List SrcWord × EngEnd × State
  | [], got, s => (got, .done, s)
  | va :: t, got, s =>
    if got.any (fun w => w.va == va) then engineReads nd c p own t got s
    else match engineRead nd c p own va (! got.any (fun w => w.va / 128 == va / 128)) s with
      | .ok w s => engineReads nd c p own t (got ++ [w]) s
      | .miss => (got, .miss va, s)
      | .refused => (got, .refused, s)
      | .busy => (got, .busy, s)

/-- The words read, looked up by virtual address; one that is not there yet reads as nothing. -/
def gotWord (got : List SrcWord) (va : Nat) : TWord × Bool :=
  match got.find? (fun w => w.va == va) with
  | some w => (w.w.getD ⟨0, 0⟩, w.sreq)
  | none => (⟨0, 0⟩, false)

/-- Word addresses in the order of their lines: the words of one line are read together, so that a line is seen whole (R277, R382). -/
def byLine (l : List Nat) : List Nat := ((l.map (fun a => a / 128)).eraseDups).flatMap (fun n => l.filter (fun a => a / 128 == n))

/-- Is every word there? -/
def gotAll (got : List SrcWord) : Bool := got.all (fun w => w.w.isSome)

/-- The words of a peer's line put where they are waited for. -/
def gotLine (line : Nat) (ws : List TWord) (got : List SrcWord) : List SrcWord :=
  got.map (fun w => if w.pa / 128 = line && w.w.isNone then { w with w := some (ws.getD (wordIx w.pa) ⟨0, 0⟩) } else w)

/-- Ask the peers for the lines of words that are not there, each once (R277, R419). -/
def engineAsk (c p gid : Nat) (pu : Purpose) (got : List SrcWord) (s : State) : State :=
  (((got.filter (fun w => w.w.isNone)).map (fun w => lineNo s w.pa)).eraseDups).foldl (fun s l =>
    match peerLine s l with
    | some (dev, pl) =>
      if s.fabric.reqs.any (fun r => r.dev == dev && r.line == pl && r.purpose == pu) then s
      else sendReq 1 dev pl 0xFFFF [] (some c) p gid pu s
    | none => s) s

/-! ### LDFR (R349) -/

/-- The offset of LDFR's walk record. -/
def ldfrOff (f : Ctl) (s : State) : Nat :=
  (readS s f.a.toNat + (if f.len = .l64 then 0 else f.w1.signExtend 64)).toNat

/-- The words of LDFR's walk record, as the slot sees them. -/
def ldfrRecord (off : Nat) (s : State) : List TWord := (List.range 8).map (fun i => padWord s s.team.tid (off + 8 * i))

/-- The nibbles of element i of register j in lane l: places in the scratchpad, or the fill (R349). -/
def ldfrNibs (w : Walk) (o0 o1 : Int) (l j i : Nat) : List NibSrc :=
  let c0 := o0 + (j * (16 / w.nibs) + i : Nat)
  let c1 := o1 + (l : Nat)
  (List.range w.nibs).map (fun (b : Nat) =>
    if w.within [c0, c1, 0, 0, 0] then .src (w.place true (w.nibAt (w.offset [c0, c1]) + (b : Nat))) else .fill (w.fillNib b))

/-- The sixteen nibbles of a register in a lane. -/
def ldfrReg (w : Walk) (o0 o1 : Int) (l j : Nat) : List NibSrc := (List.range (16 / w.nibs)).flatMap (ldfrNibs w o0 o1 l j)

/-- Does every element within the extents lie in the scratchpad (R349)? -/
def ldfrInside (w : Walk) (size : Nat) (o0 o1 : Int) : Bool :=
  (List.range 32).all (fun l => (List.range (4 * (16 / w.nibs))).all (fun k =>
    let cs : List Int := [o0 + (k : Nat), o1 + (l : Nat), 0, 0, 0]
    ! w.within cs || w.insidePad size (w.nibAt (w.offset cs))))

/-- The distinct words that register j reads. -/
def ldfrWords (w : Walk) (o0 o1 : Int) (j : Nat) : List Nat :=
  ((List.range 32).flatMap (fun l => (ldfrReg w o0 o1 l j).filterMap NibSrc.word)).eraseDups

/-- What register j adds to BANKC: the most words in one bank, less one (R349). -/
def ldfrConflicts (ws : List Nat) : Nat :=
  (List.range 32).foldl (fun a b => max a ((ws.filter (fun x => x / 8 % 32 == b)).length)) 0 - 1

/-- The register writes of an LDFR, and the lanes that met a mismatch (R168, R349). -/
def ldfrWrites (s : State) (d : Nat) (w : Walk) (o0 o1 : Int) : List RegWrite × Mask :=
  let look (a : Nat) : TWord := padWord s s.team.tid a
  let bad := maskOf (fun l => (List.range 4).any (fun j => (ldfrReg w o0 o1 l j).any (fun x =>
    match x.word with | some a => mismatch false (look a) | none => false)))
  let val (l j : Nat) : Word := (assemble ((ldfrReg w o0 o1 l j).map some) ⟨0, 0⟩ (fun a => (look a, false))).data
  ((List.range 4).map (fun j => RegWrite.vec (d + j) (~~~ bad) ((List.range 32).map (fun l => val l j)) allBits), bad)

/-- An LDFR that writes no register and traps at completion. -/
def ldfrFail (f : Ctl) (code off : Nat) (s : State) : State :=
  let t := { complTrap s code (BitVec.allOnes 32) off with addr := 0 }
  advance (lenOf f.len) (addOp f.cf.toNat { Op.new .done with isLoad := true, trap := some t } s)

/-- LDFR's act (R329, R330, R349); a record one of whose words mismatches is not used (R85, R168; log entry 57). -/
def ldfrAct (f : Ctl) (s : State) : Except Stop State :=
  let off := ldfrOff f s
  let o := readS s f.b.toNat
  let o0 := toSigned 32 (field o 0 32)
  let o1 := toSigned 32 (field o 32 32)
  let size := s.team.spadSize
  if off % 64 != 0 then .error (.trap 0x04 (BitVec.allOnes 32) off 0)
  else if size < off + 64 then .error (.trap 0x05 (BitVec.allOnes 32) off 0)
  else if acquirePending s then .error .hold
  else if ! s.team.present (off / 128) then .error (.parkPresence s.team.tid (off / 128))
  else
    let ws := (ldfrRecord off s).map TWord.data
    let w := walkOf ws
    if (ldfrRecord off s).any (mismatch false) then .ok (ldfrFail f 0x06 off s)
    else if 3 < w.esz then .error .ill
    else
      if ! walkValid ws true || ! ldfrInside w size o0 o1 then .ok (ldfrFail f 0x0C off s)
      else
        let words := (List.range 4).map (ldfrWords w o0 o1)
        match (words.flatten).find? (fun a => ! s.team.present (a / 128)) with
        | some a => .error (.parkPresence s.team.tid (a / 128))
        | none =>
          let r := ldfrWrites s f.d.toNat w o0 o1
          let t := if r.2 = 0 then none else some (complTrap s 0x06 r.2 0)
          let n := (words.map ldfrConflicts).sum
          let s := defer (.bank n) (modTeam s.team.tid (fun t => { t with bankc := (t.bankc + n) % 2 ^ 32 })) s
          .ok (advance (lenOf f.len) (addOp f.cf.toNat { Op.new .done with isLoad := true, writes := r.1, trap := t } s))

/-- LDFR (R349). -/
def execLdfr (f : Ctl) (s : State) : Host.Outcome State Fault Refusal := issueE (.ldfr f) (ldfrAct f) s

end Sys2Proof.Machine
end

