-- ==== Sys2Proof/Machine/FlumeOps.lean ====
section
/-! DEFINITION. The Flume: copy control blocks (R350), the walk of a box (R352, R375), claims (R259, R277, R376), line arrivals at targets in
every state (R323, R379), completion (R351, R357), and FLCP, FLMC, FLRD, FLWT, FLST (R353 to R356). -/
namespace Sys2Proof.Machine

/-! ### The copy control block (R350, R352) -/

/-- A copy control block from its 32 words (R350). -/
def ccbOf (ws : List Word) : Ccb :=
  let n := natOfWords ws
  let f (off lo len : Nat) : Nat := (n >>> (8 * off + lo)) % 2 ^ len
  { src := walkOf (ws.take 8), dst := walkOf ((ws.drop 8).take 8), org := (List.range 5).map (fun d => toSigned 32 (f (0x80 + 4 * d) 0 32)),
    box := (List.range 5).map (fun d => f (0x94 + 2 * d) 0 16), srcSp := f 0xA0 0 1 == 1, dstSp := f 0xA0 1 1 == 1, rop := f 0xA0 2 2,
    sigen := f 0xA0 4 1 == 1, cmask := f 0xA0 16 12, sig := f 0xA8 0 64 }

/-- Are the reserved fields of a CCB zero (R350)? -/
def ccbZeros (ws : List Word) : Bool :=
  let n := natOfWords ws
  let f (off lo len : Nat) : Nat := (n >>> (8 * off + lo)) % 2 ^ len
  f 0x9E 0 16 == 0 && f 0xA0 5 11 == 0 && f 0xA0 28 36 == 0 && n >>> (8 * 0xC0) == 0

/-- The type in which FLRD combines, by ROP and ESZ (R355). -/
def redType (rop esz : Nat) : Option Nat :=
  match rop, esz with
  | 0, 3 => some 10
  | 1, 2 => some 9
  | 2, 2 => some 9
  | 2, 3 => some 10
  | _, _ => none

/-- Are the control fields in range for a command: ROP, DSTSP and CMASK (R353 to R355)? -/
def ccbKind (k : FlumeKind) (c : Ccb) (cores : Nat) : Bool :=
  match k with
  | .copy => c.rop == 0 && c.cmask == 0
  | .multicast => c.rop == 0 && c.dstSp && c.cmask != 0 && c.cmask >>> cores == 0
  | .reduce => ! c.dstSp && c.cmask == 0 && (redType c.rop c.src.esz).isSome

/-! ### The walk of a box (R352) -/

/-- The n-th coordinates of a box, index 0 fastest. -/
def coordsAt : List Nat → Nat → List Nat
  | [], _ => []
  | b :: t, n => n % b :: coordsAt t (n / b)

/-- The elements of a box. -/
def Ccb.count (c : Ccb) : Nat := c.box.foldl (fun a b => a * b) 1

/-- The coordinates of a box in walk order. -/
def Ccb.coords (c : Ccb) : List (List Nat) := (List.range c.count).map (coordsAt c.box)

/-- The nibble address of the source element of coordinates; none where it is a fill (R352). -/
def Ccb.srcAt (c : Ccb) (i : List Nat) : Option Int :=
  let sc : List Int := (c.org.zip i).map (fun x => x.1 + (x.2 : Int))
  if c.src.within sc then some (c.src.nibAt (c.src.offset sc)) else none

/-- The nibble address of the destination element of coordinates (R352). -/
def Ccb.dstAt (c : Ccb) (i : List Nat) : Int := c.dst.nibAt (c.dst.offset (i.map (fun x => ((x : Nat) : Int))))

/-- The nibbles of one element: where each goes and where it comes from (R348, R352). -/
def Ccb.elem (c : Ccb) (i : List Nat) : List (Nat × NibSrc) :=
  (List.range c.dst.nibs).map (fun (b : Nat) =>
    (c.dst.place c.dstSp (c.dstAt i + (b : Nat)),
      match c.srcAt i with
      | some n => .src (c.src.place c.srcSp (n + (b : Nat)))
      | none => .fill (c.src.fillNib b)))

/-- Every nibble of a box, in walk order. -/
def Ccb.nibbles (c : Ccb) : List (Nat × NibSrc) := c.coords.flatMap c.elem

/-- The destination lines of a box, in walk order. -/
def Ccb.dstLines (c : Ccb) : List Nat := (c.nibbles.map (fun x => x.1 / 256)).eraseDups

/-- The global source words of a box, in walk order. -/
def Ccb.srcWords (c : Ccb) : List Nat := if c.srcSp then [] else byLine (c.nibbles.filterMap (fun x => x.2.word)).eraseDups

/-- Do the scratchpad sides of a box lie within the scratchpad (R352)? -/
def Ccb.inside (c : Ccb) (size : Nat) : Bool :=
  c.coords.all (fun i => (! c.dstSp || c.dst.insidePad size (c.dstAt i))
    && (! c.srcSp || (match c.srcAt i with | some n => c.src.insidePad size n | none => true)))

/-- Is a CCB valid for a command of a team (R352)? -/
def ccbValid (k : FlumeKind) (ws : List Word) (size cores : Nat) : Bool :=
  let c := ccbOf ws
  walkValid (ws.take 8) c.srcSp && walkValid ((ws.drop 8).take 8) c.dstSp && c.src.esz == c.dst.esz && ccbZeros ws
    && (c.box.zip c.dst.ext).all (fun x => x.1 != 0 && x.1 ≤ x.2) && ccbKind k c cores && (! c.sigen || (c.sig % 8 == 0 && canonical c.sig))
    && c.inside size

/-! ### Targets (R323, R354, R379) -/

/-- The address of a saved team's scratchpad section (R323, R325). -/
def deadLetter (s : State) (t : Team) : Nat := ctxSlot s t.part t.ctx + 0x1000 + 0x5000 * t.ngroups

/-- Slots parked at a line of a team's scratchpad wake (R239). -/
def wakePresence (tid line : Nat) (s : State) : State :=
  let wake (x : Slot) : Slot := if x.st = .parkPresence tid line then { x with st := .ready } else x
  bump (mapGroups (fun g => { g with slot0 := wake g.slot0, slot1 := wake g.slot1 }) s)

/-- The word of a saved team's image that holds the presence bit of a line (R325). -/
def presenceVa (s : State) (t : Team) (line : Nat) : Nat := ctxSlot s t.part t.ctx + 0x100 + 8 * (line / 64)

/-- A line's presence bit set or cleared, in the team or in its image (R239, R323). -/
def setPresence (tid line : Nat) (v : Bool) (s : State) : State :=
  match teamOf s tid with
  | none => s
  | some t =>
    if t.saved then
      let va := presenceVa s t line
      let w := (ctxGet s t.part t.core va).data
      ctxPut t.part t.core va (stamped (setField w (line % 64) 1 (b2n v))) (ctxAccept t.part t.core va 8 s)
    else if v then wakePresence tid line (modTeam tid (fun t => { t with absent := t.absent.filter (fun x => x != line) }) s)
    else modTeam tid (fun t => { t with absent := insNat line t.absent }) s

/-- What a trap of the command would record. -/
def flumeTmpl (s : State) (f : Flume) : TrapInfo :=
  (((groupOf s f.gid).bind (fun g => g.op f.op)).bind Op.trap).getD (slotTrap Slot.vacant f.slot 0x0C true (BitVec.allOnes 32) f.ccbVa 0)

/-- The cluster on whose account a command runs. -/
def flumeCluster (s : State) (f : Flume) : Nat := ((teamOf s f.tid).map Team.cluster).getD 0

/-- A command stalled under a token; it stays as it is while the wait table is full (R317). -/
def flumeStall (f : Flume) (va : Nat) (s : State) : Flume × State :=
  match engineStall (flumeCluster s f) f.core f.partn 4 va (flumeTmpl s f) s with
  | some (k, s) => ({ f with stall := some k }, s)
  | none => (f, s)

/-- The parts of a saved team's image that a line of its dead-letter area touches: address and bytes (R323, R325). -/
def deadParts (s : State) (t : Team) (line : Nat) (pad : Bool) : List (Nat × Nat) :=
  if t.saved then (if pad then [(deadLetter s t + 128 * line, 128)] else []) ++ [(presenceVa s t line, 8)] else []

/-- Does a part of a saved team's image that is to be touched wait: its page has no translation (the address is given), or may not be accessed now
(R277, R317, R323)? -/
def deadWaits (s : State) (t : Team) (ps : List (Nat × Nat)) : Option (Option Nat) :=
  (ps.find? (fun x => ! ctxMapped s t.core t.part x.1 x.2)).map (fun x => ctxMiss s t.core t.part x.1 x.2)

/-- A scratchpad word of a team, in the team or in its dead-letter area (R323). -/
def targetWord (s : State) (t : Team) (off : Nat) : TWord :=
  if t.saved then ctxGet s t.part t.core (deadLetter s t + off) else t.word (off / 8)

/-- That word written. -/
def putTarget (t : Team) (off : Nat) (w : TWord) (s : State) : State :=
  if t.saved then ctxPut t.part t.core (deadLetter s t + off) w s else modTeam t.tid (fun t => t.setWord (off / 8) w) s

/-- The team at a place of a command's cluster, while it has not retired (R354, R379). -/
def targetTeam (s : State) (tid place : Nat) : Option Team :=
  match teamOf s tid with
  | none => none
  | some own =>
    match (clusterOf s own.cluster).bind (fun c => c.teams[place]?) with
    | some t => (teamOf s t).bind (fun x => if x.life = .retired then none else some x)
    | none => if own.place = place then some own else none

/-- The places that a command writes. -/
def flumePlaces (s : State) (k : FlumeKind) (tid : Nat) (c : Ccb) : List Nat :=
  match k with
  | .multicast => (List.range 12).filter (fun p => c.cmask.testBit p)
  | _ => [((teamOf s tid).map Team.place).getD 0]

/-! ### Claims (R259, R277, R376, R377) -/

/-- The owner number of a command here. -/
def ownClaim (id : Nat) : Nat := 2 * id
/-- The owner number of a peer's commands. -/
def peerClaim (dev score : Nat) : Nat := 2 * (dev * 512 + score) + 1

/-- The lines that engines own at a slice. -/
def ownedAt (s : State) (slice : Option Nat) : Nat := (s.claims.filter (fun c => sliceOf s (c.1 * 128) == slice)).length

/-- Claim one destination line: the issuing core's copies are written back and dropped first (R277); none while another command owns it or
its slice has no free entry. A claim counts in no ACCEPT (log entry 52). -/
def claimLine (f : Flume) (pl : Nat) (s : State) : Option (FLine → FLine) × State :=
  if s.claims.any (fun c => c.1 == pl && c.2 != ownClaim f.id) || mapHeld s f.core pl || backWaits s pl then (none, s)
  else match peerLine s pl with
    | some (dev, l) =>
      let s := flushLine f.core pl s
      (some (fun x => { x with own := some pl }), sendReq 9 dev l 0xFFFF [] (some f.core) f.partn f.gid (.flumeClaim f.id) s)
    | none =>
      if homeOf s (pl * 128) = .localMem && 4096 ≤ ownedAt s (sliceOf s (pl * 128)) then (none, s)
      else
        let s := flushLine f.core pl s
        (some (fun x => { x with own := some pl, granted := true }), { s with claims := s.claims ++ [(pl, ownClaim f.id)] })

/-- The commands of a command's core that issued before it. -/
def Flume.before (f : Flume) (s : State) : List Flume := (s.flumes.takeWhile (fun e => e.id != f.id)).filter (fun e => e.core == f.core)

/-- Has an earlier command of the core a line still to claim that is this one, or that has no translation yet (R351, R377)? -/
def earlierClaim (s : State) (f : Flume) (pl : Nat) : Bool :=
  (f.before s).any (fun e => e.ph == .copy && e.lines.any (fun x => x.own.isNone && ! x.granted
    && (match lookup s (some e.core) e.partn (x.line * 128) with | some t => lineNo s (t.phys (x.line * 128)) == pl | none => true)))

/-- Claim destination lines in walk order, as far as they can be claimed now (R376, R377). -/
def claimLines (f : Flume) : List FLine → State → List FLine × EngEnd × State
  | [], s => ([], .done, s)
  | x :: t, s =>
    if x.granted || x.own.isSome then
      let r := claimLines f t s
      (x :: r.1, r.2.1, r.2.2)
    else
      let va := x.line * 128
      if ! canonical va then (x :: t, .refused, s)
      else
        let s := engineTlb f.core f.partn va s
        match xlate s (some f.core) f.partn va 128 (needStore.byFlume f.core) with
        | .miss _ => (x :: t, .miss va, s)
        | .refused => (x :: t, .refused, s)
        | .ok pa _ =>
          match (if earlierClaim s f (lineNo s pa) then (none, s) else claimLine f (lineNo s pa) s) with
          | (none, s) => (x :: t, .busy, s)
          | (some g, s) =>
            let r := claimLines f t s
            (g x :: r.1, r.2.1, r.2.2)

/-- Every claim of a command given up: what waited at the lines is performed (R259). -/
def dropClaims (id : Nat) (s : State) : State :=
  ((s.claims.filter (fun c => c.2 == ownClaim id)).map Prod.fst).foldl (fun s l => unclaim l (ownClaim id) s) s

/-! ### Lines (R352, R355, R375) -/

/-- The sixteen nibbles of word k of a line; the last that the walk writes stands (R375). -/
def wordNibs (items : List (Nat × NibSrc)) (line k : Nat) : List (Option NibSrc) :=
  (List.range 16).map (fun j => ((items.filter (fun x => x.1 == line * 256 + k * 16 + j)).getLast?).map Prod.snd)

/-- The source words of a box in the issuing team's scratchpad, read once for every target, before its first line is written: every element as it stood then
(R375, R378). -/
def padSources (s : State) (f : Flume) (c : Ccb) : Flume :=
  if c.srcSp && f.got.isEmpty then
    let ws := (c.nibbles.filterMap (fun x => x.2.word)).eraseDups
    { f with got := ws.map (fun a => ({ va := a, pa := 0, sreq := false, w := some (((teamOf s f.tid).map (fun t => t.word (a / 8))).getD ⟨0, 0⟩) } : SrcWord)) }
  else f

/-- The words of a destination line after a copy, where it writes something (R352). -/
def copyWords (f : Flume) (c : Ccb) (line : Nat) (old : Nat → TWord) : List (Option TWord) :=
  let items := c.nibbles.filter (fun x => x.1 / 256 == line)
  (List.range 16).map (fun k =>
    let l := wordNibs items line k
    if l.all Option.isNone then none else some (assemble l (old k) (gotWord f.got)))

/-- Elements being combined: the words changed so far, by word number (address div 8), whether an element mismatched, and flags (R355). -/
structure RedAcc where
  put : List (Nat × TWord)
  bad : Bool
  fl : Nat
deriving DecidableEq, Repr

/-- The word of a number as combined so far. -/
def RedAcc.word (r : RedAcc) (old : Nat → TWord) (k : Nat) : TWord := (assocGet k r.put).getD (old k)

/-- An element's value from its nibbles, lowest first. -/
def nibsValue (l : List Nat) : Nat := l.foldr (fun d a => d + 16 * a) 0

/-- One source element combined into its destination element (R355); `sreq` is the stamp-required attribute of a line's page. -/
def redElem (f : Flume) (c : Ccb) (ty : Nat) (old : Nat → TWord) (sreq : Nat → Bool) (r : RedAcc) (e : List (Nat × NibSrc)) : RedAcc :=
  let ks := (e.map (fun x => x.1 / 16)).eraseDups
  let srcs := e.filterMap (fun x => x.2.word)
  let look := gotWord f.got
  if srcs.any (fun a => mismatch (look a).2 (look a).1) || ks.any (fun k => mismatch (sreq (k / 16)) (r.word old k)) then { r with bad := true }
  else
    let sv := nibsValue (e.map (fun x => match x.2 with | .src n => nibOf (look (n / 16 * 8)).1.data (n % 16) | .fill v => v))
    let dv := nibsValue (e.map (fun x => nibOf (r.word old (x.1 / 16)).data (x.1 % 16)))
    let x : FRes := if c.rop = 2 then fMax 0 (fmtOf ty) dv sv 0 else fAdd 0 (fmtOf ty) dv sv 0
    let new (k : Nat) : TWord :=
      stamped ((e.zip (List.range e.length)).foldl (fun w z => if z.1.1 / 16 = k then setField w (4 * (z.1.1 % 16)) 4 (x.bits >>> (4 * z.2)) else w)
        (r.word old k).data)
    { r with put := ks.foldl (fun l k => assocSet k (new k) l) r.put, fl := r.fl ||| x.fl }

/-- The lines that an element of a box lies in: one, or two where it crosses a line's end. -/
def elemLines (e : List (Nat × NibSrc)) : List Nat := (e.map (fun x => x.1 / 256)).eraseDups

/-- The elements that an FLRD combines with a line: those that touch it, but for those across a line's end that were combined with the other
line (R355). -/
def redElems (f : Flume) (c : Ccb) (line : Nat) : List (List (Nat × NibSrc)) :=
  (c.coords.map c.elem).filter (fun e => (elemLines e).contains line
    && ! ((elemLines e).length != 1 && f.crossed.contains ((elemLines e).foldl min line)))

/-- The other lines that must be claimed before an FLRD combines a line: those across whose ends its elements reach. -/
def redBeside (f : Flume) (c : Ccb) (line : Nat) : List Nat := ((redElems f c line).flatMap elemLines).eraseDups.filter (fun l => l != line)

/-- Does a line's result rest on its old words: an FLRD, or a word written in part? -/
def needsOld (f : Flume) (c : Ccb) (line : Nat) : Bool :=
  f.kind == .reduce || (List.range 16).any (fun k =>
    let l := wordNibs (c.nibbles.filter (fun x => x.1 / 256 == line)) line k
    l.any Option.isSome && l.any Option.isNone)

/-- What a line's performing writes, the status it leaves and the flags it raises. -/
structure LineOut where
  words : List (Option TWord)
  bad : Bool
  fl : Nat
deriving DecidableEq, Repr

/-- The result of a destination line, and the command after it (R352, R355); `old` gives a word by number. -/
def lineOut (f : Flume) (c : Ccb) (line : Nat) (sreq : Nat → Bool) (old : Nat → TWord) : LineOut × Flume :=
  match f.kind with
  | .reduce =>
    let es := redElems f c line
    let r := es.foldl (redElem f c ((redType c.rop c.src.esz).getD 10) old sreq) { put := f.carry, bad := false, fl := 0 }
    let cross := ((es.filter (fun e => (elemLines e).length != 1)).map (fun e => (elemLines e).foldl min line)).eraseDups
    ({ words := (List.range 16).map (fun k => assocGet (16 * line + k) r.put), bad := r.bad, fl := r.fl },
      { f with carry := r.put.filter (fun x => x.1 / 16 != line), crossed := f.crossed ++ cross })
  | _ => ({ words := copyWords f c line (fun k => old (16 * line + k)), bad := false, fl := 0 }, f)

/-- A command without its first line for a place and line number. -/
def Flume.without (f : Flume) (x : FLine) : Flume := { f with lines := f.lines.erase x }

/-- A line written at a scratchpad target, by the target's state (R379). -/
def padPut (f : Flume) (c : Ccb) (x : FLine) (s : State) : Flume × State :=
  match targetTeam s f.tid x.place with
  | none => ({ f.without x with gone := f.gone ||| (1 <<< x.place) }, s)
  | some t =>
    let o := (lineOut f c x.line (fun _ => false) (fun k => targetWord s t (8 * k))).1
    let s := if t.saved then ctxAccept t.part t.core (deadLetter s t + 128 * x.line) 128 s else s
    let s := (o.words.zip (List.range 16)).foldl (fun s z => match z.1 with
      | some w => putTarget t (128 * x.line + 8 * z.2) w s
      | none => s) s
    (f.without x, setPresence t.tid x.line true s)

/-- A line at a scratchpad target: a page of its dead-letter area without a translation stalls the command (R317, R323). -/
def padLine (f : Flume) (c : Ccb) (x : FLine) (s : State) : Flume × State :=
  match (targetTeam s f.tid x.place).bind (fun t => deadWaits s t (deadParts s t x.line true)) with
  | some (some va) => flumeStall f va s
  | some none => (f, s)
  | none => padPut f c x s

/-- Has the page of a destination line the stamp-required attribute? -/
def lineSreq (s : State) (f : Flume) (line : Nat) : Bool := match lookup s (some f.core) f.partn (line * 128) with | some t => t.sreq | none => false

/-- Where a claimed destination line is at home. -/
def Flume.home (f : Flume) (line : Nat) : Option Nat := (f.lines.find? (fun x => x.line == line && x.granted)).bind FLine.own

/-- An old word of a destination line, by number: at home here, or as a peer sent it. -/
def oldWord (s : State) (f : Flume) (k : Nat) : TWord :=
  match f.home (k / 16) with
  | none => ⟨0, 0⟩
  | some pl =>
    if (peerLine s pl).isSome then (assocGet (pl * 128 + 8 * (k % 16)) f.old).getD ⟨0, 0⟩ else homeWord s (pl * 128 + 8 * (k % 16))

/-- A command after a line at a global target: its line is done with, a mismatch is its status (R355). -/
def Flume.lineDone (f : Flume) (x : FLine) (o : LineOut) : Flume := { f.without x with status := if o.bad then 4 else f.status }

/-- A line performed at its home here, and given up (R259, R277). -/
def homeLine (f : Flume) (c : Ccb) (x : FLine) (pl : Nat) (s : State) : Flume × State :=
  let o := lineOut f c x.line (lineSreq s f) (oldWord s f)
  let s := accept s (pl * 128)
  let s := (o.1.words.zip (List.range 16)).foldl (fun s z => match z.1 with
    | some w => homeWrite s (pl * 128 + 8 * z.2) w
    | none => s) s
  (o.2.lineDone x o.1, unclaim pl (ownClaim f.id) (orMstat f.tid (mstatBits o.1.fl) s))

/-- A line sent to the peer at its home: the write gives up the claim (R419). -/
def peerLineOut (f : Flume) (c : Ccb) (x : FLine) (pl dev l : Nat) (s : State) : Flume × State :=
  let o := lineOut f c x.line (lineSreq s f) (oldWord s f)
  let mask := (o.1.words.zip (List.range 16)).foldl (fun a z => if z.1.isSome then a ||| (1 <<< z.2) else a) 0
  let tag := s.fabric.nextTag
  let s := orMstat f.tid (mstatBits o.1.fl) s
  let s := sendReq 2 dev l mask (o.1.words.map (fun w => w.getD ⟨0, 0⟩)) (some f.core) f.partn f.gid (.flumeWrite f.id) s
  let f := o.2.lineDone x o.1
  ({ f with tags := f.tags ++ [tag], old := f.old.filter (fun z => z.1 / 128 != pl) }, s)

/-- A peer's line whose old words the next line needs and that are not asked for yet: of the line itself, and of those beside it. -/
def oldMissing (s : State) (f : Flume) (c : Ccb) (x : FLine) : Option (Nat × Nat × Nat) :=
  let ls := (if needsOld f c x.line then [x.line] else []) ++ (if f.kind = .reduce then redBeside f c x.line else [])
  (ls.filterMap f.home).findSome? (fun pl => match peerLine s pl with
    | some (dev, l) => if f.old.any (fun z => z.1 / 128 == pl) then none else some (pl, dev, l)
    | none => none)

/-- Is a destination line one to be written next: claimed, and with it the lines across whose ends its elements reach (R355, R376)? -/
def lineReady (f : Flume) (c : Ccb) (x : FLine) : Bool :=
  x.granted && (f.kind != .reduce || (redBeside f c x.line).all (fun l => (f.home l).isSome))

/-- The next line of a command that may be written, written; the command stays as it is where none may (R375, R376). -/
def flumeLine (f : Flume) (c : Ccb) (x : FLine) (s : State) : Flume × State :=
  match x.own with
  | none => padLine f c x s
  | some pl =>
    match oldMissing s f c x with
    | some (_, dev, l) =>
      if s.fabric.reqs.any (fun r => r.dev == dev && r.line == l && r.purpose == .flumeOld f.id) then (f, s)
      else ({ f with tags := f.tags ++ [s.fabric.nextTag] }, sendReq 1 dev l 0xFFFF [] (some f.core) f.partn f.gid (.flumeOld f.id) s)
    | none => match peerLine s pl with
      | none => homeLine f c x pl s
      | some (dev, l) => peerLineOut f c x pl dev l s

/-! ### The command's work (R351) -/

/-- A claim at a peer given up by a write of no word (R419). -/
def freePeerLine (c p gid id pl : Nat) (s : State) : State :=
  match peerLine s pl with
  | some (dev, l) => sendReq 2 dev l 0 (List.replicate 16 ⟨0, 0⟩) (some c) p gid (.flumeWrite id) s
  | none => s

/-- A command that ends with a status: its lines and claims are given up (R357). -/
def flumeFail (f : Flume) (st : Nat) (s : State) : Flume × State :=
  let pls := (f.lines.filterMap (fun x => if x.granted then x.own else none)).filter (fun pl => (peerLine s pl).isSome)
  let s' := pls.foldl (fun s pl => freePeerLine f.core f.partn f.gid f.id pl s) (dropClaims f.id s)
  ({ f with status := st, lines := [], ph := .copy, tags := f.tags ++ (s'.fabric.reqs.drop s.fabric.reqs.length).map Req.tag }, s')

/-- A word of a record written by the device at its home, here or at a peer (R85, R351). -/
def recordWord (f : Flume) (i : Nat) (w : Word) (s : State) : Flume × State :=
  match f.words[i]? with
  | none => (f, s)
  | some x => match peerLine s (lineNo s x.pa) with
    | none => (f, homeWrite s x.pa (stamped w))
    | some (dev, l) =>
      let d := (List.range 16).map (fun k => if k = wordIx x.pa then stamped w else ⟨0, 0⟩)
      ({ f with tags := f.tags ++ [s.fabric.nextTag] },
        sendReq 2 dev l (1 <<< wordIx x.pa) d (some f.core) f.partn f.gid (.flumeWrite f.id) s)

/-- The destination lines of a command, with their places. -/
def flumeLines (s : State) (f : Flume) (c : Ccb) : List FLine :=
  c.dstLines.flatMap (fun l => (flumePlaces s f.kind f.tid c).map (fun p => ({ place := p, line := l, own := none, granted := c.dstSp } : FLine)))

/-- Does the clearing of a target's presence bit wait for its dead-letter area (R317, R323)? -/
def clearWaits (s : State) (f : Flume) (x : FLine) : Option (Option Nat) :=
  (targetTeam s f.tid x.place).bind (fun t => deadWaits s t (deadParts s t x.line false))

/-- The presence bit of a scratchpad target cleared (R239). -/
def clearTarget (f : Flume) (x : FLine) (s : State) : State :=
  match targetTeam s f.tid x.place with
  | some t => setPresence t.tid x.line false s
  | none => s

/-- The CCB read, its command begun: the destination lines, and the presence bits of scratchpad targets cleared (R351, R352). A target's dead-letter page
without a translation stalls it first (R317, R323). -/
def flumeBegin (f : Flume) (s : State) : Flume × State :=
  -- STATUS 0xFF is written before the CCB is read
  let words := listMod f.words 22 (fun w => { w with w := some (stamped 0xFF) })
  let ws := words.map (fun w => (w.w.getD ⟨0, 0⟩).data)
  let c := ccbOf ws
  let bad := words.any (fun w => mismatch w.sreq (w.w.getD ⟨0, 0⟩))
  let cores := match (teamOf s f.tid).bind (fun t => clusterOf s t.cluster) with | some k => k.w * k.h | none => 1
  let size := match teamOf s f.tid with | some t => t.spadSize | none => 0
  let valid := ! bad && ccbValid f.kind ws size cores
  let lines := if valid then flumeLines s f c else []
  match (if c.dstSp then lines.findSome? (clearWaits s f) else none) with
  | some (some va) => flumeStall f va s
  | some none => (f, s)
  | none =>
    let r := recordWord f 22 0xFF (match f.words[22]? with | some x => accept s x.pa | none => s)
    if valid then ({ r.1 with ccb := some c, ph := .copy, lines := lines }, if c.dstSp then lines.foldl (fun s x => clearTarget f x s) r.2 else r.2)
    else ({ r.1 with ccb := some { c with sigen := false }, status := 3, ph := .copy, lines := [] }, r.2)

/-- The addresses of a CCB's words. -/
def ccbVas (f : Flume) : List Nat := (List.range 32).map (fun i => f.ccbVa + 8 * i)

/-- What the CCB of a copying command needs: it is read, and its record is written (R313, R350). -/
def needCcb : Need := { needLoad with pw := true, wr := true }

/-- The engine's next work on a command: its CCB, its claims, its sources, one line. A command that can do nothing now is left as it is;
a core's commands start in issue order (R351). -/
def flumeWork (f : Flume) (s : State) : Flume × State :=
  if f.stall.isSome || (f.ph == .fetch && (f.before s).any (fun e => e.ph == .fetch)) then (f, s)
  else match f.ph, f.ccb with
    | .fetch, _ =>
      match engineReads (needCcb.byFlume f.core) f.core f.partn (ownClaim f.id) (ccbVas f) f.words s with
      | (ws, .done, s) =>
        if gotAll ws then flumeBegin { f with words := ws } s
        else ({ f with words := ws }, engineAsk f.core f.partn f.gid (.flumeRead f.id) ws s)
      | (_, .miss va, s) => flumeStall f va s
      | (_, .refused, s) => flumeFail { f with words := [] } 2 s
      | (_, .busy, s) => (f, s)
    | .copy, some c =>
      if f.lines.isEmpty then (f, s)
      else match claimLines f f.lines s with
        | (ls, .miss va, s) => flumeStall { f with lines := ls } va s
        | (_, .refused, s) => flumeFail f 2 s
        | (ls, _, s) =>
          let f := { f with lines := ls }
          match engineReads (needLoad.byFlume f.core) f.core f.partn (ownClaim f.id) c.srcWords f.got s with
          | (got, .miss va, s) => flumeStall { f with got := got } va s
          | (_, .refused, s) => flumeFail f 2 s
          | (got, .busy, s) => ({ f with got := got }, s)
          | (got, .done, s) =>
            let f := { f with got := got }
            if ! gotAll got then (f, engineAsk f.core f.partn f.gid (.flumeRead f.id) got s)
            else match f.lines.find? (lineReady f c) with
              | some x => flumeLine (padSources s f c) c x s
              | none => (f, s)
    | _, _ => (f, s)

/-- A command put back among the outstanding ones. -/
def putFlume (f : Flume) (s : State) : State := { s with flumes := s.flumes.map (fun x => if x.id = f.id then f else x) }

/-- A command changed. -/
def modFlume (id : Nat) (g : Flume → Flume) (s : State) : State := { s with flumes := s.flumes.map (fun x => if x.id = id then g x else x) }

/-- Can the engine get on with a command now? -/
def flumeReady (s : State) (f : Flume) : Bool := (flumeWork f s).1 != f

/-- FLUME_LINE_ARRIVAL (R351, R375 to R379): the engine's next work, up to one line. -/
def execFlumeLineArrival (id _place : Nat) (s : State) : Host.Outcome State Fault Refusal :=
  .next (match s.flumes.find? (fun f => f.id == id) with
    | some f => let r := flumeWork f s; bump (freeLines (putFlume r.1 r.2))
    | none => s)

/-! ### Signals that the device posts (R297, R351, R395) -/

/-- Must a signal's addition wait: its requester's request is held, or the record of its mismatch finds no room (R248, R277, R319)? -/
def signalWaits (s : State) (r p pa : Nat) (sreq : Bool) : Bool :=
  lineHeld s r (lineNo s pa) || ((peerLine s (lineNo s pa)).isNone && mismatch sreq (homeWord s pa) && ! faultRoom s p)

/-- 1 added to a signal at its home here: a mismatch leaves it and is recorded, with the CORE given (R191, R319). -/
def signalHere (p : Nat) (name : Option Nat) (va pa : Nat) (sreq : Bool) (s : State) : State :=
  let s := accept s pa
  let t := homeWord s pa
  let x := atomWord (.rmw 0) 6 0 0 sreq t 1 0
  let s := match x.put with | some w => homeWrite s pa w | none => s
  if x.bad then postFault p { FaultInfo.ofKind 0x10 with acc := 2, core := name, va := va, pa := pa, lanes := 1, detail := t.data.toNat } s else s

/-- 1 added to a signal, here or at the peer at its home; `c` is the core on whose account, in a cluster. -/
def postSignal (p gid : Nat) (c : Option (Nat × Nat)) (va pa : Nat) (sreq : Bool) (pu : Purpose) (s : State) : State :=
  match peerLine s (lineNo s pa) with
  | none => signalHere p (c.map (fun x => coreName s x.1 x.2)) va pa sreq s
  | some (dev, pl) =>
    sendReq 5 dev pl (wordIx pa + (6 <<< 8) + (2 <<< 12)) [if sreq then stamped 1 else ⟨1, 0⟩, ⟨0, 0⟩, ⟨0, 0⟩, ⟨0, 0⟩, ⟨0, 0⟩, ⟨0, 0⟩, ⟨0, 0⟩, ⟨0, 0⟩] (c.map Prod.snd) p gid pu s

/-! ### Completion (R351, R356, R357) -/

/-- Does a wait of FLWT stand on a command's record (R356)? -/
def Op.waitsOn (o : Op) (f : Flume) : Bool := o.kind == .flwt f.ccbVa
/-- Is a group one whose FLWT may name a command: on its core, in its partition? -/
def Group.besideFlume (g : Group) (f : Flume) : Bool := g.core == f.core && g.part == f.partn

/-- Waits for a command's record end (R356). -/
def flwtDone (f : Flume) (s : State) : State :=
  mapGroups (fun g => if g.besideFlume f then { g with ops := g.ops.map (fun o => if o.waitsOn f then { o with kind := .done } else o) } else g) s

/-- Does anything wait for a command's record? -/
def flwtWaits (s : State) (f : Flume) : Bool := (allGroups s).any (fun g => g.besideFlume f && g.ops.any (fun o => o.waitsOn f))

/-- The command's end: its flag clears, and STATUS 2, 3 or 4 traps (R351, R357). -/
def flumeFinish (f : Flume) (s : State) : State :=
  let s := flwtDone f (dropClaims f.id { s with flumes := s.flumes.filter (fun x => x.id != f.id) })
  match (groupOf s f.gid).bind (fun g => g.op f.op) with
  | some o => completeOp f.gid { o with trap := if 2 ≤ f.status then o.trap else none } s
  | none => s

/-- The signal of a command, translated, where it has one (R351). -/
def flumeSig (f : Flume) (s : State) : Option (Nat × Xres) :=
  match f.ccb with
  | some c => if c.sigen then some (c.sig, xlate s (some f.core) f.partn c.sig 8 (needAtomic.byFlume f.core)) else none
  | none => none

/-- The signal's translation sought (R314). -/
def flumeSigTlb (f : Flume) (s : State) : State :=
  match f.ccb with
  | some c => if c.sigen then engineTlb f.core f.partn c.sig s else s
  | none => s

/-- The first word of the completion record: a command whose signal's rights are refused has STATUS 2 (R350, R354, R440). -/
def flumeStatus (f : Flume) (s : State) : Flume :=
  let st := if (flumeSig f s).any (fun x => x.2 == .refused) && f.status < 2 then 2 else f.status
  { f with status := if st = 0 && f.gone != 0 then 1 else st }

/-- The completion record written (R350). -/
def flumeRecord (f : Flume) (s : State) : Flume × State :=
  let s := flumeSigTlb f s
  let f := flumeStatus f s
  let r := recordWord { f with ph := .record } 22 (packFields [(0, 8, f.status), (8, 12, f.gone)]) s
  let r := recordWord r.1 23 (BitVec.ofNat 64 r.2.time) r.2
  (r.1, match f.words[22]? with | some x => accept r.2 x.pa | none => r.2)

/-- The signal posted, where there is one: a miss stalls the command, and where its rights are refused only now the record says STATUS 2 after all
(R351, R357, R440). -/
def flumeSignal (f : Flume) (s : State) : Flume × State :=
  let s' := flumeSigTlb f s
  match flumeSig f s' with
  | none => ({ f with ph := .signal }, s)
  | some (va, .miss _) => flumeStall f va s'
  | some (_, .refused) => if f.status < 2 then flumeRecord f s' else ({ f with ph := .signal }, s')
  | some (va, .ok pa sreq) =>
    let pa := canonPa s' pa
    if signalWaits s' f.core f.partn pa sreq then (f, s)
    else
      let s := flushLine f.core (lineNo s' pa) s'
      let tags := if (peerLine s (lineNo s pa)).isSome then [s.fabric.nextTag] else []
      ({ f with ph := .signal, tags := f.tags ++ tags }, postSignal f.partn f.gid (some (flumeCluster s f, f.core)) va pa sreq (.flumeWrite f.id) s)

/-- Does another command own the line of a command's record (R277)? -/
def recordWaits (s : State) (f : Flume) : Bool := match f.words[22]? with | some x => lineHeld s f.core (lineNo s x.pa) | none => false

/-- The steps of a completion that can be made now: once the record is written, waits on it end. -/
def flumeEnd : Nat → Flume → State → State
  | 0, f, s => putFlume f s
  | n + 1, f, s =>
    if ! f.tags.isEmpty || f.stall.isSome then putFlume f s
    else match f.ph with
      | .fetch => putFlume f s
      | .copy => if f.lines.isEmpty && ! recordWaits s f then let r := flumeRecord f s; flumeEnd n r.1 r.2 else putFlume f s
      | .record =>
        let s := flwtDone f s
        let r := flumeSignal f s
        if r.1 = f then putFlume f s else flumeEnd n r.1 r.2
      | .signal => flumeFinish f s

/-- May a command's completion go on? -/
def flumeEnding (s : State) (f : Flume) : Bool :=
  f.tags.isEmpty && f.stall.isNone && (match f.ph with
    | .fetch => false
    | .copy => f.lines.isEmpty && ! recordWaits s f
    | .record => flwtWaits s f || (flumeSignal f s).1 != f
    | .signal => true)

/-- FLUME_COMPLETE (R351). -/
def execFlumeComplete (id : Nat) (s : State) : Host.Outcome State Fault Refusal :=
  .next (match s.flumes.find? (fun f => f.id == id) with
    | some f => if flumeEnding s f then settleInv f.partn (bump (freeLines (flumeEnd 8 f s))) else s
    | none => s)

/-! ### FLCP, FLMC and FLRD (R330, R351) -/

/-- The address of a Flume or headrace form (R330). -/
def engineVa (f : Ctl) (s : State) : Nat :=
  (readS s f.a.toNat + (if f.len = .l64 then BitVec.ofInt 64 (8 * toSigned 8 (f.at 13 8)) else f.w1.signExtend 64)).toNat

/-- The act of FLCP, FLMC and FLRD: the command is outstanding, its CCB not yet read (R351). -/
def flumeAct (f : Ctl) (k : FlumeKind) (s : State) : Except Stop State :=
  let va := engineVa f s
  match rangeCheck s va 256 64 needCcb 4 with
  | .error e => .error e
  | .ok _ =>
    let mine := s.flumes.filter (fun x => x.core == s.grp.core)
    if acquirePending s || 32 ≤ mine.length then .error .hold
    else if mine.any (fun x => x.ccbVa == va && x.partn == s.grp.part) then .error (.trap 0x0C (BitVec.allOnes 32) va 0)
    else
      let id := s.nextId
      let s := addOp f.cf.toNat { Op.new (.flume id) with trap := some (complTrap s 0x0C (BitVec.allOnes 32) va) } s
      let x : Flume := {
        id := id, gid := s.grp.gid, slot := s.cur, op := id, core := s.grp.core, tid := s.grp.team, partn := s.grp.part, kind := k, ccbVa := va,
        words := [], ccb := none, ph := .fetch, status := 0, gone := 0, lines := [], got := [], old := [], carry := [], crossed := [], stall := none, tags := [] }
      .ok (advance (lenOf f.len) { s with flumes := s.flumes ++ [x] })

/-- FLCP (R353). -/
def execFlcp (f : Ctl) (s : State) : Host.Outcome State Fault Refusal := issueE (.flcp f) (flumeAct f .copy) s
/-- FLMC (R354). -/
def execFlmc (f : Ctl) (s : State) : Host.Outcome State Fault Refusal := issueE (.flmc f) (flumeAct f .multicast) s
/-- FLRD (R355). -/
def execFlrd (f : Ctl) (s : State) : Host.Outcome State Fault Refusal := issueE (.flrd f) (flumeAct f .reduce) s

/-! ### FLWT and FLST (R356) -/

/-- Is a command of the issuing core outstanding on a CCB? -/
def flumeOn (s : State) (va : Nat) : Bool := s.flumes.any (fun x => x.core == s.grp.core && x.partn == s.grp.part && x.ccbVa == va)

/-- Is such a command's completion record not written yet (R356)? -/
def flumeUnwritten (s : State) (va : Nat) : Bool :=
  s.flumes.any (fun x => x.core == s.grp.core && x.partn == s.grp.part && x.ccbVa == va && ! (x.ph == .signal || (x.ph == .record && x.tags.isEmpty)))

/-- FLWT's act (R356). -/
def flwtAct (f : Ctl) (s : State) : Except Stop State :=
  let va := (readS s f.a.toNat).toNat
  match rangeCheck s va 256 64 needLoad 4 with
  | .error e => .error e
  | .ok _ =>
    if acquirePending s then .error .hold
    else .ok (advance (lenOf f.len) (addOp f.cf.toNat (Op.new (if flumeUnwritten s va then .flwt va else .done)) s))

/-- FLWT (R356). -/
def execFlwt (f : Ctl) (s : State) : Host.Outcome State Fault Refusal := issueE (.flwt f) (flwtAct f) s

/-- A scalar read of one word at its home, as an operation; a peer is asked (R356, R419). -/
def readAtHome (cf d va pa : Nat) (s : State) : State :=
  let w : Option TWord := if (peerLine s (lineNo s pa)).isSome then none else some (homeWord s pa)
  let g : Gather := {
    d := d, scalar := true, ty := 7, nv := true, valid := false, acq := none, tmpl := complTrap s 0 0 0, rdis := 0,
    accs := [{ lane := 0, va := va, pa := pa, sreq := false }], got := (match w with | some w => [(pa, w)] | none => []), mine := [], no := [] }
  match w with
  | some _ => addOp cf { loadDone g (Op.new .done) with isLoad := true } (accept s pa)
  | none => let id := s.nextId; askLines (fun _ => 1) [pa] (.load id) (addOp cf { Op.new (.gather g) with isLoad := true } s)

/-- FLST's act (R356). -/
def flstAct (f : Ctl) (s : State) : Except Stop State :=
  let va := (readS s f.a.toNat).toNat
  match rangeCheck s va 256 64 needLoad 4 with
  | .error e => .error e
  | .ok _ =>
    match xlate s (some s.grp.core) s.grp.part (va + 0xB0) 8 needLoad with
    | .ok pa _ =>
      match orStop (if acquirePending s then some .hold else none) (claimHold s [canonPa s pa]) with
      | some e => .error e
      | none =>
        if flumeOn s va then
          .ok (advance (lenOf f.len) (addOp f.cf.toNat { Op.new .done with writes := [.scal f.d.toNat 0xFF allBits] } s))
        else .ok (advance (lenOf f.len) (readAtHome f.cf.toNat f.d.toNat (va + 0xB0) (canonPa s pa) s))
    | _ => .error .hold

/-- FLST (R356). -/
def execFlst (f : Ctl) (s : State) : Host.Outcome State Fault Refusal := issueE (.flst f) (flstAct f) s

end Sys2Proof.Machine
end

