-- ==== Sys2Proof/Machine/Headrace.lean ====
section
/-! DEFINITION. The headrace: binding a stream (R358), its fetches (R380, R382), HRST, HRSP and HRQS (R358, R360). -/
namespace Sys2Proof.Machine

/-! ### Streams (R358) -/

/-- The elements of a stream. -/
def Walk.total (w : Walk) : Nat := (w.ext.take 4).foldl (fun a b => a * b) 1

/-- The entries of a stream (R358). -/
def Walk.entries (w : Walk) : Nat := let per := 32 * (16 / w.nibs); (w.total + per - 1) / per

/-- The nibbles of stream element t: under BASE and STR, or the fill past the end (R358). -/
def Walk.stream (w : Walk) (t : Nat) : List NibSrc :=
  let cs : List Int := (coordsAt (w.ext.take 4) t).map (fun x => ((x : Nat) : Int))
  (List.range w.nibs).map (fun (b : Nat) =>
    if t < w.total then .src (w.place false (w.nibAt (w.offset cs) + (b : Nat))) else .fill (w.fillNib b))

/-- The sixteen nibbles of lane l of entry e (R358). -/
def Walk.entryLane (w : Walk) (e l : Nat) : List NibSrc :=
  let n := 16 / w.nibs
  (List.range n).flatMap (fun i => w.stream ((e * 32 + l) * n + i))

/-- The source words of an entry. -/
def Walk.entryWords (w : Walk) (e : Nat) : List Nat :=
  byLine ((List.range 32).flatMap (fun l => (w.entryLane e l).filterMap NibSrc.word)).eraseDups

/-- An entry made from the words read (R358, R380). A word made from parts of words or from fill is stamped, and stamped bad where a word of
which it takes a part mismatches, as a Flume engine does (DESIGN CHOICE, log entry 69: the spec says that the headrace carries postmarks
unchanged and unchecked, and nothing of such a word). -/
def entryOf (w : Walk) (e : Nat) (got : List SrcWord) : QEntry :=
  let ls (l : Nat) : List (Option NibSrc) := (w.entryLane e l).map some
  { words := (List.range 32).map (fun l => assemble (ls l) ⟨0, 0⟩ (gotWord got)),
    sreq := maskOf (fun l => match wholeFrom (ls l) with | some a => (gotWord got a).2 | none => false) }

/-! ### HRST (R358) -/

/-- Is an HRST on a queue outstanding in the issuing group? -/
def hrstPending (s : State) (q : Nat) : Bool := s.grp.ops.any (fun o => match o.kind with | .hrst _ k => k == q | _ => false)

/-- The queue of a headrace form. -/
def queueNo (f : Ctl) : Nat := f.at 0 2

/-- HRST's act: its record is read, and the queue bound at completion (R358). -/
def hrstAct (f : Ctl) (s : State) : Except Stop State :=
  let q := queueNo f
  let va := engineVa f s
  if qBound s.grp q then .error .ill
  else match rangeCheck s va 64 64 needLoad 5 with
    | .error e => .error e
    | .ok ps =>
      let pa := (ps.head?.map Prod.fst).getD 0
      match orStop (if acquirePending s || hrstPending s q then some .hold else none) (claimHold s [pa]) with
      | some e => .error e
      | none =>
        let accs := (List.range 8).map (fun i => ({ lane := i, va := va + 8 * i, pa := pa + 8 * i, sreq := false } : LaneAcc))
        let here := (peerLine s (lineNo s pa)).isNone
        let g : Gather := {
          d := 0, scalar := true, ty := 7, nv := true, valid := false, acq := none, tmpl := complTrap s 0x0C (BitVec.allOnes 32) va, rdis := 0, accs := accs,
          got := (if here then accs.map (fun a => (a.pa, homeWord s a.pa)) else []), mine := [], no := [] }
        let id := s.nextId
        let s := addOp f.cf.toNat { Op.new (.hrst g q) with trap := some g.tmpl } s
        .ok (advance (lenOf f.len) (if here then accept s pa else askLines (fun _ => 1) [pa] (.load id) s))

/-- HRST (R358). -/
def execHrst (f : Ctl) (s : State) : Host.Outcome State Fault Refusal := issueE (.hrst f) (hrstAct f) s

/-- May an HRST complete: its record is there, or was refused? -/
def hrstReady (g : Gather) : Bool := g.missing.isEmpty

/-- A stream bound to a queue. -/
def bindQueue (w : Walk) (t : TrapInfo) : Queue :=
  { walk := w, total := w.entries, fetched := 0, entries := [], popped := 0, pend := [], stall := none, tmpl := t }

/-- A queue bound to a stream; an HRST of an earlier region stays bound where this region aborts (R361). -/
def Group.bind (g : Group) (o : Op) (k : Nat) (q : Queue) : Group :=
  let g := { g with queues := vset g.queues k (some q) }
  if o.region = g.region then g else { g with start := { g.start with queues := vset g.start.queues k (some q) } }

/-- HRST completes: the queue is bound, or FLUME traps (R358). -/
def hrstDone (gid : Nat) (o : Op) (g : Gather) (q : Nat) (s : State) : State :=
  let ws := g.accs.map (fun a => ((assocGet a.pa g.got).getD ⟨0, 0⟩).data)
  let w := walkOf ws
  if g.no.isEmpty && walkValid ws false && w.ext.getD 4 0 == 1 then
    completeOp gid { o with kind := .done, trap := none } (modGroup gid (fun x => x.bind o q (bindQueue w g.tmpl)) s)
  else completeOp gid { o with kind := .done } s

/-! ### Fetches (R380) -/

/-- A queue given up, with its fetches in flight (R381). -/
def dropQueue (gid q : Nat) (s : State) : State :=
  let s := dropReqs (fun r => r.purpose == .headrace gid q) s
  modGroup gid (fun g => match vget g.queues q none with | some x => g.unbind q x | none => g) s

/-- The next entry of a stream fetched, as far as its words are there; a queue that can do nothing is left as it is (R317, R380, R440). -/
def queueWork (g : Group) (k : Nat) (q : Queue) (s : State) : Option Queue × State :=
  if q.stall.isSome || q.total ≤ q.fetched || q.popped + 8 ≤ q.fetched then (some q, s)
  else match engineReads needLoad g.core g.part 0 (q.walk.entryWords q.fetched) q.pend s with
    | (got, .done, s) =>
      if gotAll got then (some { q with entries := q.entries ++ [entryOf q.walk q.fetched got], fetched := q.fetched + 1, pend := [] }, s)
      else (some { q with pend := got }, engineAsk g.core g.part g.gid (.headrace g.gid k) got s)
    | (_, .miss va, s) => match engineStall g.cluster g.core g.part 5 va q.tmpl s with
      | some (t, s) => (some { q with stall := some t }, s)
      | none => (some q, s)
    | (_, .refused, s) => (none, s)
    | (got, .busy, s) => (some { q with pend := got }, s)

/-- Has a queue of a group a fetch to make? -/
def queueReady (s : State) (g : Group) (k : Nat) : Bool :=
  g.life == .resident && (match vget g.queues k none with
    | some q => (queueWork g k q s).1 != some q
    | none => false)

/-- HEADRACE_FETCH_RETURN (R380): a fetch of a source without its right ends the stream and raises FLUME (R313, R440; log entry 21). -/
def execHeadraceFetchReturn (gid : Nat) (q : BitVec 2) (s : State) : Host.Outcome State Fault Refusal :=
  .next (match groupOf s gid with
    | none => s
    | some g => match vget g.queues q.toNat none with
      | none => s
      | some x =>
        let s := modCore g.core (fun k => { k with served := some (gid, q.toNat) }) s
        match queueWork g q.toNat x s with
        | (some y, s) => bump (modGroup gid (fun g => { g with queues := vset g.queues q.toNat (some y) }) s)
        | (none, s) => settleInv g.part (bump (reportTrap gid x.tmpl (dropQueue gid q.toNat s))))

/-! ### HRSP and HRQS (R360) -/

/-- HRSP's effect: the queue unbinds; a register of which nothing was popped holds a free value (R360; log entry 3). -/
def hrspEff (f : Ctl) (s : State) : State :=
  let q := queueNo f
  let s := match vget s.grp.queues q none with
    | none => s
    | some x =>
      let s := dropQueue s.grp.gid q s
      if x.popped = 0 then
        let v := freeLanes s
        modGrp (fun g => { g with vregs := vset g.vregs (60 + q) v.1 }) v.2
      else s
  advance (lenOf f.len) (addOp f.cf.toNat (Op.new .done) s)

/-- What holds a headrace form: a claim to come, or an HRST on the queue (R351, R358). -/
def hrHold (f : Ctl) (s : State) : Option Stop := if acquirePending s || hrstPending s (queueNo f) then some .hold else none

/-- HRSP (R360). -/
def execHrsp (f : Ctl) (s : State) : Host.Outcome State Fault Refusal := issue (.hrsp f) (hrHold f) (hrspEff f) s

/-- The status of a queue (R360); of one that is not bound, what its last stream has left. -/
def queueWord (q : Option Queue) (past : Nat × Bool) : Word :=
  match q with
  | none => packFields [(1, 1, b2n past.2), (32, 32, past.1)]
  | some q => packFields [(0, 1, 1), (1, 1, b2n (q.fetched == q.total)), (2, 4, q.entries.length), (32, 32, q.popped)]

/-- HRQS's effect (R360). -/
def hrqsEff (f : Ctl) (s : State) : State :=
  let w := queueWord (vget s.grp.queues (queueNo f) none) (vget s.grp.past (queueNo f) (0, false))
  advance (lenOf f.len) (addOp f.cf.toNat { Op.new .done with writes := [.scal f.d.toNat w allBits] } s)

/-- HRQS (R360). -/
def execHrqs (f : Ctl) (s : State) : Host.Outcome State Fault Refusal :=
  issue (.hrqs f) (fun s => if acquirePending s then some .hold else none) (hrqsEff f) s

end Sys2Proof.Machine
end

