-- ==== Sys2Proof/Machine/Launch.lean ====
section
/-! DEFINITION. Dispatch packets, launch snapshots and LAUNCH (R126, R209, R215, R216, R219, R391 to R393, R396). -/
namespace Sys2Proof.Machine

/-! ### Packets (R391, R392) -/

/-- A field of a packet's address word, as an address sign-extended from bit 56. -/
def packetVa (w : Word) (lo : Nat) : Nat := (sext64 57 (field w lo (57 - lo) <<< lo)).toNat

/-- A packet from its eight words (R391). -/
def packetOf (ws : List Word) : Packet :=
  let w (i : Nat) : Word := ws.getD i 0
  { gm1 := field (w 0) 0 5, code := packetVa (w 0) 5, rmode := bit (w 0) 57, trapH := packetVa (w 1) 5,
    w := field (w 1) 57 3 + 1, h := field (w 1) 60 3 + 1, cap := (if field (w 2) 0 8 = 0 then 64 else field (w 2) 0 8),
    argp := packetVa (w 2) 8, x := field (w 3) 0 32, y := field (w 3) 32 32, z := field (w 4) 0 32, pword := field (w 4) 32 18,
    alen := field (w 4) 50 13, dep0 := packetVa (w 5) 3, thr0 := field (w 5) 57 7, dep1 := packetVa (w 6) 3, thr1 := field (w 6) 57 7,
    compl := packetVa (w 7) 3, raw := ws }

/-- REG, SPAD and ACC of the partition word (R215). -/
def Packet.reg (p : Packet) : Nat := p.pword % 64
/-- SPAD of the partition word (R215). -/
def Packet.spad (p : Packet) : Nat := (p.pword / 64) % 64
/-- ACC of the partition word (R215). -/
def Packet.acc (p : Packet) : Nat := (p.pword / 4096) % 64
/-- Groups per team. -/
def Packet.groups (p : Packet) : Nat := p.gm1 + 1
/-- Teams of the grid. -/
def Packet.teams (p : Packet) : Nat := p.x * p.y * p.z

/-- The bytes of a team's image (R325). -/
def Packet.imageSize (p : Packet) : Nat := 0x1000 + 0x5000 * p.groups + 0x8000 * (p.spad + p.acc)

/-- Are the zero fields of a packet zero (R391)? -/
def packetZeros (ws : List Word) : Bool :=
  let w (i : Nat) : Word := ws.getD i 0
  field (w 0) 58 6 == 0 && field (w 1) 0 5 == 0 && ! bit (w 1) 63 && field (w 2) 57 7 == 0 && ! bit (w 4) 63 && field (w 5) 0 3 == 0
    && field (w 6) 0 3 == 0 && field (w 7) 0 3 == 0 && field (w 7) 57 7 == 0

/-- Are a packet's geometry and partition word within their limits (R209, R216)? -/
def packetShape (p : Packet) : Bool :=
  p.x != 0 && p.y != 0 && p.z != 0 && p.teams ≤ 2 ^ 31 && p.w ≤ 6 && p.h ≤ 6 && p.w * p.h ≤ 12 && p.teams % (p.w * p.h) == 0
    && p.reg == (p.groups + 1) / 2 && p.acc ≤ 8 && p.reg + p.spad + p.acc ≤ 64

/-- Is a packet valid for a partition (R392, R445)? -/
def packetValid (s : State) (part' : Nat) (ws : List Word) : Bool :=
  let p := packetOf ws
  packetZeros ws && packetShape p && p.alen ≤ 4096 && (p.dep0 == 0 || p.thr0 != 0) && (p.dep1 == 0 || p.thr1 != 0) && p.code != 0
    && p.imageSize ≤ field (part s part').ctxcfg 12 16 * 4096

/-! ### The distributor's reads (R314, R388, R394, R438) -/

/-- What the distributor's read of a packet needs of the access tables, as an access of the packet's partition (R438, R439). -/
def needDist : Need := { needNone with rd := true }

/-- The physical address that the distributor finds for a partition's address: it walks. -/
def distPa (s : State) (p va : Nat) : Option Nat := (walkPage s p va).map (fun t => canonPa s (t.phys va))

/-- A word as a reader gets it: at home, or from the peer that it asked. -/
def distWord (s : State) (p reader pa : Nat) : TWord :=
  match peerLine s (lineNo s pa) with
  | some _ => (((part s p).argGot.find? (fun x => x.1 == reader && x.2.1 == pa / 8 * 8)).map (fun x => x.2.2)).getD ⟨0, 0⟩
  | none => homeWord s pa

/-- Is a word there to be read: at home, or sent by the peer? -/
def distHere (s : State) (p reader pa : Nat) : Bool :=
  (peerLine s (lineNo s pa)).isNone || (part s p).argGot.any (fun x => x.1 == reader && x.2.1 == pa / 8 * 8)

/-- Has a peer refused a reader the line of an address (R440)? -/
def distNo (s : State) (p reader pa : Nat) : Bool := (lineRefused s p reader (lineNo s pa)).isSome

/-- A word read under a virtual address by the distributor. -/
def distRead (s : State) (p reader va : Nat) : TWord := match distPa s p va with | some pa => distWord s p reader pa | none => ⟨0, 0⟩

/-- The addresses of a packet's argument words. -/
def argVas (k : Packet) : List Nat := (List.range ((k.alen + 7) / 8)).map (fun i => k.argp + 8 * i)

/-- Are execute rights refused at an address (R392)? -/
def execRefused (s : State) (p va : Nat) : Bool := xlate s none p va 32 needFetch == .refused

/-- Are read rights refused on the argument buffer, here or by a peer (R392, R440)? -/
def argsRefused (s : State) (p reader : Nat) (k : Packet) : Bool :=
  (argVas k).any (fun va => xlate s none p va 8 needLoad == .refused || (distPa s p va).any (distNo s p reader))

/-- Is a packet refused (R392, R440)? The rights of its pages count with those of the access tables (DESIGN CHOICE, log entry 71). -/
def packetRefused (s : State) (p reader : Nat) (k : Packet) : Bool :=
  execRefused s p k.code || (k.trapH != 0 && execRefused s p k.trapH) || argsRefused s p reader k

/-! ### Snapshots (R219, R393) -/

/-- The virtual address of snapshot n of a partition (R393). -/
def snapVa (s : State) (p n : Nat) : Nat := (sext64 57 (field (part s p).snapreg 12 45 * 4096 + 4096 * n)).toNat

/-- The lowest free snapshot (R393). -/
def freeSnap (s : State) (p : Nat) : Option Nat :=
  (List.range (field (part s p).snapreg 0 12 + 1)).find? (fun n => ! (part s p).snapsUsed.contains n)

/-- The assembled last word of the arguments: the first n bytes, n from 1 to 7 (R219). -/
def lastArg (t : TWord) (n : Nat) : TWord :=
  let d : Word := BitVec.ofNat 64 (t.data.toNat % 2 ^ (8 * n))
  if ! t.mark.getLsbD 7 then ⟨d, 0⟩ else if mismatch false t then stampedBad d else stamped d

/-- Word i of a snapshot (R219). -/
def snapWord (s : State) (p reader : Nat) (k : Packet) (i : Nat) : TWord :=
  if 8 * i + 8 ≤ k.alen then distRead s p reader (k.argp + 8 * i)
  else if 8 * i < k.alen then lastArg (distRead s p reader (k.argp + 8 * i)) (k.alen - 8 * i) else ⟨0, 0⟩

/-- The argument words' addresses, physical. -/
def argPas (s : State) (p : Nat) (k : Packet) : List Nat := (argVas k).filterMap (distPa s p)

/-- The distinct lines of some addresses, as addresses. -/
def lineStarts (pas : List Nat) : List Nat := (pas.map (fun a => a / 128 * 128)).eraseDups

/-- One request at the slice of each line of some addresses (R233). -/
def acceptLines (pas : List Nat) (s : State) : State := (lineStarts pas).foldl (fun s a => accept s a) s

/-- Do the access tables refuse the writing of snapshot n? Its packet is refused then (R439, R440; log entry 76). -/
def snapRefused (s : State) (p n : Nat) : Bool := (distPa s p (snapVa s p n)).any (fun pa => ! tablesOk s p { needNone with wr := true } pa 4096)

/-- Make snapshot n of a packet's arguments, here or at the peer that is its home; the snapshot is in use from now on (R219, R233, R393, R394). -/
def makeSnap (p reader n : Nat) (k : Packet) (s : State) : State :=
  let s := modPart p (fun q => { q with snapsUsed := insNat n q.snapsUsed }) s
  match distPa s p (snapVa s p n) with
  | none => s
  | some base =>
    let ws := (List.range 512).map (snapWord s p reader k)
    let s := acceptLines (argPas s p k) s
    (List.range 32).foldl (fun s i => putHome p (base + 128 * i) ((ws.drop (16 * i)).take 16) (.write none) s) s

/-- The first address of some that has no translation. -/
def firstMiss (s : State) (p : Nat) (vas : List Nat) : Option Nat := vas.find? (fun va => (distPa s p va).isNone)

/-- The addresses of the argument buffer, one for each page. -/
def argPages (k : Packet) : List Nat := if k.alen = 0 then [] else [k.argp, k.argp + k.alen - 1]

/-- The argument lines at peers that have not been sent yet. -/
def argFills (s : State) (p reader : Nat) (k : Packet) : List Nat :=
  (((argPas s p k).filter (fun pa => ! distHere s p reader pa)).map (lineNo s)).eraseDups

/-- The lines of the arguments, and of the snapshot that takes them, that are held (R248, R277). -/
def heldArgs (s : State) (p n : Nat) (k : Packet) : List Nat :=
  ((argPas s p k ++ (match distPa s p (snapVa s p n) with | some base => (List.range 32).map (fun i => base + 128 * i) | none => [])).map (lineNo s)).filter
    (lineHeld s 386)

/-- Is any of them held? -/
def argsHeld (s : State) (p n : Nat) (k : Packet) : Bool := ! (heldArgs s p n k).isEmpty

/-! ### LAUNCH (R126, R396) -/

/-- LAUNCH completes with a status; what its packet's peers sent is forgotten. -/
def launchDone (f : Ctl) (st : Nat) (s : State) : State :=
  let s := dropArgs s.grp.part (launchReader s.grp.gid s.cur) s
  advance (lenOf f.len) (addOp f.cf.toNat { Op.new .done with writes := [.scal f.d.toNat (BitVec.ofNat 64 st) allBits] } s)

/-- The hand-over of a valid packet: an entry of the launch queue and a snapshot, or status 1 (R396). -/
def launchEnter (f : Ctl) (k : Packet) (s : State) : Except Stop State :=
  let p := s.grp.part
  match freeSnap s p with
  | none => .ok (launchDone f 1 s)
  | some n =>
    if 256 ≤ (part s p).launchQ.length then .ok (launchDone f 1 s)
    else if snapRefused s p n then .ok (launchDone f 3 s)
    else if (distPa s p (snapVa s p n)).isNone then .error (.walk (snapVa s p n) 1 (BitVec.allOnes 32))
    else match atHome (heldArgs s p n k) with
    | some e => .error e
    | none =>
      let s := makeSnap p (launchReader s.grp.gid s.cur) n k s
      let e : LaunchEnt := { pkt := k, pri := f.at 0 2, snap := n, seq := s.nextId, stall := none }
      .ok (launchDone f 0 (modPart p (fun q => { q with launchQ := q.launchQ ++ [e] }) s))

/-- LAUNCH past its checks and its release: the packet read, judged and handed over (R126, R233, R392, R396). Where several statuses hold, 2 comes
before 3 and 3 before 1 (DESIGN CHOICE, log entry 71). -/
def launchRead (f : Ctl) (pa : Nat) (s : State) : Except Stop State :=
  let p := s.grp.part
  let me := launchReader s.grp.gid s.cur
  let ws := (List.range 8).map (fun i => (distWord s p me (pa + 8 * i)).data)
  let k := packetOf ws
  let s := accept s pa
  if ! packetValid s p ws then .ok (launchDone f 2 s)
  else if packetRefused s p me k then .ok (launchDone f 3 s)
  else match firstMiss s p (argPages k) with
    | some va => .error (.walk va 0 (BitVec.allOnes 32))
    | none =>
      match argFills s p me k with
      | [] => launchEnter f k s
      | ls => .error (.args ls)

/-- LAUNCH's act (R126): a packet whose own read is refused gives status 3 (R440), by its page's rights too (DESIGN CHOICE, log entry 71). -/
def launchAct (f : Ctl) (s : State) : Except Stop State :=
  let va := (readS s f.a.toNat).toNat
  let p := s.grp.part
  let me := launchReader s.grp.gid s.cur
  if ! canonical va then .error (.trap 0x05 (BitVec.allOnes 32) va 0)
  else if va % 64 != 0 then .error (.trap 0x04 (BitVec.allOnes 32) va 0)
  else
    match xlate s (some s.grp.core) p va 64 needLoad with
    | .miss _ => .error (.walk va 0 (BitVec.allOnes 32))
    | .refused => match releaseStop s 4 with
      | some e => .error e
      | none => .ok (launchDone f 3 (releaseNow 4 s))
    | .ok pa _ =>
      match releaseStop s 4 with
      | some e => .error e
      | none =>
        let pa := canonPa s pa
        if distNo s p me pa then .ok (launchDone f 3 (releaseNow 4 s))
        else if lineHeld s s.grp.core (lineNo s pa) then .error (.recall [lineNo s pa])
        else if distHere s p me pa then launchRead f pa (releaseNow 4 s)
        else .error (.args [lineNo s pa])

/-- LAUNCH (R126). -/
def execLaunch (f : Ctl) (s : State) : Host.Outcome State Fault Refusal := issueE (.launch f) (launchAct f) s

end Sys2Proof.Machine
end

