-- ==== Sys2Proof/Machine/Place.lean ====
section
/-! DEFINITION. What a core, a die and a partition have free for teams: group slots, granules, stack windows, context slots, rectangles of cores
(R215 to R217, R220, R258, R324, R398, R399, R445). -/
namespace Sys2Proof.Machine

/-! ### Dies and cores (R326, R398, R399) -/

/-- The physical die that a virtual die names (R326, R444). -/
def physicalDie (s : State) (v : Nat) : Option Nat := let x := vget s.mgmt.vdmap v 0; if x.testBit 3 then some (x % 8) else none

/-- Is a physical die in operation: start has not mapped it out (R450)? -/
def dieWorks (s : State) (d : Nat) : Bool := ! s.mgmt.steps.any (fun r => r.1 == 4 && r.2.1 == d && r.2.2 != .succeeded)

/-- The core at a row and a column of a die (R398). -/
def coreAt (d row col : Nat) : Nat := 48 * d + 8 * row + col

/-- The cores of a rectangle by place, from its top-left core (R398). -/
def rectCores (d row col w h : Nat) : List Nat := (List.range (w * h)).map (fun p => coreAt d (row + p / w) (col + p % w))

/-- The cores of field f, lowest first (R399). -/
def fieldCores (s : State) (f : Nat) : List Nat :=
  match physicalDie s (f / 12) with
  | none => []
  | some d => let r := f % 12 / 4 * 2; let c := f % 4 * 2; [coreAt d r c, coreAt d r (c + 1), coreAt d (r + 1) c, coreAt d (r + 1) (c + 1)]

/-! ### What a core has free (R217) -/

/-- Is a core the lowest-numbered of its field, where the sorting group has a slot (R258)? -/
def sortingCore (c : Nat) : Bool := (c % 48 / 8) % 2 == 0 && c % 8 % 2 == 0

/-- Does a group hold a group slot (R228)? -/
def Group.holdsSlot (g : Group) : Bool := g.life == .resident || g.life == .draining

/-- The free group slots of a core, lowest first (R217, R258). -/
def freeSlots (s : State) (c : Nat) : List Nat :=
  let used := ((allGroups s).filter (fun g => g.core == c && g.holdsSlot)).map Group.gslot
  (List.range (if sortingCore c then 47 else 48)).filter (fun k => ! used.contains k)

/-- A grid has run on a core (R278). -/
def ranOn (grid c : Nat) (s : State) : State := modGrid grid (fun x => { x with cores := if x.cores.contains c then x.cores else x.cores ++ [c] }) s

/-- The granules of a team. -/
def Team.granules (t : Team) : Nat := t.regGran + t.spadGran + t.accGran

/-- The free granules of a core (R215). -/
def freeGranules (s : State) (c : Nat) : Nat :=
  64 - (((allTeams s).filter (fun t => t.core == c && t.life != .retired && ! t.saved)).map Team.granules).sum

/-- Has a core room for groups and granules (R217)? -/
def coreFits (s : State) (c groups granules : Nat) : Bool := groups ≤ (freeSlots s c).length && granules ≤ freeGranules s c

/-- The first rectangle of a die whose cores, each with its place, pass a test (R398). -/
def findRect (d w h : Nat) (ok : Nat → Nat → Bool) : Option (List Nat) :=
  ((List.range 48).filter (fun k => k / 8 + h ≤ 6 && k % 8 + w ≤ 8)).findSome? (fun k =>
    let cs := rectCores d (k / 8) (k % 8) w h
    if (cs.zip (List.range cs.length)).all (fun x => ok x.2 x.1) then some cs else none)

/-! ### What a partition has free (R220, R445) -/

/-- The free stack windows of a partition, lowest first (R220, R393). -/
def freeWindows (s : State) (p : Nat) : List Nat :=
  (List.range (8 * (field (part s p).dsreg 0 12 + 1))).filter (fun k => ! (part s p).windowsUsed.contains k)

/-- The first of n consecutive free context slots (R445). -/
def freeCtx (s : State) (p n : Nat) : Option Nat :=
  let q := part s p
  let total := if field q.ctxcfg 12 16 = 0 then 0 else field q.ctxcfg 0 12 + 1
  (List.range total).find? (fun k => k + n ≤ total && (List.range n).all (fun i => ! q.ctxUsed.contains (k + i)))

/-- A packet's needs of a core: groups and granules. -/
def packetFits (s : State) (c : Nat) (k : Packet) : Bool := coreFits s c k.groups (k.reg + k.spad + k.acc)

end Sys2Proof.Machine
end

