-- ==== Sys2Proof/Machine/CacheOps.lean ====
section
/-! DEFINITION. Validity, prefetch, cache control, residency and presence: LDV, CLRV, PREF, CINV, CWB, LLCK, LUNL and PRES (R179 to R185,
R252). -/
namespace Sys2Proof.Machine

/-! ### LDV (R180) -/

/-- The validity words of some regions that are at home here; host memory keeps none, so a free value (R256; log entry 3). -/
def validWords (pas : List Nat) (s : State) : List (Nat × TWord) × State :=
  pas.foldl (fun r pa => match homeOf r.2 pa with
    | .peer _ _ => r
    | .host => let w := freeWord r.2; (r.1 ++ [(pa, ⟨w.1, 0⟩)], w.2)
    | _ => (r.1 ++ [(pa, ⟨validityWord r.2 pa, 0⟩)], accept r.2 pa)) ([], s)

/-- The requests of an LDV to peers: one for each region, on its lowest lane's account (R419). -/
def askValid (id : Nat) (accs : List LaneAcc) (miss : List Nat) (s : State) : State :=
  miss.foldl (fun s pa => match accs.find? (fun a => a.pa == pa) with
    | some a => askLine 7 pa (.valid id a.lane) s
    | none => s) s

/-- LDV's effect: the validity word of each lane's 4 KiB region (R180). -/
def ldvEff (f : MemF) (accs : List LaneAcc) (s : State) : State :=
  let accs := accs.map (fun a => { a with pa := a.pa / 4096 * 4096, sreq := false })
  let r := validWords (wordsOf accs) s
  let g : Gather := {
    d := f.d.toNat, scalar := false, ty := 7, nv := false, valid := true, acq := acqOf f, tmpl := complTrap s 0 0 0, rdis := 0, accs := accs, got := r.1,
    mine := [], no := [] }
  let miss := g.missing
  if miss.isEmpty then
    let s := addOp f.cf.toNat { loadDone g (Op.new .done) with isLoad := true } r.2
    match acqOf f with | some scope => acquireNow scope s | none => s
  else
    let id := r.2.nextId
    askValid id accs miss (addOp f.cf.toNat { Op.new (.gather g) with isLoad := true } r.2)

/-- LDV's act: the address rounded down to 64 bytes; at a held line it waits (R180, R248, R259). -/
def ldvAct (x : Instr) (f : MemF) (s : State) : Except Stop State :=
  match accCheck s false ((laneVas s x f).map (fun v => (v.1, v.2 / 64 * 64))) 64 needLoad 6 with
  | .error e => .error e
  | .ok accs =>
    match orStop (if acquirePending s then some .hold else none) (claimHold s (accs.map LaneAcc.pa)) with
    | some e => .error e
    | none => .ok (advance (lenOf f.len) (ldvEff f accs s))

/-- LDV (R180). -/
def execLdv (f : MemF) (s : State) : Host.Outcome State Fault Refusal := issueE (.ldv f) (ldvAct (.ldv f) f) s

/-! ### CLRV (R181) -/

/-- A block's eight words dropped from the issuing core's L1 and its die's cache (R181). -/
def dropBlock (c pa : Nat) (s : State) : State :=
  let line := lineNo s pa
  let off (x : CLine) : CLine := if x.line = line then
      { x with words := (x.words.zip (List.range 16)).map (fun z => if z.2 / 8 = wordIx pa / 8 then { z.1 with valid := false, dirty := false } else z.1) }
    else x
  dropFills (dieOf c) (fun l => l == line) <| modDie (dieOf c) (fun q => { q with lines := keepLive (q.lines.map off) })
    (modCore c (fun k => { k with l1 := keepLive (k.l1.map off) }) s)

/-- The blocks of some physical pieces. -/
def blocksOf (ps : List (Nat × Nat)) : List Nat := ps.flatMap (fun p => (List.range (p.2 / 64)).map (fun i => p.1 + 64 * i))

/-- One block cleared at its home, or asked of the peer that is its home (R181, R419). -/
def clearOne (id : Nat) (pa : Nat) (s : State) : State :=
  let s := dropBlock s.grp.core pa s
  match peerLine s (lineNo s pa) with
  | some (dev, pl) => sendReq 6 dev pl (1 <<< (pa / 64 % 2)) [] (some s.grp.core) s.grp.part s.grp.gid (.clrv id) s
  | none => clearBlock (accept s pa) pa

/-- CLRV's act (R181). -/
def clrvAct (f : MemF) (s : State) : Except Stop State :=
  let va := baseVa s f
  let n := (readS s f.d.toNat).toNat
  if canonical va && (n % 64 != 0 || 2 ^ 32 < n) then .error (laneTrap true 0x04 [(0, va)])
  else
    match rangeCheck s va n 64 needStore 6 with
    | .error e => .error e
    | .ok ps =>
      match orStop (memHold s (inPieces ps)) (claimHold s (blocksOf ps)) with
      | some e => .error e
      | none =>
        let s' := (blocksOf ps).foldl (fun s' pa => clearOne s.nextId pa s') s
        .ok (advance (lenOf f.len) (addOp f.cf.toNat { peerOp va s s' with isWrite := true } s'))

/-- CLRV (R181). -/
def execClrv (f : MemF) (s : State) : Host.Outcome State Fault Refusal := issueE (.clrv f) (clrvAct f) s

/-! ### PREF (R182) -/

/-- Ask the peer at home of a line for it, once: to a level, at a re-reference position, for a word (R182, R242). -/
def askPref (lvl rdis ix line : Nat) (s : State) : State :=
  match peerLine s line with
  | some (dev, pl) =>
    let pu : Purpose := .pref s.grp.core lvl rdis ix
    if s.fabric.reqs.any (fun r => r.dev == dev && r.line == pl && r.purpose == pu) then s
    else sendReq 0 dev pl 0xFFFF [] none s.grp.part s.grp.gid pu s
  | none => s

/-- A line brought to the level that PREF names (R182): one request for each lane that reaches the slice (log entry 52). -/
def prefetch (lvl rdis pa : Nat) (s : State) : State :=
  let c := s.grp.core
  let line := lineNo s pa
  let inL1 := (findLine (core s c).l1 line).any (fun x => (x.word (wordIx pa)).valid)
  let inDie := (findLine (die s (dieOf c)).lines line).any CLine.full
  match peerLine s line with
  | some _ =>
    if inL1 then s
    else if inDie then
      let s := if lvl < 2 then dieTouch (dieOf c) line rdis s else s
      if lvl = 0 then l1Take c line (wordIx pa) s else s
    else askPref lvl rdis (wordIx pa) line s
  | none =>
    if inL1 then s
    else if lvl = 0 then l1Fill c line (wordIx pa) rdis s
    else if lvl = 1 then dieFill (dieOf c) line rdis s
    else if inDie then s
    else accept s pa

/-- The physical addresses of some prefetches: each is translated as a load's is, by a walk where no translation is cached, and one that would
trap or fault is dropped (R182, R314). -/
def prefPas : List Nat → State → List Nat × State
  | [], s => ([], s)
  | va :: t, s =>
    if ! canonical va then prefPas t s
    else
      let s := engineTlb s.grp.core s.grp.part va s
      match xlate s (some s.grp.core) s.grp.part va 1 needLoad with
      | .ok pa _ => let r := prefPas t s; (canonPa s pa :: r.1, r.2)
      | _ => prefPas t s

/-- PREF's act (R182). -/
def prefAct (x : Instr) (f : MemF) (s : State) : Except Stop State :=
  let r := prefPas ((laneVas s x f).map Prod.snd) s
  match orStop (memHold s (fun _ => false)) (recallHold s r.1) with
  | some e => .error e
  | none => .ok (advance (lenOf f.len) (addOp f.cf.toNat (Op.new .done) (r.1.foldl (fun s pa => prefetch f.d.toNat f.rdis.toNat pa s) r.2)))

/-- PREF (R182). -/
def execPref (f : MemF) (s : State) : Host.Outcome State Fault Refusal := issueE (.pref f) (prefAct (.pref f) f) s

/-! ### CINV and CWB (R183) -/

/-- The lines that some physical pieces overlap. -/
def linesOf (s : State) (ps : List (Nat × Nat)) : List Nat :=
  (ps.flatMap (fun p => (List.range ((p.2 + 127) / 128 + 1)).filterMap (fun i =>
    if (p.1 / 128 + i) * 128 < p.1 + p.2 then some (lineNo s ((p.1 / 128 + i) * 128)) else none))).eraseDups

/-- Does CINV or CWB of a scope act on a line in the die cache: from dev on, by memory class (R183)? -/
def dieActs (s : State) (scope line : Nat) : Bool := 4 ≤ scope && acqClass s scope line

/-- One line written back, and dropped by CINV (R183). At a scope below that of its memory, a peer's or the host's line is acted on in the L1 and
stays in the die cache (DESIGN CHOICE, log entry 69: the table does not say to which of its rows such a line belongs). -/
def cleanLine (inv : Bool) (scope line : Nat) (s : State) : State :=
  let c := s.grp.core
  let s := l1WriteBack c line s
  let s := if inv then l1Drop c line s else s
  if dieActs s scope line then
    let s := dieWriteBack (dieOf c) c line none s
    if inv then dieDrop (dieOf c) line s else s
  else s

/-- CINV's and CWB's act (R183). -/
def cleanAct (f : MemF) (inv : Bool) (s : State) : Except Stop State :=
  let va := baseVa s f
  let n := (readS s f.d.toNat).toNat
  if canonical va && 2 ^ 32 < n then .error (laneTrap true 0x04 [(0, va)])
  else
    match rangeCheck s va n 64 needCache 6 with
    | .error e => .error e
    | .ok ps =>
      let ls := linesOf s ps
      match orStop (memHold s (fun _ => false)) (atHome (ls.filter (fun l => dieActs s f.scope.toNat l && lineHeld s s.grp.core l))) with
      | some e => .error e
      | none =>
        let s' := ls.foldl (fun s' l => cleanLine inv f.scope.toNat l s') s
        .ok (advance (lenOf f.len) (addOp f.cf.toNat { peerOp va s s' with isWrite := true } s'))

/-- CINV (R183). -/
def execCinv (f : MemF) (s : State) : Host.Outcome State Fault Refusal := issueE (.cinv f) (cleanAct f true) s
/-- CWB (R183). -/
def execCwb (f : MemF) (s : State) : Host.Outcome State Fault Refusal := issueE (.cwb f) (cleanAct f false) s

/-! ### LLCK and LUNL (R184, R185, R252) -/

/-- The granules from an address on, translated: each with the access tables' verdict (R439). -/
def granulesFrom (s : State) (a : Nat) : Nat → Except Stop (List (Nat × Bool))
  | 0 => .ok []
  | n + 1 =>
    match lookup s (some s.grp.core) s.grp.part a with
    | none => .error (.walk a 6 (BitVec.allOnes 32))
    | some t =>
      match granulesFrom s (a + 4096) n with
      | .error e => .error e
      | .ok l => .ok ((canonPa s (t.phys a), tablesOk s s.grp.part needPin (t.phys a) 4096) :: l)

/-- The granules of a range: canonical, aligned, then translated (R165, R167). -/
def granules (s : State) (va n : Nat) : Except Stop (List (Nat × Bool)) :=
  if ! canonical va || (n != 0 && ! canonical ((va + 4096 * n - 1) % 2 ^ 64)) then .error (laneTrap true 0x05 [(0, va)])
  else if va % 4096 != 0 then .error (laneTrap true 0x04 [(0, va)])
  else granulesFrom s va n

/-- The pinned lines, each with its home slice and its set there (R252). -/
def pinPlaces (s : State) (gs : List Nat) : List (Option Nat × Nat) :=
  gs.flatMap (fun g => (List.range 32).map (fun i => (sliceOf s (4096 * g + 128 * i), (Config.llcSet (32 * g + i)).val)))

/-- Would pinning these granules exceed the limit in some set of a home slice (R252)? -/
def noRoom (s : State) (gs : List Nat) : Bool :=
  let all := pinPlaces s (s.pins.map Prod.fst ++ gs)
  (pinPlaces s gs).any (fun p => 8 < (all.filter (fun q => q == p)).length)

/-- LLCK's status (R184): a refusal, then the quota, then room. -/
def llckStatus (s : State) (gs : List (Nat × Bool)) : Nat :=
  if gs.any (fun g => ! g.2) then 3
  else
    let new := ((gs.map (fun g => g.1 / 4096)).eraseDups).filter (fun g => ! s.pins.any (fun p => p.1 == g))
    if (part s s.grp.part).llcquota < (s.pins.filter (fun p => p.2 == s.grp.part)).length + new.length then 1
    else if noRoom s new then 2
    else 0

/-- Pin granules that are not pinned, against the issuing partition (R252). -/
def pinAll (gs : List Nat) (s : State) : State :=
  gs.foldl (fun s g => if s.pins.any (fun p => p.1 == g) then s else { s with pins := assocSet g s.grp.part s.pins }) s

/-- Granules of a range that LLCK or LUNL names: an address that is nowhere traps as ACCESS (R243, R244). -/
def lockGranules (s : State) (va n : Nat) : Except Stop (List (Nat × Bool)) :=
  match granules s va n with
  | .error e => .error e
  | .ok gs => if gs.any (fun g => ! physOk s g.1) then .error (laneTrap true 0x05 [(0, va)]) else .ok gs

/-- LLCK's result, with the pins that it leaves: a granule that the tables grant and that is at home at a peer or in host memory has no slice
here, so nothing is pinned, and the status is a free value (DESIGN CHOICE, log entry 69: the spec names none). The lines that a home slice fetches count
in no ACCEPT (log entry 52). -/
def llckResult (s : State) (gs : List (Nat × Bool)) : Word × State :=
  if gs.isEmpty then (0, s)
  else if ! gs.any (fun g => ! g.2) && gs.any (fun g => homeOf s g.1 != .localMem) then freeWord s
  else
    let st := llckStatus s gs
    (BitVec.ofNat 64 st, if st = 0 then pinAll (gs.map (fun g => g.1 / 4096)) s else s)

/-- LLCK's act (R184). -/
def llckAct (f : MemF) (s : State) : Except Stop State :=
  let va := baseVa s f
  let v := readS s f.d.toNat
  if field v 32 32 != 0 then .error .ill
  else
    match lockGranules s va (field v 0 32) with
    | .error e => .error e
    | .ok gs =>
      if acquirePending s then .error .hold
      else
        let r := llckResult s gs
        .ok (advance (lenOf f.len) (addOp f.cf.toNat { Op.new .done with writes := [.scal f.d.toNat r.1 allBits] } r.2))

/-- LLCK (R184). -/
def execLlck (f : MemF) (s : State) : Host.Outcome State Fault Refusal := issueE (.llck f) (llckAct f) s

/-- LUNL's act: granules that are not pinned are skipped (R185). -/
def lunlAct (f : MemF) (s : State) : Except Stop State :=
  let va := baseVa s f
  match lockGranules s va (readS s f.d.toNat).toNat with
  | .error e => .error e
  | .ok gs =>
    if gs.any (fun g => ! g.2) then .error (laneTrap true 0x05 [(0, va)])
    else if acquirePending s then .error .hold
    else
      let s := { s with pins := s.pins.filter (fun p => ! gs.any (fun g => g.1 / 4096 == p.1)) }
      .ok (advance (lenOf f.len) (addOp f.cf.toNat (Op.new .done) s))

/-- LUNL (R185). -/
def execLunl (f : MemF) (s : State) : Host.Outcome State Fault Refusal := issueE (.lunl f) (lunlAct f) s

/-! ### PRES (R179, R239) -/

/-- The checks of a presence region: alignment and bounds (R165, R177). -/
def presCheck (s : State) (f : MemF) : Except Stop Nat :=
  let off := baseVa s f
  if off % 8192 != 0 then .error (laneTrap true 0x04 [(0, off)])
  else if s.team.spadSize ≤ off then .error (laneTrap true 0x05 [(0, off)])
  else if acquirePending s then .error .hold
  else .ok off

/-- The presence bits of the 64 lines from a line on. -/
def presWord (t : Team) (line : Nat) : Nat := (List.range 64).foldl (fun a i => if t.present (line + i) then a ||| (1 <<< i) else a) 0

/-- PRES.query's act (R179). -/
def presQueryAct (f : MemF) (s : State) : Except Stop State :=
  match presCheck s f with
  | .error e => .error e
  | .ok off =>
    .ok (advance (lenOf f.len) (addOp f.cf.toNat
      { Op.new .done with writes := [.scal f.d.toNat (BitVec.ofNat 64 (presWord s.team (off / 128))) allBits] } s))

/-- PRES.set's and PRES.clr's act: the bits change at completion (R179). -/
def presAct (f : MemF) (set : Bool) (s : State) : Except Stop State :=
  match presCheck s f with
  | .error e => .error e
  | .ok off =>
    .ok (advance (lenOf f.len) (addOp f.cf.toNat (Op.new (.pres s.team.tid (off / 128) (readS s f.d.toNat).toNat set)) s))

/-- PRES.query (R179). -/
def execPresQuery (f : MemF) (s : State) : Host.Outcome State Fault Refusal := issueE (.presQuery f) (presQueryAct f) s
/-- PRES.set (R179). -/
def execPresSet (f : MemF) (s : State) : Host.Outcome State Fault Refusal := issueE (.presSet f) (presAct f true) s
/-- PRES.clr (R179). -/
def execPresClr (f : MemF) (s : State) : Host.Outcome State Fault Refusal := issueE (.presClr f) (presAct f false) s

end Sys2Proof.Machine
end

