-- ==== Sys2Proof/Machine/Sync.lean ====
section
/-! DEFINITION. Barriers and signal waits: BARV, BARW, BARS, SIGW (R193 to R198, R230). -/
namespace Sys2Proof.Machine

/-! ### Barriers (R193, R194) -/

/-- A barrier of the team or of the cluster of the group in focus. -/
def barGet (s : State) (clus : Bool) (k : Nat) : Barrier :=
  if clus then (match clusterOf s s.grp.cluster with | some c => vget c.cb k (.fresh 0) | none => .fresh 0)
  else vget s.team.bars k (.fresh 0)

/-- That barrier changed. -/
def barMod (clus : Bool) (k : Nat) (f : Barrier → Barrier) (s : State) : State :=
  if clus then modCluster s.grp.cluster (fun c => { c with cb := vmod c.cb k f }) s
  else modTeam s.team.tid (fun t => { t with bars := vmod t.bars k f }) s

/-- A phase completes (R194). -/
def Barrier.advance (b : Barrier) : Barrier :=
  { count := b.next.getD b.count, arr := 0, lastc := (b.lastc + 1) % 65536, next := none }

/-- One arrival (R194). -/
def Barrier.arrive (b : Barrier) : Barrier := if b.arr + 1 = b.count then b.advance else { b with arr := b.arr + 1 }

/-- The token of the phase that an arrival counts in (R193, R194). -/
def barToken (b : Barrier) (clus : Bool) (k : Nat) : Word := packFields [(0, 16, b.lastc + 1), (16, 4, k), (20, 1, b2n clus)]

/-- Has a phase completed (R193)? -/
def phaseDone (b : Barrier) (p : Nat) : Bool := (b.lastc + 65536 - p % 65536) % 65536 < 32768

/-- Is a phase two or more phases old (R195)? -/
def phaseLate (b : Barrier) (p : Nat) : Bool := let d := (b.lastc + 65536 - p % 65536) % 65536; 1 ≤ d && d < 32768

/-- BARV's act (R194). -/
def barvAct (f : MemF) (s : State) : Except Stop State :=
  let clus := f.scope == 2
  let k := f.off8.toNat
  match (if f.ord == 2 then releaseStop s f.scope.toNat else none) with
  | some e => .error e
  | none =>
    if flumeClaiming s then .error .hold
    else
      let s := if f.ord == 2 then releaseNow f.scope.toNat s else s
      let t := barToken (barGet s clus k) clus k
      .ok (advance (lenOf f.len) (addOp f.cf.toNat { Op.new .done with writes := [.scal f.d.toNat t allBits] } (barMod clus k Barrier.arrive s)))

/-- BARV (R194). -/
def execBarv (f : MemF) (s : State) : Host.Outcome State Fault Refusal := issueE (.barv f) (barvAct f) s

/-- Are sixteen waits of the issuing group outstanding: as many as its image's wait list holds (R325)? -/
def waitsFull (s : State) : Bool := 16 ≤ (s.grp.ops.filter Op.isWait).length + s.grp.waitList.length

/-- BARW's act, by phase or by parity (R195). -/
def barwAct (f : MemF) (p : Bool) (s : State) : Except Stop State :=
  let v := readS s f.a.toNat
  let clus := bit v 20
  let k := field v 16 4
  if field v 21 11 != 0 || (clus && 7 < k) || clus != (f.scope == 2) then .error .ill
  else if flumeClaiming s || waitsFull s then .error .hold
  else
    let ph := if p then parityPhase (barGet s clus k) (field v 0 16) else field v 0 16
    let s := if ! p && phaseLate (barGet s clus k) ph then orMstat s.team.tid mLATE s else s
    .ok (advance (lenOf f.len) (addOp f.cf.toNat (Op.new (.barw clus k ph p (b2n (f.ord == 1)) f.scope.toNat)) s))

/-- BARW (R195). -/
def execBarw (f : MemF) (s : State) : Host.Outcome State Fault Refusal := issueE (.barw f) (barwAct f false) s
/-- BARW.p (R195). -/
def execBarwP (f : MemF) (s : State) : Host.Outcome State Fault Refusal := issueE (.barwP f) (barwAct f true) s

/-- The groups of a barrier's scope that have not retired (R196). -/
def liveGroups (s : State) (clus : Bool) : Nat :=
  if clus then (groupsOfCluster s s.grp.cluster).length else (groupsOfTeam s s.grp.team).length

/-- A new count: now where no arrival stands, else for the next phase (R196). -/
def Barrier.setCount (n : Nat) (b : Barrier) : Barrier := if b.arr = 0 then { b with count := n } else { b with next := some n }

/-- BARS's act (R196). -/
def barsAct (f : MemF) (s : State) : Except Stop State :=
  let clus := f.scope == 2
  let n := (readS s f.a.toNat).toNat
  if flumeClaiming s then .error .hold
  else
    let bad := n == 0 || liveGroups s clus < n
    let s := if bad then s else barMod clus f.off8.toNat (Barrier.setCount n) s
    .ok (advance (lenOf f.len) (addOp f.cf.toNat { Op.new .done with writes := [.scal f.d.toNat (BitVec.ofNat 64 (b2n bad)) allBits] } s))

/-- BARS (R196). -/
def execBars (f : MemF) (s : State) : Host.Outcome State Fault Refusal := issueE (.bars f) (barsAct f) s

/-! ### SIGW (R198) -/

/-- CND, W0 [55:54] (R198). -/
def sigCnd (f : MemF) : Nat := b2n f.spw + 2 * b2n f.nv

/-- SIGW's act (R198). -/
def sigwAct (f : MemF) (s : State) : Except Stop State :=
  match accCheck s true [(0, baseVa s f)] 8 needWatch 0 with
  | .error e => .error e
  | .ok accs =>
    match orStop (memHold s (inWords (accs.map LaneAcc.pa))) (if waitsFull s then some .hold else none) with
    | some e => .error e
    | none =>
      let pa := (accs.head?.map LaneAcc.pa).getD 0
      let w : SigWait := {
        va := baseVa s f, pa := some pa, cnd := sigCnd f, cmp := readS s f.d.toNat, d := f.d.toNat, acq := b2n (f.ord == 1), scope := f.scope.toNat,
        peer := (peerLine s (lineNo s pa)).isSome, stall := none }
      let tmpl := complTrap s 0x05 (BitVec.allOnes 32) (baseVa s f)
      let id := s.nextId
      let s := addOp f.cf.toNat { Op.new (.sigw w) with isLoad := true, trap := some tmpl } s
      .ok (advance (lenOf f.len) (sendWatch s.grp id w s))

/-- SIGW (R198). -/
def execSigw (f : MemF) (s : State) : Host.Outcome State Fault Refusal := issueE (.sigw f) (sigwAct f) s

/-- A signal wait that ends with a value: the register, the acquire, and the flag when it completes (R198); its watch is given up. -/
def sigwEnd (g : Group) (o : Op) (v : Word) (s : State) : State :=
  match o.kind with
  | .sigw w =>
    let s := if w.acq = 1 then acquireAction g.core w.scope s else s
    bump (dropWatches (fun k => k == opWatch o.id) (modOp g.gid o.id (fun o => { o with kind := .done, writes := [.scal w.d v allBits], trap := none }) s))
  | _ => s

/-- The value with which a signal wait ends now, where its word is at home here: what met the condition, or the signal as it stands, at a line that
nothing holds (R198, R248, R277). -/
def sigwValue (s : State) (g : Group) (o : Op) : Option Word :=
  match o.kind with
  | .sigw w => match w.pa, w.peer with
    | some pa, false => match watchMet s (opWatch o.id) with
      | some t => some t.data
      | none => if ! lineHeld s g.core (lineNo s pa) && sigHolds w.cnd (homeWord s pa).data w.cmp then some (homeWord s pa).data else none
    | _, _ => none
  | _ => none

/-- Does a signal wait end now? -/
def sigwReady (s : State) (g : Group) (o : Op) : Bool := (sigwValue s g o).isSome

/-- A wait on a signal that was issued again and can go on with its translation now (R324). -/
def sigToPlace (s : State) : Option (Nat × Nat) :=
  (allGroups s).findSome? (fun g => (g.ops.find? (fun o => (match o.kind with | .sigw w => w.pa.isNone && w.stall.isNone | _ => false)
    && ((groupOf (placeSig g.gid o.id s) g.gid).bind (fun h => h.op o.id)) != some o)).map (fun o => (g.gid, o.id)))

/-- SIGW_SATISFIED (R198). -/
def execSigwSatisfied (id : Nat) (s : State) : Host.Outcome State Fault Refusal :=
  .next (match ownerOfOp s id with
    | none => s
    | some g => match g.op id with
      | some o => match sigwValue s g o with | some v => sigwEnd g o v s | none => s
      | none => s)

/-! ### Waits that other agents end (R195, R202) -/

/-- Does a barrier wait end now (R195)? -/
def barwReady (s : State) (g : Group) (o : Op) : Bool :=
  match o.kind with
  | .barw clus k ph _ _ _ =>
    phaseDone (barOfGroup s g clus k) ph
  | _ => false

/-! ### Retirement's decrement (R230) -/

/-- A barrier after a group of its scope has retired (R230). -/
def Barrier.retire (b : Barrier) : Barrier :=
  let b := { b with count := b.count - 1, next := b.next.map (· - 1) }
  if b.arr != 0 && b.count ≤ b.arr then b.advance else b

end Sys2Proof.Machine
end

