-- ==== Sys2Proof/Machine/Publish.lean ====
section
/-! DEFINITION. Reader sections and publication: RDSB, RDSE, PUBL, RETQ, GPWT, GPQY (R199 to R203, R290 to R298). -/
namespace Sys2Proof.Machine

/-! ### Reader sections (R199, R291, R292) -/

/-- RDSB's effect (R199). -/
def rdsbEff (f : MemF) (s : State) : State :=
  let s := if s.grp.rdDepth = 0 then
      let par := (core s s.grp.core).known % 2 == 1
      modCount s.grp.core par (· + 1) (modGrp (fun g => { g with rdPar := par }) s)
    else s
  advance (lenOf f.len) (addOp f.cf.toNat (Op.new .done) (modGrp (fun g => { g with rdDepth := g.rdDepth + 1 }) s))

/-- RDSB (R199). -/
def execRdsb (f : MemF) (s : State) : Host.Outcome State Fault Refusal :=
  issue (.rdsb f) (fun s => if s.grp.rdDepth = 255 then some (.trap 0x07 (BitVec.allOnes 32) 0 0) else none) (rdsbEff f) s

/-- What RDSE waits for, or its trap (R199). -/
def rdseStop (s : State) : Option Stop :=
  if s.grp.rdDepth = 0 then some (.trap 0x08 (BitVec.allOnes 32) 0 0)
  else if s.grp.ops.any (fun o => o.isLoad && ! o.isWait) then some .hold
  else none

/-- RDSE's effect (R199). -/
def rdseEff (f : MemF) (s : State) : State :=
  let s := if s.grp.rdDepth = 1 then modCount s.grp.core s.grp.rdPar (· - 1) s else s
  advance (lenOf f.len) (addOp f.cf.toNat (Op.new .done) (modGrp (fun g => { g with rdDepth := g.rdDepth - 1 }) s))

/-- RDSE (R199). -/
def execRdse (f : MemF) (s : State) : Host.Outcome State Fault Refusal := issue (.rdse f) rdseStop (rdseEff f) s

/-! ### PUBL (R200) -/

/-- The pointer stored at its home, here or at the peer, after the line has left the issuing core's caches (R200, R419). -/
def publish (id pa : Nat) (v : Word) (s : State) : State :=
  let s := flushLine s.grp.core (lineNo s pa) s
  match peerLine s (lineNo s pa) with
  | some (dev, pl) =>
    let d := (List.range 16).map (fun i => if i = wordIx pa then stamped v else ⟨0, 0⟩)
    sendReq 2 dev pl (1 <<< wordIx pa) d (some s.grp.core) s.grp.part s.grp.gid (.write (some id)) s
  | none => homeWrite (accept s pa) pa (stamped v)

/-- PUBL's act (R200). -/
def publAct (f : MemF) (s : State) : Except Stop State :=
  let va := baseVa s f
  match accCheck s true [(0, va)] 8 needStore 1 with
  | .error e => .error e
  | .ok accs =>
    let pas := accs.map LaneAcc.pa
    match orStop (memHold s (inWords pas)) (orStop (releaseStop s f.scope.toNat) (claimHold s pas)) with
    | some e => .error e
    | none =>
      let s1 := releaseNow f.scope.toNat s
      let s2 := pas.foldl (fun s2 pa => publish s1.nextId pa (readS s f.d.toNat) s2) s1
      .ok (advance (lenOf f.len) (addOp f.cf.toNat { peerOp va s1 s2 with isWrite := true } s2))

/-- PUBL (R200). -/
def execPubl (f : MemF) (s : State) : Host.Outcome State Fault Refusal := issueE (.publ f) (publAct f) s

/-! ### RETQ (R201, R296, R298) -/

/-- The words of a partition's pool descriptor (R298). -/
def poolWord (s : State) (p pool i : Nat) : Word := vget (part s p).pools (4 * pool + i) 0
/-- LCAPL of a pool. -/
def poolLog (s : State) (p pool : Nat) : Nat := field (poolWord s p pool 1) 0 4
/-- Has a pool a descriptor (R298)? -/
def poolKnown (s : State) (p pool : Nat) : Bool := pool < 64 && 4 ≤ poolLog s p pool

/-- Has every device of the pod PODEN set, and does every one name the same root (R305)? Of the others' registers nothing is known here (log
entry 70). -/
def podWhole (s : State) : Bool :=
  s.weir.poden && (if s.mgmt.podSize ≤ 1 then s.weir.podroot == s.mgmt.device else Config.podAgrees s.tick)

/-- Is a request invalid (R201, R298, R305)? -/
def retqInvalid (s : State) (v sig : Word) (pod : Bool) : Bool :=
  field v 0 32 == 0 || field v 48 16 != 0 || ! poolKnown s s.grp.part (field v 32 16) || sig.toNat % 8 != 0 || (pod && ! podWhole s)

/-- The result word of RETQ (R201). -/
def retqWord (st ticket : Nat) : Word := packFields [(0, 8, st), (16, 48, ticket)]

/-- The signal's translation: its home and whether an atomic may go there; none where there is no signal (R296). -/
def retqSignal (s : State) (sig : Word) : Except Stop (Option (Nat × Bool)) :=
  let va := sig.toNat
  if va = 0 then .ok none
  else if ! canonical va then .ok (some (0, false))
  else match lookup s (some s.grp.core) s.grp.part va with
    | none => .error (.walk va 6 (BitVec.allOnes 32))
    | some t => .ok (some (canonPa s (t.phys va), rightsOk s s.grp.part va (t.phys va) 8 needAtomic t))

/-- Do all granules pass: AT of the table, local memory that the issuing partition owns (R296, R439)? -/
def retqRange (s : State) (gs : List (Nat × Bool)) : Bool := gs.all (fun g => g.2 && ownerOf s g.1 == some s.grp.part)

/-- Does the entry wait: the epoch of its tag, E or the pod's, is below T + 2 (R293, R305)? -/
def entryWaits (w : Weir) (e : Retire) : Bool := if e.pod then w.knownP < e.tag + 2 else w.e < e.tag + 2

/-- Does a retirement wait: an entry of the queue, or the pod's demand (R293, R305)? -/
def retireWaits (w : Weir) : Bool := w.queue.any (entryWaits w) || (w.poden && w.podDemand)

/-- Does this device demand a pod advance (R305)? -/
def ownDemand (w : Weir) : Bool := w.queue.any (fun e => e.pod && entryWaits w e)

/-- A device's report at the pod root: the E of its first report after adopting P is its e_d (R305, R433). -/
def noteReport (dev p e : Nat) (demand : Bool) (w : Weir) : Weir :=
  let ed := match w.reports.find? (fun r => r.1 == dev && r.2.1 == p) with | some r => r.2.2.1 | none => e
  let rs := w.reports.filter (fun r => r.1 != dev) ++ [(dev, p, ed, e, demand)]
  { w with reports := rs, podDemand := rs.any (fun r => r.2.2.2.2) }

/-- The pod root passes a demand that rose or fell to every device (R305). -/
def passDemand (before : Bool) (s : State) : State :=
  if s.weir.podDemand = before then s
  else ((List.range s.mgmt.podSize).filter (fun d => d != s.mgmt.device)).foldl (fun s d =>
    sendCtl 0x11 (d) (zeros 4 ++ leBytes 8 s.weir.podP ++ leBytes 8 s.weir.e ++ leBytes 1 (b2n s.weir.podDemand)) s) s

/-- This device's report after an adoption, or a change of its demand or its E (R433). -/
def reportSelf (s : State) : State :=
  let w := s.weir
  let s := modWeir (fun w => { w with lastE := if w.poden then w.e else w.lastE }) s
  if ! w.poden then s
  else if w.podroot = s.mgmt.device then passDemand w.podDemand (modWeir (noteReport s.mgmt.device w.knownP w.e (ownDemand w)) s)
  else sendCtl 0x11 (w.podroot) (zeros 4 ++ leBytes 8 w.knownP ++ leBytes 8 w.e ++ leBytes 1 (b2n (ownDemand w))) s

/-- The outcome of a valid request: a refusal, a full queue, or its entry (R201, R296). An entry of SCOPE 5 is tagged with the pod epoch known here, which
at another device may be one behind the root's (DESIGN CHOICE, log entry 70). -/
def retqEnter (s : State) (pod ok : Bool) (va : Nat) (v : Word) (sig : Option Nat) : Nat × State :=
  if ! ok then (3, s)
  else if 8192 ≤ s.weir.queue.length then (1, s)
  else
    let e : Retire := {
      ticket := s.weir.lastTicket + 1, tag := (if pod then s.weir.knownP else s.weir.e), pod := pod, base := va57 va, ngran := field v 0 32,
      pool := field v 32 16, sig := sig, part := s.grp.part }
    let s := modWeir (fun w => { w with queue := w.queue ++ [e], lastTicket := w.lastTicket + 1 }) s
    (0, if pod then reportSelf s else s)

/-- RETQ completes with a result word. -/
def retqDone (f : MemF) (st : Nat) (s : State) : State :=
  let t := if st = 0 then s.weir.lastTicket else 0
  advance (lenOf f.len) (addOp f.cf.toNat { Op.new .done with writes := [.scal f.d.toNat (retqWord st t) allBits] } s)

/-- RETQ's act (R201). -/
def retqAct (f : MemF) (s : State) : Except Stop State :=
  let va := baseVa s f
  let v := readS s f.d.toNat
  let sig := readS s (f.d.toNat + 1)
  let pod := f.scope == 5
  if ! canonical va then .error (laneTrap true 0x05 [(0, va)])
  else if va % 4096 != 0 then .error (laneTrap true 0x04 [(0, va)])
  else if flumeClaiming s then .error .hold
  else if retqInvalid s v sig pod then .ok (retqDone f 2 s)
  else
    match granules s va (field v 0 32), retqSignal s sig with
    | .error e, _ => .error e
    | _, .error e => .error e
    | .ok gs, .ok sg =>
      let ok := retqRange s gs && (match sg with | some x => x.2 | none => true)
      let r := retqEnter s pod ok va v (sg.map Prod.fst)
      .ok (retqDone f r.1 r.2)

/-- RETQ (R201). -/
def execRetq (f : MemF) (s : State) : Host.Outcome State Fault Refusal := issueE (.retq f) (retqAct f) s

/-! ### GPWT and GPQY (R202, R203) -/

/-- GPWT's act (R202). -/
def gpwtAct (f : MemF) (s : State) : Except Stop State :=
  let t := field (readS s f.a.toNat) 16 48
  if flumeClaiming s || waitsFull s then .error .hold
  else
    let o := if t = 0 || s.weir.lastTicket < t then { Op.new .done with writes := [.scal f.d.toNat (BitVec.allOnes 64) allBits] }
      else Op.new (.gpwt t f.d.toNat)
    .ok (advance (lenOf f.len) (addOp f.cf.toNat o s))

/-- GPWT (R202). -/
def execGpwt (f : MemF) (s : State) : Host.Outcome State Fault Refusal := issueE (.gpwt f) (gpwtAct f) s

/-- Does a GPWT end now, and with which epoch (R202)? -/
def gpwtReady (s : State) (o : Op) : Option Nat :=
  match o.kind with
  | .gpwt t _ => (s.weir.freed.find? (fun x => x.1 == t)).map Prod.snd
  | _ => none

/-- Has this device reported an E two or more past its e_d, so that the root may have left the P known here (R305)? -/
def rootMayMove (w : Weir) : Bool := match w.ed with | some n => decide (n + 2 ≤ w.lastE) | none => true

/-- The root's P as read from another device. The root advances only once every device has adopted P and reports E ≥ e_d + 2: until this device has
done so it is the P known here; from then on that or the next, and never lower than what was read before (R305; log entry 3 for which of the two).
Of a root none of whose P has been adopted here nothing is known: a free value. -/
def rootEpoch (s : State) : Word × State :=
  if s.weir.ed.isNone then freeWord s
  else if ! rootMayMove s.weir then (BitVec.ofNat 64 s.weir.knownP, s)
  else
    let r := freeWord s
    let p := max s.weir.seenP (s.weir.knownP + b2n (bit r.1 0))
    (BitVec.ofNat 64 p, modWeir (fun w => { w with seenP := p }) r.2)

/-- The epoch that GPQY reads: E, or P at the pod root (R203). With SCOPE 5 while PODEN = 0 the root named by PODROOT is read all the same: this
device's P where it is this device, else a free value (DESIGN CHOICE, log entry 70: the spec says nothing of PODEN here). -/
def epochRead (f : MemF) (s : State) : Word × State :=
  if f.scope == 4 then (BitVec.ofNat 64 s.weir.e, s)
  else if s.weir.podroot = s.mgmt.device then (BitVec.ofNat 64 s.weir.podP, s)
  else if s.weir.poden then rootEpoch s
  else freeWord s

/-- GPQY's act (R203). -/
def gpqyAct (f : MemF) (s : State) : Except Stop State :=
  if flumeClaiming s then .error .hold
  else
    let r := epochRead f s
    .ok (advance (lenOf f.len) (addOp f.cf.toNat { Op.new .done with writes := [.scal f.d.toNat r.1 allBits] } r.2))

/-- GPQY (R203). -/
def execGpqy (f : MemF) (s : State) : Host.Outcome State Fault Refusal := issueE (.gpqy f) (gpqyAct f) s

end Sys2Proof.Machine
end

