-- ==== Sys2Proof/Machine/Life.lean ====
section
/-! DEFINITION. The life of operations, groups, teams and grids: completion (R25, R173), trap reports and handler entry (R308, R309), region
aborts (R321), retirement (R229 to R231), grid completion (R395), and writes performed at home (R242, R266). -/
namespace Sys2Proof.Machine

/-! ### Completion (R25, R173) -/

/-- An outstanding operation by number, with its group. -/
def findOp (s : State) (id : Nat) : Option (Group × Op) := (ownerOfOp s id).bind (fun g => (g.op id).map (fun o => (g, o)))

/-- May an operation that is no memory operation complete? -/
def opReady (s : State) (g : Group) (o : Op) : Bool :=
  match o.kind with
  | .done => ! (o.isLoad || o.isWrite)
  | .mdrn _ _ _ _ _ _ _ _ _ _ => mdrnReady s g o
  | _ => false

/-- An operation that is no memory operation completes; a drain is performed now (R25, R344). -/
def finishOp (g : Group) (o : Op) (s : State) : State :=
  match o.kind, teamOf s g.team with
  | .mdrn _ _ _ _ _ _ _ _ _ _, some t => completeOp g.gid (mdrnResult s t o) { s with free := s.free + 1024 }
  | _, _ => completeOp g.gid o s

/-- OPERATION_COMPLETE (R25). -/
def execOperationComplete (id : Nat) (s : State) : Host.Outcome State Fault Refusal :=
  .next (match findOp s id with
    | some (g, o) => if opReady s g o then finishOp g o s else s
    | none => s)

/-- Are some requests to peers answered? -/
def answered (s : State) (tags : List Nat) : Bool := ! s.fabric.reqs.any (fun r => tags.contains r.tag)

/-- May a memory, barrier, wait or stream operation complete? -/
def memReady (s : State) (g : Group) (o : Op) : Bool :=
  match o.kind with
  | .done => o.isLoad || o.isWrite
  | .barw _ _ _ _ _ _ => barwReady s g o
  | .gpwt _ _ => (gpwtReady s o).isSome
  | .pres _ _ _ _ => true
  | .peer tags _ => answered s tags
  | .hrst r _ => hrstReady r
  | _ => false

/-- The presence bits that a PRES form names, set or cleared (R179). -/
def presApply (tid line mask : Nat) (v : Bool) (s : State) : State :=
  (List.range 64).foldl (fun s i => if mask.testBit i then setPresence tid (line + i) v s else s) s

/-- A memory, barrier, wait or stream operation completes (R173, R179, R195, R202, R358). -/
def finishMem (g : Group) (o : Op) (s : State) : State :=
  match o.kind with
  | .barw _ _ _ _ acq scope => completeOp g.gid { o with kind := .done } (if acq = 1 then acquireAction g.core scope s else s)
  | .gpwt _ d =>
    match gpwtReady s o with
    | some e => completeOp g.gid { o with kind := .done, writes := [.scal d (BitVec.ofNat 64 e) allBits] } s
    | none => s
  | .pres tid line mask v => completeOp g.gid { o with kind := .done } (presApply tid line mask v s)
  | .hrst r q => hrstDone g.gid o r q s
  | _ => completeOp g.gid { o with kind := .done } s

/-- MEMORY_OP_COMPLETE (R173). -/
def execMemoryOpComplete (id : Nat) (s : State) : Host.Outcome State Fault Refusal :=
  .next (match findOp s id with
    | some (g, o) => if memReady s g o then settleInv g.part (finishMem g o s) else s
    | none => s)

/-! ### Traps (R308, R309) -/

/-- May a held completion trap of a group be reported: it runs again (R308)? -/
def reportDue (g : Group) : Bool := g.life == .resident && g.trap.isNone && ! g.stopped && ! g.heldTraps.isEmpty

/-- TRAP_REPORT (R308, R309): the first held trap of a group is reported, and the group stops. -/
def execTrapReport (gid : Nat) (s : State) : Host.Outcome State Fault Refusal :=
  .next (match groupOf s gid with
    | some g =>
      match g.heldTraps with
      | t :: rest =>
        if reportDue g then bump (enterHandler gid (reportTrap gid t (modGroup gid (fun g => { g with heldTraps := rest }) s))) else s
      | [] => s
    | none => s)

/-- Can the steps of R309 go on for a group now? -/
def entryReady (s : State) (g : Group) : Bool :=
  g.life == .resident && g.trap.isSome && ! g.stopped &&
    (if g.buf.isEmpty then g.drained && ctxMapped s g.core g.part (imageVa s g) 0x5000 && ! suspendHeld s g
     else match regionGate (focus g.gid s.cur s) with
      | .ok _ => true
      | .error (.abort va) => abortReady s g va
      | .error (.fill ls) => ls.any (fun l => match peerLine s l.1 with
          | some (dev, pl) => ! fillAsked s g.core dev pl
          | none => false)
      | .error _ => false)

/-- TRAP_HANDLER_ENTRY (R309): the group's region ends, its image is written, and it enters its handler or is suspended. -/
def execTrapHandlerEntry (gid : Nat) (s : State) : Host.Outcome State Fault Refusal :=
  .next (match groupOf s gid with
    | some g => if entryReady s g then bump (enterHandler gid s) else s
    | none => s)

/-! ### Region aborts (R321) -/

/-- The token under which a slot of a group has been parked for longer than the park limit (R321). -/
def parkedLong (s : State) (g : Group) : Option Nat :=
  let isOver (x : Slot) : Option Nat := match x.st with
    | .parkTrans k since => if since + 1000 * (part s g.part).parklim < s.time then some k else none
    | _ => none
  match isOver g.slot0 with
  | some k => some k
  | none => isOver g.slot1

/-- May a group's region be aborted under a token now? -/
def abortDue (s : State) (g : Group) : Option Nat :=
  if g.life == .resident && g.trap.isNone && ! g.stopped && ! g.aborting && faultRoom s g.part then parkedLong s g else none

/-- The access that the record of a token named. -/
def accessOfToken (s : State) (c token : Nat) : Nat × Nat :=
  match (core s c).waits.find? (fun w => w.token == token) with | some w => (w.acc, w.va) | none => (0, 0)

/-- REGION_ABORT (R321). -/
def execRegionAbort (gid : Nat) (s : State) : Host.Outcome State Fault Refusal :=
  .next (match groupOf s gid with
    | some g =>
      match abortDue s g with
      | some k => let a := accessOfToken s g.core k; settleInv g.part (bump (abortUnder gid 2 a.1 a.2 k s))
      | none => s
    | none => s)

/-! ### Retirement (R229 to R231) -/

/-- A group's place in the age order of its core given up (R402). -/
def dropAge (c gid : Nat) (s : State) : State := modCore c (fun k => { k with age := k.age.filter (fun x => x.1 != gid) }) s

/-- A member that leaves the machine takes its queued joint MMA with it: the others trap as GANGBRK at their MMAs, and the latch is broken (R336,
R339; log entry 62). -/
def leaveJoint (g : Group) (s : State) : State :=
  match (teamOf s g.team).bind (fun t => t.joints.find? (fun x => x.frags.any (fun a => a.gid == g.gid))) with
  | none => s
  | some x =>
    let s := modTeam g.team (fun t => { t with joints := t.joints.filter (fun y => y.no != x.no), latch := { t.latch with broken := true } }) s
    jointFail { x with frags := x.frags.filter (fun a => a.gid != g.gid) } 0x0A s

/-- A group taken out of the machine: its section closed, its gang broken, its window freed (R220, R229, R339). -/
def removeGroup (g : Group) (s : State) : State :=
  let s := unwatch g (leaveJoint g (gangBreak g (closeSection g.gid s)))
  let s := dropReqs (fun r => match r.purpose with | .headrace id _ => id == g.gid | _ => false) (dropAge g.core g.gid (dropLaunch g.part g.gid s))
  let s := modPart g.part (fun q => { q with windowsUsed := q.windowsUsed.filter (fun k => k != g.window) }) s
  let s := modGroup g.gid (fun g => { g with life := .retired, ops := [], buf := [] }) s
  { s with groups := s.groups.filter (fun x => x.gid != g.gid) }

/-- Every barrier of a group's team and cluster counts one group less (R230). -/
def lowerBarriers (g : Group) (s : State) : State :=
  modCluster g.cluster (fun c => { c with cb := c.cb.map Barrier.retire }) (modTeam g.team (fun t => { t with bars := t.bars.map Barrier.retire }) s)

/-- Does a value of `preempt`, `resume` or `remove` name a cluster (R445)? -/
def namesCluster (s : State) (p : Nat) (v : Word) (c : Cluster) : Bool :=
  c.part == p && c.number == field v 12 31 && (match gridOf s c.grid with | some g => g.snap == field v 0 12 | none => false)

/-- GO of a register cleared. -/
def clearGo (w : Word) : Word := setField w 63 1 0

/-- The requests for a cluster end: GO falls in each register that names it. -/
def dropRequests (c : Cluster) (s : State) : State :=
  let f (w : Word) : Word := if namesCluster s c.part w c then clearGo w else w
  modPart c.part (fun q => { q with preempt := f q.preempt, resume := f q.resume, remove := f q.remove }) s

/-- A cluster goes once all of its teams have retired (R231). -/
def clusterEnd (cid : Nat) (s : State) : State :=
  match clusterOf s cid with
  | none => s
  | some c =>
    if c.teams.all (fun t => (teamOf s t).all (fun x => x.life == .retired)) then
      let s := dropRequests c s
      { s with clusters := s.clusters.filter (fun x => x.cid != cid) }
    else s

/-- A team taken out of the machine: its granules, context slot and lease returned, its grid's count raised (R231, R333, R445). -/
def removeTeam (t : Team) (s : State) : State :=
  let s := grantHead t.core (releaseLease t.core t.tid s)
  let wake (x : Slot) : Slot := match x.st with | .parkPresence k _ => if k = t.tid then { x with st := .ready } else x | _ => x
  let s := mapGroups (fun g => { g with slot0 := wake g.slot0, slot1 := wake g.slot1 }) s
  let s := modPart t.part (fun q => { q with ctxUsed := q.ctxUsed.filter (fun k => k != t.ctx) }) s
  let s := modTeam t.tid (fun t => { t with life := .retired }) s
  let s := { s with teams := s.teams.filter (fun x => x.tid != t.tid) }
  modGrid t.grid (fun x => { x with retired := x.retired + 1 }) s

/-- A group retires; with its last group its team, and with its last team its cluster (R229 to R231). -/
def retireGroup (g : Group) (s : State) : State :=
  let s := lowerBarriers g (removeGroup g s)
  let s := modTeam g.team (fun t => { t with retired := t.retired + 1 }) s
  match teamOf s g.team with
  | none => s
  | some t => if t.ngroups ≤ t.retired then clusterEnd t.cluster (removeTeam t s) else settleTeam t.tid s

/-- Does a group's handler end now: no slot live and nothing outstanding but waits (R311)? -/
def handlerOver (s : State) (g : Group) : Bool :=
  g.life == .resident && g.inHandler && g.noLive && g.drained && g.trap.isNone && ! g.stopped && ctxMapped s g.core g.part (imageVa s g) 0x5000

/-- May a draining group retire (R229)? -/
def retireReady (g : Group) : Bool := g.life == .draining && g.ops.isEmpty

/-- GROUP_RETIRE (R229 to R231, R311): a group without a live slot ends its handler, or retires. -/
def execGroupRetire (gid : Nat) (s : State) : Host.Outcome State Fault Refusal :=
  .next (match groupOf s gid with
    | some g => if handlerOver s g then handlerEnd gid s else if retireReady g then settleInv g.part (bump (retireGroup g s)) else s
    | none => s)

/-! ### Grid completion (R278, R395) -/

/-- Has every team of a grid retired? -/
def gridOver (x : Grid) : Bool := x.pkt.teams ≤ x.retired

/-- The release of a grid's completion, on every core that it ran on and every die of those (R278). -/
def gridRelease (x : Grid) (s : State) : State :=
  let s := x.cores.foldl (fun s c => releaseL1 c (advanceCut c 6 s)) s
  let s := x.cores.foldl (fun s c => releaseDie (dieOf c) c (some c) s) s
  modGrid x.id (fun x => { x with released := true }) s

/-- A grid gone, its snapshot free (R395). -/
def gridGone (x : Grid) (s : State) : State :=
  let s := modPart x.part (fun q => { q with snapsUsed := q.snapsUsed.filter (fun k => k != x.snap) }) s
  { s with grids := s.grids.filter (fun y => y.id != x.id) }

/-- The record of a miss that no core made (R319). -/
def deviceMiss (p va : Nat) (s : State) : Nat × State :=
  let r := nextToken s
  (r.1, postFault p { FaultInfo.ofKind 1 with token := r.1, va := va, lanes := 2 ^ 32 - 1 } r.2)

/-- The completion signal posted, and the grid gone once it is performed; a miss waits for a replay, a signal whose rights are refused is not posted
(R395; log entry 20). -/
def gridSignal (x : Grid) (s : State) : State :=
  if x.pkt.compl = 0 then gridGone x s
  else
    match xlate s none x.part x.pkt.compl 8 needAtomic with
    | .miss page =>
      if ! faultRoom s x.part then s
      else let r := deviceMiss x.part x.pkt.compl s; modGrid x.id (fun y => { y with stall := some (page, r.1) }) r.2
    | .refused => gridGone x s
    | .ok pa sreq =>
      let pa := canonPa s pa
      if signalWaits s 386 x.part pa sreq then s
      else
        let s := postSignal x.part 0 none x.pkt.compl pa sreq (.gridEnd x.id) s
        if (peerLine s (lineNo s pa)).isSome then modGrid x.id (fun y => { y with posted := true }) s else gridGone x s

/-- Does nothing hold a grid's completion signal: an engine's line, or a record that finds no room (R277, R319)? -/
def signalFree (s : State) (x : Grid) : Bool :=
  x.pkt.compl == 0 || (match xlate s none x.part x.pkt.compl 8 needAtomic with
    | .ok pa sreq => ! signalWaits s 386 x.part (canonPa s pa) sreq
    | .miss _ => faultRoom s x.part
    | .refused => true)

/-- May a grid's completion go on? Its release waits for lines that are held, so that every write that it makes is counted as one of a release (R259,
R281). -/
def gridReady (s : State) (x : Grid) : Bool :=
  gridOver x && x.stall.isNone && ! x.posted && (if ! x.released then ! x.cores.any (fun c => dirtyHeld s c 6) else (! writesOut s && s.wbs.isEmpty && signalFree s x))

/-- GRID_COMPLETE (R395): the release, and once its writes are performed the signal. -/
def execGridComplete (id : Nat) (s : State) : Host.Outcome State Fault Refusal :=
  .next (match gridOf s id with
    | some x =>
      if ! gridReady s x then s
      else if ! x.released then
        let s := gridRelease x s
        bump (if ! writesOut s && s.wbs.isEmpty then gridSignal x s else s)
      else bump (gridSignal x s)
    | none => s)

/-! ### Home writes and urgency (R242, R266, R402) -/

/-- HOME_WRITE_PERFORM (R242, R266): a dirty line of a die cache is evicted and performed at its home. -/
def execHomeWritePerform (d line : Nat) (s : State) : Host.Outcome State Fault Refusal :=
  .next (match findLine (die s d).lines line with
    | some x => if x.isDirty && ! lineHeld s (dieReq d) line then bump (dieDrop d line (dieWriteBack d (dieReq d) line none s)) else s
    | none => s)

/-- Has a slot been ready for 96 cycles without issuing (R402)? One that is held, but has waited since its hold ended, is ready (R223). -/
def Slot.overdue (x : Slot) : Bool := (x.st == .ready || x.st == .held) && 96 ≤ x.waited

/-- SLOT_URGENT (R402): a slot that has been ready for 96 cycles. -/
def execSlotUrgent (gid : Nat) (b : Bool) (s : State) : Host.Outcome State Fault Refusal :=
  .next (modGroup gid (fun g => g.modSlot b (fun x => if x.overdue then { x with urgent := true } else x)) s)

end Sys2Proof.Machine
end

