-- ==== Sys2Proof/Machine/Peer.lean ====
section
/-! DEFINITION. Requests of peers, served at home: RDL, RDH, WRL, ATM, RED, CLB, VLD, WAT, CLM (R419, R432), and spillway writes WRS (R280,
R426). -/
namespace Sys2Proof

/-! ### What a request says (R419) -/

/-- The local physical address of a request's line. -/
def FabHdr.pa (h : FabHdr) : Nat := h.laddr.toNat * 128
/-- The address of the word that WMASK names. -/
def FabHdr.wordPa (h : FabHdr) : Nat := h.pa + 8 * (h.wmask.toNat % 16)
/-- SUB, or SIGW's condition. -/
def FabHdr.sub (h : FabHdr) : Nat := (h.wmask.toNat / 16) % 16
/-- TY. -/
def FabHdr.ty (h : FabHdr) : Nat := (h.wmask.toNat / 256) % 16
/-- ORD. -/
def FabHdr.ord (h : FabHdr) : Nat := (h.wmask.toNat / 4096) % 8
/-- A header with the operation of its event. -/
def FabHdr.as (h : FabHdr) (op : Nat) : FabHdr := { h with op := BitVec.ofNat 4 op }

/-- The master number of the sender (R438). -/
def FabHdr.master (h : FabHdr) : Nat := 33 + h.sdev.toNat

/-- Where the highest cut count of a source core is kept (R280). -/
def FabHdr.coreKey (h : FabHdr) : Nat := h.sdev.toNat * 512 + h.score.toNat

end Sys2Proof

namespace Sys2Proof.Machine

/-- Word i of a request's data. -/
def dataWord (d : List TWord) (i : Nat) : TWord := d.getD i ⟨0, 0⟩

/-- The data words of a request of an operation (R419). -/
def dataLen (op : Nat) : Nat := if op = 2 || op = 3 then 16 else if op = 4 || op = 5 || op = 8 then 8 else 0

/-- The read-modify-write that SUB names; an ACAS has 10 (log entry 18). -/
def atomKindOf (h : FabHdr) : AtomKind := if h.sub = 10 then .cas else .rmw h.sub

/-- Do SUB, TY and ORD name an atomic, or a reduction (R59, R163)? -/
def atomNamed (h : FabHdr) (ret : Bool) : Bool :=
  (if h.sub = 10 then ret && (0x00F0 : Nat).testBit h.ty else h.sub < 10 && (atomTys h.sub).testBit h.ty)
    && (if ret then 0x1F else 0x15 : Nat).testBit h.ord && h.wmask.toNat < 2 ^ 15

/-- Is the data segment of an ATM or RED valid (R419)? -/
def atomData (h : FabHdr) (d : List TWord) : Bool :=
  let w4 := (dataWord d 4).data.toNat
  let q := (w4 / 4) % 8
  w4 / 32 == 0 && (w4 % 4) * tyWidth h.ty < 64 && (if h.sub = 9 then 1 ≤ q && q ≤ 6 else q == 0) && (dataWord d 2).data.toNat < 2 ^ 48
    && [5, 6, 7].all (fun i => (dataWord d i).data == 0)

/-- Is a request valid (R419)? -/
def reqValid (h : FabHdr) (d : List TWord) : Bool :=
  let op := h.op.toNat
  op < 10 && h.rsv == 0 && d.length == dataLen op
    && (if op = 4 || op = 5 then atomNamed h (op == 4) && atomData h d
        else if op = 8 then h.sub < 4 && h.wmask.toNat < 2 ^ 15 && (dataWord d 4).data == 0
        else true)

/-- The right that a request needs (R419, R439). -/
def reqNeed (op : Nat) : Need :=
  if op = 2 || op = 3 || op = 6 || op = 9 then needStore else if op = 4 || op = 5 then needAtomic else if op = 8 then needWatch else needLoad

/-- Why a request is refused: 2 invalid or at an unowned address, 1 by the access table (R419, R440). -/
def refusal (s : State) (h : FabHdr) (d : List TWord) : Option Nat :=
  if ! reqValid h d || (ownerOf s h.pa).isNone then some 2
  else if ! (4 :: localTargets h.pa 128).all (fun t => tableOk s t h.master (reqNeed h.op.toNat) h.pa 128) then some 1
  else none

/-! ### The cut (R280, R281, R426) -/

/-- Is count c lower than the highest count (R426)? -/
def cutLower (high c : Nat) : Bool := let d := (high + 4096 - c) % 4096; 1 ≤ d && d ≤ 2047

/-- The highest count received from a request's core. -/
def cutOf (s : State) (h : FabHdr) : Option Nat := assocGet h.coreKey s.fabric.cuts

/-- Is a request's count behind what its core has sent? -/
def cutBehind (s : State) (h : FabHdr) : Bool := match cutOf s h with | some m => cutLower m h.cut.toNat | none => false

/-- The highest count of a core, with a request whose count is valid (R280, R281). -/
def noteCut (h : FabHdr) (s : State) : State :=
  if h.cv && ! cutBehind s h then modFabric (fun f => { f with cuts := assocSet h.coreKey h.cut.toNat f.cuts }) s else s

/-! ### Performing at home (R419) -/

/-- The sixteen words of a line at home. -/
def homeLineWords (s : State) (pa : Nat) : List TWord := (List.range 16).map (fun i => homeWord s (pa + 8 * i))

/-- Words of a mask written at home. -/
def writeMasked (pa mask : Nat) (d : List TWord) (s : State) : State :=
  (List.range 16).foldl (fun s i => if mask.testBit i then homeWrite s (pa + 8 * i) (dataWord d i) else s) s

/-- Eight words with one or two of them used. -/
def words8 (a b : TWord) : List TWord := [a, b] ++ List.replicate 6 ⟨0, 0⟩

/-- RDL and RDH: the line as it stands at home. -/
def readDo (h : FabHdr) (_ : List TWord) (s : State) : State :=
  let s := accept s h.pa
  sendRsp 10 h 0xFFFF (homeLineWords s h.pa) s

/-- The owner of a claim that a request makes, or would end: an engine's requests are on its core's account (R281). -/
def claimOf (h : FabHdr) : Nat := peerClaim h.sdev.toNat h.score.toNat

/-- Does a read or write come from the engine that owns its line: on the account of the core that claimed it (R259, R281)? -/
def fromOwner (s : State) (h : FabHdr) : Bool := (h.op == 1 || h.op == 2) && h.cv && s.claims.contains (h.laddr.toNat, claimOf h)

/-- WRL: the words of WMASK with their postmarks; an engine's claim of the line ends. -/
def wrlDo (h : FabHdr) (d : List TWord) (s : State) : State :=
  let s := writeMasked h.pa h.wmask.toNat d (accept s h.pa)
  sendRsp 11 h 0 [] (if fromOwner s h then unclaim h.laddr.toNat (claimOf h) s else s)

/-- The key of a sender's sequence on an ownership index (R432). -/
def seqKey (h : FabHdr) : Nat := h.sdev.toNat * 128 + ownerIx h.pa
/-- The next sequence number of that key (R432). -/
def seqNext (s : State) (h : FabHdr) : Nat := (assocGet (seqKey h) s.fabric.inSeq).getD 0
/-- The sequence number that a seq-cst atomic carries. -/
def seqOf (d : List TWord) : Nat := (dataWord d 3).data.toNat

/-- ATM and RED: the owning sorting group's operation on one element, and its answer (R188, R191, R432). The operand comes stamped where the page of the
requester asks for stamped words, and an unstamped word is then a mismatch, which leaves it. A mismatch answers with the old element under a wrong
postmark; a RED answers it in WMASK [6] (DESIGN CHOICE, log entry 18). -/
def atmDo (ret : Bool) (h : FabHdr) (d : List TWord) (s : State) : State :=
  let s := accept s h.pa
  let w4 := (dataWord d 4).data.toNat
  let t := homeWord s h.wordPa
  let x := atomWord (atomKindOf h) h.ty (w4 / 4) (w4 % 4) ((dataWord d 0).mark != 0) t (dataWord d 0).data (dataWord d 1).data
  let s := match x.put with | some w => homeWrite s h.wordPa w | none => s
  let s := if h.ord = 4 then modFabric (fun f => { f with inSeq := assocSet (seqKey h) (seqOf d + 1) f.inSeq }) s else s
  let old : Word := BitVec.ofNat 64 (elem t.data (w4 % 4) (tyWidth h.ty))
  if ret then sendRsp 10 h 0 (words8 (if x.bad then stampedBad old else if t.mark = 0 then ⟨old, 0⟩ else stamped old) ⟨BitVec.ofNat 64 x.fl, 0⟩) s
  else sendRsp 11 h (x.fl + 64 * b2n x.bad) [] s

/-- CLB: blocks zeroed, their validity bits cleared; each is a counted request (R181, R233). -/
def clbDo (h : FabHdr) (_ : List TWord) (s : State) : State :=
  let s := (List.range 2).foldl (fun s b => if h.wmask.getLsbD b then clearBlock (accept s h.pa) (h.pa + 64 * b) else s) s
  sendRsp 11 h 0 [] s

/-- VLD: the validity word of the line's 4 KiB region (R180). -/
def vldDo (h : FabHdr) (_ : List TWord) (s : State) : State :=
  let s := accept s h.pa
  sendRsp 10 h 0 (words8 ⟨validityWord s h.pa, 0⟩ ⟨0, 0⟩) s

/-- The key of a peer's watch. -/
def watKey (h : FabHdr) : Nat := 2 * (h.sdev.toNat * 1024 + h.tag.toNat) + 1

/-- WAT: the value of the signal that met its condition, or its value now (R198). -/
def watDo (h : FabHdr) (_ : List TWord) (s : State) : State :=
  sendRsp 10 h 0 (words8 ((watchMet s (watKey h)).getD (homeWord s h.wordPa)) ⟨0, 0⟩) (dropWatches (fun k => k == watKey h) s)

/-- CLM: the line owned by the sender's engine (R259, R277). -/
def clmDo (h : FabHdr) (_ : List TWord) (s : State) : State :=
  sendRsp 11 h 0 [] { s with claims := s.claims ++ [(h.laddr.toNat, claimOf h)] }

/-! ### Waiting (R277, R414, R432) -/

/-- Does an earlier request of the same device to the same line wait? -/
def aheadHeld (s : State) (h : FabHdr) (d : List TWord) : Bool :=
  (s.fabric.held.takeWhile (fun x => x != (h, d))).any (fun x => x.1.sdev == h.sdev && x.1.laddr == h.laddr && x.1.op != 8)

/-- Does another agent's engine own the line (R259, R277)? The owner's own RDH and WRL pass. -/
def ownedByOther (s : State) (h : FabHdr) : Bool := lineHeld s 385 h.laddr.toNat && ! fromOwner s h

/-- Must a request wait? -/
def mustHold (s : State) (h : FabHdr) (d : List TWord) : Bool :=
  if h.op == 8 && (watchMet s (watKey h)).isSome then false
  else (aheadHeld s h d && ! fromOwner s h) || ownedByOther s h
    || (h.op == 9 && 4096 ≤ ownedAt s (sliceOf s h.pa))
    || ((h.op == 4 || h.op == 5) && h.ord == 4 && seqNext s h < seqOf d)
    || (h.op == 8 && ! sigHolds h.sub (homeWord s h.wordPa).data (dataWord d 0).data)

/-- A request kept waiting; a WAT watches its signal from now on (R198). -/
def keepHeld (h : FabHdr) (d : List TWord) (s : State) : State :=
  let s := modFabric (fun f => { f with held := f.held ++ [(h, d)] }) s
  if h.op = 8 then addWatch (watKey h) h.wordPa h.sub (dataWord d 0).data s else s

/-- Serve a request: refused, kept waiting, or performed and answered; a request that waited is served again when it may be (R419, R440).
A seq-cst atomic whose number is past has been performed. -/
def serve (h : FabHdr) (d : List TWord) (perform : FabHdr → List TWord → State → State) (s : State) : State :=
  let waits := s.fabric.held.contains (h, d)
  let s := if waits then s else noteCut h s
  let done (s : State) : State := modFabric (fun f => { f with held := f.held.erase (h, d) }) s
  match refusal s h d with
  | some st => bump (sendRsp 12 h st [] (done s))
  | none =>
    if mustHold s h d then (if waits then s else keepHeld h d s)
    else if (h.op == 4 || h.op == 5) && h.ord == 4 && seqOf d < seqNext s h then done s
    else bump (perform h d (done s))

/-- RDL (R419). -/
def execRdl (h : FabHdr) (d : List TWord) (s : State) : Host.Outcome State Fault Refusal := .next (serve (h.as 0) d readDo s)
/-- RDH (R419). -/
def execRdh (h : FabHdr) (d : List TWord) (s : State) : Host.Outcome State Fault Refusal := .next (serve (h.as 1) d readDo s)
/-- WRL (R419). -/
def execWrl (h : FabHdr) (d : List TWord) (s : State) : Host.Outcome State Fault Refusal := .next (serve (h.as 2) d wrlDo s)
/-- ATM (R419, R432). -/
def execAtm (h : FabHdr) (d : List TWord) (s : State) : Host.Outcome State Fault Refusal := .next (serve (h.as 4) d (atmDo true) s)
/-- FABRIC_RED (R419). -/
def execFabricRed (h : FabHdr) (d : List TWord) (s : State) : Host.Outcome State Fault Refusal := .next (serve (h.as 5) d (atmDo false) s)
/-- CLB (R419). -/
def execClb (h : FabHdr) (d : List TWord) (s : State) : Host.Outcome State Fault Refusal := .next (serve (h.as 6) d clbDo s)
/-- VLD (R419). -/
def execVld (h : FabHdr) (d : List TWord) (s : State) : Host.Outcome State Fault Refusal := .next (serve (h.as 7) d vldDo s)
/-- WAT (R419). -/
def execWat (h : FabHdr) (d : List TWord) (s : State) : Host.Outcome State Fault Refusal := .next (serve (h.as 8) d watDo s)
/-- CLM (R419). -/
def execClm (h : FabHdr) (d : List TWord) (s : State) : Host.Outcome State Fault Refusal := .next (serve (h.as 9) d clmDo s)

/-- May a waiting request be served now? -/
def heldReady (s : State) : Option (FabHdr × List TWord) := s.fabric.held.find? (fun x => ! mustHold s x.1 x.2)

/-- The step that serves a request. -/
def serveStep (h : FabHdr) (d : List TWord) (s : State) : Host.Outcome State Fault Refusal :=
  match h.op.toNat with
  | 0 => execRdl h d s
  | 1 => execRdh h d s
  | 2 => execWrl h d s
  | 4 => execAtm h d s
  | 5 => execFabricRed h d s
  | 6 => execClb h d s
  | 7 => execVld h d s
  | 8 => execWat h d s
  | 9 => execClm h d s
  -- 13 to 15 are no operations (R419)
  | _ => .next (bump (sendRsp 12 h 2 [] s))

/-! ### Spillway writes (R426) -/

/-- A block of a spillway write: written where every stamped word matches, else cleared (R86, R426). -/
def spillBlock (pa mask b : Nat) (d : List TWord) (s : State) : State :=
  let here := (List.range 8).filter (fun i => mask.testBit (8 * b + i))
  if here.isEmpty then s
  else if here.any (fun i => mismatch false (dataWord d (8 * b + i))) then clearBlock s (pa + 64 * b)
  else here.foldl (fun s i => homeWrite s (pa + 64 * b + 8 * i) (dataWord d (8 * b + i))) s

/-- A spillway write performed at home, or dropped: refused, or behind the cut, be it by what came in while it waited: what a release has cut off no longer
changes (R280, R426). -/
def wrsDo (h : FabHdr) (d : List TWord) (s : State) : State :=
  if cutBehind s h then s
  else
    let s := noteCut h s
    if (refusal s h d).isSome then s
    else (List.range 2).foldl (fun s b => spillBlock h.pa h.wmask.toNat b d s) (accept s h.pa)

/-- The writes of a spillway flit as they come in: each raises the highest count of its core, and one that comes behind it is dropped (R280, R426). -/
def spillArrive : List (FabHdr × List TWord) → State → List (FabHdr × List TWord) × State
  | [], s => ([], s)
  | x :: t, s =>
    if cutBehind s x.1 then spillArrive t s
    else
      let r := spillArrive t (noteCut x.1 s)
      (x :: r.1, r.2)

/-- A header out of the kept spillway flits; its flit's buffer is free with its last header. -/
def dropSpill (h : FabHdr) (d : List TWord) (s : State) : State :=
  modFabric (fun f => { f with spill := (f.spill.map (fun l => (l.1, l.2.erase (h, d)))).filter (fun l => ! l.2.isEmpty) }) s

/-- WRS (R426); a write to a line that an engine owns waits (R277). -/
def execWrs (h : FabHdr) (d : List TWord) (s : State) : Host.Outcome State Fault Refusal :=
  .next (if lineHeld s 385 h.laddr.toNat && s.fabric.spill.any (fun l => l.2.contains (h, d)) then s
    else bump (wrsDo (h.as 3) d (dropSpill h d s)))

/-- A spillway write that may be performed now. -/
def spillReady (s : State) : Option (FabHdr × List TWord) := (s.fabric.spill.flatMap Prod.snd).find? (fun x => ! lineHeld s 385 x.1.laddr.toNat)

end Sys2Proof.Machine
end

