-- ==== Sys2Proof/Machine/Suspend.lean ====
section
/-! DEFINITION. Pre-emption, saving, resumption and removal of clusters (R228, R300, R322 to R325, R368, R445): the registers `preempt`,
`resume` and `remove`, and the team part of the context image. -/
namespace Sys2Proof.Machine

/-! ### Stopping a cluster (R322 steps 1 and 2) -/

/-- Is a barrier partly arrived (R322)? -/
def Barrier.partly (b : Barrier) : Bool := b.arr != 0 && b.arr < b.count

/-- The teams of a cluster that have not retired, with their places. -/
def liveTeams (s : State) (c : Cluster) : List Team := c.teams.filterMap (fun t => (teamOf s t).filter (fun x => x.life != .retired))

/-- Is any barrier of a cluster partly arrived (R322)? -/
def partlyArrived (s : State) (c : Cluster) : Bool :=
  c.cb.toList.any Barrier.partly || (liveTeams s c).any (fun t => t.bars.toList.any Barrier.partly)

/-- A group stopped for a save: an issue trap that was to be reported recurs, a completion trap is held (R306, R308). -/
def Group.stop (g : Group) : Group :=
  { g with stopped := true, trap := none,
           heldTraps := (match g.trap with | some t => if t.compl then [t] else [] | none => []) ++ g.heldTraps }

/-- Every resident group of a cluster stopped (R322 step 2). -/
def stopCluster (cid : Nat) (s : State) : State :=
  modCluster cid (fun c => { c with stopping := true }) (mapGroups (fun g => if g.cluster = cid && g.life = .resident then g.stop else g) s)

/-- The pre-emption of a cluster begun: it waits while a barrier is partly arrived (R322). -/
def beginPreempt (c : Cluster) (s : State) : State :=
  let s := modCluster c.cid (fun x => { x with preempt := some s.time }) s
  if partlyArrived s c then s else stopCluster c.cid s

/-- The cluster that a value of `preempt`, `resume` or `remove` names. -/
def namedCluster (s : State) (p : Nat) (v : Word) : Option Cluster := s.clusters.find? (namesCluster s p v)

/-- A value as those registers store it: bits [62:43] are zero (R445). -/
def actionWord (v : Word) : Word := packFields [(0, 43, field v 0 43), (63, 1, field v 63 1)]

/-- PREEMPT: a write of `preempt` (R322, R445). -/
def execPreempt (p : BitVec 4) (v : Word) (s : State) : Host.Outcome State Fault Refusal :=
  let p := p.toNat
  .next (if bit (part s p).preempt 63 then s
    else
      let put (w : Word) (s : State) : State := modPart p (fun q => { q with preempt := actionWord w }) s
      if ! bit v 63 then put v s
      else match namedCluster s p v with
        | some c =>
          if c.life = .resident then bump (if c.preempt.isSome then put v s else beginPreempt c (put v s)) else put (clearGo v) s
        | none => put (clearGo v) s)

/-- Must a deferred pre-emption go on: no barrier is partly arrived any more, or the limit has passed (R322)? -/
def deferOver (s : State) (c : Cluster) : Bool :=
  match c.preempt with
  | some t => ! c.stopping && (! partlyArrived s c || t + 1000 * (part s c.part).plim ≤ s.time)
  | none => false

/-- PREEMPT_DEFER_EXPIRE (R322): `v` names the cluster as `preempt` does. -/
def execPreemptDeferExpire (p : BitVec 4) (v : Word) (s : State) : Host.Outcome State Fault Refusal :=
  .next (match namedCluster s p.toNat v with
    | some c => if deferOver s c then bump (stopCluster c.cid s) else s
    | none => s)

/-! ### The team part of an image (R325) -/

/-- A barrier's word (R325). -/
def barWord (b : Barrier) : Word :=
  packFields [(0, 10, b.count), (10, 10, b.arr), (20, 16, b.lastc), (36, 10, b.next.getD 0), (46, 1, b2n b.next.isSome)]

/-- A barrier from its word. -/
def barOf (w : Word) : Barrier :=
  { count := field w 0 10, arr := field w 10 10, lastc := field w 20 16, next := if bit w 46 then some (field w 36 10) else none }

/-- The latch's word: which members have arrived, TAG, D (R325; places: log entry 12). -/
def latchWord (l : Latch) : Word :=
  packFields [(0, 32, l.arrived.foldl (fun a f => a ||| (1 <<< f.member)) 0), (32, 8, l.tag), (40, 6, l.d), (63, 1, b2n l.broken)]

/-- The presence bits of 64 lines (R325). -/
def presenceWord (t : Team) (k : Nat) : Word :=
  BitVec.ofNat 64 ((List.range 64).foldl (fun a i => if t.present (64 * k + i) then a ||| (1 <<< i) else a) 0)

/-- A tile's words: two elements in each, row by row (R325, R340). -/
def tileWords (t : Tile) : List Word :=
  (List.range 512).map (fun i => let r := t.rows.getD (i / 16) []
    BitVec.ofNat 64 (r.getD (2 * (i % 16)) 0 + 2 ^ 32 * r.getD (2 * (i % 16) + 1) 0))

/-- Where a team's tiles lie in its image (R325). -/
def tilesOff (t : Team) : Nat := 0x1000 + 0x5000 * t.ngroups + 0x8000 * t.spadGran

/-- The team part of an image as (offset, word) pairs, the scratchpad's words with their own postmarks (R325). -/
def teamWords (t : Team) (c : Cluster) (lcnt pn : Nat) : List (Nat × TWord) :=
  let st (off : Nat) (l : List Word) : List (Nat × TWord) := (placeWords off l).map (fun x => (x.1, stamped x.2))
  st 0 (t.bars.toList.map barWord) ++ (if t.place = 0 then st 0x80 (c.cb.toList.map barWord) else [])
    ++ st 0xC0 [t.gang, mstatWord t, BitVec.ofNat 64 lcnt, BitVec.ofNat 64 pn, latchWord t.latch, BitVec.ofNat 64 c.vdie, BitVec.ofNat 64 t.place, 0]
    ++ st 0x100 ((List.range (4 * t.spadGran)).map (presenceWord t))
    ++ (List.range (4096 * t.spadGran)).map (fun i => (0x1000 + 0x5000 * t.ngroups + 8 * i, t.word i))
    ++ st (tilesOff t) (t.tiles.flatMap tileWords)

/-- The size of a team's image. -/
def imageBytes (t : Team) : Nat := 0x1000 + 0x5000 * t.ngroups + 0x8000 * (t.spadGran + t.accGran)

/-- Is a team's whole image mapped? -/
def imageMapped (s : State) (t : Team) : Bool := ctxMapped s t.core t.part (ctxSlot s t.part t.ctx) (imageBytes t)

/-- The slices' counts of a team part: its first 4 KiB, and what follows the groups' parts (R233, R325). -/
def teamAccept (t : Team) (s : State) : State :=
  let base := ctxSlot s t.part t.ctx
  ctxAccept t.part t.core (base + 0x1000 + 0x5000 * t.ngroups) (0x8000 * (t.spadGran + t.accGran)) (ctxAccept t.part t.core base 0x1000 s)

/-- The team part written. -/
def writeTeam (t : Team) (c : Cluster) (lcnt pn : Nat) (s : State) : State :=
  let base := ctxSlot s t.part t.ctx
  let s := teamAccept t s
  (teamWords t c lcnt pn).foldl (fun s x => ctxPut t.part t.core (base + x.1) x.2 s) s

/-- Words of a team's image read back. -/
def teamGet (s : State) (t : Team) (off n : Nat) : List TWord :=
  (List.range n).map (fun i => ctxGet s t.part t.core (ctxSlot s t.part t.ctx + off + 8 * i))

/-- A team with what its image holds: barriers, `gang`, `mstat`, presence bits, scratchpad and tiles (R324, R325). -/
def restoreTeam (s : State) (t : Team) : Team :=
  let w (off i : Nat) : Word := ((teamGet s t (off + 8 * i) 1).getD 0 ⟨0, 0⟩).data
  let pres := teamGet s t 0x100 (4 * t.spadGran)
  let pad := teamGet s t (0x1000 + 0x5000 * t.ngroups) (4096 * t.spadGran)
  let cut (k : Nat) (x : Tile) : Tile :=
    let ws := teamGet s t (tilesOff t + 4096 * k) 512
    { x with rows := (List.range 32).map (fun r => (List.range 32).map (fun l => field (ws.getD (16 * r + l / 2) ⟨0, 0⟩).data (32 * (l % 2)) 32)) }
  { t with
    bars := ⟨((List.range 16).map (fun i => barOf (w 0 i))).toArray, by simp⟩, gang := w 0xC0 0,
    mfl := field (w 0xC0 1) 0 6, bankc := field (w 0xC0 1) 32 32,
    absent := (List.range (256 * t.spadGran)).filter (fun l => ! bit (pres.getD (l / 64) ⟨0, 0⟩).data (l % 64)),
    spad := ((List.range pad.length).zip pad).filter (fun x => x.2 != ⟨0, 0⟩),
    tiles := (t.tiles.zip (List.range t.tiles.length)).map (fun x => cut x.2 x.1) }

/-! ### Saving a team (R322 steps 3 to 7) -/

/-- Is an operation saved as it stands: a wait, a LEASE, an MMA that has not started, or a drain behind one (R322, R368)? -/
def staysAtSave (s : State) (g : Group) (o : Op) : Bool :=
  o.isWait || (match o.kind with
    | .lease => true
    | .mma => true
    | .mdrn _ _ _ _ _ _ _ _ _ _ => ! mdrnReady s g o
    | _ => false)

/-- The groups of a team that its save writes: those that are resident. -/
def savedGroups (s : State) (t : Team) : List Group := (groupsOfTeam s t.tid).filter (fun g => g.life == .resident)

/-- Step 3: the region of a stopped group ends, or aborts where its merge misses (R321, R322); none while it must wait. -/
def saveRegion (g : Group) (s : State) : Option State :=
  let s := focus g.gid s.cur s
  match regionGate s with
  | .ok s => some s
  | .error (.abort va) => if abortReady s g va then some (abortMerge va s) else none
  | .error (.fill ls) =>
    let s' := askFills g.core g.part g.gid ls s
    if s'.fabric.reqs.length = s.fabric.reqs.length then none else some s'
  | .error _ => none

/-- Wait-table entries of a core under which nobody waits any more are dropped (R322). -/
def pruneWaits (c : Nat) (s : State) : State :=
  let parked (x : Slot) (k : Nat) : Bool := match x.st with | .parkTrans t _ => t == k | _ => false
  let used (k : Nat) : Bool :=
    (allGroups s).any (fun g => g.core == c && g.life == .resident && (parked g.slot0 k || parked g.slot1 k
      || g.queues.toList.any (fun q => match q with | some q => q.stall == some k | none => false)
      || g.ops.any (fun o => match o.kind with | .sigw w => w.stall == some k | _ => false)))
    || s.flumes.any (fun f => f.core == c && f.stall == some k)
  modCore c (fun x => { x with waits := x.waits.filter (fun w => used w.token) }) s

/-- What a save records of a team's lease: the remaining count, or the count asked for (R322, R368). -/
def leaseRecord (t : Team) : Option Nat := if t.lheld then some t.lcnt else if t.lpend then some t.pn else none

/-- A group's LEASE operations completed (R322 step 4). -/
def endLeases (g : Group) (s : State) : State :=
  (g.ops.filter (fun o => o.kind == .lease)).foldl (fun s o => completeOp g.gid { o with kind := .done } s) s

/-- One group saved: its waits recorded, its counts moved, its image written, its slot free (R300, R322, R325). The trap record's place
keeps what stands there. -/
def saveGroup (g : Group) (s : State) : State :=
  let s := dropLaunch g.part g.gid (dropAge g.core g.gid (countAway g s))
  let s := modPart g.part (fun q => { q with walks := q.walks.map (fun w => { w with waiters := w.waiters.filter (fun x => x.gid != g.gid) }) }) s
  let s := dropReqs (fun r => match r.purpose with | .headrace id _ => id == g.gid | _ => false) s
  let s := unwatch g s
  let s := modGroup g.gid (fun g => { g.cancelWaits with queues := g.queues.map (Option.map (fun q => rewindQ q.popped q)) }) s
  let s := match groupOf s g.gid with | some g => writeImage g (imageGet s g 0 8) s | none => s
  modGroup g.gid (fun g => { g with life := .suspended, pgPend := false }) s

/-- Steps 5 and 6 past the release: the team's lease is dropped, its image written, its slots and granules freed (R322, R368). -/
def saveTeam (t : Team) (c : Cluster) (s : State) : State :=
  let s := (savedGroups s t).foldl (fun s g => endLeases g s) s
  let s := (savedGroups s t).foldl (fun s g => saveGroup g s) s
  let s := writeTeam t c (if t.lheld then t.lcnt else 0) (if t.lpend then t.pn else 0) s
  let s := dropLease t.core t.tid (modCore t.core (fun k => { k with leaseQ := k.leaseQ.filter (fun x => x != t.tid) }) s)
  let s := grantHead t.core s
  let s := modTeam t.tid (fun x => { x with
    life := .suspended, saved := true, released := false, savedLease := leaseRecord t, lpend := false, pn := 0 }) s
  pruneWaits t.core s

/-- The record of a cluster's fault-queue entry (R319, R445). -/
def clusterRecord (kind : Nat) (c : Cluster) (s : State) : State :=
  let snap := match gridOf s c.grid with | some g => g.snap | none => 0
  postFault c.part { FaultInfo.ofKind kind with
    detail := (packFields [(0, 12, snap), (12, 31, c.number), (43, 12, c.ctx)]).toNat } s

/-- GO of one register falls where it names a cluster. -/
def goDone (w : Word) (s : State) (c : Cluster) : Word := if namesCluster s c.part w c then clearGo w else w

/-- A suspended group's section closed (R301, R445). -/
def closeAway (g : Group) (s : State) : State :=
  if g.rdDepth = 0 then s else modWeir (fun w => if g.rdPar then { w with u1 := w.u1 - 1 } else { w with u0 := w.u0 - 1 }) s

/-- A saved cluster removed: its groups retire without running again (R301, R445). -/
def removeCluster (c : Cluster) (s : State) : State :=
  let gs := groupsOfCluster s c.cid
  let s := clusterRecord 0x23 c s
  let s := modPart c.part (fun q => { q with remove := goDone q.remove s c, preempt := goDone q.preempt s c, resume := goDone q.resume s c }) s
  let s := gs.foldl (fun s g => removeGroup { g with rdDepth := 0 } (modGroup g.gid (fun g => { g with rdDepth := 0, removed := true }) (closeAway g s))) s
  let s := (liveTeams s c).foldl (fun s t => removeTeam t s) s
  { s with clusters := s.clusters.filter (fun x => x.cid != c.cid) }

/-- Step 7: a cluster whose live teams are all saved is suspended, with its record (R322, R445). -/
def clusterSaved (c : Cluster) (s : State) : State :=
  let s := modCluster c.cid (fun c => { c with life := .suspended, preempt := none, stopping := false }) s
  let s := clusterRecord 0x21 c s
  modPart c.part (fun q => { q with preempt := goDone q.preempt s c }) s

/-- The next step of a team's save that can be made now, if any; where every team that is left is saved, step 7 of its cluster, once its record
has room (R319, R322). -/
def saveNext (s : State) (tid : Nat) : Option State :=
  match teamOf s tid with
  | none => none
  | some t => match clusterOf s t.cluster with
    | none => none
    | some c =>
      let gs := savedGroups s t
      if ! c.stopping then none
      else if (liveTeams s c).all Team.saved then (if faultRoom s c.part then some (clusterSaved c s) else none)
      else if t.saved then none
      else match gs.find? (fun g => ! g.buf.isEmpty) with
        | some g => saveRegion g s
        | none =>
          if (groupsOfTeam s tid).any (fun g => g.life == .draining) || gs.any (fun g => g.ops.any (fun o => ! staysAtSave s g o)) then none
          else if ! t.released then
            if dirtyHeld s t.core 4 then none
            else some (modTeam tid (fun t => { t with released := true }) (releaseAction t.core 4 s))
          else if writesOut s || ! s.wbs.isEmpty || gs.any (moveHeld s) || ! imageMapped s t then none
          else some (saveTeam t c s)

/-- TEAM_SAVE (R322): the next step of a stopped team's save. -/
def execTeamSave (tid : Nat) (s : State) : Host.Outcome State Fault Refusal :=
  .next (match saveNext s tid with | some s => bump s | none => s)

/-! ### Resumption (R300, R324) -/

/-- A group's section count moved from the suspended counter to its core's (R300). -/
def countBack (g : Group) (s : State) : State :=
  if g.rdDepth = 0 then s
  else modWeir (fun w => if g.rdPar then { w with u1 := w.u1 - 1 } else { w with u0 := w.u0 - 1 }) (modCount g.core g.rdPar (· + 1) s)

/-- A group back on a core: its image restored, its counts moved, its waits issued again, its slots Ready or parked (R300, R324). -/
def resumeGroup (c : Nat) (g : Group) (s : State) : State :=
  let slot := (freeSlots s c).headD 0
  let s := modGroup g.gid (fun g =>
    let g := restoreGroup s { g with core := c } false
    let g := { g with life := .resident, gslot := slot, stopped := false, noHandler := false, aborting := false }
    let g := { g with slot0 := { g.slot0 with flags := Vector.replicate 12 0 }, slot1 := { g.slot1 with flags := Vector.replicate 12 0 } }
    g.ops.foldl (fun g o => countOn o.slot o.flag g) g) s
  let s := match groupOf s g.gid with | some g => countBack g s | none => s
  let s := reissueWaits g.gid s
  let s := modGroup g.gid (fun g => { g with region := g.region + 1, start := g.record }) s
  youngestOf c g.gid true (youngestOf c g.gid false s)

/-- The suspended groups of a team. -/
def awayGroups (s : State) (t : Team) : List Group := (groupsOfTeam s t.tid).filter (fun g => g.life == .suspended)

/-- A team back on a core, which its grid has then run on (R278, R324). -/
def resumeTeam (c : Nat) (t : Team) (s : State) : State :=
  let s := ranOn t.grid c (acquireAction c 6 s)
  let s := ctxAccept t.part c (ctxSlot s t.part t.ctx) (imageBytes t) s
  let s := modTeam t.tid (fun t => { restoreTeam s { t with core := c } with life := .resident, saved := false, core := c }) s
  let s := (awayGroups s t).foldl (fun s g => resumeGroup c g s) s
  match t.savedLease with
  | none => s
  | some n => grantHead c (askLease c t.tid n (modTeam t.tid (fun t => { t with savedLease := none }) s))

/-- The dies on which a suspended cluster may resume, in order (R324, R326). -/
def resumeDies (s : State) (c : Cluster) : List Nat :=
  match physicalDie s c.vdie with
  | some d => [d]
  | none => (List.range 8).filter (dieWorks s)

/-- Has a core room for the team at a place of a cluster? -/
def placeFits (s : State) (c : Cluster) (p k : Nat) : Bool :=
  (liveTeams s c).all (fun t => t.place != p || coreFits s k (awayGroups s t).length t.granules)

/-- The rectangle on which a cluster resumes (R324). -/
def resumeRect (s : State) (c : Cluster) : Option (List Nat) := (resumeDies s c).findSome? (fun d => findRect d c.w c.h (placeFits s c))

/-- A suspended cluster on its rectangle (R324). -/
def resumeCluster (c : Cluster) (cs : List Nat) (s : State) : State :=
  let s := modCluster c.cid (fun x => { x with life := .resident, pdie := dieOf (cs.headD 0) }) s
  let s := (liveTeams s c).foldl (fun s t => resumeTeam (cs.getD t.place 0) t s) s
  match (liveTeams s c).find? (fun t => t.place == 0) with
  | some t => modCluster c.cid (fun x => { x with cb := ⟨((List.range 8).map (fun i => barOf ((teamGet s t (0x80 + 8 * i) 1).getD 0 ⟨0, 0⟩).data)).toArray, by simp⟩ }) s
  | none => s

/-- The groups of a resident cluster that are suspended under R309. -/
def trappedGroups (s : State) (c : Cluster) : List Group := (groupsOfCluster s c.cid).filter (fun g => g.noHandler && g.life == .suspended)

/-- A resumption's end: GO falls, and the record of kind 0x22 follows (R445). -/
def resumeDone (p : Nat) (c : Cluster) (s : State) : State :=
  clusterRecord 0x22 c (modPart p (fun q => { q with resume := clearGo q.resume }) s)

/-- A group suspended under R309 back on its core (R278, R445). -/
def resumeTrapped (g : Group) (s : State) : State :=
  settleTeam g.team (resumeGroup g.core g (ctxAccept g.part g.core (imageVa s g) 0x5000 (acquireAction g.core 6 s)))

/-- A resumption, as far as it can be made now (R324, R445). -/
def resumeNext (p : Nat) (v : Word) (s : State) : Option State :=
  match namedCluster s p v with
  | none => some (modPart p (fun q => { q with resume := clearGo q.resume }) s)
  | some c =>
    if c.stopping || c.removing then none
    else if c.life = .suspended then
      if ! faultRoom s p || (groupsOfCluster s c.cid).any (moveHeld s) || ! (liveTeams s c).all (imageMapped s) then none
      else (resumeRect s c).map (fun cs => resumeDone p c (resumeCluster c cs s))
    else
      let gs := trappedGroups s c
      if gs.isEmpty then some (modPart p (fun q => { q with resume := clearGo q.resume }) s)
      else if ! faultRoom s p || gs.any (moveHeld s) || gs.any (fun g => ! ctxMapped s g.core g.part (imageVa s g) 0x5000)
          || gs.any (fun g => (freeSlots s g.core).length < (gs.filter (fun x => x.core == g.core)).length) then none
      else some (resumeDone p c (gs.foldl (fun s g => resumeTrapped g s) s))

/-- RESUME: a write of `resume`; while no rectangle is free it waits with GO set (R324, R445). -/
def execResume (p : BitVec 4) (v : Word) (s : State) : Host.Outcome State Fault Refusal :=
  let p := p.toNat
  let old := (part s p).resume
  .next (if bit old 63 && old != actionWord v then s
    else
      let s := modPart p (fun q => { q with resume := actionWord v }) s
      if ! bit v 63 then s
      else match resumeNext p v s with | some s => bump s | none => s)

/-! ### Removal (R445) -/

/-- May a cluster be removed now: it is saved, and its record has room (R319, R445)? -/
def removeDue (s : State) (c : Cluster) : Bool := c.removing && c.life == .suspended && faultRoom s c.part

/-- The removal of the clusters that may be removed now. -/
def removeNext (s : State) : State := match s.clusters.find? (removeDue s) with | some c => bump (removeCluster c s) | none => s

/-- REMOVE: a write of `remove`; a resident cluster is pre-empted first (R445). -/
def execRemove (p : BitVec 4) (v : Word) (s : State) : Host.Outcome State Fault Refusal :=
  let p := p.toNat
  .next (if bit (part s p).remove 63 then s
    else
      let put (w : Word) (s : State) : State := modPart p (fun q => { q with remove := actionWord w }) s
      if ! bit v 63 then put v s
      else match namedCluster s p v with
        | none => put (clearGo v) s
        | some c =>
          let s := modCluster c.cid (fun x => { x with removing := true }) (put v s)
          bump (if c.life = .suspended then removeNext s else if c.preempt.isSome then s else beginPreempt c s))

end Sys2Proof.Machine
end

