-- ==== Sys2Proof/Machine/Translate.lean ====
section
/-! DEFINITION. The walkers and replays (R314 to R319, R445). -/
namespace Sys2Proof.Machine

/-! ### Replays (R318) -/

/-- A wait on a signal whose translation is stalled under a token, after its replay (R318). -/
def Op.replayed (k : Nat) (o : Op) : Op :=
  match o.kind with
  | .sigw w => if w.stall = some k then { o with kind := .sigw { w with stall := none } } else o
  | _ => o

/-- What the slots, queues and commands under a token do when it is replayed: they try again. -/
def wakeToken (c k : Nat) (s : State) : State :=
  let parked (x : Slot) : Bool := match x.st with | .parkTrans t _ => t == k | _ => false
  let free (q : Queue) : Queue := if q.stall = some k then { q with stall := none } else q
  let wake (g : Group) : Group :=
    if g.core != c || g.life != .resident then g
    else
      let g := if parked g.slot0 then g.unpark false else g
      let g := if parked g.slot1 then g.unpark true else g
      { g with queues := g.queues.map (Option.map free), ops := g.ops.map (Op.replayed k) }
  let s := mapGroups wake { s with flumes := s.flumes.map (fun f => if f.core = c && f.stall = some k then { f with stall := none } else f) }
  bump (modCore c (fun x => { x with waits := x.waits.filter (fun w => w.token != k) }) s)

/-- What a replay names: a page of a partition, or a token (R318, R445). -/
inductive ReplayOf where
  | page (n : Nat)
  | token (k : Nat)
deriving DecidableEq, Repr

/-- Does a replay match a page and token? -/
def ReplayOf.hits (r : ReplayOf) (page token : Nat) : Bool := match r with | .page n => n == page | .token k => k == token

/-- What a value of `replay` names; none where a bit that must be zero is set (R445). -/
def replayOf (v : Word) : Option ReplayOf :=
  if field v 1 11 != 0 || field v 57 7 != 0 then none
  else if bit v 0 then (if field v 44 13 != 0 then none else some (.token (field v 12 32)))
  else some (.page (field v 12 45))

/-- A replay applied to one core (R318). -/
def replayCore (p : Nat) (r : ReplayOf) (c : Nat) (s : State) : State :=
  (((core s c).waits.filter (fun w => w.part == p && r.hits w.page w.token)).map WaitPage.token).foldl (fun s k => wakeToken c k s) s

/-- Has a core a walk of a partition outstanding? -/
def walking (s : State) (p c : Nat) : Bool := (part s p).walks.any (fun w => w.core == c)

/-- A replay held until the walks of a core return (R318). -/
def holdReplay (p c : Nat) (v : Word) (s : State) : State :=
  modPart p (fun q => { q with walks := q.walks.map (fun w => if w.core = c then { w with held := w.held ++ [v] } else w) }) s

/-- The misses that no core made, woken: host queues, launch queues and grids of the partition. -/
def replayDevice (p : Nat) (r : ReplayOf) (s : State) : State :=
  let free (x : Option (Nat × Nat)) : Option (Nat × Nat) := match x with | some y => if r.hits y.1 y.2 then none else x | none => none
  let s := modPart p (fun q => { q with hq := q.hq.map (fun h => { h with stall := free h.stall }) }) s
  let s := modPart p (fun q => { q with launchQ := q.launchQ.map (fun e => { e with stall := free e.stall }) }) s
  { s with grids := s.grids.map (fun g => if g.part = p then { g with stall := free g.stall } else g) }

/-- A write of `replay` (R318, R445). -/
def replay (p : Nat) (v : Word) (s : State) : State :=
  match replayOf v with
  | none => s
  | some r =>
    bump (replayDevice p r ((List.range 384).foldl (fun s c =>
      if walking s p c then holdReplay p c v s
      else if (core s c).waits.isEmpty then s else replayCore p r c s) s))

/-- REPLAY_PAGE (R318). -/
def execReplayPage (p : BitVec 4) (v : Word) (s : State) : Host.Outcome State Fault Refusal := .next (replay p.toNat v s)
/-- REPLAY_TOKEN (R318). -/
def execReplayToken (p : BitVec 4) (v : Word) (s : State) : Host.Outcome State Fault Refusal := .next (replay p.toNat v s)

/-! ### Walks (R314, R317) -/

/-- A slot that waited for a walk that found nothing parks; while the wait table is full or the record finds no room it stays held (R317, R319). -/
def parkWaiter (p c : Nat) (w : Waiter) (s : State) : State :=
  match groupOf s w.gid with
  | none => s
  | some g =>
    let x := g.slot w.slot
    if g.life != .resident || g.stopped || g.trap.isSome || x.st != .held then s
    else match tokenFor c p w.acc w.va s with
      | none => s
      | some (k, isNew, s') =>
        if ! isNew then parkUnder w.gid w.slot k s'
        else if ! faultRoom s p then s
        else postFault p { FaultInfo.ofKind 1 with
          acc := w.acc, core := some (coreName s g.cluster c), token := k, va := w.va, lanes := w.lanes, hdr := stopHdr x,
          index := (match x.cl with | some c => c.idx | none => 0), slot := b2n w.slot } (parkUnder w.gid w.slot k s')

/-- May a slot whose walk found nothing park now (R317, R319)? -/
def parkRoom (s : State) (p c : Nat) (w : Waiter) : Bool :=
  match tokenFor c p w.acc w.va s with | some (_, isNew, _) => ! isNew || faultRoom s p | none => false

/-- One walk returned: its translation is kept, or its slots park; then the replays held for it are applied (R314, R317, R318). Where the slots
find neither, they stay held until something else changes. -/
def walkReturn (p : Nat) (r : WalkReq) (s : State) : State :=
  let s := modPart p (fun q => { q with walks := q.walks.erase r }) s
  let found := (walkPage s p (r.page * 4096)).isSome
  let news := found || ! r.held.isEmpty || r.waiters.any (parkRoom s p r.core)
  let s := if found then engineTlb r.core p (r.page * 4096) s else r.waiters.foldl (fun s w => parkWaiter p r.core w s) s
  let s := r.held.foldl (fun s v => match replayOf v with | some x => replayCore p x r.core s | none => s) s
  if news then bump s else s

/-- WALK_COMPLETE (R314, R317, R318): the walks of a page; a change of the map may hold them (R248). -/
def execWalkComplete (p : BitVec 4) (page : Nat) (s : State) : Host.Outcome State Fault Refusal :=
  .next (if walkHeld s p.toNat (page * 4096) then s else ((part s p.toNat).walks.filter (fun r => r.page == page)).foldl (fun s r => walkReturn p.toNat r s) s)

end Sys2Proof.Machine
end

