-- ==== Sys2Proof/Machine/WeirOps.lean ====
section
/-! DEFINITION. The Weir: attempts and advances (R291 to R295), freeing (R296 to R299), stalls (R303, R304), and the pod's reader tree (R305,
R433). -/
namespace Sys2Proof.Machine

/-! ### Advances (R291 to R295) -/

/-- Has a tick of AINT passed since a time (R294)? -/
def tickSince (s : State) (t : Nat) : Bool := let a := max 1 s.weir.aint; t / a < s.time / a

/-- The core counts of a die for a parity (R291). -/
def dieSum (s : State) (d q : Nat) : Nat := ((List.range 48).map (fun k => let c := core s (48 * d + k); if q = 1 then c.c1 else c.c0)).sum

/-- The device sum for a parity (R291). -/
def deviceSum (s : State) (q : Nat) : Nat :=
  ((List.range 8).map (fun d => dieSum s d q)).sum + (if q = 1 then s.weir.u1 else s.weir.u0)

/-- May an attempt begin (R293, R294)? -/
def attemptDue (s : State) : Bool := s.weir.st == .idle && tickSince s s.weir.lastAttempt && retireWaits s.weir

/-- WEIR_ATTEMPT (R294). -/
def execWeirAttempt (s : State) : Host.Outcome State Fault Refusal :=
  .next (if attemptDue s then
      let q := (s.weir.e + 1) % 2
      modWeir (fun w => { w with st := .summing q, lastQ := q, lastAttempt := s.time }) s
    else s)

/-- WEIR_SUM_DONE (R294, R295): a zero sum advances E; held moves may go on. -/
def execWeirSumDone (s : State) : Host.Outcome State Fault Refusal :=
  .next (match s.weir.st with
    | .summing q =>
      bump (if deviceSum s q = 0 then
          reportSelf (modWeir (fun w => { w with e := w.e + 1, st := .adopting, stall := false, graceFrom := s.time, lastAttempt := s.time }) s)
        else modWeir (fun w => { w with st := .idle, lastAttempt := s.time }) s)
    | _ => s)

/-- Has every core adopted E? -/
def allAdopted (s : State) : Bool := s.cores.toList.all (fun c => c.known == s.weir.e)

/-- WEIR_ADOPTED (R292, R294): some cores adopt the new E; with the last the machine is Idle. -/
def execWeirAdopted (cs : List Nat) (s : State) : Host.Outcome State Fault Refusal :=
  .next (match s.weir.st with
    | .adopting =>
      let s := cs.foldl (fun s c => modCore c (fun k => { k with known := s.weir.e }) s) s
      if allAdopted s then modWeir (fun w => { w with st := .idle, lastAttempt := s.time }) s else s
    | _ => s)

/-! ### Freeing (R297 to R299) -/

/-- Is an entry eligible (R297)? -/
def eligible (w : Weir) (e : Retire) : Bool := if e.pod then e.tag + 2 ≤ w.knownP else e.tag + 2 ≤ w.e

/-- A granule as it stands at freeing: its physical address with its page, or none (R297). -/
def granuleAt (s : State) (e : Retire) (i : Nat) : Option (Nat × Nat) :=
  let va := e.base + 4096 * i
  (walkPage s e.part va).map (fun t => (canonPa s (t.phys va), t.base))

/-- The granules of an entry. -/
def entryGranules (s : State) (e : Retire) : List (Option (Nat × Nat)) := (List.range e.ngran).map (granuleAt s e)

/-- Maximal runs, built from the last granule on: a run's first address with VIRT, its page, and its length (R297). -/
def runsOf (base : Nat) : Nat → List (Option (Nat × Nat)) → List (Bool × Nat × Nat × Nat)
  | _, [] => []
  | i, g :: t =>
    let rest := runsOf base (i + 1) t
    match g with
    | some (pa, page) =>
      match rest with
      | (false, a, pg, n) :: r => if a = pa + 4096 && pg = page then (false, pa, page, n + 1) :: r else (false, pa, page, 1) :: rest
      | _ => (false, pa, page, 1) :: rest
    | none =>
      let va := base + 4096 * i
      match rest with
      | (true, _, pg, n) :: r => (true, va, pg, n + 1) :: r
      | _ => (true, va, 0, 1) :: rest

/-- The free-list entries of runs: ADDR with VIRT, and the granules (R299). -/
def runWords (rs : List (Bool × Nat × Nat × Nat)) : List (Word × Nat) :=
  rs.map (fun r => (packFields [(0, 57, r.2.1), (63, 1, b2n r.1)], r.2.2.2))

/-- The lines of the translated granules. -/
def entryLines (s : State) (e : Retire) : List Nat :=
  (entryGranules s e).flatMap (fun g => match g with | some (pa, _) => (List.range 32).map (fun i => lineNo s pa + i) | none => [])

/-- May the head entry be scrubbed now: it is eligible, and nothing holds a line of its range (R248, R259, R297)? -/
def freeDue (s : State) : Bool :=
  s.weir.freeing == .idle && (match s.weir.queue with
    | e :: _ => eligible s.weir e && ! (entryLines s e).any (lineHeld s 386)
    | [] => false)

/-- The other devices of the pod. -/
def podPeers (s : State) : List Nat := (List.range s.mgmt.podSize).filter (fun d => d != s.mgmt.device)

/-- The cached lines that a scrub of a range drops: those whose line lies in a list. -/
def scrubLines (ls : List Nat) (s : State) : State := ls.foldl (fun s l => scrubLine l s) s

/-- WEIR_FREE (R297 step 1): the head entry's range is translated again and scrubbed, here and for SCOPE 5 at every peer (R433). -/
def execWeirFree (s : State) : Host.Outcome State Fault Refusal :=
  .next (if freeDue s then
      match s.weir.queue with
      | [] => s
      | e :: _ =>
        let rs := runsOf e.base 0 (entryGranules s e)
        let ls := entryLines s e
        let real := rs.filter (fun r => ! r.1)
        let sends := if e.pod then (podPeers s).flatMap (fun d => real.map (fun r => (d, r))) else []
        let s := sends.foldl (fun s x => sendCtl 0x12 (x.1) (zeros 4 ++ leBytes 8 x.2.2.1 ++ leBytes 4 x.2.2.2.2 ++ leBytes 6 e.ticket) s)
          (scrubLines ls s)
        let runs := runWords rs
        bump (modWeir (fun w => { w with
          freeing := if sends.isEmpty then .appending runs else .scrubbing (sends.map Prod.fst) runs }) s)
    else s)

/-- Has a pool a descriptor and room for an entry (R298, R299)? -/
def poolOpen (s : State) (p pool : Nat) : Bool :=
  let tail := field (poolWord s p pool 1) 32 32
  let head := field (poolWord s p pool 2) 0 32
  poolKnown s p pool && (tail + 2 ^ 32 - head) % 2 ^ 32 != 2 ^ poolLog s p pool

/-- The place of a pool's next free-list entry (R299). -/
def poolPlace (s : State) (p pool : Nat) : Nat :=
  field (poolWord s p pool 0) 0 52 + 16 * (field (poolWord s p pool 1) 32 32 % 2 ^ poolLog s p pool)

/-- Is an entry on its way to a list at a peer? -/
def appendsAway (s : State) : Bool := s.fabric.reqs.any (fun r => match r.purpose with | .append _ => true | _ => false)

/-- May an entry be appended now: the pool has room, and no engine owns the line of its place (R277, R299)? -/
def appendOpen (s : State) (p pool : Nat) : Bool := poolOpen s p pool && ! lineHeld s 386 (lineNo s (poolPlace s p pool)) && ! appendsAway s

/-- TAILX advanced past an entry that is written (R298). -/
def tailPast (p pool : Nat) (s : State) : State :=
  modPart p (fun q => { q with pools := vmod q.pools (4 * pool + 1) (fun w => setField w 32 32 (field w 32 32 + 1)) }) s

/-- One free-list entry written at its home (R243, R299). -/
def appendRun (p pool : Nat) (pu : Purpose) (r : Word × Nat) (s : State) : State :=
  putHome p (poolPlace s p pool) [stamped r.1, stamped (packFields [(0, 32, r.2), (32, 16, pool)])] pu s

/-- Runs appended while the pool has room; what is left (R299). The run whose list lies at a peer stays until the peer has written it. -/
def appendRuns (p pool : Nat) (pu : Purpose) : List (Word × Nat) → State → List (Word × Nat) × State
  | [], s => ([], s)
  | r :: t, s =>
    if ! appendOpen s p pool then (r :: t, s)
    else if (peerLine s (lineNo s (poolPlace s p pool))).isSome then (r :: t, appendRun p pool pu r s)
    else appendRuns p pool pu t (tailPast p pool (appendRun p pool pu r s))

/-- The entry that a peer was to write is written, or was refused: TAILX advances past it (R298, R299, R440; a refused one is lost with its fault record:
DESIGN CHOICE, log entry 76). -/
def appendedAway (ticket : Nat) (s : State) : State :=
  match s.weir.freeing, s.weir.queue with
  | .appending (_ :: t), e :: _ =>
    if e.ticket = ticket then modWeir (fun w => { w with freeing := .appending t, stall := false, poolFrom := s.time }) (tailPast e.part e.pool s) else s
  | _, _ => s

/-- The head entry freed, its ticket done (R202, R297). -/
def entryFreed (s : State) : State :=
  match s.weir.queue with
  | [] => s
  | e :: _ =>
    let s := modWeir (fun w => { w with queue := w.queue.drop 1, freeing := .idle, freed := w.freed ++ [(e.ticket, w.e)] }) s
    if e.pod then reportSelf s else s

/-- The head entry's signal posted, and the entry freed: at once, or once the peer at home of the signal has performed the addition (R297 step
3). -/
def entryPost (e : Retire) (s : State) : State :=
  match e.sig with
  | none => entryFreed s
  | some pa =>
    let s := postSignal e.part 0 none 0 pa false (.freed e.ticket) s
    if (peerLine s (lineNo s pa)).isSome then modWeir (fun w => { w with freeing := .posting }) s else entryFreed s

/-- The post of a ticket's signal has been performed, or was refused. -/
def postedEntry (ticket : Nat) (s : State) : State :=
  if s.weir.freeing == .posting && (s.weir.queue.head?.map Retire.ticket) == some ticket then entryFreed s else s

/-- May the freeing unit go on: a run may be appended, or all are and nothing holds the signal's addition? -/
def appendDue (s : State) : Bool :=
  match s.weir.freeing, s.weir.queue with
  | .appending runs, e :: _ =>
    if runs.isEmpty then (match e.sig with | some pa => ! signalWaits s 386 e.part pa false | none => true) else appendOpen s e.part e.pool
  | _, _ => false

/-- WEIR_APPEND (R297 steps 2 and 3, R299). -/
def execWeirAppend (s : State) : Host.Outcome State Fault Refusal :=
  .next (if appendDue s then
      match s.weir.freeing, s.weir.queue with
      | .appending runs, e :: _ =>
        if runs.isEmpty then bump (entryPost e s)
        else
          let r := appendRuns e.part e.pool (.append e.ticket) runs s
          modWeir (fun w => { w with freeing := .appending r.1, stall := w.stall && r.1.length == runs.length, poolFrom := s.time }) r.2
      | _, _ => s
    else s)

/-! ### Stalls (R303, R304) -/

/-- Does the freeing unit wait on a pool (R304)? -/
def poolBlocked (s : State) : Bool :=
  match s.weir.freeing, s.weir.queue with
  | .appending (_ :: _), e :: _ => ! poolOpen s e.part e.pool
  | _, _ => false

/-- Has a wait lasted GSTALL since a time (R303)? -/
def stalled (s : State) (since : Nat) : Bool := since + 1000 * s.weir.gstall ≤ s.time

/-- The stalls: of the freeing unit on a pool, of a retirement whose attempts all ended with a nonzero sum, of a pod entry whose epoch does not
advance, as when a device cannot reach the pod root (R304, R305; log entry 70). -/
inductive Stall where
  | pool
  | grace
  | pod
deriving DecidableEq, Repr

/-- The stall whose record is due, if any (R304). -/
def stallOf (s : State) : Option Stall :=
  if poolBlocked s && stalled s s.weir.poolFrom then some .pool
  else if retireWaits s.weir && stalled s s.weir.graceFrom then some .grace
  else if ownDemand s.weir && stalled s s.weir.podFrom then some .pod
  else none

/-- Is a stall record due (R304)? -/
def stallDue (s : State) : Bool := (stallOf s).isSome

/-- A stall's next record is due GSTALL later (R304). -/
def Weir.stallFrom (w : Weir) (x : Stall) (t : Nat) : Weir :=
  match x with
  | .pool => { w with stall := true, poolFrom := t }
  | .grace => { w with stall := true, graceFrom := t }
  | .pod => { w with stall := true, podFrom := t }

/-- GRACE_STALL (R304): STALL, and the record of the stall to the device queue. -/
def execGraceStall (s : State) : Host.Outcome State Fault Refusal :=
  .next (match stallOf s with
    | none => s
    | some x =>
      let pool := x == .pool
      let q := if pool then 0 else s.weir.lastQ
      let h := s.weir.queue.head?
      let n (f : Retire → Nat) : Nat := (h.map f).getD 0
      let sums := (List.range 8).map (fun v => (32 + 2 * v, 2, match physicalDie s v with | some d => dieSum s d q | none => 0))
      let s := postEvent 0 (if pool then 0x21 else 0x20)
        ([(1, 1, q), (2, 2, if pool then n Retire.pool else 0), (8, 8, s.weir.e), (16, 8, n Retire.ticket), (24, 8, n Retire.tag),
          (48, 4, if q = 1 then s.weir.u1 else s.weir.u0)] ++ sums) s
      modWeir (fun w => w.stallFrom x s.time) s)

/-- Has every device of the pod, this one among them, adopted P, and moved two device epochs on since (R305)? -/
def podMoved (s : State) : Bool :=
  (s.mgmt.device :: List.range s.mgmt.podSize).all (fun d =>
    s.weir.reports.any (fun r => r.1 == d && r.2.1 == s.weir.podP && r.2.2.1 + 2 ≤ r.2.2.2.1))

/-- Do all conditions of a pod advance hold but for the tick (R305)? -/
def podReady (s : State) : Bool := s.weir.poden && s.weir.podroot == s.mgmt.device && s.weir.podDemand && podMoved s

/-- Time has passed: ticks of AINT on which nothing could begin are used up, and a wait that does not stand counts from now (R294, R304, R305). -/
def weirElapse (s : State) : State :=
  let w := s.weir
  let at' (stands : Bool) (since : Nat) : Nat := if stands then since else s.time
  { s with weir := { w with
      lastAttempt := at' (w.st == .idle && retireWaits w) w.lastAttempt,
      podLast := at' (podReady s) w.podLast,
      graceFrom := at' (retireWaits w) w.graceFrom, podFrom := at' (ownDemand w) w.podFrom, poolFrom := at' (poolBlocked s) w.poolFrom } }

/-! ### Pod scope (R305, R433) -/

/-- May the pod root advance P (R305)? -/
def podDue (s : State) : Bool := podReady s && tickSince s s.weir.podLast

/-- POD_ADVANCE (R305): P advances; the root adopts it, and sends it to every device. -/
def execPodAdvance (s : State) : Host.Outcome State Fault Refusal :=
  .next (if podDue s then
      let s := modWeir (fun w => { w with podP := w.podP + 1, knownP := w.podP + 1, podLast := s.time, podFrom := s.time, stall := false }) s
      let s := (podPeers s).foldl (fun s d => sendCtl 0x10 (d) (zeros 4 ++ leBytes 8 s.weir.podP) s) s
      bump (reportSelf s)
    else s)

/-- ADOPT (R433): the pod root's P is adopted, and answered with a report. -/
def execAdopt (p : Word) (s : State) : Host.Outcome State Fault Refusal :=
  .next (if s.weir.poden && s.weir.podroot != s.mgmt.device then 
      bump (reportSelf (modWeir (fun w => { w with knownP := p.toNat, ed := some w.e, podFrom := s.time, stall := false }) s))
    else s)

/-- REPORT (R433): at the pod root a device's report; elsewhere the root's own, which passes on the demand (R305). -/
def execReport (dev : BitVec 4) (p e : Word) (demand : Bool) (s : State) : Host.Outcome State Fault Refusal :=
  .next (if ! s.weir.poden then s
    else if s.weir.podroot = s.mgmt.device then passDemand s.weir.podDemand (modWeir (noteReport dev.toNat p.toNat e.toNat demand) s)
    else if dev.toNat = s.weir.podroot then modWeir (fun w => { w with podDemand := demand }) s
    else s)

/-- SCRUB (R433): the lines of a peer's range are invalidated in every cache here, and the peer is answered. -/
def execScrub (dev : BitVec 4) (base granules ticket : Nat) (s : State) : Host.Outcome State Fault Refusal :=
  let first := (0x100000000000 + dev.toNat * 2 ^ 40 + base % 2 ^ 40) / 128
  let inRange (l : Nat) : Bool := first ≤ l && l < first + 32 * granules
  let keep (x : CLine) : Bool := ! inRange x.line
  let s := { s with
    cores := s.cores.map (fun c => { c with l1 := c.l1.filter keep }),
    dies := s.dies.map (fun d => { d with lines := d.lines.filter keep }) }
  let s := (List.range 8).foldl (fun s d => dropFills d inRange s) s
  .next (bump (sendCtl 0x13 (dev.toNat) (zeros 16 ++ leBytes 6 ticket) s))

/-- SCRUB_DONE (R433): a peer has answered; with the last answer the runs are appended. -/
def execScrubDone (dev : BitVec 4) (ticket : Nat) (s : State) : Host.Outcome State Fault Refusal :=
  .next (match s.weir.freeing, s.weir.queue with
    | .scrubbing missing runs, e :: _ =>
      if e.ticket = ticket then
        let m := missing.erase dev.toNat
        modWeir (fun w => { w with freeing := if m.isEmpty then .appending runs else .scrubbing m runs }) s
      else s
    | _, _ => s)

end Sys2Proof.Machine
end

