-- ==== Sys2Proof/Machine/Answer.lean ====
section
/-! DEFINITION. What a peer's answer does here: RDATA, RDONE, RNACK (R414, R419, R440). -/
namespace Sys2Proof.Machine

/-- The outstanding request that an answer names: by TAG and device; a relay answers "no path" for another device (R413, R419). -/
def answerTo (s : State) (h : FabHdr) : Option Req :=
  s.fabric.reqs.find? (fun r => r.sent && r.tag % 1024 == h.tag.toNat
    && (r.dev == h.sdev.toNat || (h.op == 12 && h.wmask.toNat % 16 == 3 && r.line == h.laddr.toNat)))

/-- A request answered: out of the list, its tag off the Flume command that waits for it. -/
def settleReq (r : Req) (s : State) : State :=
  { modFabric (fun f => { f with reqs := f.reqs.filter (fun x => x.tag != r.tag) }) s with flumes := s.flumes.map (fun f => { f with tags := f.tags.filter (fun t => t != r.tag) }) }

/-- After an answer: waiting requests go, and what waited for it may go on. -/
def afterAnswer (r : Req) (s : State) : State := bump (settleInv r.part (pumpReqs s))

/-- The words of a line by physical address. -/
def lineWords (line : Nat) (d : List TWord) : List (Nat × TWord) := (List.range 16).map (fun i => (line * 128 + 8 * i, dataWord d i))

/-- What a load still misses, out of some words; a lane refused. -/
def Gather.put (ws : List (Nat × TWord)) (g : Gather) : Gather := { g with got := g.got ++ ws.filter (fun w => g.missing.contains w.1) }
/-- The lanes of a load that access a line, refused (R419). -/
def Gather.refuse (line : Nat) (g : Gather) : Gather :=
  { g with no := g.no ++ (g.accs.filter (fun a => a.pa / 128 == line)).map LaneAcc.lane }

/-- A load changed; with its last word it may complete, after its acquire (R170, R168). -/
def gatherStep (gid id : Nat) (f : Gather → Gather) (s : State) : State :=
  match groupOf s gid with
  | none => s
  | some g => match (g.op id).map Op.kind with
    | some (.gather x) =>
      let x := f x
      if x.missing.isEmpty then
        modOp gid id (loadDone x) (match x.acq with | some scope => acquireAction g.core scope s | none => s)
      else modOp gid id (fun o => { o with kind := .gather x }) s
    | some (.hrst x q) => modOp gid id (fun o => { o with kind := .hrst (f x) q }) s
    | _ => s

/-- A lane's atomic answered (R188, R419). -/
def atomStep (gid id lane : Nat) (fl : Nat) (f : AtomOp → AtomReq → AtomReq) (s : State) : State :=
  match groupOf s gid with
  | none => s
  | some g => match (g.op id).map Op.kind with
    | some (.atomic a) =>
      setAtom g id { a with reqs := a.reqs.map (fun q => if q.acc.lane = lane then f a q else q) } (orAtomFlags gid a.kind fl s)
    | _ => s

/-- The template of a load's or a queue's trap, for a record. -/
def coreOfReq (s : State) (r : Req) : Nat := match groupOf s r.gid with | some g => g.core | none => 0

/-- The bytes of a 32-byte block of a line. -/
def blockBytes (block : Nat) (d : List TWord) : List Byte :=
  ((List.range 4).map (fun i => bytesOf (dataWord d (4 * (block % 4) + i)).data)).flatten

/-- A Flume command given the words of a line. -/
def flumeGot (id line : Nat) (d : List TWord) (s : State) : State :=
  modFlume id (fun f => { f with words := if f.ph = .fetch then gotLine line d f.words else f.words,
                                 got := if f.ph = .fetch then f.got else gotLine line d f.got }) s

/-- A load's line kept: in the die cache at the load's re-reference position, and in the L1 for the words that it reads (R242, R253). -/
def loadFill (r : Req) (id : Nat) (d : List TWord) (s : State) : State :=
  let line := globalLine r.dev r.line
  match groupOf s r.gid with
  | none => s
  | some g => match (g.op id).map Op.kind with
    | some (.gather x) => peerFillL1 g.core line x.rdis ((x.missing.filter (fun p => p / 128 == line)).map wordIx) d s
    | _ => s

/-- A prefetched line kept at its level (R182). -/
def prefFill (c lvl rdis ix line : Nat) (d : List TWord) (s : State) : State :=
  if lvl = 0 then peerFillL1 c line rdis [ix] d s else if lvl = 1 then peerFill c line rdis d s else s

/-- RDATA applied to what the request was for (R419). A line of which a copy was dropped after it was asked for is not kept (R266, R269). -/
def applyData (r : Req) (d : List TWord) (s : State) : State :=
  let line := globalLine r.dev r.line
  match r.purpose with
  | .fill c _ => if r.stale then s else keepFill c line d s
  | .pref c lvl rdis ix => if r.stale then s else prefFill c lvl rdis ix line d s
  | .load id =>
    let s := if r.hdr.op = 0 && ! r.stale then loadFill r id d s else s
    gatherStep r.gid id (Gather.put (lineWords line d)) s
  | .valid id _ => gatherStep r.gid id (Gather.put [(line * 128, ⟨(dataWord d 0).data, 0⟩)]) s
  | .atomic id l =>
    let w := dataWord d 0
    atomStep r.gid id l (field (dataWord d 1).data 0 6)
      (fun a q => { q with done := true, old := loadElem a.ty 0 w.data, bad := mismatch q.acc.sreq w }) s
  | .watch id => match groupOf s r.gid with
    | some g => match g.op id with | some o => sigwEnd g o (dataWord d 0).data s | none => s
    | none => s
  | .dep p m va thr => modPart p (fun q => { q with depDone := q.depDone ++ [(m, va, thr)] }) s
  | .arg p reader l => modPart p (fun q => { q with argGot := q.argGot ++ (lineWords l d).map (fun w => (reader, w.1, w.2)) }) s
  | .flumeRead id => flumeGot id line d s
  | .flumeOld id => modFlume id (fun f => { f with old := f.old ++ lineWords line d }) s
  | .headrace gid q => modGroup gid (fun g => { g with queues := vmod g.queues q (Option.map (fun x => { x with pend := gotLine line d x.pend })) }) s
  | .ifetch c p block => if r.stale then s else icachePut c p block (blockBytes block d) s
  | _ => s

/-- Does the request expect data? -/
def wantsData (r : Req) : Bool := r.hdr.op == 0 || r.hdr.op == 1 || r.hdr.op == 4 || r.hdr.op == 7 || r.hdr.op == 8

/-- RDATA (R419). -/
def execRdata (h : FabHdr) (d : List TWord) (s : State) : Host.Outcome State Fault Refusal :=
  .next (match answerTo s (h.as 10) with
    | some r => if wantsData r then afterAnswer r (applyData r d (settleReq r s)) else s
    | none => s)

/-- A claim granted by a peer: to its command's line, or given up again where the command no longer wants it (R376). -/
def claimGranted (r : Req) (id : Nat) (s : State) : State :=
  let line := globalLine r.dev r.line
  match s.flumes.find? (fun f => f.id == id && f.lines.any (fun x => x.own == some line && ! x.granted)) with
  | some f => modFlume f.id (fun f => { f with lines := f.lines.map (fun x => if x.own = some line then { x with granted := true } else x) }) s
  | none => freePeerLine (coreOfReq s r) r.part r.gid id line s

/-- Does the answer to a reduction say that its word mismatched (R191; log entry 18)? -/
def redBad (h : FabHdr) : Bool := h.wmask.getLsbD 6

/-- The record of a signal's word that mismatched at a peer: its old value is not sent, and the record holds a free value (R191, R319; log entry
18). -/
def signalBad (r : Req) (name : Option Nat) (va : Nat) (s : State) : State :=
  let w := freeWord s
  postFault r.part { FaultInfo.ofKind 0x10 with
    acc := 2, core := name, va := va, pa := globalLine r.dev r.line * 128 + 8 * (r.hdr.wmask.toNat % 16), lanes := 1, detail := w.1.toNat } w.2

/-- A lane of a reduction answered: a mismatch is recorded (R191). -/
def redDone (gid id l : Nat) (h : FabHdr) (s : State) : State :=
  match groupOf s gid with
  | none => s
  | some g => match (g.op id).map Op.kind with
    | some (.atomic a) => match a.reqs.find? (fun q => q.acc.lane == l) with
      | some q => if redBad h then let w := freeWord s; redRecord g a q w.1 w.2 else s
      | none => s
    | _ => s

/-- The completion signal of a grid performed (R395). -/
def gridPosted (r : Req) (id : Nat) (bad : Bool) (s : State) : State :=
  match gridOf s id with
  | some x => gridGone x (if bad then signalBad r none x.pkt.compl s else s)
  | none => s

/-- The signal of a Flume command performed (R351). -/
def flumePosted (r : Req) (id : Nat) (h : FabHdr) (s : State) : State :=
  match s.flumes.find? (fun f => f.id == id) with
  | some f =>
    if r.hdr.op = 5 && redBad h then
      signalBad r (some (coreName s (flumeCluster s f) f.core)) ((f.ccb.map Ccb.sig).getD 0) s
    else s
  | none => s

/-- RDONE applied (R419). A publication's line is dropped from the issuing core's caches once it is stored (R200). -/
def applyDone (r : Req) (h : FabHdr) (s : State) : State :=
  match r.purpose with
  | .atomic id l => atomStep r.gid id l (h.wmask.toNat % 64) (fun _ q => { q with done := true }) (redDone r.gid id l h s)
  | .write (some _) => flushLine (coreOfReq s r) (globalLine r.dev r.line) s
  | .flumeClaim id => claimGranted r id s
  | .flumeWrite id => flumePosted r id h s
  | .append t => appendedAway t s
  | .freed t => postedEntry t (if redBad h then signalBad r none 0 s else s)
  | .gridEnd id => gridPosted r id (redBad h) s
  | _ => s

/-! ### Refusals (R419, R440) -/

/-- The record of kind 0x13 for a request (R319, R419). -/
def refusedRecord (r : Req) (st acc va : Nat) (c : Option Nat) (t : Option TrapInfo) (s : State) : State :=
  let w := if r.hdr.op = 4 || r.hdr.op = 5 || r.hdr.op = 8 then r.hdr.wmask.toNat % 16 else 0
  peerRefusal r.part st r.dev (globalLine r.dev r.line * 128 + 8 * w) acc va c t s

/-- How a record names the core of a request's group, where it has one. -/
def nameOfReq (s : State) (r : Req) : Option Nat := (groupOf s r.gid).map (fun g => coreName s g.cluster g.core)

/-- Is a buffered store one that a refused fill of a line gives up? -/
def BufStore.fills (b : BufStore) (s : State) (line : Nat) : Bool := b.caches s && lineNo s b.addr == line

/-- Buffered stores of a group at a line given up: their operations may complete (R419). -/
def Group.dropStores (g : Group) (s : State) (line : Nat) : Group :=
  let buf := g.buf.filter (fun b => ! b.fills s line)
  { g with buf := buf,
           ops := g.ops.map (fun o => if o.kind = .buffered && ! buf.any (fun b => b.op == o.id) then { o with kind := .done } else o) }

/-- The first buffered store of a request's group that its line would fill. -/
def storeAt (s : State) (r : Req) : Option (Group × BufStore) :=
  (groupOf s r.gid).bind (fun g => (g.buf.find? (fun b => b.fills s (globalLine r.dev r.line))).map (fun b => (g, b)))

/-- The refusal of a fill, applied to the group on whose account it was sent: its buffered stores to the line are given up, with one record; or a release
store of it learns of the refusal (R419). Another group's stores to the line ask for it themselves. -/
def fillRefused (r : Req) (st : Nat) (s : State) : State :=
  let line := globalLine r.dev r.line
  match storeAt s r with
  | some x => storeRefusal x.1 x.2.slot st line x.2.va (modGroup r.gid (fun g => g.dropStores s line) s)
  | none => match groupOf s r.gid with
    | none => s
    | some g => [false, true].foldl (fun s b => if (g.slot b).st = .held then noteRefused r.part (launchReader r.gid b) line st s else s) s

/-- The template of an operation that waits for peers. -/
def peerTmpl (s : State) (gid id : Nat) : Option TrapInfo :=
  match (groupOf s gid).bind (fun g => g.op id) with
  | some o => (match o.kind with | .peer _ t => some t | .atomic a => some a.tmpl | _ => none)
  | none => none

/-- The number of the operation that waits for a tag. -/
def opOfTag (s : State) (r : Req) : Option Nat :=
  (groupOf s r.gid).bind (fun g => (g.ops.find? (fun o => match o.kind with | .peer ts _ => ts.contains r.tag | _ => false)).map Op.id)

/-- The refusal of a write, a CLRV block or a write-back: a record (R419). -/
def writeRefused (r : Req) (st acc : Nat) (s : State) : State :=
  let t := (opOfTag s r).bind (fun id => peerTmpl s r.gid id)
  refusedRecord r st acc ((t.map TrapInfo.addr).getD 0) (nameOfReq s r) t s

/-- The refusal of an atomic's lane: a trap of the one, a record of the reduction (R419). -/
def atomRefused (r : Req) (id l st : Nat) (s : State) : State :=
  match (groupOf s r.gid).bind (fun g => (g.op id).map (fun o => (g, o))) with
  | some (_, o) => match o.kind with
    | .atomic a =>
      let va := ((a.reqs.find? (fun q => q.acc.lane == l)).map (fun q => q.acc.va)).getD 0
      let s := if a.ret then s else refusedRecord r st 2 va (nameOfReq s r) (some { a.tmpl with lanes := BitVec.ofNat 32 (2 ^ l) }) s
      atomStep r.gid id l 0 (fun a q => { q with done := true, no := a.ret }) s
    | _ => s
  | none => s

/-- The refusal of a Flume request: the command ends with status 2, which its record says, also where only the signal is refused (R357, R440). -/
def flumeRefused (r : Req) (id : Nat) (s : State) : State :=
  match s.flumes.find? (fun f => f.id == id) with
  | none => s
  | some f =>
    if f.ph = .fetch || f.ph = .copy then let x := flumeFail f 2 s; freeLines (putFlume x.1 x.2)
    else if r.hdr.op = 5 then let x := flumeRecord { f with status := 2 } s; putFlume { x.1 with ph := .signal } x.2
    else modFlume id (fun f => { f with status := 2 }) s

/-- The refusal of a code block: the slots that stand there trap as ACCESS (R440). -/
def fetchRefused (c p block : Nat) (s : State) : State :=
  (allGroups s).foldl (fun s g =>
    if g.core = c && g.part = p && g.life = .resident then
      [false, true].foldl (fun s b =>
        let x := g.slot b
        if x.st = .held && va57 x.pc / 32 = block then
          reportTrap g.gid (slotTrap x b 0x05 false (BitVec.allOnes 32) x.pc 0) (modGroup g.gid (fun g => g.modSlot b (fun x => { x with st := .ready })) s)
        else s) s
    else s) s

/-- A refusal applied to what the request was for (R419, R440). -/
def applyRefusal (r : Req) (st : Nat) (s : State) : State :=
  match r.purpose with
  | .fill _ _ => fillRefused r st s
  | .pref _ _ _ _ => s
  | .load id => gatherStep r.gid id (Gather.refuse (globalLine r.dev r.line)) s
  | .valid id _ => gatherStep r.gid id (Gather.refuse (globalLine r.dev r.line)) s
  | .atomic id l => atomRefused r id l st s
  | .write _ => writeRefused r st 1 s
  | .clrv _ => writeRefused r st 6 s
  | .watch id => match groupOf s r.gid with
    | some g => modOp r.gid id (fun o => { o with
        kind := .done, trap := some (o.trap.getD (slotTrap (g.slot o.slot) o.slot 0x05 true (BitVec.allOnes 32) (globalLine r.dev r.line * 128) 0)) }) s
    | none => s
  | .dep _ _ _ _ => s
  | .arg p reader line => noteRefused p reader line st s
  | .append t => appendedAway t (refusedRecord r st 1 0 none none s)
  | .freed t => postedEntry t (refusedRecord r st 2 0 none none s)
  | .gridEnd id => match gridOf s id with
    | some x => gridGone x (refusedRecord r st 2 x.pkt.compl none none s)
    | none => s
  | .flumeClaim id => flumeRefused r id s
  | .flumeRead id => flumeRefused r id s
  | .flumeOld id => flumeRefused r id s
  | .flumeWrite id => flumeRefused r id s
  | .headrace gid q => match groupOf s gid with
    | some g => match vget g.queues q none with
      | some x => reportTrap gid x.tmpl (dropQueue gid q s)
      | none => s
    | none => s
  | .ifetch c p block => fetchRefused c p block s
  | .dropped => s

/-- Does an answer make a fault record (R191, R419)? -/
def answerRecords (s : State) (r : Req) (h : FabHdr) : Bool :=
  if h.op = 12 then
    (h.wmask.toNat % 16 == 1 || h.wmask.toNat % 16 == 2) && (match r.purpose with
      | .fill _ _ => (storeAt s r).isSome
      | .write _ => true
      | .clrv _ => true
      | .freed _ => true
      | .append _ => true
      | .gridEnd _ => true
      | .atomic _ _ => r.hdr.op == 5
      | _ => false)
  else h.op == 11 && r.hdr.op == 5 && redBad h

/-- Is an answer kept waiting: the record that it makes finds no room (R319)? -/
def answerHeld (s : State) (h : FabHdr) : Bool :=
  match answerTo s h with
  | some r => answerRecords s r h && ! faultRoom s r.part
  | none => false

/-- An answer kept. -/
def keepAnswer (h : FabHdr) (d : List TWord) (s : State) : State := modFabric (fun f => { f with inbox := f.inbox ++ [.msg h d] }) s

/-- RDONE (R419). -/
def execRdone (h : FabHdr) (d : List TWord) (s : State) : Host.Outcome State Fault Refusal :=
  .next (match answerTo s (h.as 11) with
    | some r =>
      if wantsData r then s
      else if answerHeld s (h.as 11) then keepAnswer (h.as 11) d s
      else afterAnswer r (applyDone r h (settleReq r s))
    | none => s)

/-- A request answered "no path" stays outstanding and is sent again on a new path, once every earlier request to its line has been performed; later
requests to its line wait (R414). -/
def resend (r : Req) (s : State) : State :=
  sendAgain r (modFabric (fun f => { f with reqs := f.reqs.map (fun x => if x.tag = r.tag then { x with again := true, sent := false } else x) }) s)

/-- RNACK (R414, R419): status 3 sends again; 1 and 2 refuse. -/
def execRnack (h : FabHdr) (d : List TWord) (s : State) : Host.Outcome State Fault Refusal :=
  let st := h.wmask.toNat % 16
  .next (match answerTo s (h.as 12) with
    | some r =>
      if st = 3 then (if r.purpose = .dropped then afterAnswer r (settleReq r s) else bump (resend r s))
      else if st = 1 || st = 2 then
        (if answerHeld s (h.as 12) then keepAnswer (h.as 12) d s else afterAnswer r (applyRefusal r st (settleReq r s)))
      else s
    | none => s)

end Sys2Proof.Machine
end

