-- ==== Sys2Proof/Machine/Distribute.lean ====
section
/-! DEFINITION. From host queues and launches to running teams: doorbells (R387), taking packets (R388 to R394, R396), field queues and
donation (R399 to R401), and the start of teams and clusters (R212, R217 to R221, R397, R398). -/
namespace Sys2Proof.Machine

/-! ### Host queues (R387) -/

/-- A host queue. -/
def hostQueue (s : State) (p k : Nat) : HostQueue := vget (part s p).hq k { base := 0, rdx := 0, halt := false, wrx := 0, stall := none }

/-- A host queue changed. -/
def modHq (p k : Nat) (f : HostQueue → HostQueue) (s : State) : State := modPart p (fun q => { q with hq := vmod q.hq k f }) s

/-- Does an access of a function wait at an engine's line? Its later accesses wait behind it (R279, R388). -/
def hostWaits (s : State) (fn : Nat) : Bool := s.hostHeld.any (fun i => hostFn i == some fn)

/-- An access of a function kept until it may be performed (R277, R279). -/
def hostHold (i : HostAcc) (s : State) : State := { s with hostHeld := s.hostHeld ++ [i] }

/-- A write of `hqdoor`; a count beyond the ring halts the queue (R387). -/
def doorbell (p k : Nat) (v : Word) (s : State) : State :=
  bump (modHq p k (fun h =>
    let w := field v 0 32
    { h with wrx := w, halt := h.halt || decide (2 ^ ringLog h.base < (w + 2 ^ 32 - h.rdx) % 2 ^ 32) }) s)

/-- The offset of a partition's `hqdoor` in the block (R443). -/
def doorOffset (p k : Nat) : Nat := 0x108000 + 0x10000 * p + 32 * k + 16

/-- The write of `hqdoor` by the function that owns the partition, which the block's table passes; else an unsupported request (R387, R440, R442). -/
def doorDo (p k : Nat) (v : Word) (s : State) : State :=
  if blockOk s (17 + p) needStore (doorOffset p k) 8 then doorbell p k v s else { s with hostOut := s.hostOut ++ [.unsupported (p + 1)] }

/-- HQDOOR (R387, R388). -/
def execHqdoor (p : BitVec 4) (k : BitVec 6) (v : Word) (s : State) : Host.Outcome State Fault Refusal :=
  .next (if hostWaits s (p.toNat + 1) then hostHold (.door p.toNat k.toNat v) s else doorDo p.toNat k.toNat v s)

/-- HQIDX_HALT: a write of `hqidx`: HALT, and RDX to 0 while the queue is not enabled (R387). -/
def execHqidxHalt (p : BitVec 4) (k : BitVec 6) (v : Word) (s : State) : Host.Outcome State Fault Refusal :=
  .next (bump (modHq p.toNat k.toNat (fun h =>
    { h with halt := bit v 32, rdx := if ! bit h.base 58 && field v 0 32 = 0 then 0 else h.rdx }) s))

/-- Is a host queue's head packet not to be read yet: an engine owns its line (R277, R388)? -/
def headHeld (s : State) (_p : Nat) (h : HostQueue) : Bool := lineHeld s 386 (lineNo s (headAddr h))

/-- The words of a queue's head packet, read at its home (R388). -/
def headPacket (s : State) (h : HostQueue) : List Word := (List.range 8).map (fun i => (homeWord s (headAddr h + 8 * i)).data)

/-! ### Dependences (R390) -/

/-- Where a dependence stands. -/
inductive Dep where
  /-- It has been met, or there is none. -/
  | ok
  /-- Its signal is at its threshold now. -/
  | met (va thr : Nat)
  | wait
  | miss (va : Nat)
  /-- A peer is to be asked to watch it. -/
  | ask (va thr dev line ix : Nat)
deriving DecidableEq, Repr

/-- Does a dependence hold up its packet no more? -/
def Dep.holds (d : Dep) : Bool := match d with | .ok => true | .met _ _ => true | _ => false

/-- A dependence's state for a member of the rotation: its signal, read as i64 at its home as SIGW reads it, is at least THR (R198, R277, R390). A signal
whose rights are refused is not read, and its packet waits (DESIGN CHOICE, log entry 51). -/
def depState (s : State) (p m va thr : Nat) : Dep :=
  if va = 0 || (part s p).depDone.contains (m, va, thr) then .ok
  else match xlate s none p va 8 needWatch with
    | .miss _ => .miss va
    | .refused => .wait
    | .ok pa _ => match peerLine s (lineNo s pa) with
      | some (dev, pl) => if lineHeld s 386 (lineNo s pa) || s.fabric.reqs.any (fun r => r.purpose == .dep p m va thr) then .wait else .ask va thr dev pl (wordIx pa)
      | none => if ! lineHeld s 386 (lineNo s pa) && decide ((thr : Int) ≤ (homeWord s pa).data.toInt) then .met va thr else .wait

/-- What a packet's dependences ask for: both are watched at once, and what one of them needs is done while the other waits (R390). -/
def packetDep (s : State) (p m : Nat) (k : Packet) : Dep :=
  let a := depState s p m k.dep0 k.thr0
  let b := depState s p m k.dep1 k.thr1
  if a.holds && b.holds then .ok
  else if a == .ok || (a == .wait && b != .ok) then b else a

/-- The watch of a dependence at a peer: SIGW's `ge` on a whole word (R390, R419). -/
def askDep (p m va thr dev line ix : Nat) (s : State) : State :=
  sendReq 8 dev line (ix + (3 <<< 4) + (6 <<< 8)) (⟨BitVec.ofNat 64 thr, 0⟩ :: List.replicate 7 ⟨0, 0⟩) none p 0 (.dep p m va thr) s

/-- A dependence that has been met stays met (R390). -/
def latchDep (p m va thr : Nat) (s : State) : State := modPart p (fun q => { q with depDone := q.depDone ++ [(m, va, thr)] }) s

/-- The dependences of a member's head, forgotten with it. -/
def dropDeps (p m : Nat) (s : State) : State :=
  dropReqs (fun r => match r.purpose with | .dep q k _ _ => q == p && k == m | _ => false)
    (modPart p (fun q => { q with depDone := q.depDone.filter (fun d => d.1 != m) }) s)

/-- What a packet's dependences need now, for a member of the rotation that stalls as `stall` says (R390, R392, R396). -/
def depWork (s : State) (p m : Nat) (k : Packet) (stall : Nat → State → State) : Option State :=
  match packetDep s p m k with
  | .met va thr => some (latchDep p m va thr s)
  | .miss va => if faultRoom s p then some (stall va s) else none
  | .ask va thr dev line ix => some (askDep p m va thr dev line ix s)
  | _ => none

/-! ### Taking a packet (R394) -/

/-- A grid created at frontier 0 (R394). -/
def createGrid (p snap pri : Nat) (k : Packet) (s : State) : State :=
  let r := fresh s
  { r.2 with grids := r.2.grids ++ [{ id := r.1, part := p, pkt := k, snap := snap, pri := pri, frontier := 0, sent := 0, retired := 0, cores := [],
                                      released := false, stall := none, posted := false }] }

/-- What was kept of a queue's head, forgotten. -/
def dropHead (p k : Nat) (s : State) : State := dropDeps p k (dropArgs p k s)

/-- A packet refused: its read is counted, HALT, and the record of kind 0x30 (R233, R392). -/
def refusePacket (p k reason : Nat) (s : State) : State :=
  let h := hostQueue s p k
  postEvent (p + 1) 0x30 [(1, 1, reason), (2, 1, k), (3, 1, p), (4, 4, h.rdx)] (modHq p k (fun h => { h with halt := true }) (dropHead p k (accept s (headAddr h))))

/-- A queue that waits for a replay of a page (R392). -/
def stallQueue (p k va : Nat) (s : State) : State :=
  let r := deviceMiss p va s
  modHq p k (fun h => { h with stall := some (pageOf va, r.1) }) r.2

/-- Why the head of a host queue is refused, if it is (R392). -/
def headReason (s : State) (p k : Nat) : Option Nat :=
  let h := hostQueue s p k
  if ! queueOpen h || headHeld s p h then none
  else if ! tablesOk s p needDist (headAddr h) 64 then some 2
  else
    let ws := headPacket s h
    if ! packetValid s p ws then some 1
    else if packetRefused s p k (packetOf ws) || (freeSnap s p).any (snapRefused s p) then some 2
    else none

/-- May the head of a host queue be looked at past its checks? -/
def headSound (s : State) (p k : Nat) : Bool :=
  queueOpen (hostQueue s p k) && ! headHeld s p (hostQueue s p k) && (headReason s p k).isNone

/-- What the arguments and the snapshot of a host queue's head still need, once its dependences hold: a replay of a page, lines of peers (R392, R394). -/
def argsWork (s : State) (p k : Nat) (pk : Packet) : Option State :=
  match freeSnap s p with
  | none => none
  | some n => match firstMiss s p (snapVa s p n :: argPages pk) with
    | some va => if faultRoom s p then some (stallQueue p k va s) else none
    | none =>
      let ls := (argFills s p k pk).filter (fun l => ! lineHeld s 386 l && ! s.fabric.reqs.any (fun r => r.purpose == .arg p k l))
      if ls.isEmpty then none else some (askArgs p k ls s)

/-- What the distributor does for the head of a host queue before it can take it: refuses it, watches its dependences, asks for its arguments
(R390, R392, R394). -/
def headWork (s : State) (p k : Nat) : Option State :=
  match headReason s p k with
  | some r => some (refusePacket p k r s)
  | none =>
    if ! headSound s p k then none
    else
      let pk := packetOf (headPacket s (hostQueue s p k))
      if packetDep s p k pk = .ok then argsWork s p k pk else depWork s p k pk (stallQueue p k)

/-- The snapshot that the head of a host queue would take, where it can be taken (R389, R394). -/
def headReady (s : State) (p k : Nat) : Option Nat :=
  if ! headSound s p k then none
  else
    let pk := packetOf (headPacket s (hostQueue s p k))
    if packetDep s p k pk != .ok then none
    else (freeSnap s p).filter (fun n =>
      (firstMiss s p (snapVa s p n :: argPages pk)).isNone && (argFills s p k pk).isEmpty && ! argsHeld s p n pk)

/-- The head of a host queue taken (R394): the arguments copied, RDX advanced, the grid created. -/
def takeNext (s : State) (p k : Nat) : Option State :=
  (headReady s p k).map (fun n =>
    let h := hostQueue s p k
    let pk := packetOf (headPacket s h)
    let s := makeSnap p k n pk (accept s (headAddr h))
    let s := modHq p k (fun h => { h with rdx := (h.rdx + 1) % 2 ^ 32 }) s
    dropHead p k (createGrid p n (field h.base 56 2) pk s))

/-- The head of the launch queue at a priority, once its LAUNCH has completed (R396). -/
def launchHead (s : State) (p pri : Nat) : Option LaunchEnt :=
  ((part s p).launchQ.find? (fun e => e.pri == pri)).filter (fun e => (ownerOfOp s e.seq).isNone)

/-- An entry of the launch queue changed. -/
def modLaunch (p seq : Nat) (f : LaunchEnt → LaunchEnt) (s : State) : State :=
  modPart p (fun q => { q with launchQ := q.launchQ.map (fun e => if e.seq = seq then f e else e) }) s

/-- An entry that waits for a replay of a page (R396). -/
def stallLaunch (p seq va : Nat) (s : State) : State :=
  let r := deviceMiss p va s
  modLaunch p seq (fun e => { e with stall := some (pageOf va, r.1) }) r.2

/-- What the distributor does for the launch queue's head of a priority before it can take it (R390, R396). -/
def launchWork (s : State) (p pri : Nat) : Option State :=
  match launchHead s p pri with
  | some e => if e.stall.isSome then none else depWork s p (64 + pri) e.pkt (stallLaunch p e.seq)
  | none => none

/-- The launch queue's head of a priority taken, once its dependences hold (R396). -/
def launchNext (s : State) (p pri : Nat) : Option State :=
  match launchHead s p pri with
  | none => none
  | some e =>
    if e.stall.isNone && packetDep s p (64 + pri) e.pkt == .ok then
      some (dropDeps p (64 + pri) (createGrid p e.snap e.pri e.pkt (modPart p (fun q => { q with launchQ := q.launchQ.erase e }) s)))
    else none

/-- What a member of the rotation can do now at a priority: the launch queue is member 64. -/
def memberNext (s : State) (p pri m : Nat) : Option State :=
  if m = 64 then launchNext s p pri
  else if field (hostQueue s p m).base 56 2 = pri then takeNext s p m else none

/-- The member whose turn it is: the highest priority first, round-robin within one (R389). -/
def takeTurn (s : State) (p : Nat) : Option (Nat × Nat × State) :=
  [3, 2, 1, 0].findSome? (fun pri =>
    (List.range 65).findSome? (fun i =>
      let m := (vget (part s p).rr pri 0 + i) % 65
      (memberNext s p pri m).map (fun s => (pri, m, s))))

/-- The rotation past a member. -/
def turnPast (p pri m : Nat) (s : State) : State := modPart p (fun q => { q with rr := vset q.rr pri ((m + 1) % 65) }) s

/-- PACKET_TAKE (R394): the head of a host queue refused, prepared, or taken when it is that queue's turn. -/
def execPacketTake (p : BitVec 4) (k : BitVec 6) (s : State) : Host.Outcome State Fault Refusal :=
  .next (match headWork s p.toNat k.toNat with
    | some t => bump t
    | none => match takeTurn s p.toNat with
      | some (pri, m, t) => if m = k.toNat then bump (turnPast p.toNat pri m t) else s
      | none => s)

/-- What the launch queue's heads need, the highest priority first. -/
def launchDue (s : State) (p : Nat) : Option State := [3, 2, 1, 0].findSome? (launchWork s p)

/-- LAUNCH_QUEUE_TAKE (R396): an entry of the launch queue prepared, or taken when it is its turn. -/
def execLaunchQueueTake (p : BitVec 4) (s : State) : Host.Outcome State Fault Refusal :=
  .next (match launchDue s p.toNat with
    | some t => bump t
    | none => match takeTurn s p.toNat with
      | some (pri, m, t) => if m = 64 then bump (turnPast p.toNat pri m t) else s
      | none => s)

/-! ### Creating groups and teams (R218 to R221) -/

/-- A new group: registers hold free values but for those that R219 names (log entry 3). -/
def newGroup (s : State) (g : Grid) (team : Team) (gid index gslot window : Nat) : Group :=
  let v (k : Nat) : Word := Config.freeWord (s.free + k)
  let sr : Vector Word 64 := ⟨((List.range 64).map v).toArray, by simp⟩
  let vr : Vector Lanes 64 := ⟨((List.range 64).map (fun r => lanesOf (fun l => v (64 + 32 * r + l)))).toArray, by simp⟩
  let x : Group := { Group.empty with
    gid := gid, part := g.part, grid := g.id, team := team.tid, cluster := team.cluster, index := index, core := team.core,
    place := team.place, gslot := gslot, life := .resident,
    sregs := vset sr 0 (BitVec.ofNat 64 (snapVa s g.part g.snap)), vregs := vset vr 0 (lanesOf (fun l => BitVec.ofNat 64 l)),
    slot0 := { Slot.vacant with st := .ready, pc := g.pkt.code, exec := BitVec.allOnes 32 },
    dvCap := g.pkt.cap, window := window, rmode := g.pkt.rmode }
  { x with start := x.record }

/-- A new team on a core (R221). -/
def newTeam (g : Grid) (tid cid index place c ctx : Nat) : Team :=
  { Team.empty with
    tid := tid, part := g.part, grid := g.id, cluster := cid, index := index, place := place, core := c, life := .resident,
    ngroups := g.pkt.groups, regGran := g.pkt.reg, spadGran := g.pkt.spad, accGran := g.pkt.acc,
    tiles := List.replicate (8 * g.pkt.acc) { rows := List.replicate 32 (List.replicate 32 0), chain := none },
    bars := Vector.replicate 16 (.fresh g.pkt.groups), ctx := ctx }

/-- One group of a new team created, on the lowest free group slot and stack window (R218). The window keeps what memory holds there, where R220 leaves
its content undefined (DESIGN CHOICE, log entry 78). -/
def startGroup (g : Grid) (t : Team) (i : Nat) (s : State) : State :=
  let r := fresh s
  let x := newGroup r.2 g t r.1 i ((freeSlots s t.core).headD 0) ((freeWindows s g.part).headD 0)
  let s := { r.2 with groups := r.2.groups ++ [x], free := r.2.free + 64 + 64 * 32 }
  youngestOf t.core x.gid false (modPart g.part (fun q => { q with windowsUsed := insNat x.window q.windowsUsed }) s)

/-- A team started on a core: the sys acquire, then its groups (R218, R278). -/
def startTeam (g : Grid) (cid index place c ctx : Nat) (s : State) : State :=
  let r := fresh (acquireAction c 6 s)
  let t := newTeam g r.1 cid index place c ctx
  let s := { r.2 with teams := r.2.teams ++ [t] }
  let s := modPart g.part (fun q => { q with ctxUsed := insNat ctx q.ctxUsed }) s
  let s := (List.range t.ngroups).foldl (fun s i => startGroup g t i s) s
  let s := modCluster cid (fun k => { k with teams := k.teams ++ [t.tid] }) s
  ranOn g.id c s

/-- The cluster at a grid's frontier started on cores by place; the frontier advances past it (R212, R221, R398). -/
def startCluster (g : Grid) (vdie ctx : Nat) (cs : List Nat) (s : State) : State :=
  let n := g.pkt.w * g.pkt.h
  let r := fresh s
  let k : Cluster := {
    cid := r.1, part := g.part, grid := g.id, number := g.frontier / n, w := g.pkt.w, h := g.pkt.h, teams := [],
    cb := Vector.replicate 8 (.fresh (g.pkt.groups * n)), vdie := vdie, pdie := dieOf (cs.headD 0), life := .resident, ctx := ctx,
    preempt := none, stopping := false, removing := false }
  let s := { r.2 with clusters := r.2.clusters ++ [k] }
  let s := (cs.zip (List.range n)).foldl (fun s x => startTeam g r.1 (g.frontier + x.2) x.2 x.1 (ctx + x.2) s) s
  modGrid g.id (fun x => { x with frontier := x.frontier + n }) s

/-- Windows and context slots for n teams of a grid: the first context slot (R217, R220, R445). -/
def partRoom (s : State) (g : Grid) (n : Nat) : Option Nat :=
  if (freeWindows s g.part).length < n * g.pkt.groups then none else freeCtx s g.part n

/-- Where a grid's frontier cluster can start: virtual die, context slot, cores (R398). A rectangle is free where each of its cores meets R217,
whatever else runs there (DESIGN CHOICE, log entry 71). -/
def clusterPlace (s : State) (g : Grid) : Option (Nat × Nat × List Nat) :=
  if g.pkt.w * g.pkt.h = 1 || g.pkt.teams ≤ g.frontier then none
  else match partRoom s g (g.pkt.w * g.pkt.h) with
    | none => none
    | some ctx => (List.range 8).findSome? (fun v => (physicalDie s v).bind (fun d =>
        (findRect d g.pkt.w g.pkt.h (fun _ c => packetFits s c g.pkt)).map (fun cs => (v, ctx, cs))))

/-- CLUSTER_START (R398). -/
def execClusterStart (id : Nat) (s : State) : Host.Outcome State Fault Refusal :=
  .next (match gridOf s id with
    | some g => match clusterPlace s g with
      | some (v, ctx, cs) => bump (startCluster g v ctx cs s)
      | none => s
    | none => s)

/-! ### Team control blocks (R399 to R401) -/

/-- A field's queue. -/
def fieldQ (s : State) (f : Nat) : List Tcb := vget s.distr.fields f []

/-- A field's queue changed. -/
def modField (f : Nat) (g : List Tcb → List Tcb) (s : State) : State := modDistr (fun d => { d with fields := vmod d.fields f g }) s

/-- The lowest-numbered core of a field that takes a team of a grid (R217, R400). -/
def fieldCore (s : State) (f : Nat) (g : Grid) : Option Nat :=
  if (partRoom s g 1).isNone then none else (fieldCores s f).find? (fun c => packetFits s c g.pkt)

/-- TCBs on their way to a field (R401). -/
def onWay (s : State) (f : Nat) : Nat := ((s.distr.transit.filter (fun x => x.1 == f)).map (fun x => x.2.length)).sum

/-- The field with the fewest queued TCBs among some with room in their queue, also for what is on its way, the lowest on a tie (R399, R401). -/
def fewest (s : State) (fs : List Nat) : Option Nat :=
  (fs.filter (fun f => (fieldQ s f).length + onWay s f < 32)).foldl (fun a f => match a with
    | none => some f
    | some b => if (fieldQ s f).length < (fieldQ s b).length then some f else a) none

/-- The field that a grid's next TCB goes to (R399). -/
def tcbField (s : State) (g : Grid) : Option Nat :=
  let all := (List.range 96).filter (fun f => ! (fieldCores s f).isEmpty)
  match fewest s (all.filter (fun f => (fieldCore s f g).isSome)) with
  | some f => some f
  | none => fewest s all

/-- May a grid's next TCB be sent: single-core teams, at most 16 ahead of the frontier (R399)? -/
def tcbDue (s : State) (g : Grid) : Bool :=
  g.pkt.w * g.pkt.h == 1 && decide (g.sent < g.pkt.teams) && decide (g.sent < g.frontier + 16) && (tcbField s g).isSome

/-- TCB_SEND (R399). -/
def execTcbSend (id : Nat) (s : State) : Host.Outcome State Fault Refusal :=
  .next (match gridOf s id with
    | some g => match tcbField s g with
      | some f =>
        if tcbDue s g then
          modGrid id (fun x => { x with sent := x.sent + 1 }) (modField f (fun q => q ++ [{ grid := id, t := g.sent, pri := g.pri }]) s)
        else s
      | none => s
    | none => s)

/-- Can a field start a TCB now: it is at its grid's frontier, and a core takes it (R400)? -/
def tcbStart (s : State) (f : Nat) (x : Tcb) : Option (Grid × Nat) :=
  match gridOf s x.grid with
  | some g => if x.t = g.frontier then (fieldCore s f g).map (fun c => (g, c)) else none
  | none => none

/-- The TCB that a field starts: by priority, then in the order in which the grids were taken (R397, R400). -/
def fieldStart (s : State) (f : Nat) : Option (Tcb × Grid × Nat) :=
  [3, 2, 1, 0].findSome? (fun pri => s.grids.findSome? (fun g =>
    (fieldQ s f).findSome? (fun x => if x.pri = pri && x.grid = g.id then (tcbStart s f x).map (fun r => (x, r.1, r.2)) else none)))

/-- The field that holds a grid's frontier team where it can start now (R397, R400). -/
def frontierField (s : State) (g : Grid) : Option Nat :=
  (List.range 96).find? (fun f => (fieldQ s f).any (fun x => x.grid == g.id && (tcbStart s f x).isSome))

/-- Can a grid's frontier team or cluster be placed now (R397)? -/
def placeable (s : State) (g : Grid) : Bool := if g.pkt.w * g.pkt.h = 1 then (frontierField s g).isSome else (clusterPlace s g).isSome

/-- The grid whose frontier is placed next: by priority, then in the order in which the grids were taken (R397). -/
def placeNext (s : State) : Option Grid := [3, 2, 1, 0].findSome? (fun pri => s.grids.find? (fun g => g.pri == pri && placeable s g))

/-- TEAM_START (R212, R218, R400). -/
def execTeamStart (f : Nat) (s : State) : Host.Outcome State Fault Refusal :=
  .next (match fieldStart s f with
    | some (x, g, c) => match partRoom s g 1 with
      | some ctx => bump (startCluster g (f / 12) ctx [c] (modField f (fun q => q.erase x) s))
      | none => s
    | none => s)

/-- The field with the most queued TCBs, the lowest on a tie (R401). -/
def busiest (s : State) (f : Nat) : Option Nat :=
  ((List.range 96).filter (fun k => k != f && ! (fieldQ s k).isEmpty)).foldl (fun a k => match a with
    | none => some k
    | some b => if (fieldQ s b).length < (fieldQ s k).length then some k else a) none

/-- TCBs in order of t. -/
def insertTcb (x : Tcb) : List Tcb → List Tcb
  | [] => [x]
  | y :: t => if x.t < y.t then x :: y :: t else y :: insertTcb x t

/-- What a donor ships: up to 4 TCBs that it cannot start, lowest t first (R401). -/
def donation (s : State) (d : Nat) : List Tcb :=
  (((fieldQ s d).filter (fun x => (tcbStart s d x).isNone)).foldl (fun a x => insertTcb x a) []).take 4

/-- May a field ask: its queue is empty, a core has a free group slot, nothing is on its way to it, and 64 cycles have passed since a donor had
nothing for it, which are more than 60 ns (R2, R401)? -/
def mayAsk (s : State) (f : Nat) : Bool :=
  (fieldQ s f).isEmpty && (fieldCores s f).any (fun c => ! (freeSlots s c).isEmpty) && onWay s f == 0
    && s.distr.refusedAt.all (fun x => x.1 != f || x.2 + 60 < s.time)

/-- STEAL_REQUEST (R401): the donor's TCBs go into transit, or it has none to ship. -/
def execStealRequest (f : Nat) (s : State) : Host.Outcome State Fault Refusal :=
  .next (if ! mayAsk s f then s
    else match busiest s f with
      | none => s
      | some d =>
        let xs := donation s d
        modDistr (fun x =>
          let rest := x.refusedAt.filter (fun y => y.1 != f)
          if xs.isEmpty then { x with refusedAt := rest ++ [(f, s.time)] } else { x with transit := x.transit ++ [(f, xs)], refusedAt := rest })
          (modField d (fun q => q.filter (fun x => ! xs.contains x)) s))

/-- TCB_ARRIVAL (R401): the first donation on its way to a field, whose queue has room for it. -/
def execTcbArrival (f : Nat) (s : State) : Host.Outcome State Fault Refusal :=
  .next (match s.distr.transit.find? (fun x => x.1 == f) with
    | some x =>
      if (fieldQ s f).length + x.2.length ≤ 32 then modField f (fun q => q ++ x.2) (modDistr (fun d => { d with transit := d.transit.erase x }) s) else s
    | none => s)

end Sys2Proof.Machine
end

