-- ==== Sys2Proof/Machine/Attest.lean ====
section
/-! DEFINITION. Attestation reports (R445, R447): what one holds, where it is written, and in which order requests are served; what a start that has
stopped still presents (R451). -/
namespace Sys2Proof.Machine

/-! ### Attestation (R445, R447) -/

/-- What asks for a report: function 0, the function of partition p as p + 1, peer d as 33 + d (R438, R447). Is it a peer? -/
def asksAsPeer (fn : Nat) : Bool := 33 ≤ fn

/-- A function's mailbox, or what a peer's oldest request gave in its place (R447). -/
def mailboxOf (s : State) (fn : Nat) : Vector Word 8 :=
  if fn = 0 then s.mgmt.mailbox
  else if asksAsPeer fn then (match s.mgmt.peerAsks.find? (fun x => x.1 == fn) with | some x => x.2 | none => Vector.replicate 8 0)
  else (part s (fn - 1)).mailbox

/-- A function's mailbox changed. -/
def modMailbox (fn : Nat) (f : Vector Word 8 → Vector Word 8) (s : State) : State :=
  if fn = 0 then modMgmt (fun m => { m with mailbox := f m.mailbox }) s
  else if asksAsPeer fn then s
  else modPart (fn - 1) (fun q => { q with mailbox := f q.mailbox }) s

/-- A log entry as bytes; its places are the model's (log entry 24). -/
def logBytes (e : LogEnt) : List Byte := leB 8 e.step ++ leB 8 e.k ++ leB 48 e.h.toNat ++ leB 8 e.time

/-- The report: nonce, MR0 to MR7, serial number, log, and two signatures (R447). -/
def reportBytes (s : State) (fn : Nat) : List Byte :=
  let mb := mailboxOf s fn
  let c := (List.range 4).flatMap (fun i => bytesOf (vget mb i 0)) ++ s.mgmt.mr.toList.flatMap (fun x => leB 48 x.toNat) ++ Config.serialNumber
    ++ s.mgmt.log.flatMap logBytes
  c ++ Config.reportSignatures c

/-- The physical address of a byte of a report: in the partition's address space, for function 0 the address itself, for a peer that address of its
own memory (log entry 24). After a stopped start function 0's report is readable all the same (R451; log entry 41). -/
def reportPa (s : State) (fn a : Nat) : Option Nat :=
  if fn = 0 then (if physOk s a && (startStopped s || tablesOk s 16 needStore a 1) then some a else none)
  else if asksAsPeer fn then (if a < 2 ^ 40 then some (0x100000000000 + (fn - 33) * 2 ^ 40 + a) else none)
  else match xlate s none (fn - 1) a 1 needStore with | .ok pa _ => some pa | _ => none

/-- The bytes of a report with their addresses, up to the first that cannot be written (log entry 24). -/
def reportPlaces (s : State) (fn : Nat) : Nat → List Byte → List (Nat × Byte)
  | _, [] => []
  | a, b :: t => match reportPa s fn a with
    | some pa => (pa, b) :: reportPlaces s fn (a + 1) t
    | none => []

/-- What a request writes: the bytes of the report that fit, with their addresses. -/
def attestPlaces (s : State) (fn : Nat) : List (Nat × Byte) :=
  let mb := mailboxOf s fn
  reportPlaces s fn (field (vget mb 4 0) 0 57) ((reportBytes s fn).take (vget mb 5 0).toNat)

/-- The partition for which a report's requests are made: function 0's and a peer's are made for partition 0. -/
def attestPart (fn : Nat) : Nat := if asksAsPeer fn then 0 else fn - 1

/-- The reader that a report is in its partition. -/
def attestReader (fn : Nat) : Nat := if fn = 0 then 65 else if asksAsPeer fn then 66 else 64

/-- Addresses of a peer's words that a report covers only in part: the rest of each is asked for first. -/
def attestParts (s : State) (fn : Nat) (l : List (Nat × Byte)) : List Nat :=
  let ws := (l.map (fun x => x.1 / 8)).eraseDups
  (ws.filter (fun w => (peerLine s (w / 16)).isSome && (l.filter (fun x => x.1 / 8 == w)).length < 8)).map (fun w => 8 * w)
    |>.filter (fun pa => ! distHere s (attestPart fn) (attestReader fn) pa && ! distNo s (attestPart fn) (attestReader fn) pa)

/-- A word of a report's place with the report's bytes in it, stamped. -/
def attestWord (s : State) (fn : Nat) (l : List (Nat × Byte)) (w : Nat) : TWord :=
  (l.filter (fun x => x.1 / 8 == w)).foldl (fun t x => mergeInto t (x.1 % 8) [x.2]) (distWord s (attestPart fn) (attestReader fn) (8 * w))

/-- The words of one line of a report written: at home, or sent to the peer at home, whose request is awaited. -/
def attestLine (fn : Nat) (l : List (Nat × Byte)) (line : Nat) (s : State) : List Nat × State :=
  let ws := (List.range 16).filter (fun i => l.any (fun x => x.1 / 8 == 16 * line + i))
  match peerLine s line with
  | some (dev, pl) =>
    let d := (List.range 16).map (fun i => if ws.contains i then attestWord s fn l (16 * line + i) else ⟨0, 0⟩)
    ([s.fabric.nextTag], sendReq 2 dev pl (ws.foldl (fun a i => a ||| (1 <<< i)) 0) d none (attestPart fn) 0 (.write none) s)
  | none => ([], ws.foldl (fun t i => homeWrite t (128 * line + 8 * i) (attestWord s fn l (16 * line + i))) (accept s (128 * line)))

/-- A report written, stamped (R445, R447): the TAGs of the requests that its release waits for. -/
def attestWrite (fn : Nat) (l : List (Nat × Byte)) (s : State) : List Nat × State :=
  ((l.map (fun x => x.1 / 128)).eraseDups).foldl (fun a line => let r := attestLine fn l line a.2; (a.1 ++ r.1, r.2)) ([], s)

/-- DONE set once the release is over; the next report may be served. -/
def attestDone (fn : Nat) (w : Word) (s : State) : State :=
  let s := dropArgs (attestPart fn) (attestReader fn) (modMgmt (fun m => { m with
    attestQ := m.attestQ.drop 1, attestOut := none, peerAsks := m.peerAsks.eraseP (fun x => x.1 == fn) }) s)
  bump (modMailbox fn (fun m => vset m 6 w) s)

/-- The next step of the first report that is asked for, if it can be made now: parts of words are asked of peers, the report is written, its release
ends (R277, R445, R447). -/
def attestNext (s : State) : Option State :=
  match s.mgmt.attestQ with
  | [] => none
  | fn :: _ =>
    match s.mgmt.attestOut with
    | some (tags, w) => if answered s tags then some (attestDone fn w s) else none
    | none =>
      let l := attestPlaces s fn
      let parts := ((attestParts s fn l).map (lineNo s)).eraseDups
      if l.any (fun x => lineHeld s 386 (lineNo s x.1)) then none
      else if ! parts.isEmpty then
        let s' := askArgs (attestPart fn) (attestReader fn) parts s
        if s'.fabric.reqs.length = s.fabric.reqs.length then none else some s'
      else
        let short := (vget (mailboxOf s fn) 5 0).toNat < (reportBytes s fn).length
        let w := packFields [(1, 1, 1), (2, 1, b2n short), (32, 16, l.length)]
        let r := attestWrite fn l s
        some (if r.1.isEmpty then attestDone fn w r.2 else modMgmt (fun m => { m with attestOut := some (r.1, w) }) r.2)

/-- A report asked for: reports are served in the order in which they are asked for (R447). -/
def attest (fn : Nat) (s : State) : State :=
  let s := if s.mgmt.attestQ.contains fn && ! asksAsPeer fn then s else modMgmt (fun m => { m with attestQ := m.attestQ ++ [fn] }) s
  (attestNext s).getD s

/-- A peer's request, made in a control segment: nonce, DST and CAP as a mailbox has them (R447; kind and places: log entry 24). -/
def attestPeer (dev : Nat) (bytes : List Byte) (s : State) : State :=
  let w (i : Nat) : Word := wordOfBytes ((bytes.drop (4 + 8 * i)).take 8)
  attest (33 + dev) (modMgmt (fun m => { m with peerAsks := m.peerAsks ++ [(33 + dev, #v[w 0, w 1, w 2, w 3, w 4, w 5, 1, 0])] }) s)

end Sys2Proof.Machine
end

