-- ==== Sys2Proof/Machine/Links.lean ====
section
/-! DEFINITION. The Javin links: flits received (R416 to R421, R426 to R431), relaying (R413), links lost and trained (R415, R422 to R425),
keys and their rotation (R427, R431). -/
namespace Sys2Proof.Machine

/-! ### Event records of links (R407, R437) -/

/-- The wavelengths lit on every fibre that is not wholly dark (R407). -/
def litWaves (m : Word) : Nat :=
  let fibres := (List.range 4).filter (fun f => field m (16 * f) 16 != 0)
  (List.range 16).foldl (fun a k => if ! fibres.isEmpty && fibres.all (fun f => bit m (16 * f + k)) then a ||| (1 <<< k) else a) 0

/-- A link's event record (R407). -/
def linkEvent (kind k : Nat) (rx : Bool) (comb rseq nrep tdet : Nat) (s : State) : State :=
  let m := if rx then (link s k).rxLit else (link s k).txLit
  postEvent 0 kind [(1, 1, k), (2, 1, b2n rx), (3, 1, comb), (4, 2, litWaves m), (6, 1, litCount m), (8, 2, rseq % 4096), (10, 2, nrep), (16, 8, tdet)] s

/-- The comb that a set of channels belongs to, or 0xFF (R407, R424). -/
def combOf (m : Word) : Nat := let c := litCombs m; if c = 1 then 0 else if c = 2 then 1 else if c = 4 then 2 else if c = 8 then 3 else 0xFF

/-! ### Links down (R415, R425) -/

/-- The device that an item is for. -/
def FabItem.dest : FabItem → Nat
  | .msg h _ => h.ddev.toNat
  | .seg c => c.dst

/-- The line that an item of this device asks about: that of a numbered request. -/
def FabItem.ownLine (s : State) : FabItem → Option (Nat × Nat)
  | .msg h _ => if h.op.toNat < 10 && h.op.toNat != 3 && h.sdev.toNat = s.mgmt.device then some (h.ddev.toNat, h.laddr.toNat) else none
  | .seg _ => none

/-- A line's outstanding requests take a path (R414). -/
def bindLine (dev line k : Nat) (s : State) : State :=
  modFabric (fun f => { f with reqs := f.reqs.map (fun r => if r.dev = dev && r.line = line && r.sent then { r with link := k } else r) }) s

/-- Items sent in order by the paths that R412 now gives; all requests of one line take the path that its first one takes (R414, R415). -/
def reroute : List FabItem → List ((Nat × Nat) × Nat) → State → State
  | [], _, s => s
  | i :: t, bound, s =>
    match i.ownLine s with
    | none => reroute t bound (transmitItem (pathTo s i.dest) i s)
    | some x => match bound.lookup x with
      | some k => reroute t bound (transmitItem k i s)
      | none => let k := pathTo s i.dest; reroute t ((x, k) :: bound) (transmitItem k i (bindLine x.1 x.2 k s))

/-- Is a sequence number past the last one accepted, among numbers of which fewer than 2048 are at stake? -/
def pastSeq (seq esn : Nat) : Bool := let d := (esn % 4096 + 4096 - seq % 4096) % 4096; 1 ≤ d && d ≤ 2048

/-- The exchange of a link that went down is made: the flits past the peer's last accepted number are sent again, in order, and then what waited for the
link (R415). -/
def settleDown (k seq : Nat) (s : State) : State :=
  let l := link s k
  reroute ((l.undone.filter (fun x => pastSeq seq x.1)).flatMap Prod.snd ++ l.waiting.map Prod.snd) []
    (modLink k (fun l => { l with undone := [], waiting := [], owed := false, heard := none }) s)

/-- A link taken down: what it sent unaccepted waits for the exchange, with a record; the exchange begins over a detour, or on the link itself once it
is trained (places in the segment: log entry 22). Where the peer has made its part of the exchange already, it is settled at once. -/
def linkDown (k : Nat) (s : State) : State :=
  if ! (link s k).up then s
  else
    let heard := (link s k).heard
    let s := modLink k (fun l => { l with
      up := false, training := false, rot := false, rxRot := false, flipAt := none, restripeAt := none, restripes := [], rxNew := none,
      kept := [], undone := l.undone ++ l.kept.map (fun x => (x.esn, x.items)), owed := true }) s
    let s := linkEvent 0x42 k false 0xFF 0 0 s.time s
    let c : FabItem := .seg ⟨0x20, s.mgmt.device, peerOf s k, leB 2 k ++ zeros 2 ++ leB 2 ((vget (link s k).rxEsn 0 0 + 4095) % 4096)⟩
    let d := pathTo s (peerOf s k)
    let s := if d = k then modLink k (fun l => { l with waiting := (stepKey s, c) :: l.waiting }) s else transmitItem d c s
    bump (match heard with | some n => settleDown k n s | none => s)

/-- Every kept flit sent again, oldest first; the ninth in a row without an advance takes the link down (R421). -/
def replayKept (k : Nat) (s : State) : State :=
  let l := link s k
  if 8 ≤ l.replays then linkDown k s
  else modLink k (fun l => { l.onWire (l.kept.map Kept.flit) with
    replays := l.replays + 1, replayFrom := l.kept.head?.map Kept.esn, ackSeen := s.time }) s

/-- Has ACK stood still for 2 µs while flits are kept (R421)? -/
def replayDue (s : State) (k : Nat) : Bool := let l := link s k; l.sends && ! l.kept.isEmpty && l.ackSeen + 2000 ≤ s.time

/-- REPLAY_TIMEOUT (R421). -/
def execReplayTimeout (k : Nat) (s : State) : Host.Outcome State Fault Refusal := .next (if replayDue s k then replayKept k s else s)

/-! ### The control part of a received flit (R417, R421) -/

/-- A field of a flit's control part. -/
def flitField (x : Flit) (lo len : Nat) : Nat := (x.ctl.toNat >>> lo) % 2 ^ len
/-- Does the CRC hold (R417)? -/
def crcHolds (x : Flit) : Bool := crc32 (flitCovered x) == flitField x 96 32
/-- The kinds of segments 1 to 9 (R418). -/
def segKinds (x : Flit) : List Nat := (List.range 9).map (fun i => flitField x (28 + 3 * i) 3)
/-- Is a flit taken as whole: its CRC holds, and no segment's kind is invalid (R417, R418)? -/
def flitWhole (x : Flit) : Bool := crcHolds x && (segKinds x).all (fun k => k < 6)
/-- KPH. -/
def kphOf (x : Flit) : Bool := flitField x 24 1 == 1

/-- ACK covers kept flits: they go, and replays are counted afresh (R421). -/
def Link.ackTo (l : Link) (ack now : Nat) : Link :=
  match l.kept with
  | [] => l
  | x :: _ =>
    let n := (ack + 4097 - x.esn % 4096) % 4096
    if 1 ≤ n && n ≤ l.kept.length then { l with kept := l.kept.drop n, ackSeen := now, replays := 0, replayFrom := none } else l

/-- Depth reports of the peer's links (R412, R417). -/
def Link.report (l : Link) (reps : List Nat) (now : Nat) : Link :=
  { l with depths := reps.foldl (fun ds r =>
      let n := r % 16
      if n = 15 then ds else ds.filter (fun d => d.1 != n) ++ [(n, r / 16, now)]) l.depths }

/-- What the control part of a flit that is taken says: ACK, freed buffers, depths, and a replay request (R417, R421). -/
def noteControl (k : Nat) (x : Flit) (s : State) : State :=
  let ack := flitField x 12 12
  let s := modLink k (fun l =>
    ({ l with credits := min 512 (l.credits + flitField x 55 8) }.ackTo ack s.time).report ((List.range 4).map (fun q => flitField x (64 + 8 * q) 8)) s.time) s
  let l := link s k
  let first := l.kept.head?.map Kept.esn
  -- a request counts only for the flit after ACK, and once for each such flit
  if flitField x 27 1 = 1 && l.sends && first.any (fun e => e % 4096 == (ack + 1) % 4096) && l.replayFrom != first then replayKept k s else s

/-! ### The segments of a flit (R416, R418, R419) -/

/-- A cut of a list of bytes. -/
def slice (l : List Byte) (off n : Nat) : List Byte := (l.drop off).take n

/-- The headers of a flit's bytes from 16 on: the header slots, then the header segments; an all-zero slot is unused (log entry 23). -/
def flitHeaders (kinds : List Nat) (b : List Byte) : List FabHdr :=
  let slots := (List.range 4).map (fun i => slice b (12 * i) 12)
  let segs := (kinds.zip (List.range 9)).flatMap (fun x =>
    if x.1 = 1 || x.1 = 2 then (List.range 5).map (fun i => slice b (48 + 64 * x.2 + 12 * i) 12) else [])
  ((slots ++ segs).map leNat).filterMap (fun n => if n = 0 then none else some (hdrOfNat n))

/-- The data segments of a flit with their postmarks (R418). -/
def flitData (kinds : List Nat) (b : List Byte) : List (List TWord) :=
  let segs := (List.range 9).filter (fun i => kinds.getD i 0 == 3)
  let marks := match (List.range 9).find? (fun i => kinds.getD i 0 == 4) with | some i => slice b (48 + 64 * i) 64 | none => []
  (segs.zip (List.range segs.length)).map (fun x =>
    (List.range 8).map (fun w => ⟨wordOfBytes (slice b (48 + 64 * x.1 + 8 * w) 8), marks.getD (8 * x.2 + w) 0⟩))

/-- How many data segments a header takes of n left: RDATA as its request says; one for another device takes two if there are two (R419; log
entry 23). -/
def segsTaken (s : State) (h : FabHdr) (n : Nat) : Nat :=
  let op := h.op.toNat
  if op = 2 || op = 3 then 2
  else if op = 4 || op = 5 || op = 8 then 1
  else if op = 10 then (match answerTo s h with
    | some r => if r.hdr.op = 0 || r.hdr.op = 1 then 2 else 1
    | none => min 2 n)
  else 0

/-- Headers with their data, in order. -/
def pairUp (s : State) : List FabHdr → List (List TWord) → List (FabHdr × List TWord)
  | [], _ => []
  | h :: t, d => let n := segsTaken s h d.length; (h, (d.take n).flatten) :: pairUp s t (d.drop n)

/-- The control segments of a flit (R418). -/
def flitSegs (kinds : List Nat) (b : List Byte) : List CtlSeg :=
  (kinds.zip (List.range 9)).filterMap (fun x =>
    if x.1 = 5 then
      let g := slice b (48 + 64 * x.2) 64
      let n (i : Nat) : Nat := (g.getD i 0).toNat
      some { kind := n 0, src := n 1, dst := n 2, bytes := g.drop 4 }
    else none)

/-- The items of a flit's clear bytes. -/
def flitItems (s : State) (kinds : List Nat) (b : List Byte) : List FabItem :=
  (pairUp s (flitHeaders kinds b) (flitData kinds b)).map (fun x => .msg x.1 x.2) ++ (flitSegs kinds b).map .seg

/-! ### Authentication (R428, R430) -/

/-- An authentication failure: the link goes down, with a record (R430, R437). -/
def authFail (k ecls ctr : Nat) (s : State) : State := linkEvent 0x43 k true ecls ctr 0 s.time (linkDown k s)

/-- An accepted numbered flit in its window; a window still open when four later ones are whole fails (R430). -/
def rxWindow (k esn : Nat) (kph : Bool) (x : Flit) (s : State) : State :=
  let start := esn / 32 * 32
  let add (w : AuthWin) : AuthWin := { w with bytes := w.bytes ++ flitCovered x, complete := esn % 32 == 31 }
  let ws := (link s k).rxWin
  let ws := if ws.any (fun w => w.cls == 0 && w.start == start) then ws.map (fun w => if w.cls = 0 && w.start = start then add w else w)
    else ws ++ [add { cls := 0, start := start, kph := kph, bytes := [], complete := false }]
  let s := modLink k (fun l => { l with rxWin := ws }) s
  if esn % 32 = 31 then
    match ws.find? (fun w => w.cls == 0 && w.complete && w.start + 128 ≤ start) with
    | some w => authFail k 0 (w.start % 4096) s
    | none => s
  else s

/-- One entry of a GMAC flit checked against what was accepted (R428, R430). -/
def checkEntry (k n : Nat) (s : State) : State :=
  let ctr := n % 4096
  let cls := (n >>> 12) % 4
  let kph := n.testBit 14
  match (link s k).rxWin.find? (fun w => w.cls == cls && w.complete && w.kph == kph && w.start % 4096 == ctr) with
  | none => s
  | some w => match (link s k).rxKeys.get kph with
    | none => s
    | some key =>
      if Config.gmac key (ivOf cls kph w.start) w.bytes = BitVec.ofNat 96 (n >>> 32) then
        modLink k (fun l => { l with rxWin := l.rxWin.erase w }) s
      else authFail k cls ctr s

/-- The extended sequence number nearest to the last of its class (R427). -/
def nearestEsn (last seq : Nat) : Nat :=
  let c := last / 4096 * 4096 + seq
  if c + 2048 < last then c + 4096 else if last + 2048 < c && 4096 ≤ c then c - 4096 else c

/-! ### Flits received -/

/-- What a numbered flit brings: items for this device to its inbox, others to the relay queue of its link (R413). -/
def takeItems (k : Nat) (items : List FabItem) (s : State) : State :=
  let mine (i : FabItem) : Bool := i.dest == s.mgmt.device
  modLink k (fun l => { l with relayQ := l.relayQ ++ (items.filter (fun i => ! mine i)).map (fun i => [i]) })
    (modFabric (fun f => { f with inbox := f.inbox ++ items.filter mine }) s)

/-- The phase that a receiver follows: a new one keeps the old key until its flits are verified (R431). -/
def Link.rxPhase (l : Link) (kph : Bool) : Link := if kph = l.rxKph then l else { l with rxKph := kph, rxRot := true }

/-- The number of a numbered flit that the receiver expects: after a retraining the first flit tells it (log entry 22). -/
def expected (l : Link) (x : Flit) : Nat :=
  let e := vget l.rxEsn 0 0
  if l.rxSync then nearestEsn e (flitField x 0 12) else e

/-! ### Spares (R424) -/

/-- The channels of a fibre. -/
def fibreMask (f : Nat) : Word := BitVec.ofNat 64 (0xFFFF <<< (16 * f))

/-- The fibres that a spare serves and whose own channels are all seen lit again (R424). -/
def returnedFibres (l : Link) (rx : Bool) (seen : Word) : List Nat :=
  (List.range 4).filter (fun f => l.spf.testBit (f + (if rx then 4 else 0)) && fibreMask f &&& ~~~ seen == 0)

/-- A link without the spares of some of its fibres: they are free again (R424). -/
def dropSpares (k : Nat) (away : Nat → Bool) (s : State) : State :=
  let gone := (link s k).sparing.filter (fun x => away x.1)
  let s := modFabric (fun f => { f with spares := gone.foldl (fun v x => vset v x.2.1 15) f.spares }) s
  modLink k (fun l => { l with
    sparing := l.sparing.filter (fun x => ! away x.1), spf := gone.foldl (fun m x => m &&& (255 ^^^ (1 <<< x.1))) l.spf }) s

/-- The spares of fibres that have returned are free again (R424). -/
def freeSpares (k : Nat) (rx : Bool) (seen : Word) (s : State) : State :=
  let back := (returnedFibres (link s k) rx seen).map (fun f => f + (if rx then 4 else 0))
  dropSpares k (fun b => back.contains b) s

/-- Does the receiver take the stripe that it has announced: at the first number that is a multiple of 32 whose flit acknowledges the announcement; by
then the peer has it (R424 step 4)? -/
def Link.takesStripe (l : Link) (esn : Nat) : Bool := match l.rxNew with | some x => esn % 32 == 0 && ! l.kept.any (fun y => y.esn == x.1) | none => false

/-- The receiver's restripe: channels that have gone dark again stay out, and the spares of fibres that have returned are free again (R424 step 4). -/
def restripeRx (k esn : Nat) (s : State) : State :=
  match (if (link s k).takesStripe esn then (link s k).rxNew else none) with
  | some (_, m, own) =>
    let s := freeSpares k true (own &&& (link s k).rxSeen) s
    modLink k (fun l => { l with rxLit := l.rxLit ||| (m &&& l.rxSeen), rxNew := none }) s
  | none => s

/-- NUMBERED_FLIT_RECEIVE (R416 to R421, R424, R427, R430): accepted in sequence, or discarded with a replay requested. -/
def execNumberedFlitReceive (k : Nat) (x : Flit) (s : State) : Host.Outcome State Fault Refusal :=
  let l := link s k
  let esn := expected l x
  .next (if ! l.up then s
    else match (if flitWhole x && flitField x 25 2 == 0 && flitField x 0 12 == esn % 4096 then l.rxKeys.get (kphOf x) else none) with
      | none => modLink k (fun l => { l with needRrq := true }) s
      | some key =>
        let items := flitItems s (segKinds x) (crypt key (ivOf 0 (kphOf x) esn) (padTo 624 x.body))
        let s := modLink k (fun l => { l.rxPhase (kphOf x) with rxEsn := vset l.rxEsn 0 (esn + 1), rxSync := false, breld := l.breld + 1 }) s
        let s := noteControl k x (takeItems k items (rxWindow k esn (kphOf x) x s))
        bump (restripeRx k esn s))

/-- The entries of a GMAC flit's clear bytes (R428, R429). -/
def gmacEntries (b : List Byte) : List Nat := (List.range 39).map (fun e => leNat (slice b (16 * e) 16))

/-- Is an entry invalid: a reserved field not zero, or in use for no class (R429)? -/
def gmacBad (n : Nat) : Bool := (n >>> 16) % 65536 != 0 || (n.testBit 15 && 2 ≤ (n >>> 12) % 4)

/-- CONTROL_FLIT_RECEIVE (R427 to R430). -/
def execControlFlitReceive (k : Nat) (x : Flit) (s : State) : Host.Outcome State Fault Refusal :=
  let l := link s k
  .next (if ! l.up || ! flitWhole x || flitField x 25 2 != 2 then s
    else match l.rxKeys.get (kphOf x) with
      | none => s
      | some key =>
        let esn := nearestEsn (vget l.rxEsn 2 0) (flitField x 0 12)
        let es := gmacEntries (crypt key (ivOf 2 (kphOf x) esn) (padTo 624 x.body))
        if es.any gmacBad then s
        else
          let s := noteControl k x (modLink k (fun l => { l with rxEsn := vset l.rxEsn 2 esn }) s)
          bump ((es.filter (fun n => n.testBit 15)).foldl (fun s n => checkEntry k n s) s))

/-- Does a spillway flit hold only valid WRS headers of one core (R426)? -/
def spillValid (items : List FabItem) : Bool :=
  items.all (fun i => match i, items.head? with
    | .msg h d, some (.msg g _) => h.op == 3 && h.rsv == 0 && d.length == 16 && h.sdev == g.sdev && h.score == g.score
    | _, _ => false)

/-- The headers of a spillway flit with their data. -/
def spillPairs (items : List FabItem) : List (FabHdr × List TWord) :=
  items.filterMap (fun i => match i with | .msg h d => some (h, d) | .seg _ => none)

/-- SPILLWAY_FLIT_RECEIVE (R413, R426, R428): kept in one of its link's 64 buffers, relayed, or dropped without notice. -/
def execSpillwayFlitReceive (k : Nat) (x : Flit) (s : State) : Host.Outcome State Fault Refusal :=
  let l := link s k
  .next (if ! l.up || ! flitWhole x || flitField x 25 2 != 1 then s
    else match l.rxKeys.get (kphOf x) with
      | none => s
      | some key =>
        let esn := nearestEsn (vget l.rxEsn 1 0) (flitField x 0 12)
        let items := flitItems s (segKinds x) (crypt key (ivOf 1 (kphOf x) esn) (padTo 624 x.body))
        let s := noteControl k x (modLink k (fun l => { l with rxEsn := vset l.rxEsn 1 esn }) s)
        if items.isEmpty || ! spillValid items then s
        else
          let w : AuthWin := { cls := 1, start := esn, kph := kphOf x, bytes := flitCovered x, complete := true }
          let keep (s : State) : State := modLink k (fun l => { l with rxWin := l.rxWin.filter (fun v => v.cls == 0 || esn < v.start + 2048) ++ [w] }) s
          if items.any (fun i => i.dest != s.mgmt.device) then modLink k (fun l => { l with relayQ := l.relayQ ++ [items] }) (keep s)
          else if 64 ≤ (s.fabric.spill.filter (fun b => b.1 == k)).length then s
          else
            let r := spillArrive (spillPairs items) s
            keep (modFabric (fun f => { f with spill := if r.1.isEmpty then f.spill else f.spill ++ [(k, r.1)] }) r.2))

/-! ### Relaying (R413) -/

/-- A spillway flit on its way: dropped after one hop, on a link that is down, or behind more than 32 flits. -/
def relaySpill (ms : List (FabHdr × List TWord)) (s : State) : State :=
  let k := linkTo s ((ms.head?.map (fun m => m.1.ddev.toNat)).getD 0)
  if ms.any (fun m => m.1.rly) || ! (link s k).up || 32 < queueFlits (link s k) then modFabric (fun f => { f with relayDrop := f.relayDrop + 1 }) s
  else queueSpill k (ms.map (fun m => ({ m.1 with rly := true }, m.2))) s

/-- One item forwarded: a request that has come by a relay, or whose onward link is down, is answered "no path". -/
def relayItem (i : FabItem) (s : State) : State :=
  let k := linkTo s i.dest
  match i with
  | .seg c => transmitItem k (.seg c) s
  | .msg h d =>
    if h.op.toNat < 10 && (h.rly || ! (link s k).up) then sendRsp 12 h 3 [] s
    else transmit k { h with rly := true } d s

/-- Is an item a spillway write? -/
def FabItem.isSpill : FabItem → Bool
  | .msg h _ => h.op == 3
  | .seg _ => false

/-- RELAY_FORWARD (R413): the oldest item, or spillway flit, that came in on a link for another device. -/
def execRelayForward (k : Nat) (s : State) : Host.Outcome State Fault Refusal :=
  .next (match (link s k).relayQ with
    | [] => s
    | is :: t =>
      let s := modLink k (fun l => { l with relayQ := t }) s
      bump (if is.any FabItem.isSpill then relaySpill (spillPairs is) s else is.foldl (fun s i => relayItem i s) s))

/-! ### The exchange after a link went down (R415) -/

/-- LINK_DOWN_EXCHANGE (R415): the peer's last accepted number; what came after it is sent again by the paths that R412 gives. Where the peer's end
went down first, its number is kept until this end is down too. -/
def execLinkDownExchange (k : Nat) (seq : BitVec 12) (s : State) : Host.Outcome State Fault Refusal :=
  let l := link s k
  .next (bump (if l.up && ! l.owed then modLink k (fun l => { l with heard := some seq.toNat }) s else settleDown k seq.toNat s))

/-! ### Light (R420, R422 to R424) -/

/-- The direction's lit channels. -/
def Link.lit (l : Link) (rx : Bool) : Word := if rx then l.rxLit else l.txLit

/-- A direction's lit channels changed. -/
def Link.setLit (l : Link) (rx : Bool) (m : Word) : Link := if rx then { l with rxLit := m } else { l with txLit := m }

/-- The fibres of a direction that have failed and that no spare serves or is to serve (R423). -/
def failedFibres (l : Link) (rx : Bool) : List Nat :=
  if l.lit rx = 0 then []
  else (List.range 4).filter (fun f => l.lit rx &&& fibreMask f == 0 && ! l.sparing.any (fun x => x.1 == f + (if rx then 4 else 0)))

/-- The spares of a direction (R411). -/
def spareSet (rx : Bool) : List Nat := if rx then [4, 5, 6, 7] else [0, 1, 2, 3]

/-- Spares assigned to a link for its failed fibres, whose failure was detected at a time: the lowest free ones (R423). -/
def assignSpares (k : Nat) (rx : Bool) (tdet : Nat) (s : State) : State :=
  (failedFibres (link s k) rx).foldl (fun s f =>
    match (spareSet rx).find? (fun i => vget s.fabric.spares i 15 == 15) with
    | some i => modLink k (fun l => { l with sparing := l.sparing ++ [(f + (if rx then 4 else 0), i, tdet)] }) (modFabric (fun x => { x with spares := vset x.spares i k }) s)
    | none => s) s

/-- LOSS_OF_LIGHT (R422, R425): dark channels are detected; sending stops until the direction has restriped without them, or the link goes down. -/
def execLossOfLight (k : Nat) (rx : Bool) (dark : Word) (s : State) : Host.Outcome State Fault Refusal :=
  let l := link s k
  let lost := l.lit rx &&& dark
  let l' := l.setLit rx (l.lit rx &&& ~~~ dark)
  let l' := if rx then { l' with rxSeen := l'.rxSeen &&& ~~~ dark }
    else { l' with txSeen := l'.txSeen &&& ~~~ dark, restripeAt := l'.restripeAt.map (fun r => (r.1, r.2.1 &&& ~~~ dark, r.2.2)) }
  let s1 := modLink k (fun _ => l') s
  .next (if ! l.up || lost = 0 then s1
    else if litCount (l'.lit rx) < 16 then linkDown k s1
    else bump (modLink k (fun l => { l with restripes := l.restripes ++ [(rx, lost, s.time)] }) s1))

/-- A restripe has ended: spares for fibres that have failed; where it was the transmitter's, a record of the loss, and a replay of what it keeps
(R407, R422, R423). -/
def restripeEnd (k : Nat) (s : State) : State :=
  match (link s k).restripes with
  | [] => s
  | (rx, lost, tdet) :: t =>
    let s := modLink k (fun l => { l with restripes := t, beat := if rx then l.beat else 0 }) s
    if rx then bump (assignSpares k true tdet s)
    else
      let l := link s k
      let s := linkEvent 0x40 k false (combOf lost) ((l.kept.head?.map Kept.esn).getD (vget l.txEsn 0 0)) l.kept.length tdet s
      let s := assignSpares k false tdet s
      bump (if l.kept.isEmpty then s else replayKept k s)

/-- SPARE_TRAINED (R423): the link restripes onto the spare, with a record that holds the time at which the fibre's failure was detected. -/
def execSpareTrained (i : BitVec 3) (s : State) : Host.Outcome State Fault Refusal :=
  let rx := 4 ≤ i.toNat
  let k := vget s.fabric.spares i.toNat 15
  .next (match (link s k).sparing.find? (fun x => x.2.1 == i.toNat) with
    | some (b, _, tdet) =>
      if (link s k).up && ! (link s k).spf.testBit b then
        let s := modLink k (fun l => { l.setLit rx (l.lit rx ||| fibreMask (b % 4)) with spf := l.spf ||| (1 <<< b), beat := if rx then l.beat else 0 }) s
        bump (linkEvent 0x41 k rx b 0 0 tdet s)
      else s
    | none => s)

/-- The channels that spares serve in a direction. -/
def servedMask (l : Link) (rx : Bool) : Word :=
  (List.range 4).foldl (fun m f => if l.spf.testBit (f + (if rx then 4 else 0)) then m ||| fibreMask f else m) 0

/-- Is an item the announcement of channels that a receiver sees lit (R424)? -/
def FabItem.isLight : FabItem → Bool
  | .seg c => c.kind == 0x21
  | .msg _ _ => false

/-- An announcement queued for the next numbered flit, behind an exchange alone; it takes the place of one that has not left (R424; log entry 39). -/
def queueLight (x : Nat × FabItem) (q : List (Nat × FabItem)) : List (Nat × FabItem) :=
  let l := q.filter (fun y => ! y.2.isLight)
  l.takeWhile (fun y => y.2.isExchange) ++ x :: l.dropWhile (fun y => y.2.isExchange)

/-- CHANNEL_LIGHT_RETURN (R424 steps 1 and 2): the transmitter sees the channels, or the receiver has trained them and tells its peer in its next
numbered flit on the link. -/
def execChannelLightReturn (k : Nat) (rx : Bool) (lit : Word) (s : State) : Host.Outcome State Fault Refusal :=
  .next (if ! rx then modLink k (fun l => { l with txSeen := l.txSeen ||| lit }) s
    else
      let s := modLink k (fun l => { l with rxSeen := l.rxSeen ||| lit }) s
      let c : FabItem := .seg ⟨0x21, s.mgmt.device, peerOf s k, leB 2 k ++ zeros 2 ++ leB 8 ((link s k).rxLit ||| (link s k).rxSeen).toNat⟩
      if ! (link s k).up then s else bump (modLink k (fun l => { l with waiting := queueLight (stepKey s, c) l.waiting }) s))

/-- The next sequence number that is a multiple of 32. -/
def next32 (esn : Nat) : Nat := (esn + 31) / 32 * 32

/-- CHANNELS_LIT (R424 step 3): the transmitter will restripe onto the channels named that it also sees lit. -/
def execChannelsLit (k : Nat) (lit : Word) (s : State) : Host.Outcome State Fault Refusal :=
  .next (if ! (link s k).up then s
    else
      let l := link s k
      let m := (lit &&& l.txSeen) ||| (lit &&& l.txLit &&& servedMask l false)
      bump (modLink k (fun l => { l with restripeAt := some (next32 (vget l.txEsn 0 0), m, s.time) }) s))

/-- A commanded restripe has taken effect: the record, with the time at which its command came, and spares whose fibres have returned are free
(R424 step 5). -/
def restoredEnd (k : Nat) (s : State) : State :=
  match (link s k).restored with
  | none => s
  | some (esn, gained, t) =>
    let s := modLink k (fun l => { l with restored := none }) s
    let s := freeSpares k false (link s k).txSeen s
    bump (linkEvent 0x47 k false (combOf gained) esn 0 t s)

/-! ### Training and keys (R425, R427, R431) -/

/-- A link trained: every channel lit, its buffers and windows at their start. Its numbers go on, so that no IV recurs under a key, and the receiver takes
the first number that it sees (log entry 22). -/
def trainLink (k : Nat) (s : State) : State :=
  let all : Word := BitVec.allOnes 64
  modLink k (fun l => { Link.empty with
    up := true, txLit := all, rxLit := all, txSeen := all, rxSeen := all, txKph := l.txKph, rxKph := l.rxKph, txKeys := l.txKeys, rxKeys := l.rxKeys,
    loadTx := l.loadTx, loadRx := l.loadRx, txEsn := vset l.txEsn 0 (next32 (vget l.txEsn 0 0)), rxEsn := l.rxEsn, keyFrom := l.keyFrom,
    keyHold := l.keyHold, ackSent := vget l.rxEsn 0 0, rxSync := vget l.rxEsn 0 0 != 0 || vget l.txEsn 0 0 != 0,
    out := l.out, waiting := l.waiting, spillWait := l.spillWait, relayQ := l.relayQ, undone := l.undone, owed := l.owed, linkctl := l.linkctl })
    (dropSpares k (fun _ => true) s)

/-- The command register of a link with its command accepted (R444). -/
def accepted (v : Word) : Word := packFields [(0, 2, field v 0 2)]
/-- The command register of a link with its command waiting. -/
def commanded (v : Word) : Word := packFields [(0, 2, field v 0 2), (63, 1, field v 63 1)]

/-- LINKCTL_RETRAIN (R410, R425): the link goes down if it is up, and trains. -/
def execLinkctlRetrain (k : Nat) (v : Word) (s : State) : Host.Outcome State Fault Refusal :=
  .next (if 15 ≤ k then s
    else
      let s := modLink k (fun l => { l with linkctl := accepted v }) s
      if ! bit v 63 || s.mgmt.podSize ≤ peerOf s k then s
      else bump (modLink k (fun l => { l with training := true }) (linkDown k s)))

/-- A link's training ends: it is up, with a record, or stays down; whether it trains is no rule of the spec (R425; log entry 9). -/
def trainEnd (k : Nat) (s : State) : State :=
  if ! (link s k).training then s
  else if Config.startOutcome s.tick 5 k false then bump (linkEvent 0x46 k false 0xFF 0 0 s.time (trainLink k s))
  else modLink k (fun l => { l with training := false }) s

/-- LINKCTL_ROTATE (R431): the phase flips at the next number that is a multiple of 32; a further command waits while ROT is set. -/
def execLinkctlRotate (k : Nat) (v : Word) (s : State) : Host.Outcome State Fault Refusal :=
  .next (if 15 ≤ k then s
    else if ! bit v 63 then modLink k (fun l => { l with linkctl := accepted v }) s
    else if (link s k).rot || (link s k).rxRot then modLink k (fun l => { l with linkctl := commanded v }) s
    else
      bump (modLink k (fun l => { l with linkctl := accepted v, rot := true, flipAt := some (next32 (vget l.txEsn 0 0)) }) s))

/-- Is a rotation of the transmit direction over: flipped, every old flit acknowledged, every old window's entries sent (R431)? -/
def txRotated (l : Link) : Bool :=
  l.rot && l.flipAt.isNone && l.kept.all (fun x => kphOf x.flit == l.txKph) && l.txWin.all (fun w => w.kph == l.txKph)
/-- Is a rotation of the receive direction over: every old window verified (R431)? -/
def rxRotated (l : Link) : Bool := l.rxRot && l.rxWin.all (fun w => w.cls != 0 || w.kph == l.rxKph)

/-- Keys without that of a phase. -/
def Keys.drop (k : Keys) (ph : Bool) : Keys := if ph then { k with k1 := none } else { k with k0 := none }
/-- Keys with that of a phase set. -/
def Keys.put (k : Keys) (ph : Bool) (key : BitVec 256) : Keys := if ph then { k with k1 := some key } else { k with k0 := some key }

/-- ROTATION_COMPLETE (R431): the old key is cleared, with a record of the new phase. -/
def execRotationComplete (k : Nat) (s : State) : Host.Outcome State Fault Refusal :=
  let l := link s k
  .next (if txRotated l then
      linkEvent 0x45 k false (b2n l.txKph) 0 0 s.time (modLink k (fun l => { l with rot := false, txKeys := l.txKeys.drop (! l.txKph) }) s)
    else if rxRotated l then
      linkEvent 0x45 k true (b2n l.rxKph) 0 0 s.time (modLink k (fun l => { l with rxRot := false, rxKeys := l.rxKeys.drop (! l.rxKph) }) s)
    else s)

/-- Is a record of a class's spent key due (R427)? -/
def keySpent (l : Link) (c : Nat) : Bool := ! l.keyHold && l.spent c

/-- KEY_LIMIT (R427): the direction holds, with a record. -/
def execKeyLimit (k : Nat) (c : BitVec 2) (s : State) : Host.Outcome State Fault Refusal :=
  .next (if keySpent (link s k) c.toNat then linkEvent 0x44 k false c.toNat 0 0 s.time (modLink k (fun l => { l with keyHold := true }) s) else s)

/-- The phase that a load goes to: the unused one, or the present one while it has no key (R427, R444; log entry 22). -/
def loadPhase (k : Keys) (ph : Bool) : Bool := if (k.get ph).isNone then ph else ! ph

/-- KEYLOAD_TRANSMIT (R427, R444). -/
def execKeyloadTransmit (k : Nat) (s : State) : Host.Outcome State Fault Refusal :=
  .next (bump (modLink k (fun l => { l with txKeys := l.txKeys.put (loadPhase l.txKeys l.txKph) l.loadTx }) s))

/-- KEYLOAD_RECEIVE (R427, R444). -/
def execKeyloadReceive (k : Nat) (s : State) : Host.Outcome State Fault Refusal :=
  .next (bump (modLink k (fun l => { l with rxKeys := l.rxKeys.put (loadPhase l.rxKeys l.rxKph) l.loadRx }) s))

/-! ### The inbox -/

/-- The number that bytes of a control segment hold, by the segment's byte numbers (R433). -/
def CtlSeg.num (c : CtlSeg) (off n : Nat) : Nat := leNat (slice c.bytes (off - 4) n)

/-- The step of a control segment for this device (R415, R424, R433, R447; kind 0x30: log entry 24). -/
def segStep (c : CtlSeg) (s : State) : Host.Outcome State Fault Refusal :=
  let dev : BitVec 4 := BitVec.ofNat 4 c.src
  match c.kind with
  | 0x10 => execAdopt (BitVec.ofNat 64 (c.num 8 8)) s
  | 0x11 => execReport dev (BitVec.ofNat 64 (c.num 8 8)) (BitVec.ofNat 64 (c.num 16 8)) (c.num 24 1 % 2 == 1) s
  | 0x12 => execScrub dev (c.num 8 8) (c.num 16 4) (c.num 20 6) s
  | 0x13 => execScrubDone dev (c.num 20 6) s
  | 0x20 => execLinkDownExchange (linkTo s c.src) (BitVec.ofNat 12 (c.num 8 2)) s
  | 0x21 => execChannelsLit (linkTo s c.src) (BitVec.ofNat 64 (c.num 8 8)) s
  | 0x30 => .next (attestPeer c.src c.bytes s)
  | _ => .next s

/-- The step of an item for this device. -/
def itemStep (i : FabItem) (s : State) : Host.Outcome State Fault Refusal :=
  match i with
  | .seg c => segStep c s
  | .msg h d =>
    if h.op = 10 then execRdata h d s
    else if h.op = 11 then execRdone h d s
    else if h.op = 12 then execRnack h d s
    else if h.op = 3 then .next s
    else serveStep h d s

end Sys2Proof.Machine
end

