-- ==== Sys2Proof/Machine/MapChange.lean ====
section
/-! DEFINITION. Map changes (R246 to R249, R252) and uncorrectable errors of the stacks (R255). -/
namespace Sys2Proof.Machine

/-! ### A change of the sluice map (R248) -/

/-- A register of the map written: descriptor, slice list or tiled table (R246, R247, R443). -/
def mapWrite (off : Nat) (v : Word) (q : Partition) : Partition :=
  if off = 0 then { q with mapS := min (field v 0 4) 8, mapTiled := field v 32 16 }
  else if 0x100 ≤ off && off < 0x200 then
    { q with mapList := (List.range 8).foldl (fun l i => vset l (off - 0x100 + i) (field v (8 * i) 8)) q.mapList }
  else { q with tiled := vset q.tiled ((off - 0x200) / 8) v }

/-- A map change begun: VERSION advances, and the slices have the new map; no requester has it yet (R248 step 1). -/
def beginChange (off : Nat) (v : Word) (q : Partition) : Partition :=
  let c : MapChange := {
    oldS := q.mapS, oldList := q.mapList.toList, oldTiled := q.tiled.toList, oldMask := q.mapTiled, moved := [], left := none, held := [] }
  { mapWrite off v q with mapVer := (q.mapVer + 1) % 65536, change := some c, stale := List.range 387 }

/-- MAP_CHANGE: a write of the map's registers; it is held while a change is in progress (R248). -/
def execMapChange (p : BitVec 4) (off : Nat) (v : Word) (s : State) : Host.Outcome State Fault Refusal :=
  .next (bump (modPart p.toNat (fun q => match q.change with
    | some c => { q with change := some { c with held := c.held ++ [(off, v)] } }
    | none => beginChange off v q) s))

/-- A granule's pin given up where the new set has no room for one of its lines (R252, R437). -/
def settlePin (line : Nat) (s : State) : State :=
  match s.pins.find? (fun x => x.1 == line / 32) with
  | none => s
  | some (g, p) =>
    let here := (sliceOf s (line * 128), (Config.llcSet line).val)
    let n := ((pinPlaces s (s.pins.map Prod.fst)).filter (fun q => q == here)).length
    if n ≤ 8 then s
    else postEvent (p + 1) 0x50 [(1, 1, p), (8, 8, g * 4096)] { s with pins := assocDel g s.pins }

/-- A line retired under the new map. -/
def MapChange.retire (line : Nat) (c : MapChange) : MapChange :=
  { c with moved := insNat line c.moved, left := c.left.map (fun l => l.filter (fun x => x != line)) }

/-- A change changed, where one is in progress. -/
def modChange (p : Nat) (f : MapChange → MapChange) (s : State) : State := modPart p (fun q => { q with change := q.change.map f }) s

/-- MAP_LINE_HANDOVER (R248 steps 3 to 5): a line that no engine owns moves to its new home, with its pin if there is room. -/
def execMapLineHandover (p : BitVec 4) (line : Nat) (s : State) : Host.Outcome State Fault Refusal :=
  .next (if waitsHandover s p.toNat line && ! claimed s line then bump (freeLines (settlePin line (modChange p.toNat (MapChange.retire line) s))) else s)

/-- The pinned lines of a partition that wait for their handover. -/
def pinnedMoves (s : State) (p : Nat) : List Nat :=
  (s.pins.flatMap (fun x => (List.range 32).map (fun i => 32 * x.1 + i))).filter (waitsHandover s p)

/-- The lines of a partition that engines own and that wait for their handover. -/
def claimedMoves (s : State) (p : Nat) : List Nat := ((s.claims.map Prod.fst).filter (waitsHandover s p)).eraseDups

/-- Step 2 of a change: every requester has the new map (R248). -/
def tellRequesters (p : Nat) (s : State) : State := bump (freeLines (modPart p (fun q => { q with stale := [] }) s))

/-- The slices have gone through their lines: all but those that engines own are handed over, the pinned ones each with its pin (R248, R252). -/
def handOver (p : Nat) (s : State) : State :=
  let l := claimedMoves s p
  let pins := (pinnedMoves s p).filter (fun x => ! l.contains x)
  bump (freeLines (pins.foldl (fun s x => settlePin x s) (modChange p (fun c => { c with left := some l }) s)))

/-- Has every slice finished: no line waits for its handover (R248)? -/
def changeOver (s : State) (p : Nat) : Bool := (part s p).change.any (fun c => c.left == some []) && faultRoom s p

/-- A change's next step (R248): the requesters are told, the lines handed over, those that engines own as they are given up. -/
def changeNext (p : Nat) (s : State) : Option State :=
  match (part s p).change with
  | none => none
  | some c =>
    if ! (part s p).stale.isEmpty then some (tellRequesters p s)
    else match c.left with
      | none => some (handOver p s)
      | some l => (l.find? (fun x => ! claimed s x)).map (fun x => bump (freeLines (settlePin x (modChange p (MapChange.retire x) s))))

/-- MAP_CHANGE_COMPLETE (R248 step 6): the record of kind 0x20, and the first write held starts the next change. -/
def execMapChangeComplete (p : BitVec 4) (s : State) : Host.Outcome State Fault Refusal :=
  let p := p.toNat
  .next (match (part s p).change with
    | some c =>
      if changeOver s p then
        let s := postFault p { FaultInfo.ofKind 0x20 with detail := (part s p).mapVer } s
        let s := freeLines (modPart p (fun q => { q with change := none, stale := [] }) s)
        bump (match c.held with
          | (off, v) :: t => modPart p (fun q =>
              let q := beginChange off v q
              { q with change := q.change.map (fun d => { d with held := t }) }) s
          | [] => s)
      else s
    | none => s)

/-- STALE_MAP_RETRY (R249): a requester that is answered "stale map" adopts the version; what it resends goes to the new home. -/
def execStaleMapRetry (c : Nat) (p : BitVec 4) (s : State) : Host.Outcome State Fault Refusal :=
  .next (bump (freeLines (modPart p.toNat (fun q => { q with stale := q.stale.filter (fun k => k != c) }) s)))

/-! ### The Walup stacks (R255) -/

/-- STACK_UNCORRECTABLE (R255): the data of a line stand as read, its postmarks unchanged, and an event record follows. -/
def execStackUncorrectable (line : Nat) (ws : List Word) (s : State) : Host.Outcome State Fault Refusal :=
  .next (if homeOf s (line * 128) = .localMem then
      let s := (ws.take 16).zip (List.range 16) |>.foldl (fun s x => writeBytes s (line * 128 + 8 * x.2) (bytesOf x.1)) s
      bump (postEvent 0 0x51 [(1, 1, stackOf (line * 128)), (8, 8, line * 128)] s)
    else s)

end Sys2Proof.Machine
end

