-- ==== Sys2Proof/Machine/Manage.lean ====
section
/-! DEFINITION. The management block: registers read and written (R10, R442 to R445), access tables (R439, R441), virtual dies (R326),
measurement and attestation (R446, R447), start-step records (R451). -/
namespace Sys2Proof.Machine

/-- The state that an outcome goes on with, or the one before it. -/
def after (s : State) (o : Host.Outcome State Fault Refusal) : State := match o with | .next t => t | _ => s

/-- A value held within bounds. -/
def clamp (lo hi n : Nat) : Nat := max lo (min hi n)

/-- The low n bits of a word, its other bits zero. -/
def lowBits (n : Nat) (v : Word) : Word := BitVec.ofNat 64 (v.toNat % 2 ^ n)

/-- Bytes i to i + 7 of a sequence of byte-wide entries. -/
def byteWord (f : Nat → Nat) (i : Nat) : Word := packFields ((List.range 8).map (fun j => (8 * j, 8, f (i + j))))

/-! ### Access tables (R439, R441) -/

/-- An access-table entry from its sixteen bytes (R439). -/
def accEntOf (v : BitVec 128) : AccEnt :=
  let f (lo len : Nat) : Nat := (v.toNat >>> lo) % 2 ^ len
  { base := f 0 52, len := f 64 52, rd := f 116 1 == 1, wr := f 117 1 == 1, atomic := f 118 1 == 1, ex := f 119 1 == 1,
    rsv := f 52 12 != 0 || f 120 8 != 0 }

/-- Has a partition stores in caches that are not performed at their home yet (R441)? -/
def dirtyFor (s : State) (p : Nat) : Bool :=
  let mine (x : CLine) : Bool := x.part == p && x.isDirty
  s.cores.toList.any (fun k => k.l1.any mine) || s.dies.toList.any (fun d => d.lines.any mine)

/-- Those stores written back: every cache that holds one is. -/
def writeBackFor (p : Nat) (s : State) : State :=
  let mine (x : CLine) : Bool := x.part == p && x.isDirty
  let s := (List.range 384).foldl (fun s c => if (core s c).l1.any mine then releaseL1 c s else s) s
  (List.range 8).foldl (fun s d => if (die s d).lines.any mine then releaseDie d (dieReq d) none s else s) s

/-- Are accesses of a master outstanding that were checked under its entries: a partition's operations, buffered stores and write-backs, a peer's
requests that wait (R441)? A host function's access is checked where it is performed. -/
def checkedOut (s : State) (master : Nat) : Bool :=
  if master < 16 then dirtyFor s master || translated s master || (allGroups s).any (fun g => g.part == master && ! g.buf.isEmpty)
  else 33 ≤ master && master < 49 && s.fabric.held.any (fun x => x.1.master == master)

/-- An entry written. -/
def putEntry (u : Nat × Nat × Nat × BitVec 128) (s : State) : State :=
  modMgmt (fun m => { m with
    tables := m.tables.filter (fun t => ! (t.1 == u.1 && t.2.1 == u.2.1 && t.2.2.1 == u.2.2.1)) ++ [(u.1, u.2.1, u.2.2.1, accEntOf u.2.2.2)] }) s

/-- ACCESS_TABLE_UPDATE (R441): it takes effect once every access checked under the old entries has been performed, for which the caches write back;
until then it waits. -/
def execAccessTableUpdate (target master sl : Nat) (v : BitVec 128) (s : State) : Host.Outcome State Fault Refusal :=
  let u := (target, master, sl, v)
  let s := if dirtyFor s master then bump (writeBackFor master s) else s
  .next (if checkedOut s master then
      modMgmt (fun m => { m with accPending := if m.accPending.contains u then m.accPending else m.accPending ++ [u] }) s
    else bump (putEntry u (modMgmt (fun m => { m with accPending := m.accPending.erase u }) s)))

/-! ### Virtual dies (R326) -/

/-- VDMAP_WRITE (R326, R444): effective at later placements and resumptions. -/
def execVdmapWrite (vd : BitVec 3) (v : Word) (s : State) : Host.Outcome State Fault Refusal :=
  .next (bump (modMgmt (fun m => { m with vdmap := vset m.vdmap vd.toNat (field v 0 4) }) s))

/-! ### Measurement (R446) -/

/-- A digest extended into a measurement register, with its log entry (R446). -/
def extend (stp k : Nat) (h : BitVec 384) (s : State) : State :=
  modMgmt (fun m => { m with
    mr := vmod m.mr k (fun x => Config.sha384 (leB 48 x.toNat ++ leB 48 h.toNat)),
    log := m.log ++ [{ step := stp, k := k, h := h, time := s.time }] }) s

/-- MREXT (R446): MR5 to MR7 extended by `mrdigest`. -/
def execMrext (v : Word) (s : State) : Host.Outcome State Fault Refusal :=
  .next (let k := field v 0 3; if 5 ≤ k then extend 0 k s.mgmt.mrdigest s else s)

/-! ### Start-step records (R451) -/

/-- STEPCLR (R444, R451): a record set to none. -/
def execStepclr (v : Word) (s : State) : Host.Outcome State Fault Refusal :=
  .next (if bit v 63 then
      modMgmt (fun m => { m with steps := m.steps.filter (fun r => ! (r.1 == field v 0 4 && r.2.1 == field v 4 8)) }) s
    else s)

/-! ### Attestation (R445, R447) -/

/-- ATTEST_REQUEST (R445, R447): a mailbox whose GO is set. -/
def execAttestRequest (fn : BitVec 5) (s : State) : Host.Outcome State Fault Refusal :=
  .next (if fn.toNat ≤ 16 && bit (vget (mailboxOf s fn.toNat) 6 0) 0 then attest fn.toNat s else s)

/-- A mailbox register written; GO asks for a report, once at a time (R445). -/
def mailboxWrite (fn i : Nat) (v : Word) (s : State) : State :=
  if i = 6 then (if bit v 0 then attest fn (modMailbox fn (fun m => vset m 6 1) s) else s)
  else if i = 4 then modMailbox fn (fun m => vset m 4 (lowBits 57 v)) s
  else if i = 7 then s
  else modMailbox fn (fun m => vset m i v) s

/-! ### Registers of a partition window (R443, R445) -/

/-- A host queue's register (R387). -/
def hqRead (h : HostQueue) (r : Nat) : Word :=
  if r = 0 then h.base else if r = 8 then packFields [(0, 32, h.rdx), (32, 1, b2n h.halt)] else if r = 16 then BitVec.ofNat 64 h.wrx else 0

/-- An event queue's index register (R436). -/
def heqIdx (q : EvQueue) : Word := packFields [(0, 16, q.tail), (16, 16, q.head), (32, 16, q.lost)]

/-- A register of a partition window, by its offset there. -/
def partRead (s : State) (p o : Nat) : Word :=
  let q := part s p
  if o = 0x00 then packFields [(0, 4, q.mapS), (16, 16, q.mapVer), (32, 16, q.mapTiled)]
  else if o = 0x08 then BitVec.ofNat 64 q.llcquota
  else if o = 0x10 then q.pgtbase
  else if o = 0x18 then setField q.tlbinv 1 1 (b2n q.tlbBusy)
  else if o = 0x28 then q.fq.base
  else if o = 0x30 then packFields [(0, 32, q.fq.tail), (32, 32, q.fq.head)]
  else if o = 0x38 then BitVec.ofNat 64 q.parklim
  else if o = 0x40 then BitVec.ofNat 64 q.plim
  else if o = 0x48 then q.preempt
  else if o = 0x50 then q.resume
  else if o = 0x58 then q.remove
  else if o = 0x60 then q.ctxbase
  else if o = 0x68 then q.snapreg
  else if o = 0x70 then q.dsreg
  else if o = 0x78 then q.ctxcfg
  else if 0x80 ≤ o && o < 0xC0 then vget q.bpcmp ((o - 0x80) / 8) 0
  else if 0x100 ≤ o && o < 0x200 then byteWord (fun k => vget q.mapList k 0) (o - 0x100)
  else if 0x200 ≤ o && o < 0x400 then vget q.tiled ((o - 0x200) / 8) 0
  else if 0x800 ≤ o && o < 0x1000 then vget q.pools ((o - 0x800) / 8) 0
  else if 0x8000 ≤ o && o < 0x8800 then hqRead (hostQueue s p ((o - 0x8000) / 32)) (o % 32)
  else if o = 0x8800 then q.heq.base
  else if o = 0x8808 then heqIdx q.heq
  else if 0x8900 ≤ o && o < 0x8940 then vget q.mailbox ((o - 0x8900) / 8) 0
  else 0

/-- A pool descriptor's word as stored: TAILX is the Weir's, reserved fields are zero (R298). -/
def poolStore (i : Nat) (old v : Word) : Word :=
  if i = 0 then lowBits 52 v else if i = 1 then setField old 0 4 (field v 0 4) else if i = 2 then lowBits 32 v else 0

/-- A window's register written by system software (R10, R443, R445). -/
def sysPartWrite (p o : Nat) (v : Word) (s : State) : State :=
  let bp : BitVec 4 := BitVec.ofNat 4 p
  let m (f : Partition → Partition) : State := bump (modPart p f s)
  if o = 0x00 || (0x100 ≤ o && o < 0x400) then after s (execMapChange bp o v s)
  else if o = 0x08 then m (fun q => { q with llcquota := field v 0 32 })
  else if o = 0x10 then m (fun q => { q with pgtbase := packFields [(12, 40, field v 12 40)] })
  else if o = 0x18 then tlbInvalidate p v s
  else if o = 0x20 then replay p v s
  else if o = 0x28 then drainFaults p 4096 (m (fun q => { q with fq := { q.fq with base := lowBits 58 v } }))
  else if o = 0x30 then drainFaults p 4096 (m (fun q => { q with fq := { q.fq with head := field v 32 32 } }))
  else if o = 0x38 then m (fun q => { q with parklim := clamp 10 100000 (field v 0 17) })
  else if o = 0x40 then m (fun q => { q with plim := clamp 10 10000 (field v 0 14) })
  else if o = 0x48 then after s (execPreempt bp v s)
  else if o = 0x50 then after s (execResume bp v s)
  else if o = 0x58 then after s (execRemove bp v s)
  else if o = 0x60 then m (fun q => { q with ctxbase := packFields [(12, 45, field v 12 45)] })
  else if o = 0x68 then m (fun q => { q with snapreg := lowBits 57 v })
  else if o = 0x70 then m (fun q => { q with dsreg := lowBits 57 v })
  else if o = 0x78 then m (fun q => { q with ctxcfg := lowBits 28 v })
  else if 0x80 ≤ o && o < 0xC0 then m (fun q => { q with bpcmp := vset q.bpcmp ((o - 0x80) / 8) (lowBits 56 v) })
  else if 0x800 ≤ o && o < 0x1000 then m (fun q => { q with pools := vmod q.pools ((o - 0x800) / 8) (fun w => poolStore ((o / 8) % 4) w v) })
  else if 0x8000 ≤ o && o < 0x8800 then
    let k := (o - 0x8000) / 32
    if o % 32 = 0 then bump (modHq p k (fun h => { h with base := lowBits 59 v }) s)
    else if o % 32 = 8 then after s (execHqidxHalt bp (BitVec.ofNat 6 k) v s)
    else s
  else s

/-- An event queue's registers written by its function (R436). -/
def heqWrite (fn : Nat) (idx : Bool) (v : Word) (s : State) : State :=
  modHeq fn (fun q => if idx then { q with head := field v 16 16 } else { q with base := lowBits 58 v }) s

/-- A window's register written by the partition's own function (R387, R436, R443, R445). -/
def fnPartWrite (p o : Nat) (v : Word) (s : State) : State :=
  if 0x8000 ≤ o && o < 0x8800 && o % 32 = 16 then doorbell p ((o - 0x8000) / 32) v s
  else if o = 0x8800 then heqWrite (p + 1) false v s
  else if o = 0x8808 then heqWrite (p + 1) true v s
  else if 0x8900 ≤ o && o < 0x8940 then mailboxWrite (p + 1) ((o - 0x8900) / 8) v s
  else s

/-! ### Device registers (R303, R444) -/

/-- The key being loaded with 8 bytes of it replaced. -/
def keyPut (k : BitVec 256) (i : Nat) (v : Word) : BitVec 256 :=
  let ws := (List.range 4).map (fun j => if j = i then v.toNat else (k.toNat >>> (64 * j)) % 2 ^ 64)
  BitVec.ofNat 256 (ws.foldr (fun w a => w + 2 ^ 64 * a) 0)

/-- `weirctl` and `weirstat` (R303). -/
def weirCtl (w : Weir) : Word := packFields [(0, 20, w.aint), (20, 20, w.gstall), (40, 1, b2n w.poden), (41, 4, w.podroot)]
/-- `weirstat` (R303). -/
def weirStat (w : Weir) : Word :=
  packFields [(0, 2, match w.st with | .idle => 0 | .summing _ => 1 | .adopting => 2), (2, 1, b2n w.stall), (16, 14, w.queue.length)]

/-- A device register, by its offset (R444). -/
def devRead (s : State) (o : Nat) : Word :=
  if o = 0 then weirCtl s.weir
  else if o = 8 then weirStat s.weir
  else if 0x40 ≤ o && o < 0x80 then BitVec.ofNat 64 (vget s.mgmt.vdmap ((o - 0x40) / 8) 0)
  else if 0x100 ≤ o && o < 0x180 then byteWord (fun k => vget s.mgmt.owner k 0) (o - 0x100)
  else if 0x400 ≤ o && o < 0x4F0 && o % 16 = 0 then (link s ((o - 0x400) / 16)).linkctl
  else if 0x1000 ≤ o && o < 0x1180 then
    let i := (o - 0x1000) / 8
    BitVec.ofNat 64 ((vget s.mgmt.mr (i / 6) 0).toNat >>> (64 * (i % 6)))
  else if 0x1180 ≤ o && o < 0x11B0 then BitVec.ofNat 64 (s.mgmt.mrdigest.toNat >>> (64 * ((o - 0x1180) / 8)))
  else if o = 0x2000 then s.mgmt.heq.base
  else if o = 0x2008 then heqIdx s.mgmt.heq
  else if 0x2100 ≤ o && o < 0x2140 then vget s.mgmt.mailbox ((o - 0x2100) / 8) 0
  else 0

/-- A link's key registers written (R427, R444). -/
def keyWrite (k r : Nat) (v : Word) (s : State) : State :=
  if r < 0x20 then modLink k (fun l => { l with loadTx := keyPut l.loadTx (r / 8) v }) s
  else if r < 0x40 then modLink k (fun l => { l with loadRx := keyPut l.loadRx ((r - 0x20) / 8) v }) s
  else if r = 0x40 then
    let s := if bit v 0 then after s (execKeyloadTransmit k s) else s
    if bit v 1 then after s (execKeyloadReceive k s) else s
  else s

/-- A command to a link (R425, R431, R444). -/
def linkctlWrite (k : Nat) (v : Word) (s : State) : State :=
  let op := field v 0 2
  if op = 1 then after s (execLinkctlRetrain k v s)
  else if op = 2 then after s (execLinkctlRotate k v s)
  else modLink k (fun l => { l with linkctl := accepted v }) s

/-- `weirctl` written (R303). Ticks of another AINT count from now on (R294, R305); of another pod root nothing is known yet (R203). -/
def weirctlPut (w : Weir) (v : Word) (now : Nat) : Weir :=
  let a := clamp 1000 1000000 (field v 0 20)
  let tick (t : Nat) : Nat := if a = w.aint then t else now
  let same := w.podroot == field v 41 4
  { w with aint := a, gstall := clamp 100 1000000 (field v 20 20), poden := bit v 40, podroot := field v 41 4,
           lastAttempt := tick w.lastAttempt, podLast := tick w.podLast,
           seenP := if same then w.seenP else 0, ed := if same then w.ed else none }

/-- A device register written by system software (R303, R444). -/
def devWrite (o : Nat) (v : Word) (s : State) : State :=
  if o = 0 then
    bump (modWeir (fun w => weirctlPut w v s.time) s)
  else if 0x100 ≤ o && o < 0x180 then
    modMgmt (fun m => { m with owner := (List.range 8).foldl (fun t j => vset t (o - 0x100 + j) (field v (8 * j) 8 % 96)) m.owner }) s
  else if 0x400 ≤ o && o < 0x4F0 && o % 16 = 0 then linkctlWrite ((o - 0x400) / 16) v s
  else if 0x800 ≤ o && o < 0x800 + 0x80 * 15 then keyWrite ((o - 0x800) / 0x80) (o % 0x80) v s
  else if 0x1180 ≤ o && o < 0x11B0 then
    let i := (o - 0x1180) / 8
    modMgmt (fun m => { m with mrdigest := BitVec.ofNat 384 (((List.range 6).map (fun j =>
      if j = i then v.toNat else (m.mrdigest.toNat >>> (64 * j)) % 2 ^ 64)).foldr (fun w a => w + 2 ^ 64 * a) 0) }) s
  else if o = 0x11B0 then after s (execMrext v s)
  else if o = 0x1200 then after s (execStepclr v s)
  else if o = 0x2000 then heqWrite 0 false v s
  else if o = 0x2008 then heqWrite 0 true v s
  else if 0x2100 ≤ o && o < 0x2140 then mailboxWrite 0 ((o - 0x2100) / 8) v s
  else s

/-! ### The block (R435, R438, R442) -/

/-- A partition window's number and the offset in it. -/
def windowOf (off : Nat) : Option (Nat × Nat) :=
  if 0x100000 ≤ off && off < 0x200000 then some ((off - 0x100000) / 0x10000, off % 0x10000) else none

/-- Does a master reach an offset at all: a virtual function its partition's host part, others the device registers too (R435, R442)? -/
def reaches (master off : Nat) : Bool :=
  if 17 ≤ master && master ≤ 32 then
    (match windowOf off with | some (p, o) => p + 17 == master && 0x8000 ≤ o | none => false)
  else master == 16 || master == 49

/-- A register read whole by a master; none where the access is refused (R439, R442). -/
def regRead (s : State) (master off : Nat) : Option Word :=
  if off % 8 != 0 || ! reaches master off || ! blockOk s master needLoad off 8 then none
  else match windowOf off with
    | some (p, o) => some (partRead s p o)
    | none => some (if off < 0x10000 then devRead s off else 0)

/-- A register written by a master that reaches it (R387, R442 to R444): `vdmap` by firmware only. -/
def regWrite (master off : Nat) (v : Word) (s : State) : State :=
  match windowOf off with
  | some (p, o) => if 17 ≤ master && master ≤ 32 then fnPartWrite p o v s else sysPartWrite p o v s
  | none =>
    if 0x40 ≤ off && off < 0x80 then
      (if master = 49 then after s (execVdmapWrite (BitVec.ofNat 3 ((off - 0x40) / 8)) v s) else s)
    else if off < 0x10000 then devWrite off v s
    else s

/-- The host function of a master. -/
def functionOf (master : Nat) : Nat := master - 16

/-- A register written by n bytes: one that is refused, misaligned or narrower is an unsupported request of its function (R440, R442). -/
def registerDo (master off n : Nat) (v : Word) (s : State) : State :=
  if n != 8 || off % 8 != 0 || ! reaches master off || ! blockOk s master needStore off 8 then
    { s with hostOut := s.hostOut ++ [.unsupported (functionOf master)] }
  else regWrite master off v s

/-- REGISTER_WRITE (R10, R279, R442): behind what its function wrote before. -/
def execRegisterWrite (master off : Nat) (x : RegVal) (s : State) : Host.Outcome State Fault Refusal :=
  let i : HostAcc := .reg master off x.n x.v
  .next (if (hostFn i).any (hostWaits s) then hostHold i s else registerDo master off x.n x.v s)

end Sys2Proof.Machine
end

