-- ==== Sys2Proof/Machine/HostPort.lean ====
section
/-! DEFINITION. The host port: reads and writes of local memory and reads of registers (R245, R279, R434, R435, R442). -/
namespace Sys2Proof.Machine

/-- The words that n bytes touch. -/
def wordsIn (pa n : Nat) : List Nat := ((List.range (n / 8 + 2)).map (fun i => (pa / 8 + i) * 8)).filter (fun a => a < pa + n)

/-- The slices' counts of an access (R233). -/
def hostAccept (pa n : Nat) (s : State) : State := (linesIn pa n).foldl (fun s l => accept s (l * 128)) s

/-- Bytes of the host performed at home: merged, every word they touch unstamped, its validity bit set (R86, R245). -/
def hostPut (pa : Nat) (bs : List Byte) (s : State) : State :=
  let s := writeBytes (hostAccept pa bs.length s) pa bs
  (wordsIn pa bs.length).foldl (fun s a => setValid (sigNote (writeMark s a 0) a) a true) s

/-- Bytes put into pieces, in order. -/
def putPieces : List (Nat × Nat) → List Byte → State → State
  | [], _, s => s
  | (pa, n) :: t, bs, s => putPieces t (bs.drop n) (hostPut pa (bs.take n) s)

/-- An access that is refused (R435, R440). -/
def unsupported (fn : Nat) (s : State) : State := { s with hostOut := s.hostOut ++ [.unsupported fn] }

/-- Do n bytes lie in the host's memory (R243)? -/
def hostOwn (pa n : Nat) : Bool := 2 ^ 51 ≤ pa && pa + n ≤ 2 ^ 52

/-- A read of the host answered: data without postmarks, of memory or of a register (R245, R435, R442). -/
def hostReadDo (fn : Nat) (sp : HostSpace) (pa n : Nat) (s : State) : State :=
  match sp with
  | .regs => (match (if n = 8 && fn ≤ 16 then regRead s (hostMaster fn) pa else none) with
    | some w => { s with hostOut := s.hostOut ++ [.readDone pa (bytesOf w)] }
    | none => unsupported fn s)
  | _ => match hostTakes s fn (sp == .bar2) pa n needLoad with
    | none => unsupported fn s
    | some l =>
      let s := l.foldl (fun s x => hostAccept x.1 x.2 s) s
      { s with hostOut := s.hostOut ++ [.readDone pa (l.flatMap (fun x => readBytes s x.1 x.2))] }

/-- A write of the host performed, or refused (R245, R435). -/
def hostWriteDo (fn : Nat) (bar2 : Bool) (pa : Nat) (bs : List Byte) (s : State) : State :=
  match hostTakes s fn bar2 pa bs.length needStore with
  | none => unsupported fn s
  | some l => bump (putPieces l bs s)

/-- Must an access of the host wait for an engine's line, or for a change of the map (R248, R277)? -/
def hostStops (s : State) (i : HostAcc) : Bool := (hostLines s i).any (lineHeld s 384)

/-- HOST_WRITE (R245, R279, R435): no copy in a cache is invalidated; writes of one function are performed in order. The host's writes of its own
memory pass no table (log entry 26). -/
def execHostWrite (fn : BitVec 5) (a : HostAddr) (bs : List Byte) (s : State) : Host.Outcome State Fault Refusal :=
  let i : HostAcc := .write fn.toNat a.bar2 a.pa bs
  .next (if ! a.bar2 && hostOwn a.pa bs.length then bump (hostPut a.pa bs s)
    else if hostWaits s fn.toNat || hostStops s i then hostHold i s
    else hostWriteDo fn.toNat a.bar2 a.pa bs s)

/-- HOST_READ (R245, R279, R435, R442): behind what its function wrote before. -/
def execHostRead (fn : BitVec 5) (sp : HostSpace) (pa n : Nat) (s : State) : Host.Outcome State Fault Refusal :=
  let i : HostAcc := .read fn.toNat sp pa n
  .next (if hostWaits s fn.toNat || hostStops s i then hostHold i s else hostReadDo fn.toNat sp pa n s)

/-- A held access that may be performed now: the first of its function, at no engine's line; `before` are those before it. -/
def firstFree (s : State) : List HostAcc → List HostAcc → Option HostAcc
  | _, [] => none
  | before, i :: t => if before.any (fun x => hostFn x == hostFn i) || hostStops s i then firstFree s (before ++ [i]) t else some i

/-- The held access that is performed next (R279). -/
def hostReady (s : State) : Option HostAcc := firstFree s [] s.hostHeld

/-- A held access performed: it is the first of its function. -/
def hostStep (i : HostAcc) (s : State) : State :=
  let s := { s with hostHeld := s.hostHeld.erase i }
  match i with
  | .write fn bar2 pa bs => hostWriteDo fn bar2 pa bs s
  | .read fn sp pa n => hostReadDo fn sp pa n s
  | .reg m off n v => bump (registerDo m off n v s)
  | .door p k v => doorDo p k v s

end Sys2Proof.Machine
end

