-- ==== Sys2Proof/Machine/Control.lean ====
section
/-! DEFINITION. Clause headers and control instructions, MAJ 0x00 to 0x0D (R17 to R20, R105 to R121), with the divergence stack (R110, R111). -/
namespace Sys2Proof.Machine

/-! ### Clause headers (R17 to R19) -/

/-- Does the clause run past the end of the loop body that it stands in (R116)? -/
def pastBody (s : State) (n : Nat) : Except Stop Bool :=
  match (slot s).loop with
  | some l =>
    if l.run then
      match l.pin with
      | .held bs =>
        match clauseEndIn bs l.body n (nextPc (slot s).pc 8) with
        | some e => .ok (l.endPc < e)
        | none => .ok true
      | _ => match scanOver s n (nextPc (slot s).pc 8) with
        | .ok (e, _) => .ok (l.endPc < e)
        | .error e => .error e
    else .ok false
  | none => .ok false

/-- A header's effect: WAIT, SER, the zero-`exec` skip, the clause (R19). -/
def headerAct (h : Header) (s : State) : Except Stop State :=
  if ! (slot s).maskZero h.wait.toNat then .error .hold
  else if h.ser && s.grp.ops.any (fun o => o.slot == s.cur) then .error .hold
  else
    match pastBody s h.nins.toNat with
    | .error e => .error e
    | .ok true => .error .ill
    | .ok false =>
      if (slot s).exec = 0 then
        match scanOver s h.nins.toNat (nextPc (slot s).pc 8) with
        | .error e => .error e
        | .ok (pc, s) => .ok (youngest (modCur (fun x => Slot.loopEnd { Slot.issued x with pc := pc, cl := none }) s))
      else
        .ok (youngest (modCur (fun x => { Slot.issued x with
          pc := nextPc x.pc 8,
          cl := some { hdr := x.pc, nins := h.nins.toNat, idx := 0, setA := h.setA.toNat, setB := h.setB.toNat, yld := h.yld } }) s))

/-- CLAUSE_HEADER (R19). -/
def execClauseHeader (h : Header) (s : State) : Host.Outcome State Fault Refusal := issueE (.clauseHeader h) (headerAct h) s

/-! ### Plain ones (R119 to R121) -/

/-- NOP (R121). -/
def execNop (f : Ctl) (s : State) : Host.Outcome State Fault Refusal := issue (.nop f) noStop (advance (lenOf f.len)) s

/-- BRK (R121). -/
def execBrk (f : Ctl) (s : State) : Host.Outcome State Fault Refusal :=
  issue (.brk f) (fun _ => some (.trap 0x0D (BitVec.allOnes 32) 0 f.imm.toNat)) id s

/-- TRAP (R121). -/
def execTrap (f : Ctl) (s : State) : Host.Outcome State Fault Refusal :=
  issue (.trap f) (fun _ => some (.trap 0x0E (BitVec.allOnes 32) 0 f.imm.toNat)) id s

/-- WAITF (R119). -/
def execWaitf (f : Ctl) (s : State) : Host.Outcome State Fault Refusal :=
  issue (.waitf f) (fun s => if (slot s).maskZero (f.at 0 12) then none else some .hold) (advance (lenOf f.len)) s

/-- YIELD (R120). -/
def execYield (f : Ctl) (s : State) : Host.Outcome State Fault Refusal :=
  issue (.yield f) noStop (fun s => youngest (advance (lenOf f.len) s)) s

/-! ### Branches and calls (R105 to R109) -/

/-- The target of an offset field: OFF21, or OFF32 in the 96-bit form (R105). -/
def targetBy (f : Ctl) (off : Int) (s : State) : Nat :=
  wrapInt 64 (((slot s).pc : Int) + 4 * (if f.len = .l64 then off else f.w1.toInt))

/-- Transfer to a target, which is checked first (R15, R106). -/
def jump (pc : Nat) (s : State) : Except Stop State := if badTarget pc then .error .fetchal else .ok (transfer pc s)

/-- A branch: taken or not (R107). -/
def branchAct (f : Ctl) (taken : State → Bool) (s : State) : Except Stop State :=
  if taken s then jump (targetBy f f.imm.toInt s) s else .ok (advance (lenOf f.len) s)

/-- BRA (R107). -/
def execBra (f : Ctl) (s : State) : Host.Outcome State Fault Refusal := issueE (.bra f) (branchAct f (fun _ => true)) s
/-- BRA.nz (R107). -/
def execBraNz (f : Ctl) (s : State) : Host.Outcome State Fault Refusal :=
  issueE (.braNz f) (branchAct f (fun s => readS s f.a.toNat != 0)) s
/-- BRA.z (R107). -/
def execBraZ (f : Ctl) (s : State) : Host.Outcome State Fault Refusal :=
  issueE (.braZ f) (branchAct f (fun s => readS s f.a.toNat == 0)) s
/-- BRA.ez (R107). -/
def execBraEz (f : Ctl) (s : State) : Host.Outcome State Fault Refusal :=
  issueE (.braEz f) (branchAct f (fun s => (slot s).exec == 0)) s
/-- BRX (R108). -/
def execBrx (f : Ctl) (s : State) : Host.Outcome State Fault Refusal := issueE (.brx f) (fun s => jump (readS s f.a.toNat).toNat s) s
/-- RET (R108). -/
def execRet (f : Ctl) (s : State) : Host.Outcome State Fault Refusal := issueE (.ret f) (fun s => jump (readS s f.a.toNat).toNat s) s

/-- CALL's effect: the continuation to the link register, then the transfer (R109). -/
def callAct (f : Ctl) (s : State) : Except Stop State :=
  match continuation s (lenOf f.len) with
  | .error e => .error e
  | .ok (c, s) => jump (targetBy f f.imm.toInt s) (writeS f.d.toNat (BitVec.ofNat 64 c) s)

/-- CALL (R109). -/
def execCall (f : Ctl) (s : State) : Host.Outcome State Fault Refusal := issueE (.call f) (callAct f) s

/-! ### The divergence stack (R110, R111, R225) -/

/-- An entry of the stack (R111). -/
structure DvEntry where
  pc : Nat
  k : Nat
  own : Bool
  pend : Bool
  mask : BitVec 32
  saved : BitVec 32
deriving DecidableEq, Repr

/-- The field value of a PC: bits [56:2] (R111). -/
def dvPc (pc : Nat) : Nat := (pc / 4) % 2 ^ 55
/-- The self marker: a PC field of all ones (R111). -/
def selfMark : Nat := 2 ^ 55 - 1
/-- The address that a PC field names, sign-extended from bit 56. -/
def pcOfDv (n : Nat) : Nat := (sext64 57 (4 * n)).toNat

/-- The two words of an entry (R111). -/
def DvEntry.words (e : DvEntry) : List Word :=
  [packFields [(0, 55, e.pc), (55, 7, e.k), (62, 1, b2n e.own), (63, 1, b2n e.pend)],
    packFields [(0, 32, e.mask.toNat), (32, 32, e.saved.toNat)]]

/-- An entry from its words (R111). -/
def dvEntryOf (a b : Word) : DvEntry :=
  { pc := field a 0 55, k := field a 55 7, own := bit a 62, pend := bit a 63, mask := BitVec.ofNat 32 (field b 0 32),
    saved := BitVec.ofNat 32 (field b 32 32) }

/-- The address of entry i of the issuing group's stack (R110, R220). -/
def dvVa (s : State) (i : Nat) : Nat := (field (part s s.grp.part).dsreg 12 45 * 4096 + 4096 * s.grp.window + 16 * i) % 2 ^ 57

/-- An access to entry i: translated and checked as the group's own access, with the line filled from a peer (R111, R167). -/
def dvAccess (s : State) (i acc : Nat) (nd : Need) : Except Stop (Nat × Bool) :=
  let va := dvVa s i
  match xlate s (some s.grp.core) s.grp.part va 16 nd with
  | .miss _ => .error (.walk va acc (BitVec.allOnes 32))
  | .refused => .error (.trap 0x05 (BitVec.allOnes 32) va 0)
  | .ok pa sreq =>
    if mustWait s s.grp.core pa then .error .hold
    else if wordHere s s.grp.core pa && wordHere s s.grp.core (pa + 8) then .ok (pa, sreq)
    else .error (.fill [(lineNo s pa, 0)])

/-- Read entry i (R111): a mismatch is POSTMARK at issue. -/
def dvRead (i : Nat) (s : State) : Except Stop (DvEntry × State) :=
  match dvAccess s i 0 needLoad with
  | .error e => .error e
  | .ok (pa, sreq) =>
    let r0 := cacheRead s.grp.core pa 0 s
    let r1 := cacheRead s.grp.core (pa + 8) 0 r0.2
    if mismatch sreq r0.1 then .error (.trap 0x06 (BitVec.allOnes 32) (dvVa s i) 0)
    else if mismatch sreq r1.1 then .error (.trap 0x06 (BitVec.allOnes 32) (dvVa s i + 8) 0)
    else .ok (dvEntryOf r0.1.data r1.1.data, r1.2)

/-- Write entry i, stamped (R111). -/
def dvWrite (i : Nat) (e : DvEntry) (s : State) : Except Stop State :=
  match dvAccess s i 1 needStore with
  | .error e => .error e
  | .ok (pa, _) =>
    match e.words with
    | [a, b] => .ok (cacheWrite s.grp.core (pa + 8) s.grp.part 0 (stamped b) (cacheWrite s.grp.core pa s.grp.part 0 (stamped a) s))
    | _ => .ok s

/-- Who owns an entry: the slot that pushed it, or the live slot where that one is not live (R111). -/
def dvOwner (s : State) (e : DvEntry) : Bool := if (s.grp.slot e.own).live then e.own else s.cur

/-- The issuing slot ceases to be live: the other is released where it is parked at a JOIN (R113). -/
def wakeJoin (s : State) : State := modOther (fun y => match y.st with | .parkJoin _ _ => { y with st := .ready } | _ => y) s

/-- The stack's depth changed. -/
def setDepth (n : Nat) (s : State) : State := wakeStack (modGrp (fun g => { g with dvDepth := n }) s)

/-- The issuing slot's mask and tag changed. -/
def setExec (m : BitVec 32) (s : State) : State := modCur (fun x => { x with exec := m }) s

/-! ### SPLIT, JOIN and EXIT (R112 to R114) -/

/-- SPLIT's effect (R112). -/
def splitAct (f : Ctl) (s : State) : Except Stop State :=
  let k := f.at 0 7
  let m := (slot s).exec
  let sel := (readS s f.a.toNat).setWidth 32
  let t := m &&& sel
  let n := m &&& ~~~ sel
  let target := targetBy f (toSigned 14 (f.at 7 14)) s
  if ! (slot s).flagsZero then .error .hold
  else if t = 0 then .ok (advance (lenOf f.len) s)
  else if n = 0 then jump target s
  else
    match continuation s (lenOf f.len) with
    | .error e => .error e
    | .ok (c, s) =>
      if badTarget target then .error .fetchal
      else if ! (other s).live then
        if ! (other s).flagsZero then .error .hold
        else
          let s := modOther (fun y => { Slot.vacant with st := .ready, pc := c, exec := n, flags := y.flags, tag := k }) s
          let s := transfer target (modCur (fun x => { x with exec := t, tag := k }) s)
          .ok (youngestOf s.grp.core s.grp.gid (! s.cur) s)
      else if s.grp.dvDepth = s.grp.dvCap then .error (.trap 0x03 (BitVec.allOnes 32) 0 0)
      else
        match dvWrite s.grp.dvDepth { pc := dvPc c, k := k, own := s.cur, pend := true, mask := n, saved := 0 } s with
        | .error e => .error e
        | .ok s => .ok (transfer target (setExec t (setDepth (s.grp.dvDepth + 1) s)))

/-- SPLIT (R112). -/
def execSplit (f : Ctl) (s : State) : Host.Outcome State Fault Refusal := issueE (.split f) (splitAct f) s

/-- JOIN's cases 2 to 5, where case 1 does not apply (R113). -/
def joinStack (f : Ctl) (s : State) : Except Stop State :=
  let k := f.at 0 7
  let m := (slot s).exec
  let go := fun s => advance (lenOf f.len) s
  let d := s.grp.dvDepth
  if d = 0 then .ok (go s)
  else
    match dvRead (d - 1) s with
    | .error e => .error e
    | .ok (e, s) =>
      if dvOwner s e = s.cur then
        if e.k ≠ k then .ok (go s)
        else if e.pend then
          match continuation s (lenOf f.len) with
          | .error e => .error e
          | .ok (c, s) =>
            if badTarget (pcOfDv e.pc) then .error .fetchal else
            match dvWrite (d - 1) { e with saved := m, pend := false, pc := dvPc c } s with
            | .error e => .error e
            | .ok s => .ok (transfer (pcOfDv e.pc) (setExec e.mask (wakeStack s)))
        else
          let s := setExec (m ||| e.saved) (setDepth (d - 1) s)
          if e.pc = selfMark then .ok (go s) else jump (pcOfDv e.pc) s
      else .error (.parkJoin k true)

/-- JOIN's effect (R113). -/
def joinAct (f : Ctl) (s : State) : Except Stop State :=
  let k := f.at 0 7
  if ! (slot s).flagsZero then .error .hold
  else if (other s).live && (other s).tag = k then
    if (other s).atJoin k then
      let m := (slot s).exec ||| (other s).exec
      let s := modOther (fun y => { Slot.vacant with flags := y.flags }) s
      .ok (advance (lenOf f.len) (modCur (fun x => { x with exec := m, tag := 127 }) s))
    else .error (.parkJoin k false)
  else joinStack f s

/-- JOIN (R113). -/
def execJoin (f : Ctl) (s : State) : Host.Outcome State Fault Refusal := issueE (.join f) (joinAct f) s

/-- The issuing slot ceases to be live (R114 case 3); a group without a live slot ends its handler or drains (R228, R311). -/
def endSlot (s : State) : State :=
  let s := wakeJoin (modCur (fun x => { Slot.vacant with flags := x.flags }) s)
  if ! s.grp.noLive then s
  else if s.grp.inHandler then (if s.grp.drained then handlerEnd s.grp.gid s else s)
  else drainGroup s.grp.gid s

/-- EXIT's cases, from the top entry down (R114); the number bounds the entries. -/
def exitScan : Nat → State → Except Stop State
  | 0, s => .ok (endSlot s)
  | n + 1, s =>
    let d := s.grp.dvDepth
    if d = 0 then .ok (endSlot s)
    else
      match dvRead (d - 1) s with
      | .error e => .error e
      | .ok (e, s) =>
        if dvOwner s e ≠ s.cur then .ok (endSlot s)
        else if e.pend then
          if badTarget (pcOfDv e.pc) then .error .fetchal else
          match dvWrite (d - 1) { e with pend := false, saved := 0, pc := selfMark } s with
          | .error e => .error e
          | .ok s => .ok (transfer (pcOfDv e.pc) (setExec e.mask (wakeStack s)))
        else if e.saved = 0 then exitScan n (setDepth (d - 1) s)
        else jump (pcOfDv e.pc) (setExec e.saved (setDepth (d - 1) s))

/-- EXIT (R114). -/
def execExit (f : Ctl) (s : State) : Host.Outcome State Fault Refusal := issueE (.exit f) (fun s => exitScan 256 s) s

/-! ### Loops and repeats (R116 to R118) -/

/-- LOOP's effect: the body is taken up at the end of the clause (R116). A second LOOP issued in a clause before the first one's body has begun
replaces it: R116 does not speak of two. So does a LOOP in the body of a running loop that ICINV has unpinned, where R117's ILL does not apply (DESIGN
CHOICE, log entry 67). -/
def loopEff (f : Ctl) (s : State) : State :=
  let n := if f.len = .l64 then (readS s f.a.toNat).toNat else f.w1.toNat
  let l : Loop := { body := 0, len := 4 * f.imm.toNat, count := n, iter := 0, run := false, pin := .want }
  advance (lenOf f.len) (modCur (fun x => { x with loop := some l }) s)

/-- LOOP (R116). -/
def execLoop (f : Ctl) (s : State) : Host.Outcome State Fault Refusal := issue (.loop f) noStop (loopEff f) s

/-- Is a word a header, a control instruction or REP: MAJ 0x00 to 0x0D (R118)? -/
def isControl (w : Words) : Bool := w.w0.extractLsb' 0 2 == 3 || field w.w0 2 8 ≤ 0x0D

/-- REP's effect (R118). -/
def repAct (f : Ctl) (s : State) : Except Stop State :=
  let r : Rep := { n := f.at 0 6 + 1, i := 0, sdd := f.at 6 3, sda := f.at 9 3, sdb := f.at 12 3, sdc := f.at 15 3 }
  if (slot s).atLast then .error .ill
  else
    match fetchWords s (nextPc (slot s).pc (lenOf f.len)) with
    | .error e =>
      -- a word that crosses its block traps at its own address
      if e = .fetchal then .ok (modCur (fun x => { x with rep := some r }) (advance (lenOf f.len) s)) else .error e
    | .ok (w, _, s) =>
      if isControl w || (match parse w with | some i => strideOver r.n r.sdd r.sda r.sdb r.sdc i w | none => false) then .error .ill
      else .ok (modCur (fun x => { x with rep := some r }) (advance (lenOf f.len) s))

/-- REP (R118). -/
def execRep (f : Ctl) (s : State) : Host.Outcome State Fault Refusal := issueE (.rep f) (repAct f) s

end Sys2Proof.Machine
end

