-- ==== Sys2Proof/Machine/Schedule.lean ====
section
/-! DEFINITION. What a step does: which slot issues (R402, R403), the front end of an issue (R13 to R18, R22, R50, R51, R118, R327, R328),
and the fetch of a test's word. -/
namespace Sys2Proof.Machine

/-! ### The front end -/

/-- What the front end hands on: an instruction to run, or a state in which the slot did not issue. -/
inductive Front where
  | run (i : Instr) (s : State)
  | stopped (s : State)
deriving DecidableEq, Repr

/-- The address of instruction `idx` of a clause, from its header (R22). -/
def addrOf (s : State) (hdr idx : Nat) : Except Stop (Nat × State) := scanOver s idx (nextPc hdr 8)

/-- The repeat of a restored slot: its REP word is read again (R118). -/
def replaceRep (c : Clause) (s : State) : Except Stop State :=
  match (slot s).rep with
  | none => .ok s
  | some r =>
    match addrOf s c.hdr (c.idx - 1) with
    | .error e => .error e
    | .ok (q, s) =>
      match fetchWords s q with
      | .error e => .error e
      | .ok (v, _, s) =>
        match parse v with
        | some (.rep f) =>
          .ok (modCur (fun x => { x with rep := some { n := f.at 0 6 + 1, i := r.i, sdd := f.at 6 3, sda := f.at 9 3, sdb := f.at 12 3, sdc := f.at 15 3 } }) s)
        | _ => .ok (modCur (fun x => { x with rep := none }) s)

/-- A slot restored from an image finds its place: the clause's header is read again, but not evaluated again (R22, R311). Its address is a
target, and the word there must be a header that may issue (R15, R16, R50). -/
def replace (s : State) : Except Stop State :=
  match (slot s).reenter, (slot s).cl with
  | true, some c =>
    if badTarget c.hdr then .error .fetchal else
    match fetchWords s c.hdr with
    | .error e => .error e
    | .ok (w, _, s) =>
      match decodeWords w with
      | .ok (.clauseHeader h) =>
        let c' : Clause := { hdr := c.hdr, nins := h.nins.toNat, idx := c.idx, setA := h.setA.toNat, setB := h.setB.toNat, yld := h.yld }
        match addrOf s c.hdr (min c.idx h.nins.toNat) with
        | .error e => .error e
        | .ok (pc, s) =>
          replaceRep c (modCur (fun x => { x with pc := pc, reenter := false, cl := if c.idx < h.nins.toNat then some c' else none }) s)
      | _ => .error .ill
  | _, _ => .ok s

/-- Would an instruction transfer control to no target: a branch that is taken, a call, a return, a SPLIT that jumps, a JOIN or EXIT that goes on
from the stack (R15, R106)? -/
def badTransfer (x : Instr) (s : State) : Bool :=
  let bad (r : Except Stop State) : Bool := match r with | .error e => e == .fetchal | .ok _ => false
  match x with
  | .bra f => bad (branchAct f (fun _ => true) s)
  | .braNz f => bad (branchAct f (fun s => readS s f.a.toNat != 0) s)
  | .braZ f => bad (branchAct f (fun s => readS s f.a.toNat == 0) s)
  | .braEz f => bad (branchAct f (fun s => (slot s).exec == 0) s)
  | .brx f => bad (jump (readS s f.a.toNat).toNat s)
  | .ret f => bad (jump (readS s f.a.toNat).toNat s)
  | .call f => bad (callAct f s)
  | .split f => bad (splitAct f s)
  | .join f => bad (joinAct f s)
  | .exit _ => bad (exitScan 256 s)
  | _ => false

/-- The comparator that an address hits (R327, R328). -/
def comparator (s : State) (pc : Nat) : Option Nat :=
  (List.range 8).find? (fun k => let w := vget (part s s.grp.part).bpcmp k 0; bit w 55 && field w 0 55 == va57 pc / 4)

/-- The instruction that the issuing slot stands at, or why there is none: FETCHAL of its own address or of its target, a comparator, ILL, or a
wait (R50, R51). -/
def frontWord (s : State) : Except Stop (Instr × State) :=
  if (slot s).cl.isNone && badTarget (slot s).pc then .error .fetchal else
  match pinBody s with
  | .error e => .error e
  | .ok s =>
    match fetchWords s (slot s).pc with
    | .error e => .error e
    | .ok (w, _, s) =>
      if (match parse w with | some i => badTransfer i s | none => false) then .error .fetchal else
      match (if (slot s).skipBp then none else comparator s (slot s).pc) with
      | some k => .error (.trap 0x0D (BitVec.allOnes 32) 0 k)
      | none =>
        if (slot s).cl.isNone && w.w0.extractLsb' 0 2 != 3 then .error .ill
        else
          let w := match (slot s).rep, parse w with | some r, some i => strideWords r i w | _, _ => w
          match decodeWords w with
          | .ok i => .ok (i, s)
          | .error _ => .error .ill

/-- The front end of an issue by the slot in focus. A slot that re-enters a clause stands at the word of its index before that word is looked at, so
that a stop there is precise at the word's own address (R14, R22, R50). -/
def frontEnd (s : State) : Front :=
  match replace s with
  | .error e => .stopped (applyStop e s)
  | .ok s =>
    match frontWord s with
    | .ok (i, s) => .run i s
    | .error e => .stopped (applyStop e s)

/-! ### Which slot issues (R402, R403) -/

/-- May a group's slots issue at all? -/
def Group.mayIssue (g : Group) : Bool :=
  g.life == .resident && g.trap.isNone && ! g.stopped && ! g.noHandler && g.heldTraps.isEmpty && ! (g.aborting && ! g.drained)

/-- Has a group a completed operation with a trap: it is reported before an issue trap (R308)? -/
def Group.trapDue (g : Group) : Bool := g.ops.any (fun o => o.kind == .done && o.trap.isSome)

/-- May a slot be picked: ready, or held with something changed since? -/
def mayPick (s : State) (g : Group) (b : Bool) : Bool :=
  g.mayIssue && ! g.trapDue && (match (g.slot b).st with | .ready => true | .held => (g.slot b).seen != s.change | _ => false)

/-- The slots that may be picked, with their cores. -/
def pickable (s : State) : List (Nat × Bool × Nat) :=
  (allGroups s).flatMap (fun g => [false, true].filterMap (fun b => if mayPick s g b then some (g.gid, b, g.core) else none))

/-- A slot's place in its core's age order; one that is not listed counts as youngest. -/
def ageOf (s : State) (x : Nat × Bool × Nat) : Nat := (core s x.2.2).age.findIdx (fun y => y == (x.1, x.2.1))

/-- Is a slot urgent? -/
def isUrgent (s : State) (x : Nat × Bool × Nat) : Bool := match groupOf s x.1 with | some g => (g.slot x.2.1).urgent | none => false

/-- The oldest of some slots. -/
def oldest (s : State) : List (Nat × Bool × Nat) → Option (Nat × Bool × Nat)
  | [] => none
  | x :: t => match oldest s t with
    | none => some x
    | some y => if ageOf s y < ageOf s x then some y else some x

/-- The first of a core's slots: urgent slots come first, each set in age order (R403). -/
def firstSlot (s : State) (l : List (Nat × Bool × Nat)) : Option (Nat × Bool × Nat) :=
  let urgent := l.filter (isUrgent s)
  oldest s (if urgent.isEmpty then l else urgent)

/-- How far a core lies behind the one whose slots were picked last, going round: that one itself comes last. -/
def turnsTo (s : State) (c : Nat) : Nat := (c + 383 - s.lastCore % 384) % 384

/-- The core whose turn it is among some: the next one after the core picked last, going round. -/
def nextCore (s : State) : List Nat → Option Nat
  | [] => none
  | c :: t => match nextCore s t with
    | none => some c
    | some d => if turnsTo s d < turnsTo s c then some d else some c

/-- The slot that issues next: cores take turns, so that none waits for ever (R213); in a core urgent slots come first, then the oldest (R402, R403;
log entry 16). -/
def pick (s : State) : Option (Nat × Bool) :=
  let l := pickable s
  match nextCore s (l.map (fun x => x.2.2)) with
  | none => none
  | some c => (firstSlot s (l.filter (fun x => x.2.2 == c))).map (fun x => (x.1, x.2.1))

/-- A slot picked: in focus; a group that restarts at its region's start issues its recorded waits again, as waits from before its region, whose
number is a new one (R321). -/
def picked (x : Nat × Bool) (s : State) : State :=
  let s := focus x.1 x.2 { s with turn := true }
  let s := { s with lastCore := s.grp.core }
  if s.grp.aborting then
    modGrp (fun g => { g with region := g.region + 1 }) (reissueWaits s.grp.gid (modGrp (fun g => { g with aborting := false }) s))
  else s

/-! ### A second slot in the cycle (R403) -/

/-- The issue ports of a core (R403). -/
inductive Port where
  | memory
  | matrix
  | special
  | rational
  | alu
  | none
deriving DecidableEq, Repr

/-- The port that an instruction of a group takes (R130, R226, R403). -/
def portOf (g : Group) (x : Instr) : Port :=
  match x.info with
  | .header _ => .none
  | .event => .none
  | .mem _ _ => .memory
  | .ctl i _ =>
    if i.maj ≤ 0x0D || i.maj = 0x1D || i.maj = 0x1E then .none
    else if 0x80 ≤ i.maj && i.maj ≤ 0xAC || i.maj = 0xB6 || 0xC0 ≤ i.maj then .memory
    else if 0xB0 ≤ i.maj then .matrix
    else .alu
  | .comp i f =>
    if ratScalar g i f || i.rat then .rational
    else match x with
      | .sdiv _ => .special
      | .srem _ => .special
      | .sfdiv _ => .special
      | .vfdiv _ => .special
      | _ => if i.maj = 0x2B then .special else .alu

/-- May an instruction with a port issue beside one with another: a port takes one instruction a cycle, the ALU port two (R403)? -/
def portFree (a b : Port) : Bool := a == .none || b == .none || a == .alu || a != b

/-- The bank pairs from which an instruction reads vector registers; popped queues read none (R403). -/
def bankPairs (g : Group) (x : Instr) : List Nat :=
  ((vecSrcs x).filter (fun r => ! (60 ≤ r && qBound g (r - 60)))).map (fun r => (r + g.gslot) % 8 / 2)

/-- Do an instruction's port and banks leave room for another's (R403)? -/
def pairOk (g : Group) (x : Instr) (h : Group) (y : Instr) : Bool :=
  portFree (portOf g x) (portOf h y) && (bankPairs h y).all (fun p => ! (bankPairs g x).contains p)

/-! ### A test's word (log entry 17) -/

/-- The code address at which a test's word stands. -/
def testPc : Nat := 0x10000

/-- The page that a test's word stands in, mapped to itself. -/
def testTlb : Tlb := { base := testPc, size := 4096, pa := testPc, r := true, w := true, x := true, sreq := false }

/-- All rights of partition 0 over local memory, at a target. -/
def testRight (t : Nat) : Nat × Nat × Nat × AccEnt :=
  (t, 0, 0, { base := 0, len := 2 ^ 40, rd := true, wr := true, atomic := true, ex := true, rsv := false })

/-- The clause that a test's word stands in: none for a header; a clause of one for SPLIT and JOIN; else the first of 63. -/
def testClause (w : Nat) : Option Clause :=
  let maj := w / 4 % 256
  if w % 4 = 3 then none
  else some { hdr := testPc - 8, nins := if maj = 8 || maj = 9 then 1 else 63, idx := 0, setA := 0, setB := 1, yld := false }

/-- A group that stands at a test's word: made from the group in focus. -/
def testGroup (g : Group) (w : Nat) : Group :=
  { g with
    gid := 1, life := .resident, part := 0, trap := none, stopped := false, noHandler := false, heldTraps := [], aborting := false,
    slot0 := { g.slot0 with st := .ready, pc := testPc, exec := BitVec.allOnes 32, cl := testClause w, loop := none, rep := none,
                            reenter := false, skipBp := false } }

/-- A state whose next step fetches and runs the word given: a loaded program stands at the PC of a live group (log entry 17). -/
def placeWord (s : State) (nbits w : Nat) : State :=
  let s := { s with agenda := [], turn := false, cur := false, nextId := s.nextId + 1, groups := [], grp := testGroup s.grp (w % 2 ^ nbits) }
  let s := modPart 0 (fun q => { q with owned := (0, 2 ^ 40) :: q.owned, bpcmp := Vector.replicate 8 0 }) s
  let s := modMgmt (fun m => { m with tables := testRight 0 :: (List.range 16).map (fun k => testRight (3 + 8 * k)) ++ m.tables, starts := m.starts + 1, started := true }) s
  let s := modCore s.grp.core (fun k => { k with icache := [], tlb1 := (0, testTlb) :: k.tlb1 }) s
  writeBytes s testPc (leBytes 16 (w % 2 ^ nbits))

end Sys2Proof.Machine
end

