-- ==== Sys2Proof/Machine/Start.lean ====
section
/-! DEFINITION. Device reset and measured start (R446, R448 to R451): the start steps with their records, the configuration record, and the
built-in default. -/
namespace Sys2Proof.Machine

/-! ### The records of start steps (R450, R451) -/

/-- The record of a step for a unit. -/
def recordFor (s : State) (stp unit' : Nat) : StepRec :=
  match s.mgmt.steps.find? (fun r => r.1 == stp && r.2.1 == unit') with | some r => r.2.2 | none => .none

/-- A record written. -/
def putStep (stp unit' : Nat) (r : StepRec) (s : State) : State :=
  modMgmt (fun m => { m with steps := m.steps.filter (fun x => ! (x.1 == stp && x.2.1 == unit')) ++ [(stp, unit', r)] }) s

/-- How a step is handled, by its last record (R451). -/
inductive StepRun where
  | normal
  | skip
  | alternate
  | stop
deriving DecidableEq, Repr

/-- How a step is handled: `opt` is an optional step, `alt` one with an alternate (R450, R451). -/
def stepRun (r : StepRec) (opt alt : Bool) : StepRun :=
  match r with
  | .none => .normal
  | .succeeded => .normal
  | .skipped => .skip
  | .attempted => if opt then .skip else if alt then .alternate else .stop
  | .failed => if opt then .skip else if alt then .alternate else .stop
  | .altSucceeded => .alternate
  | .altFailed => .stop

/-- The number of an outcome in its measurement (log entry 24). -/
def StepRec.code : StepRec → Nat
  | .none => 0
  | .attempted => 1
  | .succeeded => 2
  | .failed => 3
  | .skipped => 4
  | .altSucceeded => 5
  | .altFailed => 6

/-- An outcome recorded and measured into MR4 (R446, R451). -/
def stepDone (stp unit' : Nat) (r : StepRec) (s : State) : State :=
  extend stp 4 (Config.sha384 (leB 8 stp ++ leB 8 unit' ++ leB 8 r.code)) (putStep stp unit' r s)

/-- A step that runs: "attempted", its work, then what it comes to, unless the start is lost in it (R450, R451; log entry 9). -/
def attempt (stp unit' : Nat) (r : StepRec) (go : Bool) (work : StepRec → State → State) (s : State) : Bool × State :=
  let s := putStep stp unit' .attempted s
  if Config.startLost s.mgmt.starts stp unit' then (false, s) else (go, stepDone stp unit' r (work r s))

/-- A step of a unit, and whether start goes on (R450, R451). `ok` says whether the normal run, or the alternate, succeeds, which is no rule of the
spec for a test (log entry 9); `goes` whether start goes on where the normal run fails; `work` is what the step does, by its outcome. -/
def runStep (stp unit' : Nat) (opt alt goes : Bool) (ok : Bool → Bool) (work : StepRec → State → State) (s : State) : Bool × State :=
  match stepRun (recordFor s stp unit') opt alt with
  | .stop => (false, s)
  | .skip => (true, stepDone stp unit' .skipped s)
  | .normal => if ok false then attempt stp unit' .succeeded true work s else attempt stp unit' .failed goes work s
  | .alternate => if ok true then attempt stp unit' .altSucceeded true work s else attempt stp unit' .altFailed false work s

/-- No work that the model shows. -/
def noWork (_ : StepRec) (s : State) : State := s

/-- A step of several units, in order, while start goes on. -/
def runUnits (stp : Nat) (opt alt : Bool) (ok : Nat → Bool → Bool) (work : Nat → StepRec → State → State) : List Nat → State → Bool × State
  | [], s => (true, s)
  | u :: t, s => match runStep stp u opt alt opt (ok u) (fun r s => work u r s) s with
    | (true, s) => runUnits stp opt alt ok work t s
    | (false, s) => (false, s)

/-! ### The configuration record (R448, R449) -/

/-- All local memory. -/
def allLocal : Nat × Nat := (0, 2 ^ 40)
/-- All host memory. -/
def allHost : Nat × Nat := (2 ^ 51, 2 ^ 51)

/-- An access-table entry over a range. -/
def entryOver (r : Nat × Nat) (rd wr atm ex : Bool) : AccEnt := { base := r.1, len := r.2, rd := rd, wr := wr, atomic := atm, ex := ex, rsv := false }

/-- The targets of local memory: the slice sets, and every memory controller. -/
def memTargets : List Nat := 0 :: (List.range 16).map (fun k => 3 + 8 * k)

/-- The targets of an access to memory in the built-in default: slice sets, memory controllers, Flume engines, the host port (R449). -/
def defaultTargets : List Nat := memTargets ++ [2] ++ (List.range 384).map (fun c => 5 + 8 * c)

/-- The built-in default configuration (R449; targets: log entry 11). -/
def defaultConfig : CfgRecord :=
  { bytes := Config.defaultRecord, version := 0, podSize := 0, device := 0,
    parts := [{ p := 0, ranges := [allLocal], quota := 0, mapS := 8, mapList := List.range 256, mapTiled := 0, tiled := [] }],
    tables := defaultTargets.flatMap (fun t => [(t, 0, 0, entryOver allLocal true true true true), (t, 0, 1, entryOver allHost true true true true)])
      ++ memTargets.flatMap (fun t => [(t, 16, 0, entryOver allLocal true true false false), (t, 17, 0, entryOver allLocal true true false false)])
      ++ [(1, 0, 0, entryOver (0x100000, 0x10000) true false false false), (1, 16, 0, entryOver (0, 0x200000) true true false false),
        (1, 17, 0, entryOver (0x108000, 0x8000) true true false false)],
    parklim := 1000, plim := 200, keys := [] }

/-- Are a partition's fields in their ranges (R244, R246, R247, R252)? Its slice list names 2^S distinct slices; a tiled entry that is marked is one that
R247 takes as in use. -/
def cfgPartOk (c : CfgPart) : Bool :=
  c.p < 16 && c.mapS ≤ 8 && c.quota < 2 ^ 32 && c.mapTiled < 2 ^ 16 && c.tiled.length ≤ 64 && c.ranges.all (fun r => r.2 != 0 && r.1 + r.2 ≤ 2 ^ 40)
    && c.mapList.all (fun x => x < 256) && 2 ^ c.mapS ≤ c.mapList.length && (c.mapList.take (2 ^ c.mapS)).eraseDups.length == 2 ^ c.mapS
    && (List.range 16).all (fun e => ! c.mapTiled.testBit e || tiledOk c.mapTiled (fun k => c.tiled.getD k 0) e)

/-- Does no range meet a later one? -/
def disjoint : List (Nat × Nat) → Bool
  | [] => true
  | r :: t => t.all (fun x => r.1 + r.2 ≤ x.1 || x.1 + x.2 ≤ r.1) && disjoint t

/-- Are an initial access-table entry's target, master, slot and fields in their ranges (R438, R439)? -/
def cfgEntryOk (t : Nat × Nat × Nat × AccEnt) : Bool :=
  let e := t.2.2.2
  allTargets.contains t.1 && t.2.1 < 50 && t.2.2.1 < 16 && e.base < 2 ^ 52 && e.base % 4096 == 0 && e.len < 2 ^ 52 && e.len % 4096 == 0 && ! e.rsv

/-- Does start accept a record: its signatures hold, its version is not old, its fields lie in their ranges; each partition is given once, each part of
local memory to one partition, each slot of a table once (R244, R439, R448)? -/
def cfgAccepted (last : Nat) (c : CfgRecord) : Bool :=
  Config.recordVerifies c.bytes && last ≤ c.version && c.version < 2 ^ 32 && 8 ≤ c.podSize && c.podSize ≤ 16 && c.device < c.podSize
    && c.parts.all cfgPartOk && (c.parts.map CfgPart.p).eraseDups.length == c.parts.length && disjoint (c.parts.flatMap CfgPart.ranges)
    && c.tables.all cfgEntryOk && (c.tables.map (fun t => (t.1, t.2.1, t.2.2.1))).eraseDups.length == c.tables.length && 10 ≤ c.parklim && c.parklim ≤ 100000 && 10 ≤ c.plim && c.plim ≤ 10000

/-- A partition's part of a record applied. -/
def applyPart (c : CfgRecord) (x : CfgPart) (s : State) : State :=
  modPart x.p (fun q => { q with
    owned := x.ranges, llcquota := x.quota, mapS := x.mapS, mapTiled := x.mapTiled,
    mapList := ⟨((List.range 256).map (fun k => x.mapList.getD k 0)).toArray, by simp⟩,
    tiled := ⟨((List.range 64).map (fun k => x.tiled.getD k 0)).toArray, by simp⟩, parklim := c.parklim, plim := c.plim }) s

/-- A record applied and measured: whole into MR2, its operator keys into MR3 (R446, R448). -/
def applyConfig (c : CfgRecord) (s : State) : State :=
  let s := modMgmt (fun m => { m with podSize := c.podSize, device := c.device, keys := c.keys }) s
  let s := c.parts.foldl (fun s x => applyPart c x s) s
  let s := extend 2 2 (Config.sha384 c.bytes) s
  c.keys.foldl (fun s k => extend 2 3 (Config.sha384 k) s) s

/-- The record in the persistent store that start accepts, if any. -/
def cfgGood (s : State) : Option CfgRecord := s.mgmt.cfg.filter (cfgAccepted s.mgmt.cfgVersion)

/-- Step 2: the record verified and applied; a refused one is recorded as failed, and the default runs, at once and in later starts (R448,
R451). -/
def configStep (s : State) : Bool × CfgRecord × State :=
  let use : StepRec → CfgRecord := fun r => if r == .succeeded then (cfgGood s).getD defaultConfig else defaultConfig
  let r := runStep 2 0 false true true (fun alt => alt || (cfgGood s).isSome)
    (fun r t => applyConfig (use r) (if r == .succeeded then modMgmt (fun m => { m with cfgVersion := (use r).version }) t else t)) s
  (r.1, use (recordFor r.2 2 0), r.2)

/-! ### The steps (R450) -/

/-- Step 1: the start firmware, or its backup image, measured into MR0 (R446). -/
def firmwareStep (s : State) : Bool × State :=
  runStep 1 0 false true false (fun alt => Config.startOutcome s.mgmt.starts 1 0 alt) (fun r t =>
    match r with
    | .succeeded => extend 1 0 (Config.sha384 t.mgmt.firmware) t
    | .altSucceeded => extend 1 0 (Config.sha384 t.mgmt.backup) t
    | _ => t) s

/-- The dies in use after step 4: those not mapped out. -/
def diesKept (s : State) : List Nat := (List.range 8).filter (fun d => recordFor s 4 d == .succeeded)

/-- Virtual dies over the dies in use, from 0 upward (R450). -/
def mapDies (s : State) : State :=
  let l := diesKept s
  modMgmt (fun m => { m with vdmap := ⟨((List.range 8).map (fun v => match l[v]? with | some d => d + 8 | none => 0)).toArray, by simp⟩ }) s

/-- Step 5: the links to peers of the pod are trained, or left dark (R409, R450). -/
def linkSteps (s : State) : Bool × State :=
  runUnits 5 true false (fun k _ => Config.startOutcome s.mgmt.starts 5 k false) (fun k r t => if r == .succeeded then trainLink k t else t)
    ((List.range 15).filter (fun k => peerOf s k < s.mgmt.podSize)) s

/-- The two slots of each sorting group join the age order of its core (R258, R402). -/
def sortingLive (s : State) : State :=
  ((List.range 384).filter sortingCore).foldl (fun s c => modCore c (fun k => { k with age := [(0, false), (0, true)] ++ k.age }) s) s

/-- Step 6: the sorting groups start, the tables are loaded; MR1 receives the management firmware and each image (R446). -/
def groupsStep (c : CfgRecord) (s : State) : Bool × State :=
  runStep 6 0 false false false (fun _ => Config.startOutcome s.mgmt.starts 6 0 false) (fun r t =>
    if r == .succeeded then
      let t := (t.mgmt.mgmtFirmware :: t.mgmt.sortFirmware).foldl (fun t f => extend 6 1 (Config.sha384 f) t) t
      sortingLive (modMgmt (fun m => { m with tables := resetTables ++ c.tables }) t)
    else t) s

/-- The device at reset, with what the persistent store keeps: firmware, configuration, records of steps (R448, R450). -/
def coldState (s : State) : State :=
  let m := s.mgmt
  { State.reset with
    tick := s.tick, free := s.free, agenda := s.agenda, hostOut := s.hostOut,
    mgmt := { Mgmt.empty with
      steps := m.steps, cfgVersion := m.cfgVersion, cfg := m.cfg, firmware := m.firmware, backup := m.backup, mgmtFirmware := m.mgmtFirmware,
      sortFirmware := m.sortFirmware, starts := m.starts + 1 } }

/-- The next part of start, if the part before it lets start go on. -/
def andThen (r : Bool × State) (f : State → Bool × State) : Bool × State := if r.1 then f r.2 else r

/-- The steps after the configuration: stacks, dies, of which the alternate maps one out and needs no test, links, sorting groups, the host port. -/
def startUnits (c : CfgRecord) (s : State) : Bool × State :=
  let n := s.mgmt.starts
  let r := runUnits 3 false true (fun u alt => Config.startOutcome n 3 u alt) (fun _ => noWork) (List.range 16) s
  let r := andThen r (runUnits 4 false true (fun u alt => alt || Config.startOutcome n 4 u alt) (fun _ => noWork) (List.range 8))
  let r := andThen r (fun s => linkSteps (mapDies s))
  let r := andThen r (groupsStep c)
  andThen r (runStep 7 0 false false false (fun _ => Config.startOutcome n 7 0 false) noWork)

/-- The start steps in order; a required step that cannot go on stops start (R450, R451). -/
def start (s : State) : State :=
  let r := andThen (firmwareStep s) (fun s => let x := configStep s; andThen (x.1, x.2.2) (startUnits x.2.1))
  modMgmt (fun m => { m with started := r.1 }) r.2

/-- DEVICE_RESET (R446, R450). -/
def execDeviceReset (s : State) : Host.Outcome State Fault Refusal := .next (start (coldState s))

end Sys2Proof.Machine
end

