-- ==== Sys2Proof/Machine/Agents.lean ====
section
/-! DEFINITION. Which step of another agent is due, and its outcome. Where several are due the first of the list is made; the spec gives
no order among them (log entry 16). -/
namespace Sys2Proof.Machine

/-- The outcome of a step. -/
abbrev StepOut : Type := Host.Outcome State Fault Refusal

/-- The outcome of a step that is due. -/
def due (b : Bool) (o : StepOut) : Option StepOut := if b then some o else none

/-- The lowest of the partitions of which something holds, as the operand of its step. -/
def firstPart (f : Nat → Bool) : Option (BitVec 4) := ((List.range 16).find? f).map (BitVec.ofNat 4)

/-- The first operation of any group of which something holds. -/
def firstOp (s : State) (f : Group → Op → Bool) : Option Nat := (allGroups s).findSome? (fun g => (g.ops.find? (f g)).map Op.id)

/-- The first group of which something holds. -/
def firstGroup (s : State) (f : Group → Bool) : Option Nat := ((allGroups s).find? f).map Group.gid

/-- The first team of which something holds. -/
def firstTeam (s : State) (f : Team → Bool) : Option Nat := ((allTeams s).find? f).map Team.tid

/-- The first link of which something holds. -/
def firstLink (s : State) (f : Link → Nat → Bool) : Option Nat := (List.range 15).find? (fun k => f (link s k) k)

/-! ### Start and the management core -/

/-- The device resets once before anything else (R450). -/
def agReset (s : State) : Option StepOut := due (s.mgmt.starts == 0) (execDeviceReset s)

/-- An access-table update that waited (R441). -/
def agTable (s : State) : Option StepOut :=
  (s.mgmt.accPending.find? (fun u => dirtyFor s u.2.1 || ! checkedOut s u.2.1)).map (fun u => execAccessTableUpdate u.1 u.2.1 u.2.2.1 u.2.2.2 s)

/-- The next step of a report that is asked for (R447). -/
def agAttest (s : State) : Option StepOut := (attestNext s).map .next

/-- A record that waited for the line of its place (R277, R319). -/
def agRecord (s : State) : Option StepOut :=
  match faultReady s with
  | some p => some (.next (bump (drainFaults p 1 s)))
  | none => (evReady s).map (fun x => .next (evDrain x s))

/-- A host access that waited (R279). -/
def agHost (s : State) : Option StepOut := (hostReady s).map (fun i => .next (hostStep i s))

/-! ### The fabric -/

/-- Is an item of the inbox an answer that is kept waiting (R319)? -/
def itemHeld (s : State) (i : FabItem) : Bool := match i with | .msg h _ => answerHeld s h | .seg _ => false

/-- The oldest item of accepted flits that is not kept waiting (R419). -/
def agInbox (s : State) : Option StepOut :=
  (s.fabric.inbox.find? (fun i => ! itemHeld s i)).map (fun i => itemStep i (modFabric (fun f => { f with inbox := f.inbox.erase i }) s))

/-- A peer's request that waited (R277, R414, R432). -/
def agHeld (s : State) : Option StepOut := (heldReady s).map (fun x => serveStep x.1 x.2 s)

/-- A spillway write that is kept (R426). -/
def agSpill (s : State) : Option StepOut := (spillReady s).map (fun x => execWrs x.1 x.2 s)

/-- An item to relay (R413). -/
def agRelay (s : State) : Option StepOut := (firstLink s (fun l _ => ! l.relayQ.isEmpty)).map (fun k => execRelayForward k s)

/-- A replay by time (R421). -/
def agReplay (s : State) : Option StepOut := (firstLink s (fun _ k => replayDue s k)).map (fun k => execReplayTimeout k s)

/-- A link's next flit (R420, R421, R428). -/
def agLink (s : State) : Option StepOut := (firstLink s (fun l _ => linkMay l)).map (fun k => .next (sendNext k s))

/-- A restripe's end (R407, R422 to R424). -/
def agRestripe (s : State) : Option StepOut :=
  match firstLink s (fun l _ => ! l.restripes.isEmpty) with
  | some k => some (.next (restripeEnd k s))
  | none => (firstLink s (fun l _ => l.restored.isSome)).map (fun k => .next (restoredEnd k s))

/-- A training's end (R425). -/
def agTrain (s : State) : Option StepOut := (firstLink s (fun l _ => l.training)).map (fun k => .next (trainEnd k s))

/-- A rotation's end (R431). -/
def agRotated (s : State) : Option StepOut := (firstLink s (fun l _ => txRotated l || rxRotated l)).map (fun k => execRotationComplete k s)

/-- A rotation that waited for the one before it (R431). -/
def agRotate (s : State) : Option StepOut :=
  (firstLink s (fun l _ => bit l.linkctl 63 && field l.linkctl 0 2 == 2 && ! l.rot && ! l.rxRot)).map
    (fun k => execLinkctlRotate k (link s k).linkctl s)

/-- A key spent (R427). -/
def agKey (s : State) : Option StepOut :=
  (List.range 15).findSome? (fun k => ((List.range 3).find? (keySpent (link s k))).map (fun c => execKeyLimit k (BitVec.ofNat 2 c) s))

/-! ### Groups and their operations -/

/-- A trap to report (R308). -/
def agTrap (s : State) : Option StepOut := (firstGroup s reportDue).map (fun g => execTrapReport g s)

/-- A trapped group's next step (R309). -/
def agEntry (s : State) : Option StepOut := (firstGroup s (entryReady s)).map (fun g => execTrapHandlerEntry g s)

/-- A region to abort (R321). -/
def agAbort (s : State) : Option StepOut := (firstGroup s (fun g => (abortDue s g).isSome)).map (fun g => execRegionAbort g s)

/-- An atomic to perform (R187). -/
def agAtomic (s : State) : Option StepOut := (firstOp s (atomReady s)).map (fun i => execAtomicPerform i s)

/-- A slot that becomes urgent (R402). -/
def agUrgent (s : State) : Option StepOut :=
  (allGroups s).findSome? (fun g => ([false, true].find? (fun b => (g.slot b).overdue && ! (g.slot b).urgent)).map (fun b => execSlotUrgent g.gid b s))

/-- The completed operation with a trap that is reported first in a group: that of the slot older in the age order (R308). -/
def firstTrap (s : State) (g : Group) : Option Op :=
  let l := g.ops.filter (fun o => o.kind == .done && o.trap.isSome)
  let older := ageOf s (g.gid, true, g.core) < ageOf s (g.gid, false, g.core)
  match l.find? (fun o => o.slot == older) with
  | some o => some o
  | none => l.head?

/-- An operation that completes with a trap, before any other completes (R308). -/
def agTrapped (s : State) : Option StepOut :=
  (allGroups s).findSome? (fun g => (firstTrap s g).map (fun o =>
    if o.isLoad || o.isWrite then execMemoryOpComplete o.id s else execOperationComplete o.id s))

/-- A signal wait that ends (R198), or that translates its address again (R324). -/
def agSigw (s : State) : Option StepOut :=
  match firstOp s (sigwReady s) with
  | some i => some (execSigwSatisfied i s)
  | none => (sigToPlace s).map (fun x => .next (bump (placeSig x.1 x.2 s)))

/-- An invalidation whose accesses have been performed, or cancelled (R315). -/
def agInv (s : State) : Option StepOut :=
  ((List.range 16).find? (fun p => (part s p).tlbBusy && ! invWaits s p)).map (fun p => .next (settleInv p s))

/-- A memory operation that completes (R173). -/
def agMem (s : State) : Option StepOut := (firstOp s (memReady s)).map (fun i => execMemoryOpComplete i s)

/-- Another operation that completes (R25). -/
def agOp (s : State) : Option StepOut := (firstOp s (opReady s)).map (fun i => execOperationComplete i s)

/-- A page walk that returns (R314). -/
def agWalk (s : State) : Option StepOut :=
  (List.range 16).findSome? (fun p => ((part s p).walks.find? (fun w => ! walkHeld s p (w.page * 4096))).map (fun w => execWalkComplete (BitVec.ofNat 4 p) w.page s))

/-- A group that retires, or whose handler ends (R229, R311). -/
def agRetire (s : State) : Option StepOut := (firstGroup s (fun g => handlerOver s g || retireReady g)).map (fun g => execGroupRetire g s)

/-- The operand queues of a core's groups in the order in which its headrace engine serves them: groups in age order, and from the queue after the one
served last (R380). -/
def fetchOrder (s : State) (c : Nat) : List (Nat × Nat) :=
  let gids := (((core s c).age.map Prod.fst) ++ ((allGroups s).filter (fun g => g.core == c)).map Group.gid).eraseDups
  let l := gids.flatMap (fun g => (List.range 4).map (fun q => (g, q)))
  match (core s c).served with
  | some x => l.drop (l.findIdx (fun y => y == x) + 1) ++ l.take (l.findIdx (fun y => y == x) + 1)
  | none => l

/-- A fetch of a headrace engine (R380). -/
def agFetch (s : State) : Option StepOut :=
  ((allGroups s).find? (fun g => (List.range 4).any (queueReady s g))).bind (fun g =>
    ((fetchOrder s g.core).find? (fun x => (groupOf s x.1).any (fun h => h.core == g.core && queueReady s h x.2))).map
      (fun x => execHeadraceFetchReturn x.1 (BitVec.ofNat 2 x.2) s))

/-! ### Engines -/

/-- A copying command that gets on (R351). -/
def agFlume (s : State) : Option StepOut := (s.flumes.find? (flumeReady s)).map (fun f => execFlumeLineArrival f.id 0 s)

/-- A copying command's end (R351). -/
def agFlumeEnd (s : State) : Option StepOut := (s.flumes.find? (flumeEnding s)).map (fun f => execFlumeComplete f.id s)

/-- A joint operation that starts (R340). -/
def agJoint (s : State) : Option StepOut := (firstTeam s (fun t => (jointReady s t).isSome)).map (fun t => execJointMmaStart t s)

/-- A lease that passes on (R332). -/
def agExpire (s : State) : Option StepOut := ((List.range 384).find? (fun c => (leaseExpired s c).isSome)).map (fun c => execLeaseExpire c s)

/-- A lease granted (R334). -/
def agGrant (s : State) : Option StepOut := ((List.range 384).find? (fun c => (leaseHead s c).isSome)).map (fun c => execLeaseGrant c s)

/-! ### The Weir -/

/-- Epochs: an attempt, its sum, its adoption (R293 to R295). -/
def agEpoch (s : State) : Option StepOut :=
  match s.weir.st with
  | .idle => due (attemptDue s) (execWeirAttempt s)
  | .summing _ => some (execWeirSumDone s)
  | .adopting => some (execWeirAdopted (List.range 384) s)

/-- Freeing (R297 to R299). -/
def agFree (s : State) : Option StepOut := if freeDue s then some (execWeirFree s) else due (appendDue s) (execWeirAppend s)

/-- A stall's record (R304). -/
def agStall (s : State) : Option StepOut := due (stallDue s) (execGraceStall s)

/-- The pod's epoch (R305). -/
def agPod (s : State) : Option StepOut := due (podDue s) (execPodAdvance s)

/-! ### Maps and suspension -/

/-- A map change that is over, or its next step (R248). -/
def agMap (s : State) : Option StepOut :=
  match firstPart (changeOver s) with
  | some p => some (execMapChangeComplete p s)
  | none => ((List.range 16).findSome? (fun p => changeNext p s)).map .next

/-- A deferred pre-emption that goes on (R322). -/
def agDefer (s : State) : Option StepOut :=
  (s.clusters.find? (deferOver s)).map (fun c =>
    let snap := match gridOf s c.grid with | some g => g.snap | none => 0
    execPreemptDeferExpire (BitVec.ofNat 4 c.part) (packFields [(0, 12, snap), (12, 31, c.number)]) s)

/-- A save's next step (R322). -/
def agSave (s : State) : Option StepOut := (firstTeam s (fun t => (saveNext s t.tid).isSome)).map (fun t => execTeamSave t s)

/-- A saved cluster that is removed (R445). -/
def agRemove (s : State) : Option StepOut := due (s.clusters.any (removeDue s)) (.next (removeNext s))

/-- A resumption that waited (R324). -/
def agResume (s : State) : Option StepOut :=
  (firstPart (fun p => bit (part s p).resume 63 && (resumeNext p (part s p).resume s).isSome)).map (fun p => execResume p (part s p.toNat).resume s)

/-! ### The distributor -/

/-- The partitions in turn, from one on. -/
def partsFrom (n : Nat) : List Nat := (List.range 16).map (fun i => (n + i) % 16)

/-- What the head of a host queue or of a launch queue needs before it can be taken (R390, R392, R396). -/
def agHead (s : State) : Option StepOut :=
  (List.range 16).findSome? (fun p =>
    match (List.range 64).find? (fun k => (headWork s p k).isSome) with
    | some k => some (execPacketTake (BitVec.ofNat 4 p) (BitVec.ofNat 6 k) s)
    | none => due (launchDue s p).isSome (execLaunchQueueTake (BitVec.ofNat 4 p) s))

/-- A packet or an entry of a launch queue taken; partitions take turns (R389, R394, R396). -/
def agTake (s : State) : Option StepOut :=
  (partsFrom s.distr.rrPart).findSome? (fun p => (takeTurn s p).map (fun x =>
    let s := modDistr (fun d => { d with rrPart := (p + 1) % 16 }) s
    if x.2.1 = 64 then execLaunchQueueTake (BitVec.ofNat 4 p) s else execPacketTake (BitVec.ofNat 4 p) (BitVec.ofNat 6 x.2.1) s))

/-- A frontier team or cluster that starts (R397, R398, R400). -/
def agPlace (s : State) : Option StepOut :=
  (placeNext s).bind (fun g =>
    if g.pkt.w * g.pkt.h = 1 then (frontierField s g).map (fun f => execTeamStart f s) else some (execClusterStart g.id s))

/-- A TCB on its way that arrives (R401). -/
def agArrival (s : State) : Option StepOut := (s.distr.transit.head?).map (fun x => execTcbArrival x.1 s)

/-- A TCB sent (R399). -/
def agTcb (s : State) : Option StepOut := (s.grids.find? (tcbDue s)).map (fun g => execTcbSend g.id s)

/-- A field asks for TCBs (R401). -/
def agSteal (s : State) : Option StepOut := ((List.range 96).find? (fun f => mayAsk s f && (busiest s f).isSome)).map (fun f => execStealRequest f s)

/-- A grid that completes (R395). -/
def agGrid (s : State) : Option StepOut := (s.grids.find? (gridReady s)).map (fun g => execGridComplete g.id s)

/-! ### All of them -/

/-- The steps that other agents make, in the order in which one that is due is made. -/
def agents : List (State → Option StepOut) :=
  [agReset, agInbox, agUrgent, agTrap, agEntry, agTrapped, agAtomic, agSigw, agInv, agMem, agOp, agWalk, agRetire, agAbort, agFetch, agFlumeEnd, agFlume, agJoint, agExpire, agGrant,
    agEpoch, agFree, agStall, agPod, agMap, agDefer, agSave, agRemove, agResume, agGrid, agPlace, agArrival, agTcb, agSteal, agHead, agTake,
    agHeld, agSpill, agHost, agRecord, agTable, agAttest, agRestripe, agTrain, agRelay, agReplay, agLink, agRotated, agRotate, agKey]

/-- The step of another agent that is due first, if any. -/
def agent (s : State) : Option StepOut := agents.findSome? (fun f => f s)

end Sys2Proof.Machine
end

