-- ==== Sys2Proof/Machine/CrossLane.lean ====
section
/-! DEFINITION. Instructions that move or combine values between lanes, MAJ 0x40 to 0x48 (R154 to R162). -/
namespace Sys2Proof.Machine

/-- Source A of a lane, whether active or not (R154). -/
def srcA (s : State) (f : Comp) (l : Nat) : Word := selWord (selIf f f.sela) (if f.ax then readS s f.a.toNat else lane (readQ s f.a.toNat) l)

/-- A vector result made of elements drawn from lanes: `from' l p` names the source lane and element (R155, R156). -/
def gatherOut (src : Nat → Nat → Nat × Nat) (i : CompInfo) (f : Comp) (s : State) : Out :=
  vecOut f (compMask s i f) (fun l =>
    elements f.w (seldPos f) (fun p => let x := src l p; ⟨elem (srcA s f x.1) x.2 f.w, 0⟩))

/-- VSHFL's result (R155). -/
def shflOut (i : CompInfo) (f : Comp) (s : State) : Out :=
  let n := 64 / f.w
  let b (l : Nat) : Word := if f.bx then readS s f.b.toNat else lane (readQ s f.b.toNat) l
  let c (l : Nat) : Word := if f.cx then readS s f.c.toNat else lane (readQ s f.c.toNat) l
  gatherOut (fun l p => (field (b l) 0 5, if i.shape.usesC f then ((c l).toNat >>> (4 * p)) % n else p)) i f s

/-- VSHFL (R155). -/
def execVshfl (f : Comp) (s : State) : Host.Outcome State Fault Refusal := computeFixed (.vshfl f) shflOut s

/-- The source lane and element of VSHFI (R156). -/
def shfiSrc (f : Comp) (l p : Nat) : Nat × Nat :=
  let m := f.immRaw % 32
  match f.opfAt 0 4 with
  | 0 => (l ^^^ m, p)
  | 1 => ((l + m) % 32, p)
  | 2 => (if 31 < l + m then l else l + m, p)
  | 3 => (if l < m then l else l - m, p)
  | 4 => (m, p)
  | _ => (l, (f.immRaw >>> (4 * p)) % (64 / f.w))

/-- VSHFI (R156). -/
def execVshfi (f : Comp) (s : State) : Host.Outcome State Fault Refusal := computeFixed (.vshfi f) (gatherOut (shfiSrc f)) s

/-- VRFAL's result (R157). -/
def rfalOut (i : CompInfo) (f : Comp) (s : State) : Out :=
  let v := match lanesIn (compMask s i f) with | [] => 0 | l :: _ => srcA s f l
  { writes := [.scal f.d.toNat v allBits], fl := 0 }

/-- VRFAL (R157). -/
def execVrfal (f : Comp) (s : State) : Host.Outcome State Fault Refusal := computeFixed (.vrfal f) rfalOut s

/-- The lane that VRDLN and VWRLN name (R158). -/
def laneOf (s : State) (i : CompInfo) (f : Comp) : Nat := if i.shape.immB f then f.immRaw % 32 else field (readS s f.b.toNat) 0 5

/-- VRDLN's result (R158). -/
def rdlnOut (i : CompInfo) (f : Comp) (s : State) : Out := { writes := [.scal f.d.toNat (srcA s f (laneOf s i f)) allBits], fl := 0 }

/-- VRDLN (R158). -/
def execVrdln (f : Comp) (s : State) : Host.Outcome State Fault Refusal := computeFixed (.vrdln f) rdlnOut s

/-- VWRLN's result (R158). -/
def wrlnOut (i : CompInfo) (f : Comp) (s : State) : Out :=
  let n := laneOf s i f
  vecOut f (compMask s i f &&& maskOf (fun l => l == n)) (fun l => wholeOut f (srcA s f l))

/-- VWRLN (R158). -/
def execVwrln (f : Comp) (s : State) : Host.Outcome State Fault Refusal := computeFixed (.vwrln f) wrlnOut s

/-! ### Reductions and scans (R159, R160) -/

/-- The identity of OP (R159). -/
def redIdent (op ty : Nat) : Nat :=
  let f := fmtOf ty
  match op with
  | 1 => if tyFloat ty then f.maxEnc + 1 else wrapInt (tyWidth ty) (intMax ty)
  | 2 => if tyFloat ty then 2 ^ (f.w - 1) + f.maxEnc + 1 else wrapInt (tyWidth ty) (intMin ty)
  | 3 => ones (tyWidth ty)
  | _ => 0

/-- Floating minimum or maximum of all operands (R101, R159): NaNs drop out where one operand is a number; a signalling one gives NaN. -/
def redMinMax (f : Fmt) (isMax : Bool) : List Nat → FRes
  | [] => ⟨0, 0⟩
  | [a] => if (decodeF f a).isNan then ⟨canonNan f, if (decodeF f a).isSnan then NV else 0⟩ else ⟨a, 0⟩
  | a :: t =>
    if (a :: t).any (fun x => (decodeF f x).isSnan) then ⟨canonNan f, NV⟩
    else t.foldl (fun r x => let m := minMaxF f isMax r.bits x; ⟨m.bits, r.fl ||| m.fl⟩) ⟨a, 0⟩

/-- OP over the elements of the lanes taken (R159). -/
def reduce (op ty rm : Nat) (xs : List Nat) : FRes :=
  let f := fmtOf ty
  if xs.isEmpty then ⟨redIdent op ty, 0⟩
  else if tyFloat ty then
    match op with
    | 0 => roundEx f rm .ieee (sumEx rm (xs.map (decodeF f)))
    | 1 => redMinMax f false xs
    | _ => redMinMax f true xs
  else
    let g : Nat → Nat → Nat := match op with
      | 0 => fun a b => iAdd ty a b 0
      | 1 => fun a b => iMin ty a b 0
      | 2 => fun a b => iMax ty a b 0
      | 3 => fun a b => a &&& b
      | 4 => fun a b => a ||| b
      | _ => fun a b => a ^^^ b
    ⟨xs.foldl g (redIdent op ty), 0⟩

/-- Element p of every lane of a mask, in lane order. -/
def column (s : State) (f : Comp) (m : Mask) (p : Nat) : List Nat := (lanesIn m).map (fun l => elem (srcA s f l) p f.w)

/-- VREDU's result (R159). -/
def reduOut (i : CompInfo) (f : Comp) (s : State) : Out :=
  let m := compMask s i f
  scalOut f (elements f.w none (fun p => reduce f.cc f.ty.toNat (rmOf f) (column s f m p)))

/-- VREDU (R159). -/
def execVredu (f : Comp) (s : State) : Host.Outcome State Fault Refusal := computeFixed (.vredu f) reduOut s

/-- VSCAN's result (R160). -/
def scanOut (i : CompInfo) (f : Comp) (s : State) : Out :=
  let m := compMask s i f
  let upTo (l : Nat) : Mask := m &&& maskOf (fun k => if f.opfAt 3 1 = 1 then k < l else k ≤ l)
  vecOut f m (fun l => elements f.w (seldPos f) (fun p => reduce f.cc f.ty.toNat (rmOf f) (column s f (upTo l) p)))

/-- VSCAN (R160). -/
def execVscan (f : Comp) (s : State) : Host.Outcome State Fault Refusal := computeFixed (.vscan f) scanOut s

/-! ### VMATCH (R161) -/

/-- Do two keys match: by bits, or in value mode numerically (R161)? -/
def keysMatch (f : Comp) (a b : Word) : Bool :=
  if f.opfAt 0 1 = 1 then
    (List.range (64 / f.w)).all (fun p => (cmpF (fmtOf f.ty.toNat) 0 (elem a p f.w) (elem b p f.w)).1)
  else a == b

/-- VMATCH's result: every lane is written (R161). -/
def matchOut (i : CompInfo) (f : Comp) (s : State) : Out :=
  let m := compMask s i f
  let key := srcA s f
  { writes := [.vec f.d.toNat (BitVec.allOnes 32) ((List.range 32).map (fun l =>
      if m.getLsbD l then (maskOf (fun k => m.getLsbD k && keysMatch f (key l) (key k))).setWidth 64 else 0)) allBits], fl := 0 }

/-- VMATCH (R161). -/
def execVmatch (f : Comp) (s : State) : Host.Outcome State Fault Refusal := computeFixed (.vmatch f) matchOut s

/-! ### VREDM (R162) -/

/-- VREDM's results: the rescaled sums, and the status in the next register (R162). -/
def redmOut (i : CompInfo) (f : Comp) (s : State) : Out :=
  let act := compMask s i f
  let sb := readS s f.b.toNat
  let m := act &&& (BitVec.ofNat 32 (field sb (if f.opfAt 0 1 = 1 then 32 else 0) 32))
  let t := (lanesIn act).length
  let v := (lanesIn m).length
  let fmt := fmtOf f.ty.toNat
  let el (p : Nat) : FRes :=
    if v = 0 then ⟨0, 0⟩
    else roundEx fmt (rmOf f) .ieee ((sumEx (rmOf f) ((column s f m p).map (decodeF fmt))).scale t v)
  let o := elements f.w none el
  { writes := [.scal f.d.toNat o.val allBits,
      .scal (f.d.toNat + 1) (packFields [(0, 6, v), (8, 6, t), (16, 1, b2n (v == 0))]) allBits],
    fl := o.fl }

/-- VREDM (R162). -/
def execVredm (f : Comp) (s : State) : Host.Outcome State Fault Refusal := computeFixed (.vredm f) redmOut s

end Sys2Proof.Machine
end

