-- ==== Sys2Proof/Machine/ScalarFloat.lean ====
section
/-! DEFINITION. Scalar floating-point instructions, MAJ 0x18 (R100 to R103), and what rational mode makes of them (R64, R104). -/
namespace Sys2Proof.Machine

/-- Issue a MAJ 0x18 instruction: in rational mode with a q64 type it is a variable-latency rational one, else a fixed-latency floating
one (R64, R104). -/
def scalarFloat (x : Instr) (flt rat : CompInfo → Comp → State → Out) (s : State) : Host.Outcome State Fault Refusal :=
  match x.info with
  | .comp i f => if ratScalar s.grp i f then computeVar x true rat s else computeFixed x flt s
  | _ => .next s

/-- SFADD (R100, R104). -/
def execSfadd (f : Comp) (s : State) : Host.Outcome State Fault Refusal := scalarFloat (.sfadd f) (fltOut fAdd) (ratOut (qBin QV.add)) s
/-- SFSUB (R100, R104). -/
def execSfsub (f : Comp) (s : State) : Host.Outcome State Fault Refusal := scalarFloat (.sfsub f) (fltOut fSub) (ratOut (qBin QV.sub)) s
/-- SFMUL (R100, R104). -/
def execSfmul (f : Comp) (s : State) : Host.Outcome State Fault Refusal := scalarFloat (.sfmul f) (fltOut fMul) (ratOut (qBin QV.mul)) s
/-- SFDIV (R100, R104). -/
def execSfdiv (f : Comp) (s : State) : Host.Outcome State Fault Refusal := scalarFloat (.sfdiv f) (fltOut fDiv) (ratOut (qBin QV.div)) s
/-- SFMIN (R101, R104). -/
def execSfmin (f : Comp) (s : State) : Host.Outcome State Fault Refusal := scalarFloat (.sfmin f) (fltOut fMin) (ratOut (qSel false)) s
/-- SFMAX (R101, R104). -/
def execSfmax (f : Comp) (s : State) : Host.Outcome State Fault Refusal := scalarFloat (.sfmax f) (fltOut fMax) (ratOut (qSel true)) s
/-- SFFMA (R100, R104). -/
def execSffma (f : Comp) (s : State) : Host.Outcome State Fault Refusal := scalarFloat (.sffma f) (fltOut fFma) (ratOut qFma) s
/-- SFCMP (R102, R104). -/
def execSfcmp (f : Comp) (s : State) : Host.Outcome State Fault Refusal :=
  scalarFloat (.sfcmp f) (fltOut (fCmp f.cc)) (ratOut (qCmp f.cc)) s

/-- SFCVT between floats (R103). -/
def sfcvtOut (i : CompInfo) (f : Comp) (s : State) : Out :=
  perLane s i f 0 f.w (fun z =>
    cvtElems f (tyWidth f.sty) f.w (fun x => convF f.ty.toNat (rmOf f) (f.opfAt 4 1 == 1) (valueOf f.sty x).ex) z.a)

/-- SFCVT in rational mode: q64 to a float, a float to q64, or q64 to q64 (R104). -/
def sfcvtRat (i : CompInfo) (f : Comp) (s : State) : Out :=
  let mode := qmodeOf s.grp f
  let one : Nat → FRes :=
    if f.ty == 11 && f.sty == 11 then fun x => let q := qRead 57 x; ⟨qWrite 57 q.1, if q.2 then QNONCAN else 0⟩
    else if f.ty == 11 then cvtFQ f.sty 57 mode
    else cvtQF 57 f.ty.toNat mode (f.opfAt 4 1 == 1)
  perLane s i f 0 f.w (fun z => cvtElems f (tyWidth f.sty) f.w one z.a)

/-- SFCVT (R103, R104). -/
def execSfcvt (f : Comp) (s : State) : Host.Outcome State Fault Refusal := scalarFloat (.sfcvt f) sfcvtOut sfcvtRat s

end Sys2Proof.Machine
end

