-- ==== Sys2Proof/Machine/ScalarInt.lean ====
section
/-! DEFINITION. Scalar integer instructions, MAJ 0x10 to 0x17 (R92 to R99). -/
namespace Sys2Proof.Machine

/-- SADD (R92). -/
def execSadd (f : Comp) (s : State) : Host.Outcome State Fault Refusal := computeFixed (.sadd f) (intOut iAdd) s
/-- SSUB (R92). -/
def execSsub (f : Comp) (s : State) : Host.Outcome State Fault Refusal := computeFixed (.ssub f) (intOut iSub) s
/-- SAND (R92). -/
def execSand (f : Comp) (s : State) : Host.Outcome State Fault Refusal := computeFixed (.sand f) (intOut iAnd) s
/-- SOR (R92). -/
def execSor (f : Comp) (s : State) : Host.Outcome State Fault Refusal := computeFixed (.sor f) (intOut iOr) s
/-- SXOR (R92). -/
def execSxor (f : Comp) (s : State) : Host.Outcome State Fault Refusal := computeFixed (.sxor f) (intOut iXor) s
/-- SSHL (R92). -/
def execSshl (f : Comp) (s : State) : Host.Outcome State Fault Refusal := computeFixed (.sshl f) (intOut iShl) s
/-- SSHR (R92). -/
def execSshr (f : Comp) (s : State) : Host.Outcome State Fault Refusal := computeFixed (.sshr f) (intOut iShr) s
/-- SSAR (R92). -/
def execSsar (f : Comp) (s : State) : Host.Outcome State Fault Refusal := computeFixed (.ssar f) (intOut iSar) s
/-- SMIN (R92). -/
def execSmin (f : Comp) (s : State) : Host.Outcome State Fault Refusal := computeFixed (.smin f) (intOut iMin) s
/-- SMAX (R92). -/
def execSmax (f : Comp) (s : State) : Host.Outcome State Fault Refusal := computeFixed (.smax f) (intOut iMax) s
/-- SMUL (R92). -/
def execSmul (f : Comp) (s : State) : Host.Outcome State Fault Refusal := computeFixed (.smul f) (intOut iMul) s
/-- SMULH (R92). -/
def execSmulh (f : Comp) (s : State) : Host.Outcome State Fault Refusal := computeFixed (.smulh f) (intOut iMulh) s
/-- SPOPC (R92). -/
def execSpopc (f : Comp) (s : State) : Host.Outcome State Fault Refusal := computeFixed (.spopc f) (intOut iPopc) s
/-- SCLZ (R92). -/
def execSclz (f : Comp) (s : State) : Host.Outcome State Fault Refusal := computeFixed (.sclz f) (intOut iClz) s
/-- SFFS (R92). -/
def execSffs (f : Comp) (s : State) : Host.Outcome State Fault Refusal := computeFixed (.sffs f) (intOut iFfs) s
/-- SNOT (R92). -/
def execSnot (f : Comp) (s : State) : Host.Outcome State Fault Refusal := computeFixed (.snot f) (intOut iNot) s
/-- SMAD (R93). -/
def execSmad (f : Comp) (s : State) : Host.Outcome State Fault Refusal := computeFixed (.smad f) (intOut iMad) s
/-- SDIV (R94). -/
def execSdiv (f : Comp) (s : State) : Host.Outcome State Fault Refusal := computeVar (.sdiv f) false (intOut iDiv) s
/-- SREM (R94). -/
def execSrem (f : Comp) (s : State) : Host.Outcome State Fault Refusal := computeVar (.srem f) false (intOut iRem) s
/-- SBFX (R95). -/
def execSbfx (f : Comp) (s : State) : Host.Outcome State Fault Refusal := computeFixed (.sbfx f) bfxOut s
/-- SBFI (R95). -/
def execSbfi (f : Comp) (s : State) : Host.Outcome State Fault Refusal := computeFixed (.sbfi f) bfiOut s
/-- SSEL (R96). -/
def execSsel (f : Comp) (s : State) : Host.Outcome State Fault Refusal := computeFixed (.ssel f) (intOut iSel) s

/-- SCMP's element: all ones or zero (R97). -/
def iCmp (cc ty a b _c : Nat) : Nat := if iCond cc ty a b then ones (tyWidth ty) else 0
/-- SCMP (R97). -/
def execScmp (f : Comp) (s : State) : Host.Outcome State Fault Refusal := computeFixed (.scmp f) (intOut (iCmp f.cc)) s

/-- SMOV (R98). -/
def execSmov (f : Comp) (s : State) : Host.Outcome State Fault Refusal := computeFixed (.smov f) (wholeForm Srcs.a) s
/-- SMOVI (R98). -/
def execSmovi (f : Comp) (s : State) : Host.Outcome State Fault Refusal := computeFixed (.smovi f) (intOut iImm) s

/-- SLEA's sum: whole registers, B or the sign-extended immediate shifted left by SH (R99). -/
def sleaOut (i : CompInfo) (f : Comp) (s : State) : Out :=
  let b := if i.shape.immB f then sext64 32 (immBitsOf f) else readS s f.b.toNat
  let c := if i.shape.usesC f then readS s f.c.toNat else 0
  scalOut f { val := readS s f.a.toNat + (b <<< f.opfAt 0 3) + c, bits := allBits, fl := 0 }
/-- SLEA (R99). -/
def execSlea (f : Comp) (s : State) : Host.Outcome State Fault Refusal := computeFixed (.slea f) sleaOut s

end Sys2Proof.Machine
end

