-- ==== Sys2Proof/Machine/Special.lean ====
section
/-! DEFINITION. The special functions of MAJ 0x2B (R141, R142). The exact value is approximated by a quotient of
integers to 400 bits, far past every rounding boundary of a result; f16 and bf16 results are that value rounded to
nearest-even, and f32 results are a free choice within the stated bound (log entry 6). -/
namespace Sys2Proof.Machine

/-- The binary precision of the approximations. -/
def prec : Nat := 400

/-- Integer square root, bit by bit from bit b down. -/
def isqrt (n : Nat) : Nat → Nat → Nat
  | 0, acc => acc
  | b + 1, acc => if (acc + 2 ^ b) * (acc + 2 ^ b) ≤ n then isqrt n b (acc + 2 ^ b) else isqrt n b acc

/-- The square root of n/d, n > 0: exact where it is rational at this precision, else a quotient strictly between the
two neighbouring multiples of 2^-k, so that no rounding boundary lies between it and the exact root (R141). -/
def sqrtEx (n d : Nat) : Ex :=
  let k := 1200
  let num := n * 4 ^ k
  let s := isqrt (num / d) (bitlen (num / d) / 2 + 1) 0
  if s * s * d = num then .real false s (2 ^ k) else .real false (2 * s + 1) (2 ^ (k + 1))

/-- A signed number in units of 2^-prec. -/
def fxMul (a b : Int) : Int := (a * b) / (2 ^ prec : Nat)

/-- The series z + z^3/3 + z^5/5 + ... (atanh), or with alternating signs (arctan): term, z^2, index. -/
def oddSeries (alt : Bool) (z2 : Int) : Nat → Int → Int → Nat → Int
  | 0, _, acc, _ => acc
  | fuel + 1, t, acc, k =>
    let t' := fxMul t z2
    let term := t' / (2 * k + 1 : Nat)
    oddSeries alt z2 fuel t' (if alt && k % 2 == 1 then acc - term else acc + term) (k + 1)

/-- atanh (a/b), |a/b| at most 1/3, in units of 2^-prec. -/
def fxAtanh (a b : Int) : Int :=
  let z := a * (2 ^ prec : Nat) / b
  oddSeries false (fxMul z z) 140 z z 1

/-- arctan (1/b) in units of 2^-prec. -/
def fxAtanInv (b : Int) : Int :=
  let z := ((2 ^ prec : Nat) : Int) / b
  oddSeries true (fxMul z z) 100 z z 1

/-- ln 2. -/
def fxLn2 : Int := 2 * fxAtanh 1 3

/-- pi, by Machin's formula. -/
def fxPi : Int := 16 * fxAtanInv 5 - 4 * fxAtanInv 239

/-- The exponential series: term, sum, index. -/
def expSeries (x : Int) : Nat → Int → Int → Nat → Int
  | 0, _, acc, _ => acc
  | fuel + 1, t, acc, k =>
    let t' := fxMul t x / (k : Int)
    expSeries x fuel t' (acc + t') (k + 1)

/-- exp x for |x| at most 1. -/
def fxExp (x : Int) : Int := expSeries x 100 (2 ^ prec : Nat) (2 ^ prec : Nat) 1

/-- The sine (odd) or cosine (even) series: term, sum, next index. -/
def trigSeries (x2 : Int) : Nat → Int → Int → Nat → Int
  | 0, _, acc, _ => acc
  | fuel + 1, t, acc, k =>
    let t' := - (fxMul t x2 / (k * (k + 1) : Nat))
    trigSeries x2 fuel t' (acc + t') (k + 2)

/-- sin x for |x| at most 2. -/
def fxSin (x : Int) : Int := trigSeries (fxMul x x) 60 x x 2

/-- cos x for |x| at most 2. -/
def fxCos (x : Int) : Int := trigSeries (fxMul x x) 60 (2 ^ prec : Nat) (2 ^ prec : Nat) 1

/-- A fixed-point number as an exact quotient. -/
def exOfFx (x : Int) : Ex := .real (decide (x < 0)) x.natAbs (2 ^ prec)

/-- 2^i times a positive fixed-point number. -/
def exShift (x : Nat) (i : Int) : Ex := .real false (x * 2 ^ i.toNat) (2 ^ prec * 2 ^ (-i).toNat)

/-- 2^(n/d) with a sign, clamped to a range in which every type overflows or rounds to zero. -/
def exp2Ex (neg : Bool) (n d : Nat) : Ex :=
  let v : Int := (if neg then -1 else 1) * (n : Int)
  let i : Int := v / (d : Int)
  let r := (v % (d : Int)).toNat
  if 4000 < i then .real false (2 ^ 4000) 1
  else if i < -4000 then .real false 1 (2 ^ 4000)
  else if r = 0 then exShift (2 ^ prec) i
  else exShift (fxExp (fxMul ((r : Int) * (2 ^ prec : Nat) / (d : Int)) fxLn2)).toNat i

/-- log2 of m * 2^e, m > 0. -/
def log2Ex (m : Nat) (e : Int) : Ex :=
  let l := Nat.log2 m
  let i : Int := e + l
  if m = 2 ^ l then .real (decide (i < 0)) i.natAbs 1
  else
    let lnm := 2 * fxAtanh ((m : Int) - (2 ^ l : Nat)) ((m : Int) + (2 ^ l : Nat))
    exOfFx (i * (2 ^ prec : Nat) + lnm * (2 ^ prec : Nat) / fxLn2)

/-- tanh of n/d with a sign: by series for small arguments, else (1 - 2^-2y)/(1 + 2^-2y) with y = x/ln 2. -/
def tanhEx (neg : Bool) (n d : Nat) : Ex :=
  if n * 2 ^ 40 < d then
    -- x - x^3/3 + 2x^5/15
    .real neg (15 * n * d ^ 4 + 2 * n ^ 5 - 5 * n ^ 3 * d ^ 2) (15 * d ^ 5)
  else if 100 * d < n then .real neg (2 ^ 280 - 1) (2 ^ 280)
  else
    let y := (2 * (n : Int) * (2 ^ prec : Nat) / (d : Int)) * (2 ^ prec : Nat) / fxLn2
    let i := y / (2 ^ prec : Nat)
    let f := y % (2 ^ prec : Nat)
    let t := (fxExp (- fxMul f fxLn2)) / (2 ^ i.toNat : Nat)
    .real neg ((2 ^ prec : Nat) - t).toNat ((2 ^ prec : Nat) + t).toNat

/-- sin (pi * v) with v = num/d reduced modulo 2: `halves` is 2v where that is an integer (R141, exact cases). -/
def sinPiEx (num : Int) (d : Nat) : Ex :=
  let r := (num % ((2 * d : Nat) : Int)).toNat
  if (2 * r) % d = 0 then
    match (2 * r) / d with
    | 1 => .real false 1 1
    | 3 => .real true 1 1
    | _ => .real false 0 1
  else
    -- r/d in (0,2): fold to the first quadrant with a sign
    let neg := decide (d < r)
    let q := if d < r then r - d else r
    let q' := if d < 2 * q then d - q else q
    let s := if 4 * q' < d then fxSin (fxMul fxPi ((q' : Int) * (2 ^ prec : Nat) / (d : Int)))
      else fxCos (fxMul fxPi (((d : Int) - 2 * (q' : Int)) * (2 ^ prec : Nat) / (2 * d : Nat)))
    .real neg s.natAbs (2 ^ prec)

/-- A binary32 magnitude in units of 2^-149. -/
def unitsOf (m : Nat) : Nat := if m < 2 ^ 23 then m else (2 ^ 23 + m % 2 ^ 23) * 2 ^ (m / 2 ^ 23 - 1)

/-- The binary32 magnitudes within k ulp of n / d, of which `lo` is the greatest that is not above it (R141). -/
def nearUlps (k lo n d : Nat) : List Nat :=
  let x := n * 2 ^ 149
  let bound := k * 2 ^ (max (lo / 2 ^ 23) 1 - 1) * d
  ((List.range 9).map (fun i => lo + i - 4)).filter (fun m => m ≤ (fmtOf 10).maxEnc
    && (max (unitsOf m * d) x - min (unitsOf m * d) x) ≤ bound)

/-- A result within the bound of R141 for f32, one of those within it by a free choice, and exact where R141 says so (`exact`); `two` marks the bound of
2 ulp (log entry 6). A result that differs from its exact value sets NX (R73). -/
def pickUlp (form : Nat) (x : BitVec 32) (two exact : Bool) (ex : Ex) : FRes :=
  let f := fmtOf 10
  let near := roundEx f 0 .ieee ex
  match ex with
  | .real s n d =>
    if exact || n = 0 || near.fl.testBit 2 then near
    else
      let lo := (roundMag f 1 s n d).1
      let l := nearUlps (if two then 2 else 1) lo n d
      let m := l.getD (Config.sfuncChoice form x % max 1 l.length) (near.bits % 2 ^ 31)
      ⟨signBit f s + m, near.fl ||| (if unitsOf m * d = n * 2 ^ 149 then 0 else NX)⟩
  | _ => near

/-- One element of MAJ 0x2B: forms 0 VFRCP, 1 VFRSQ, 2 VFEXP2, 3 VFLOG2, 4 VFSIN, 5 VFCOS, 6 VFSQRT, 7 VFTANH
(R141, R142). -/
def sfunc (form ty rm x : Nat) : FRes :=
  let f := fmtOf ty
  let nan : FRes := ⟨canonNan f, NV⟩
  let out (two exact : Bool) (ex : Ex) : FRes :=
    if ty = 10 then pickUlp form (BitVec.ofNat 32 x) two exact ex else roundEx f 0 .ieee ex
  let plain (ex : Ex) : FRes := roundEx f 0 .ieee ex
  match decodeF f x with
  | .nan nv => ⟨canonNan f, if nv then NV else 0⟩
  | .inf s =>
    match form with
    | 0 => plain (.real s 0 1)
    | 1 => if s then nan else plain (.real false 0 1)
    | 2 => if s then plain (.real false 0 1) else plain (.inf false)
    | 3 => if s then nan else plain (.inf false)
    | 6 => if s then nan else plain (.inf false)
    | 7 => plain (.real s 1 1)
    | _ => nan
  | .fin s m e =>
    let n := m * 2 ^ e.toNat
    let d := 2 ^ (-e).toNat
    if m = 0 then
      match form with
      | 0 => ⟨(plain (.inf s)).bits, DZ⟩
      | 1 => ⟨(plain (.inf s)).bits, DZ⟩
      | 2 => plain (.real false 1 1)
      | 3 => ⟨(plain (.inf true)).bits, DZ⟩
      | 5 => plain (.real false 1 1)
      | _ => plain (.real s 0 1)
    else
      match form with
      | 0 => out false (2 ^ Nat.log2 m == m) (.real s d n)
      | 1 => if s then nan else out false false (sqrtEx d n)
      | 2 => out true (n % d == 0) (exp2Ex s n d)
      | 3 => if s then nan else out true (2 ^ Nat.log2 m == m) (log2Ex m e)
      | 4 => out true ((2 * n) % d == 0) (sinPiEx ((if s then -1 else 1) * (n : Int)) d)
      | 5 => out true ((2 * n) % d == 0) (sinPiEx (2 * (n : Int) + (d : Int)) (2 * d))
      | 6 => if s then nan else roundEx f rm .ieee (sqrtEx n d)
      | _ => out true false (tanhEx s n d)

end Sys2Proof.Machine
end

