-- ==== Sys2Proof/Machine/VectorInt.lean ====
section
/-! DEFINITION. Vector integer and move instructions, MAJ 0x20 to 0x26 (R131 to R135). -/
namespace Sys2Proof.Machine

/-- VADD (R131). -/
def execVadd (f : Comp) (s : State) : Host.Outcome State Fault Refusal := computeFixed (.vadd f) (intOut iAdd) s
/-- VSUB (R131). -/
def execVsub (f : Comp) (s : State) : Host.Outcome State Fault Refusal := computeFixed (.vsub f) (intOut iSub) s
/-- VAND (R131). -/
def execVand (f : Comp) (s : State) : Host.Outcome State Fault Refusal := computeFixed (.vand f) (intOut iAnd) s
/-- VOR (R131). -/
def execVor (f : Comp) (s : State) : Host.Outcome State Fault Refusal := computeFixed (.vor f) (intOut iOr) s
/-- VXOR (R131). -/
def execVxor (f : Comp) (s : State) : Host.Outcome State Fault Refusal := computeFixed (.vxor f) (intOut iXor) s
/-- VSHL (R131). -/
def execVshl (f : Comp) (s : State) : Host.Outcome State Fault Refusal := computeFixed (.vshl f) (intOut iShl) s
/-- VSHR (R131). -/
def execVshr (f : Comp) (s : State) : Host.Outcome State Fault Refusal := computeFixed (.vshr f) (intOut iShr) s
/-- VSAR (R131). -/
def execVsar (f : Comp) (s : State) : Host.Outcome State Fault Refusal := computeFixed (.vsar f) (intOut iSar) s
/-- VMIN (R131). -/
def execVmin (f : Comp) (s : State) : Host.Outcome State Fault Refusal := computeFixed (.vmin f) (intOut iMin) s
/-- VMAX (R131). -/
def execVmax (f : Comp) (s : State) : Host.Outcome State Fault Refusal := computeFixed (.vmax f) (intOut iMax) s
/-- VMUL (R131). -/
def execVmul (f : Comp) (s : State) : Host.Outcome State Fault Refusal := computeFixed (.vmul f) (intOut iMul) s
/-- VMULH (R131). -/
def execVmulh (f : Comp) (s : State) : Host.Outcome State Fault Refusal := computeFixed (.vmulh f) (intOut iMulh) s
/-- VPOPC (R131). -/
def execVpopc (f : Comp) (s : State) : Host.Outcome State Fault Refusal := computeFixed (.vpopc f) (intOut iPopc) s
/-- VCLZ (R131). -/
def execVclz (f : Comp) (s : State) : Host.Outcome State Fault Refusal := computeFixed (.vclz f) (intOut iClz) s
/-- VABS (R131). -/
def execVabs (f : Comp) (s : State) : Host.Outcome State Fault Refusal := computeFixed (.vabs f) (intOut iAbs) s
/-- VNOT (R131). -/
def execVnot (f : Comp) (s : State) : Host.Outcome State Fault Refusal := computeFixed (.vnot f) (intOut iNot) s
/-- VMAD (R132). -/
def execVmad (f : Comp) (s : State) : Host.Outcome State Fault Refusal := computeFixed (.vmad f) (intOut iMad) s
/-- VBFX (R132). -/
def execVbfx (f : Comp) (s : State) : Host.Outcome State Fault Refusal := computeFixed (.vbfx f) bfxOut s
/-- VBFI (R132). -/
def execVbfi (f : Comp) (s : State) : Host.Outcome State Fault Refusal := computeFixed (.vbfi f) bfiOut s
/-- VSEL (R132). -/
def execVsel (f : Comp) (s : State) : Host.Outcome State Fault Refusal := computeFixed (.vsel f) (intOut iSel) s

/-! ### Compares (R135) -/

/-- A vector compare by FORM: elements of all ones, or a mask of the lanes in which all or any elements meet the condition. The function
gives an element's condition and flags (R135, R139). -/
def vcmpOut (cond : Nat → Nat → Bool × Nat) (i : CompInfo) (f : Comp) (s : State) : Out :=
  let imm := immElem f
  if cmpForm f = 2 then
    elemOut imm (fun a b _ => let r := cond a b; ⟨if r.1 then ones f.w else 0, r.2⟩) i f s
  else
    let one (l : Nat) : List (Bool × Nat) :=
      let z := laneSrcs s i f imm f.w l
      (List.range (64 / f.w)).map (fun p => cond (elem z.a p f.w) (elem z.b p f.w))
    let m := compMask s i f
    let hit (l : Nat) : Bool := if cmpForm f = 0 then (one l).all Prod.fst else (one l).any Prod.fst
    { writes := [.scal f.d.toNat ((maskOf (fun l => m.getLsbD l && hit l)).setWidth 64) allBits],
      fl := (lanesIn m).foldl (fun a l => (one l).foldl (fun a r => a ||| r.2) a) 0 }

/-- VCMP (R135). -/
def execVcmp (f : Comp) (s : State) : Host.Outcome State Fault Refusal :=
  computeFixed (.vcmp f) (vcmpOut (fun a b => (iCond f.cc f.ty.toNat a b, 0))) s

/-! ### Moves (R133) and saturating sums (R134) -/

/-- VMOV (R133). -/
def execVmov (f : Comp) (s : State) : Host.Outcome State Fault Refusal := computeFixed (.vmov f) (wholeForm Srcs.a) s
/-- VMOV from amaxK (R133). -/
def execVmovAmax (f : Comp) (s : State) : Host.Outcome State Fault Refusal :=
  computeFixed (.vmovAmax f) (fun i f s => wholeForm (fun _ => BitVec.ofNat 64 (vget s.grp.amax (f.opfAt 1 2) 0)) i f s) s
/-- VMOVI (R133). -/
def execVmovi (f : Comp) (s : State) : Host.Outcome State Fault Refusal := computeFixed (.vmovi f) (intOut iImm) s
/-- VADDS (R134). -/
def execVadds (f : Comp) (s : State) : Host.Outcome State Fault Refusal := computeFixed (.vadds f) (intOut iAdds) s
/-- VSUBS (R134). -/
def execVsubs (f : Comp) (s : State) : Host.Outcome State Fault Refusal := computeFixed (.vsubs f) (intOut iSubs) s

end Sys2Proof.Machine
end

