-- ==== Sys2Proof/Machine/VectorFloat.lean ====
section
/-! DEFINITION. Vector floating-point instructions, MAJ 0x28 to 0x2C (R136 to R142). -/
namespace Sys2Proof.Machine

/-- VFADD (R136). -/
def execVfadd (f : Comp) (s : State) : Host.Outcome State Fault Refusal := computeFixed (.vfadd f) (fltOut fAdd) s
/-- VFSUB (R136). -/
def execVfsub (f : Comp) (s : State) : Host.Outcome State Fault Refusal := computeFixed (.vfsub f) (fltOut fSub) s
/-- VFMUL (R136). -/
def execVfmul (f : Comp) (s : State) : Host.Outcome State Fault Refusal := computeFixed (.vfmul f) (fltOut fMul) s
/-- VFMIN (R136). -/
def execVfmin (f : Comp) (s : State) : Host.Outcome State Fault Refusal := computeFixed (.vfmin f) (fltOut fMin) s
/-- VFMAX (R136). -/
def execVfmax (f : Comp) (s : State) : Host.Outcome State Fault Refusal := computeFixed (.vfmax f) (fltOut fMax) s
/-- VFABS (R136). -/
def execVfabs (f : Comp) (s : State) : Host.Outcome State Fault Refusal := computeFixed (.vfabs f) (fltOut (fSign (fun _ => false))) s
/-- VFNEG (R136). -/
def execVfneg (f : Comp) (s : State) : Host.Outcome State Fault Refusal := computeFixed (.vfneg f) (fltOut (fSign not)) s
/-- VFCLS (R137). -/
def execVfcls (f : Comp) (s : State) : Host.Outcome State Fault Refusal := computeFixed (.vfcls f) (fltOut fCls) s
/-- VFFMA (R138). -/
def execVffma (f : Comp) (s : State) : Host.Outcome State Fault Refusal := computeFixed (.vffma f) (fltOut fFma) s
/-- VFCMP (R139). -/
def execVfcmp (f : Comp) (s : State) : Host.Outcome State Fault Refusal :=
  computeFixed (.vfcmp f) (vcmpOut (cmpF (fmtOf f.ty.toNat) f.cc)) s
/-- VFDIV (R140). -/
def execVfdiv (f : Comp) (s : State) : Host.Outcome State Fault Refusal := computeVar (.vfdiv f) false (fltOut fDiv) s

/-- A special function of elements; form as in `sfunc` (R141, R142). -/
def sfnOut (form : Nat) (i : CompInfo) (f : Comp) (s : State) : Out :=
  elemOut 0 (fun a _ _ => sfunc form f.ty.toNat (rmOf f) a) i f s

/-- VFRCP (R141). -/
def execVfrcp (f : Comp) (s : State) : Host.Outcome State Fault Refusal := computeFixed (.vfrcp f) (sfnOut 0) s
/-- VFRSQ (R141). -/
def execVfrsq (f : Comp) (s : State) : Host.Outcome State Fault Refusal := computeFixed (.vfrsq f) (sfnOut 1) s
/-- VFEXP2 (R141). -/
def execVfexp2 (f : Comp) (s : State) : Host.Outcome State Fault Refusal := computeFixed (.vfexp2 f) (sfnOut 2) s
/-- VFLOG2 (R141). -/
def execVflog2 (f : Comp) (s : State) : Host.Outcome State Fault Refusal := computeFixed (.vflog2 f) (sfnOut 3) s
/-- VFSIN (R141). -/
def execVfsin (f : Comp) (s : State) : Host.Outcome State Fault Refusal := computeFixed (.vfsin f) (sfnOut 4) s
/-- VFCOS (R141). -/
def execVfcos (f : Comp) (s : State) : Host.Outcome State Fault Refusal := computeFixed (.vfcos f) (sfnOut 5) s
/-- VFSQRT (R141). -/
def execVfsqrt (f : Comp) (s : State) : Host.Outcome State Fault Refusal := computeFixed (.vfsqrt f) (sfnOut 6) s
/-- VFTANH (R141). -/
def execVftanh (f : Comp) (s : State) : Host.Outcome State Fault Refusal := computeFixed (.vftanh f) (sfnOut 7) s

end Sys2Proof.Machine
end

