-- ==== Sys2Proof/Machine/VectorRational.lean ====
section
/-! DEFINITION. Vector rational instructions, MAJ 0x38 (R149 to R153). -/
namespace Sys2Proof.Machine

/-- VQADD (R150). -/
def execVqadd (f : Comp) (s : State) : Host.Outcome State Fault Refusal := computeVar (.vqadd f) true (ratOut (qBin QV.add)) s
/-- VQSUB (R150). -/
def execVqsub (f : Comp) (s : State) : Host.Outcome State Fault Refusal := computeVar (.vqsub f) true (ratOut (qBin QV.sub)) s
/-- VQMUL (R150). -/
def execVqmul (f : Comp) (s : State) : Host.Outcome State Fault Refusal := computeVar (.vqmul f) true (ratOut (qBin QV.mul)) s
/-- VQDIV (R150). -/
def execVqdiv (f : Comp) (s : State) : Host.Outcome State Fault Refusal := computeVar (.vqdiv f) true (ratOut (qBin QV.div)) s
/-- VQFMA (R150). -/
def execVqfma (f : Comp) (s : State) : Host.Outcome State Fault Refusal := computeVar (.vqfma f) true (ratOut qFma) s
/-- VQCMP (R151). -/
def execVqcmp (f : Comp) (s : State) : Host.Outcome State Fault Refusal := computeVar (.vqcmp f) true (ratOut (qCmp f.cc)) s

/-- Rational to rational (R152). -/
def cvtQQ (ps pd mode x : Nat) : FRes :=
  let q := qRead ps x
  let r := qFinish pd mode ⟨q.1, 0⟩
  ⟨r.bits, r.fl ||| (if q.2 then QNONCAN else 0)⟩

/-- Rational to integer or float (R152). -/
def cvtQX (p ty mode : Nat) (nsat : Bool) (x : Nat) : FRes :=
  if tyInt ty then
    let q := qRead p x
    let r := qToInt ty mode q.1
    ⟨r.bits, r.fl ||| (if q.2 then QNONCAN else 0)⟩
  else cvtQF p ty mode nsat x

/-- VQCVT's result: DIR, QQ and NSAT at OPF bits 4 to 6, counted from 51 (R152). -/
def vqcvtOut (i : CompInfo) (f : Comp) (s : State) : Out :=
  let mode := qmodeOf s.grp f
  let p := qPay f.ty.toNat
  let po := if f.ty == 10 then 57 else 26
  let dir := f.opfAt 4 1 == 1
  let qq := f.opfAt 5 1 == 1
  let one : Nat → FRes :=
    if qq then (if dir then cvtQQ p po mode else cvtQQ po p mode)
    else if dir then cvtQX p f.sty mode (f.opfAt 6 1 == 1)
    else cvtFQ f.sty p mode
  perLane s i f 0 f.w (fun z => cvtElems f (i.wa f) (i.wd f) one z.a)

/-- VQCVT (R152). -/
def execVqcvt (f : Comp) (s : State) : Host.Outcome State Fault Refusal := computeVar (.vqcvt f) true vqcvtOut s

/-- VQRND's element: rounded to the budget, written in the format of TY (R153). -/
def qRndElem (pb p mode a _b _c : Nat) : FRes :=
  let q := qRead p a
  let r := qRound pb mode q.1
  ⟨qWrite p r.val, r.fl ||| (if q.2 then QNONCAN else 0)⟩

/-- VQRND (R153). -/
def execVqrnd (f : Comp) (s : State) : Host.Outcome State Fault Refusal :=
  computeVar (.vqrnd f) true (ratOut (qRndElem (f.opfAt 0 6))) s

end Sys2Proof.Machine
end

