-- ==== Sys2Proof/Machine/Dispatch.lean ====
section
/-! DEFINITION. The dispatch: one arm for each step of spec/opcode_table.json. -/
namespace Sys2Proof.Machine

/-- The meaning of a step: of an instruction of the slot in focus, or of another agent. -/
def exec (i : Instr) (s : State) : Host.Outcome State Fault Refusal :=
  match i with
  | .clauseHeader h => Sys2Proof.Machine.execClauseHeader h s
  | .nop f => Sys2Proof.Machine.execNop f s
  | .brk f => Sys2Proof.Machine.execBrk f s
  | .trap f => Sys2Proof.Machine.execTrap f s
  | .exit f => Sys2Proof.Machine.execExit f s
  | .bra f => Sys2Proof.Machine.execBra f s
  | .braNz f => Sys2Proof.Machine.execBraNz f s
  | .braZ f => Sys2Proof.Machine.execBraZ f s
  | .braEz f => Sys2Proof.Machine.execBraEz f s
  | .brx f => Sys2Proof.Machine.execBrx f s
  | .call f => Sys2Proof.Machine.execCall f s
  | .ret f => Sys2Proof.Machine.execRet f s
  | .split f => Sys2Proof.Machine.execSplit f s
  | .join f => Sys2Proof.Machine.execJoin f s
  | .loop f => Sys2Proof.Machine.execLoop f s
  | .rep f => Sys2Proof.Machine.execRep f s
  | .waitf f => Sys2Proof.Machine.execWaitf f s
  | .yield f => Sys2Proof.Machine.execYield f s
  | .sadd f => Sys2Proof.Machine.execSadd f s
  | .ssub f => Sys2Proof.Machine.execSsub f s
  | .sand f => Sys2Proof.Machine.execSand f s
  | .sor f => Sys2Proof.Machine.execSor f s
  | .sxor f => Sys2Proof.Machine.execSxor f s
  | .sshl f => Sys2Proof.Machine.execSshl f s
  | .sshr f => Sys2Proof.Machine.execSshr f s
  | .ssar f => Sys2Proof.Machine.execSsar f s
  | .smin f => Sys2Proof.Machine.execSmin f s
  | .smax f => Sys2Proof.Machine.execSmax f s
  | .smul f => Sys2Proof.Machine.execSmul f s
  | .smulh f => Sys2Proof.Machine.execSmulh f s
  | .spopc f => Sys2Proof.Machine.execSpopc f s
  | .sclz f => Sys2Proof.Machine.execSclz f s
  | .sffs f => Sys2Proof.Machine.execSffs f s
  | .snot f => Sys2Proof.Machine.execSnot f s
  | .smad f => Sys2Proof.Machine.execSmad f s
  | .sdiv f => Sys2Proof.Machine.execSdiv f s
  | .srem f => Sys2Proof.Machine.execSrem f s
  | .sbfx f => Sys2Proof.Machine.execSbfx f s
  | .sbfi f => Sys2Proof.Machine.execSbfi f s
  | .ssel f => Sys2Proof.Machine.execSsel f s
  | .scmp f => Sys2Proof.Machine.execScmp f s
  | .smov f => Sys2Proof.Machine.execSmov f s
  | .smovi f => Sys2Proof.Machine.execSmovi f s
  | .slea f => Sys2Proof.Machine.execSlea f s
  | .sfadd f => Sys2Proof.Machine.execSfadd f s
  | .sfsub f => Sys2Proof.Machine.execSfsub f s
  | .sfmul f => Sys2Proof.Machine.execSfmul f s
  | .sfdiv f => Sys2Proof.Machine.execSfdiv f s
  | .sfmin f => Sys2Proof.Machine.execSfmin f s
  | .sfmax f => Sys2Proof.Machine.execSfmax f s
  | .sffma f => Sys2Proof.Machine.execSffma f s
  | .sfcmp f => Sys2Proof.Machine.execSfcmp f s
  | .sfcvt f => Sys2Proof.Machine.execSfcvt f s
  | .sysr f => Sys2Proof.Machine.execSysr f s
  | .sysw f => Sys2Proof.Machine.execSysw f s
  | .time f => Sys2Proof.Machine.execTime f s
  | .idx f => Sys2Proof.Machine.execIdx f s
  | .launch f => Sys2Proof.Machine.execLaunch f s
  | .icinv f => Sys2Proof.Machine.execIcinv f s
  | .vadd f => Sys2Proof.Machine.execVadd f s
  | .vsub f => Sys2Proof.Machine.execVsub f s
  | .vand f => Sys2Proof.Machine.execVand f s
  | .vor f => Sys2Proof.Machine.execVor f s
  | .vxor f => Sys2Proof.Machine.execVxor f s
  | .vshl f => Sys2Proof.Machine.execVshl f s
  | .vshr f => Sys2Proof.Machine.execVshr f s
  | .vsar f => Sys2Proof.Machine.execVsar f s
  | .vmin f => Sys2Proof.Machine.execVmin f s
  | .vmax f => Sys2Proof.Machine.execVmax f s
  | .vmul f => Sys2Proof.Machine.execVmul f s
  | .vmulh f => Sys2Proof.Machine.execVmulh f s
  | .vpopc f => Sys2Proof.Machine.execVpopc f s
  | .vclz f => Sys2Proof.Machine.execVclz f s
  | .vabs f => Sys2Proof.Machine.execVabs f s
  | .vnot f => Sys2Proof.Machine.execVnot f s
  | .vmad f => Sys2Proof.Machine.execVmad f s
  | .vbfx f => Sys2Proof.Machine.execVbfx f s
  | .vbfi f => Sys2Proof.Machine.execVbfi f s
  | .vsel f => Sys2Proof.Machine.execVsel f s
  | .vcmp f => Sys2Proof.Machine.execVcmp f s
  | .vmov f => Sys2Proof.Machine.execVmov f s
  | .vmovAmax f => Sys2Proof.Machine.execVmovAmax f s
  | .vmovi f => Sys2Proof.Machine.execVmovi f s
  | .vadds f => Sys2Proof.Machine.execVadds f s
  | .vsubs f => Sys2Proof.Machine.execVsubs f s
  | .vfadd f => Sys2Proof.Machine.execVfadd f s
  | .vfsub f => Sys2Proof.Machine.execVfsub f s
  | .vfmul f => Sys2Proof.Machine.execVfmul f s
  | .vfmin f => Sys2Proof.Machine.execVfmin f s
  | .vfmax f => Sys2Proof.Machine.execVfmax f s
  | .vfabs f => Sys2Proof.Machine.execVfabs f s
  | .vfneg f => Sys2Proof.Machine.execVfneg f s
  | .vfcls f => Sys2Proof.Machine.execVfcls f s
  | .vffma f => Sys2Proof.Machine.execVffma f s
  | .vfcmp f => Sys2Proof.Machine.execVfcmp f s
  | .vfdiv f => Sys2Proof.Machine.execVfdiv f s
  | .vfrcp f => Sys2Proof.Machine.execVfrcp f s
  | .vfrsq f => Sys2Proof.Machine.execVfrsq f s
  | .vfexp2 f => Sys2Proof.Machine.execVfexp2 f s
  | .vflog2 f => Sys2Proof.Machine.execVflog2 f s
  | .vfsin f => Sys2Proof.Machine.execVfsin f s
  | .vfcos f => Sys2Proof.Machine.execVfcos f s
  | .vfsqrt f => Sys2Proof.Machine.execVfsqrt f s
  | .vftanh f => Sys2Proof.Machine.execVftanh f s
  | .vcvt f => Sys2Proof.Machine.execVcvt f s
  | .vpack f => Sys2Proof.Machine.execVpack f s
  | .vunpk f => Sys2Proof.Machine.execVunpk f s
  | .vdoth f => Sys2Proof.Machine.execVdoth f s
  | .vdotb f => Sys2Proof.Machine.execVdotb f s
  | .vdotn f => Sys2Proof.Machine.execVdotn f s
  | .vqadd f => Sys2Proof.Machine.execVqadd f s
  | .vqsub f => Sys2Proof.Machine.execVqsub f s
  | .vqmul f => Sys2Proof.Machine.execVqmul f s
  | .vqdiv f => Sys2Proof.Machine.execVqdiv f s
  | .vqcmp f => Sys2Proof.Machine.execVqcmp f s
  | .vqcvt f => Sys2Proof.Machine.execVqcvt f s
  | .vqrnd f => Sys2Proof.Machine.execVqrnd f s
  | .vqfma f => Sys2Proof.Machine.execVqfma f s
  | .vshfl f => Sys2Proof.Machine.execVshfl f s
  | .vshfi f => Sys2Proof.Machine.execVshfi f s
  | .vrfal f => Sys2Proof.Machine.execVrfal f s
  | .vrdln f => Sys2Proof.Machine.execVrdln f s
  | .vwrln f => Sys2Proof.Machine.execVwrln f s
  | .vredu f => Sys2Proof.Machine.execVredu f s
  | .vscan f => Sys2Proof.Machine.execVscan f s
  | .vmatch f => Sys2Proof.Machine.execVmatch f s
  | .vredm f => Sys2Proof.Machine.execVredm f s
  | .ld f => Sys2Proof.Machine.execLd f s
  | .st f => Sys2Proof.Machine.execSt f s
  | .ldu f => Sys2Proof.Machine.execLdu f s
  | .stu f => Sys2Proof.Machine.execStu f s
  | .lds f => Sys2Proof.Machine.execLds f s
  | .sts f => Sys2Proof.Machine.execSts f s
  | .ldc f => Sys2Proof.Machine.execLdc f s
  | .stc f => Sys2Proof.Machine.execStc f s
  | .ldv f => Sys2Proof.Machine.execLdv f s
  | .clrv f => Sys2Proof.Machine.execClrv f s
  | .pref f => Sys2Proof.Machine.execPref f s
  | .cinv f => Sys2Proof.Machine.execCinv f s
  | .cwb f => Sys2Proof.Machine.execCwb f s
  | .llck f => Sys2Proof.Machine.execLlck f s
  | .lunl f => Sys2Proof.Machine.execLunl f s
  | .presQuery f => Sys2Proof.Machine.execPresQuery f s
  | .presSet f => Sys2Proof.Machine.execPresSet f s
  | .presClr f => Sys2Proof.Machine.execPresClr f s
  | .fence f => Sys2Proof.Machine.execFence f s
  | .rdsb f => Sys2Proof.Machine.execRdsb f s
  | .rdse f => Sys2Proof.Machine.execRdse f s
  | .publ f => Sys2Proof.Machine.execPubl f s
  | .retq f => Sys2Proof.Machine.execRetq f s
  | .gpwt f => Sys2Proof.Machine.execGpwt f s
  | .gpqy f => Sys2Proof.Machine.execGpqy f s
  | .atomAdd f => Sys2Proof.Machine.execAtomAdd f s
  | .atomMin f => Sys2Proof.Machine.execAtomMin f s
  | .atomMax f => Sys2Proof.Machine.execAtomMax f s
  | .atomAnd f => Sys2Proof.Machine.execAtomAnd f s
  | .atomOr f => Sys2Proof.Machine.execAtomOr f s
  | .atomXor f => Sys2Proof.Machine.execAtomXor f s
  | .atomXchg f => Sys2Proof.Machine.execAtomXchg f s
  | .atomFaddF32 f => Sys2Proof.Machine.execAtomFaddF32 f s
  | .atomFaddBf16 f => Sys2Proof.Machine.execAtomFaddBf16 f s
  | .atomQadd f => Sys2Proof.Machine.execAtomQadd f s
  | .redAdd f => Sys2Proof.Machine.execRedAdd f s
  | .redMin f => Sys2Proof.Machine.execRedMin f s
  | .redMax f => Sys2Proof.Machine.execRedMax f s
  | .redAnd f => Sys2Proof.Machine.execRedAnd f s
  | .redOr f => Sys2Proof.Machine.execRedOr f s
  | .redXor f => Sys2Proof.Machine.execRedXor f s
  | .redXchg f => Sys2Proof.Machine.execRedXchg f s
  | .redFaddF32 f => Sys2Proof.Machine.execRedFaddF32 f s
  | .redFaddBf16 f => Sys2Proof.Machine.execRedFaddBf16 f s
  | .redQadd f => Sys2Proof.Machine.execRedQadd f s
  | .acas f => Sys2Proof.Machine.execAcas f s
  | .barv f => Sys2Proof.Machine.execBarv f s
  | .barw f => Sys2Proof.Machine.execBarw f s
  | .barwP f => Sys2Proof.Machine.execBarwP f s
  | .bars f => Sys2Proof.Machine.execBars f s
  | .sigp f => Sys2Proof.Machine.execSigp f s
  | .sigw f => Sys2Proof.Machine.execSigw f s
  | .sigwSatisfied id => Sys2Proof.Machine.execSigwSatisfied id s
  | .lease f => Sys2Proof.Machine.execLease f s
  | .rels f => Sys2Proof.Machine.execRels f s
  | .gang f => Sys2Proof.Machine.execGang f s
  | .mma f => Sys2Proof.Machine.execMma f s
  | .mzero f => Sys2Proof.Machine.execMzero f s
  | .mdrn f => Sys2Proof.Machine.execMdrn f s
  | .ldfr f => Sys2Proof.Machine.execLdfr f s
  | .mstat f => Sys2Proof.Machine.execMstat f s
  | .flcp f => Sys2Proof.Machine.execFlcp f s
  | .flmc f => Sys2Proof.Machine.execFlmc f s
  | .flrd f => Sys2Proof.Machine.execFlrd f s
  | .flwt f => Sys2Proof.Machine.execFlwt f s
  | .flst f => Sys2Proof.Machine.execFlst f s
  | .hrst f => Sys2Proof.Machine.execHrst f s
  | .hrsp f => Sys2Proof.Machine.execHrsp f s
  | .hrqs f => Sys2Proof.Machine.execHrqs f s
  | .walkComplete part page => Sys2Proof.Machine.execWalkComplete part page s
  | .operationComplete id => Sys2Proof.Machine.execOperationComplete id s
  | .memoryOpComplete id => Sys2Proof.Machine.execMemoryOpComplete id s
  | .atomicPerform id => Sys2Proof.Machine.execAtomicPerform id s
  | .homeWritePerform die line => Sys2Proof.Machine.execHomeWritePerform die line s
  | .staleMapRetry core part => Sys2Proof.Machine.execStaleMapRetry core part s
  | .trapReport gid => Sys2Proof.Machine.execTrapReport gid s
  | .trapHandlerEntry gid => Sys2Proof.Machine.execTrapHandlerEntry gid s
  | .groupRetire gid => Sys2Proof.Machine.execGroupRetire gid s
  | .gridComplete grid => Sys2Proof.Machine.execGridComplete grid s
  | .regionAbort gid => Sys2Proof.Machine.execRegionAbort gid s
  | .preempt part v => Sys2Proof.Machine.execPreempt part v s
  | .preemptDeferExpire part v => Sys2Proof.Machine.execPreemptDeferExpire part v s
  | .teamSave tid => Sys2Proof.Machine.execTeamSave tid s
  | .resume part v => Sys2Proof.Machine.execResume part v s
  | .remove part v => Sys2Proof.Machine.execRemove part v s
  | .replayPage part v => Sys2Proof.Machine.execReplayPage part v s
  | .replayToken part v => Sys2Proof.Machine.execReplayToken part v s
  | .tlbInvalidatePage part v => Sys2Proof.Machine.execTlbInvalidatePage part v s
  | .tlbInvalidateAll part v => Sys2Proof.Machine.execTlbInvalidateAll part v s
  | .weirAttempt => Sys2Proof.Machine.execWeirAttempt s
  | .weirSumDone => Sys2Proof.Machine.execWeirSumDone s
  | .weirAdopted cores => Sys2Proof.Machine.execWeirAdopted cores s
  | .weirFree => Sys2Proof.Machine.execWeirFree s
  | .weirAppend => Sys2Proof.Machine.execWeirAppend s
  | .graceStall => Sys2Proof.Machine.execGraceStall s
  | .podAdvance => Sys2Proof.Machine.execPodAdvance s
  | .mapChange part off v => Sys2Proof.Machine.execMapChange part off v s
  | .mapLineHandover part line => Sys2Proof.Machine.execMapLineHandover part line s
  | .mapChangeComplete part => Sys2Proof.Machine.execMapChangeComplete part s
  | .stackUncorrectable line words => Sys2Proof.Machine.execStackUncorrectable line words s
  | .hostWrite fn pa bytes => Sys2Proof.Machine.execHostWrite fn pa bytes s
  | .hostRead fn sp pa n => Sys2Proof.Machine.execHostRead fn sp pa n s
  | .hqdoor part q v => Sys2Proof.Machine.execHqdoor part q v s
  | .hqidxHalt part q v => Sys2Proof.Machine.execHqidxHalt part q v s
  | .packetTake part q => Sys2Proof.Machine.execPacketTake part q s
  | .launchQueueTake part => Sys2Proof.Machine.execLaunchQueueTake part s
  | .teamStart field => Sys2Proof.Machine.execTeamStart field s
  | .clusterStart grid => Sys2Proof.Machine.execClusterStart grid s
  | .tcbSend grid => Sys2Proof.Machine.execTcbSend grid s
  | .stealRequest field => Sys2Proof.Machine.execStealRequest field s
  | .tcbArrival field => Sys2Proof.Machine.execTcbArrival field s
  | .slotUrgent gid slot => Sys2Proof.Machine.execSlotUrgent gid slot s
  | .leaseGrant core => Sys2Proof.Machine.execLeaseGrant core s
  | .leaseExpire core => Sys2Proof.Machine.execLeaseExpire core s
  | .jointMmaStart tid => Sys2Proof.Machine.execJointMmaStart tid s
  | .flumeLineArrival id place => Sys2Proof.Machine.execFlumeLineArrival id place s
  | .flumeComplete id => Sys2Proof.Machine.execFlumeComplete id s
  | .headraceFetchReturn gid q => Sys2Proof.Machine.execHeadraceFetchReturn gid q s
  | .numberedFlitReceive link x => Sys2Proof.Machine.execNumberedFlitReceive link x s
  | .controlFlitReceive link x => Sys2Proof.Machine.execControlFlitReceive link x s
  | .replayTimeout link => Sys2Proof.Machine.execReplayTimeout link s
  | .relayForward link => Sys2Proof.Machine.execRelayForward link s
  | .rdl h d => Sys2Proof.Machine.execRdl h d s
  | .rdh h d => Sys2Proof.Machine.execRdh h d s
  | .wrl h d => Sys2Proof.Machine.execWrl h d s
  | .wrs h d => Sys2Proof.Machine.execWrs h d s
  | .atm h d => Sys2Proof.Machine.execAtm h d s
  | .fabricRed h d => Sys2Proof.Machine.execFabricRed h d s
  | .clb h d => Sys2Proof.Machine.execClb h d s
  | .vld h d => Sys2Proof.Machine.execVld h d s
  | .wat h d => Sys2Proof.Machine.execWat h d s
  | .clm h d => Sys2Proof.Machine.execClm h d s
  | .rdata h d => Sys2Proof.Machine.execRdata h d s
  | .rdone h d => Sys2Proof.Machine.execRdone h d s
  | .rnack h d => Sys2Proof.Machine.execRnack h d s
  | .adopt p => Sys2Proof.Machine.execAdopt p s
  | .report dev p e demand => Sys2Proof.Machine.execReport dev p e demand s
  | .scrub dev base granules ticket => Sys2Proof.Machine.execScrub dev base granules ticket s
  | .scrubDone dev ticket => Sys2Proof.Machine.execScrubDone dev ticket s
  | .linkDownExchange link seq => Sys2Proof.Machine.execLinkDownExchange link seq s
  | .channelsLit link lit => Sys2Proof.Machine.execChannelsLit link lit s
  | .lossOfLight link rx dark => Sys2Proof.Machine.execLossOfLight link rx dark s
  | .spareTrained spare => Sys2Proof.Machine.execSpareTrained spare s
  | .channelLightReturn link rx lit => Sys2Proof.Machine.execChannelLightReturn link rx lit s
  | .keyLimit link c => Sys2Proof.Machine.execKeyLimit link c s
  | .linkctlRetrain link v => Sys2Proof.Machine.execLinkctlRetrain link v s
  | .linkctlRotate link v => Sys2Proof.Machine.execLinkctlRotate link v s
  | .rotationComplete link => Sys2Proof.Machine.execRotationComplete link s
  | .keyloadTransmit link => Sys2Proof.Machine.execKeyloadTransmit link s
  | .keyloadReceive link => Sys2Proof.Machine.execKeyloadReceive link s
  | .accessTableUpdate target master slot v => Sys2Proof.Machine.execAccessTableUpdate target master slot v s
  | .vdmapWrite vd v => Sys2Proof.Machine.execVdmapWrite vd v s
  | .attestRequest fn => Sys2Proof.Machine.execAttestRequest fn s
  | .mrext v => Sys2Proof.Machine.execMrext v s
  | .stepclr v => Sys2Proof.Machine.execStepclr v s
  | .deviceReset => Sys2Proof.Machine.execDeviceReset s
  | .registerWrite master off v => Sys2Proof.Machine.execRegisterWrite master off v s
  | .spillwayFlitReceive link x => Sys2Proof.Machine.execSpillwayFlitReceive link x s

end Sys2Proof.Machine
end

