-- ==== Sys2Proof/Machine/Cycle.lean ====
section
/-! DEFINITION. A cycle of a core: the slot that is picked issues, and with it a second slot of the core where R403 picks both (R90, R123,
R129, R308, R402 to R404). -/
namespace Sys2Proof.Machine

/-- The issue of a picked slot. -/
def issueSlot (x : Nat × Bool) (s : State) : StepOut :=
  match frontEnd (picked x s) with
  | .run i s => exec i s
  | .stopped s => .next s

/-- The instruction that a picked slot stands at, where it issues now. -/
def issuing (x : Nat × Bool) (s : State) : Option Instr :=
  match frontEnd (picked x s) with
  | .run i t => match exec i t with
    | .next u => if u.issues = s.issues then none else some i
    | _ => none
  | .stopped _ => none

/-- A slot of a group, the vacant one where there is no such group. -/
def slotOf (s : State) (x : Nat × Bool) : Slot := match groupOf s x.1 with | some g => g.slot x.2 | none => Slot.vacant

/-- Would a picked slot trap instead of issuing? -/
def trapping (x : Nat × Bool) (s : State) : Bool :=
  match issueSlot x s with
  | .next t => t.issues == s.issues && (match groupOf s x.1, groupOf t x.1 with
    | some g, some h => g.trap.isNone && (h.trap.isSome || g.inHandler != h.inHandler || h.life != .resident)
    | _, _ => false)
  | _ => false

/-- Is a slot ready: picked now, it would not stay held (R223)? -/
def couldIssue (x : Nat × Bool) (s : State) : Bool :=
  match groupOf s x.1 with
  | none => false
  | some g => mayPick s g x.2 && (match issueSlot x s with
    | .next t => t.issues != s.issues || (slotOf t x).st != .held
    | _ => false)

/-! ### The second slot of a cycle (R403) -/

/-- May a slot be picked second beside an instruction of a group that issues, if one does: its word can issue, its port is free, and it meets the bank
rule; or it traps? -/
def fits (g : Group) (i : Option Instr) (s : State) (y : Nat × Bool) : Bool :=
  match issuing y s, groupOf s y.1 with
  | some j, some h => (match i with | some i => pairOk g i h j | none => true)
  | _, _ => trapping y s

/-- The slot that is picked second in the cycle in which a slot of a group issues an instruction, or traps, among slots in the order of R403. -/
def secondOf (g : Group) (i : Option Instr) (s : State) : Nat → List (Nat × Bool × Nat) → Option (Nat × Bool)
  | 0, _ => none
  | n + 1, l =>
    match firstSlot s l with
    | none => none
    | some y => if fits g i s (y.1, y.2.1) then some (y.1, y.2.1) else secondOf g i s n (l.filter (fun z => z != y))

/-- The other slots of a core that may be picked, beside x. -/
def besides (c : Nat) (x : Nat × Bool) (s : State) : List (Nat × Bool × Nat) := (pickable s).filter (fun z => z.2.2 == c && z != (x.1, x.2, c))

/-- The slot that its core picks second in the cycle in which slot x issues, or traps, of the same group or of another. -/
def partner (x : Nat × Bool) (s : State) : Option (Nat × Bool) :=
  match groupOf s x.1 with
  | none => none
  | some g =>
    let l := besides g.core x s
    if l.isEmpty then none
    else match issuing x s with
      | none => if trapping x s then secondOf g none s l.length l else none
      | some i => secondOf g (some i) s l.length l

/-- The place of a group's slot in its core's age order. -/
def ageIn (s : State) (x : Nat × Bool) : Nat := match groupOf s x.1 with | some g => ageOf s (x.1, x.2, g.core) | none => 0

/-- The writes of a cycle in which both slots of a group issue, first those of x, in the order of the age matrix (R41, R90, R129). -/
def byAge (x y : Nat × Bool) (s : State) (lx ly : List Late) : List Late := if ageIn s y < ageIn s x then ly ++ lx else lx ++ ly

/-- Both slots of a group in one cycle, x picked before y: y reads x's mask and the group's registers as they were, and then the writes of both are
made, the older slot's first (R41, R90, R123, R129). -/
def issueBoth (x y : Nat × Bool) (s : State) : StepOut :=
  match issueSlot x { s with late := some [] } with
  | .next t =>
    let m := (t.grp.slot x.2).exec
    let lx := t.late.getD []
    match issueSlot y (modGroup x.1 (fun g => g.modSlot x.2 (fun z => { z with exec := (slotOf s x).exec })) t) with
    | .next u =>
      let u := modGroup x.1 (fun g => g.modSlot x.2 (fun z => { z with exec := m })) u
      .next (settle (byAge x y s lx ((u.late.getD []).drop lx.length)) { u with late := none })
    | o => o
  | o => o

/-- Slots of two groups in one cycle: they share no register. -/
def issueApart (x y : Nat × Bool) (s : State) : StepOut :=
  match issueSlot x s with
  | .next t =>
    match groupOf t y.1 with
    | some g => if mayPick t g y.2 then issueSlot y t else .next t
    | none => .next t
  | o => o

/-! ### A cycle (R308, R402, R403) -/

/-- Two slots that are picked in one cycle. Where both slots of a group trap, the older one's trap is reported; the other's instruction counts as not
issued (R308). -/
def issueTwo (x y : Nat × Bool) (s : State) : StepOut :=
  if y.1 != x.1 then issueApart x y s
  else if ageIn s y < ageIn s x && trapping x s && trapping y s then issueBoth y x s
  else issueBoth x y s

/-- A cycle of a core in which slots of it have issued: every other slot of it that was ready has waited one more, and one that was not has waited for
nothing (R402, R404). -/
def countWaits (c : Nat) (picks : List (Nat × Bool)) (before s : State) : State :=
  let up (g : Group) (b : Bool) (x : Slot) : Slot :=
    if picks.contains (g.gid, b) then x
    else { x with waited := if (x.st == .ready || x.st == .held) && couldIssue (g.gid, b) before then x.waited + 1 else 0 }
  mapGroups (fun g => if g.core = c then { g with slot0 := up g false g.slot0, slot1 := up g true g.slot1 } else g) s

/-- The cycle in which slot x is picked first: it issues, alone or with another; or it holds, parks or traps. -/
def cycleOf (x : Nat × Bool) (s : State) : StepOut :=
  let r := match partner x s with
    | some y => (issueTwo x y s, [x, y])
    | none => (issueSlot x s, [x])
  match r.1, groupOf s x.1 with
  | .next t, some g => if t.issues = s.issues then .next t else .next (countWaits g.core r.2 s t)
  | o, _ => o

/-- Has a picked slot been left held, nothing having issued? -/
def leftHeld (x : Nat × Bool) (s t : State) : Bool := t.issues == s.issues && (slotOf t x).st == .held

/-- A cycle of the core of a picked slot (R402, R403): a slot whose word cannot issue is held, and the next of its core is picked. `n` bounds the
slots, those of `tried` hold. -/
def cycle : Nat → List (Nat × Bool × Nat) → Nat × Bool → State → StepOut
  | 0, _, x, s => cycleOf x s
  | n + 1, tried, x, s =>
    match cycleOf x s, groupOf s x.1 with
    | .next t, some g =>
      if leftHeld x s t then
        let l := tried ++ [(x.1, x.2, g.core)]
        match firstSlot t ((besides g.core x t).filter (fun z => ! l.contains z)) with
        | some y => cycle n l (y.1, y.2.1) t
        | none => .next t
      else .next t
    | o, _ => o

end Sys2Proof.Machine
end

