-- ==== Sys2Proof/Machine/Step.lean ====
section
/-! DEFINITION. One step of the machine: an input that is due, a step of another agent, or the issue of a slot. -/
namespace Sys2Proof.Machine

/-- Time passes (R124; log entry 5), for the Weir's waits too (R294, R304). -/
def elapse (s : State) : State := weirElapse { s with time := s.time + Config.elapsed s.tick, tick := s.tick + 1 }

/-- A step that no input takes: other agents and slots take turns (log entry 16). -/
def turnStep (s : State) : Host.Outcome State Fault Refusal :=
  match (if s.turn then agent { s with turn := false } else none) with
  | some o => o
  | none =>
    match pick s with
    | some x => cycle 96 [] x s
    | none => (agent { s with turn := false }).getD (.next { s with turn := false })

/-- One step. -/
def step (s : State) : Host.Outcome State Fault Refusal :=
  let s := elapse s
  match s.agenda with
  | i :: t => exec i { s with agenda := t }
  | [] => turnStep s

/-- A state whose next step fetches and runs the word given. -/
def State.withFetchWord (s : State) (nbits w : Nat) : State := placeWord s nbits w

end Sys2Proof.Machine
end

