-- ==== Sys2Proof/Safety.lean ====
section
/-! DEFINITION. The terms in which the claims are stated: when an instruction of a slot executes normally, what a step leaves unchanged, and the
invariants. -/
namespace Sys2Proof.Machine


/-! ### Normal execution -/

/-- The state in which an instruction takes effect: where the open region ends before it and no store waits, the next region has begun (R320). -/
def entered (x : Instr) (s : State) : State := if endsBefore s x then endRegion s else s

/-- Nothing keeps an instruction of the issuing slot from taking effect: the slot is live, no rule makes the word an ILL where it stands (R50), no
buffered store waits where the region must end before it (R320), the flag that CF names is not full (R24), and every bound queue that it
pops holds a word whose postmark fits (R42, R359). -/
def ready (x : Instr) (s : State) : Bool :=
  (slot s).live && ! illHere s x && (! endsBefore s x || s.grp.buf.isEmpty) && ! flagFull (entered x s) x
    && (poppedBy (entered x s).grp (vecSrcs x)).all (fun k => (qHead (entered x s).grp k).isSome) && popBad (entered x s).grp (vecSrcs x) == 0

/-- The same of a slot that issues alone in its cycle, so that its writes are made at once; where two slots of a group issue in one cycle the writes of
both are made at the end (R123, R129). -/
def clear (x : Instr) (s : State) : Bool := s.late.isNone && ready x s

/-- Does an instruction end a region, and begin the next after it (R320)? -/
def endsRegion (x : Instr) : Bool := commits x

/-! ### Frames -/

/-- Memory reads as before: every byte, every postmark, every validity bit. -/
structure MemorySame (s t : State) : Prop where
  bytes : ∀ a, readByte t a = readByte s a
  marks : ∀ a, readMark t a = readMark s a
  valid : ∀ a, readValid t a = readValid s a

/-- Everything outside the issuing group is as before, but for the age order of PC slots (R402) and the model's own counters. -/
structure OutsideSame (s t : State) : Prop where
  cur : t.cur = s.cur
  groups : t.groups = s.groups
  team : t.team = s.team
  teams : t.teams = s.teams
  clusters : t.clusters = s.clusters
  grids : t.grids = s.grids
  parts : t.parts = s.parts
  cores : ∀ c, { core t c with age := [] } = { core s c with age := [] }
  dies : t.dies = s.dies
  slices : t.slices = s.slices
  memory : MemorySame s t
  pins : t.pins = s.pins
  claims : t.claims = s.claims
  wbs : t.wbs = s.wbs
  flumes : t.flumes = s.flumes
  weir : t.weir = s.weir
  distr : t.distr = s.distr
  fabric : t.fabric = s.fabric
  mgmt : t.mgmt = s.mgmt
  ticket : t.ticket = s.ticket
  hostOut : t.hostOut = s.hostOut
  hostHeld : t.hostHeld = s.hostHeld
  time : t.time = s.time
  late : t.late = s.late
  agenda : t.agenda = s.agenda

/-- A group's identity, its modes and its exception state are as before. -/
structure ControlSame (g h : Group) : Prop where
  gid : h.gid = g.gid
  part : h.part = g.part
  grid : h.grid = g.grid
  team : h.team = g.team
  cluster : h.cluster = g.cluster
  index : h.index = g.index
  core : h.core = g.core
  place : h.place = g.place
  gslot : h.gslot = g.gslot
  life : h.life = g.life
  dvCap : h.dvCap = g.dvCap
  rmode : h.rmode = g.rmode
  window : h.window = g.window
  waitList : h.waitList = g.waitList
  trap : h.trap = g.trap
  heldTraps : h.heldTraps = g.heldTraps
  laterTraps : h.laterTraps = g.laterTraps
  inHandler : h.inHandler = g.inHandler
  noHandler : h.noHandler = g.noHandler
  stopped : h.stopped = g.stopped
  removed : h.removed = g.removed
  aborting : h.aborting = g.aborting
  pgtok : h.pgtok = g.pgtok
  pgPend : h.pgPend = g.pgPend

/-- The special registers of a group that computation does not write are as before. -/
structure SpecialSame (g h : Group) : Prop where
  qmode : h.qmode = g.qmode
  dvDepth : h.dvDepth = g.dvDepth
  rdDepth : h.rdDepth = g.rdDepth
  rdPar : h.rdPar = g.rdPar

/-- A slot past an instruction of n bytes that has issued (R15, R18, R118). -/
def passed (x : Slot) (n : Nat) : Slot := (Slot.issued x).step n

/-! ### Groups after an instruction -/

/-- A group whose next region has begun (R320). -/
def Group.begins (g : Group) : Group := { g with region := g.region + 1, start := g.record }

/-- A group whose slot has passed an instruction of a length. -/
def Group.passes (g : Group) (b : Bool) (l : Len) : Group := g.modSlot b (fun x => passed x (4 * l.words))

/-- A group with one more outstanding operation, counted on the flag that CF names (R24). -/
def Group.starts (g : Group) (s : State) (cf : Nat) (o : Op) : Group :=
  { countOn s.cur (flagNo s cf) g with ops := g.ops ++ [{ o with id := s.nextId, slot := s.cur, flag := flagNo s cf, region := g.region }] }

/-- A group at the end of an instruction: where the instruction ends a region, the next begins (R320). -/
def Group.closes (g : Group) (x : Instr) : Group := if commits x then g.begins else g

/-- The target at an offset of n words from an address (R105). -/
def relTarget (pc : Nat) (n : Int) : Nat := (((pc : Int) + 4 * n) % 2 ^ 64).toNat

/-- Every flag that a mask names reads zero (R19, R119). -/
def flagsClear (x : Slot) (m : BitVec 12) : Prop := ∀ k < 12, m.getLsbD k = true → x.flag k = 0

/-- The instruction ran: a next state in which the issuing group is g, and nothing outside it has changed but the age order of slots. -/
def Yields (x : Instr) (s : State) (g : Group) : Prop := ∃ t, exec x s = .next t ∧ t.grp = g ∧ OutsideSame s t

/-- The instruction ran, with effects outside the issuing group too: a next state in which the issuing group is g, and everything outside it is as in
w but for the age order of slots. -/
def YieldsIn (x : Instr) (s w : State) (g : Group) : Prop := ∃ t, exec x s = .next t ∧ t.grp = g ∧ OutsideSame w t

/-- A completed operation that is still to write a scalar register. -/
def Op.writing (d : Nat) (v : Word) : Op := { Op.new .done with writes := [.scal d v allBits] }

/-! ### Integer elements, by bit vectors (R92 to R97, R131, R132) -/

/-- The value of a form's element: the instruction's fields, the width, whether TY is an i type, and the elements of A, B and C. -/
abbrev ElemFn := Comp → (w : Nat) → Bool → BitVec w → BitVec w → BitVec w → BitVec w

/-- Is a below b, by TY? -/
def below {w : Nat} (sg : Bool) (a b : BitVec w) : Bool := if sg then a.slt b else a.ult b

/-- The condition codes of R97. -/
def holdsCc {w : Nat} (cc : Nat) (sg : Bool) (a b : BitVec w) : Bool :=
  match cc with
  | 0 => a == b
  | 1 => a != b
  | 2 => below sg a b
  | 3 => ! below sg b a
  | 4 => below sg b a
  | _ => ! below sg a b

/-- The product of 2w bits of two elements, signed or unsigned by TY. -/
def wideMul {w : Nat} (sg : Bool) (a b : BitVec w) : BitVec (2 * w) :=
  if sg then a.signExtend (2 * w) * b.signExtend (2 * w) else a.setWidth (2 * w) * b.setWidth (2 * w)

/-- The table of R92, without the bit operations' names: SUB 0 to 13. -/
def addE : ElemFn := fun _ _ _ a b _ => a + b
def subE : ElemFn := fun _ _ _ a b _ => a - b
def andE : ElemFn := fun _ _ _ a b _ => a &&& b
def orE : ElemFn := fun _ _ _ a b _ => a ||| b
def xorE : ElemFn := fun _ _ _ a b _ => a ^^^ b
def shlE : ElemFn := fun _ w _ a b _ => a <<< (b.toNat % w)
def shrE : ElemFn := fun _ w _ a b _ => a >>> (b.toNat % w)
def sarE : ElemFn := fun _ w _ a b _ => a.sshiftRight (b.toNat % w)
def minE : ElemFn := fun _ _ sg a b _ => if below sg b a then b else a
def maxE : ElemFn := fun _ _ sg a b _ => if below sg a b then b else a
def mulE : ElemFn := fun _ _ _ a b _ => a * b
def mulhE : ElemFn := fun _ w sg a b _ => (wideMul sg a b).extractLsb' w w
def popcE : ElemFn := fun _ w _ a _ _ => BitVec.ofNat w ((List.range w).countP (fun k => a.getLsbD k))
def clzE : ElemFn := fun _ w _ a _ _ => BitVec.ofNat w ((List.range w).takeWhile (fun k => ! a.getMsbD k)).length
def ffsE : ElemFn := fun _ w _ a _ _ => BitVec.ofNat w ((List.range w).takeWhile (fun k => ! a.getLsbD k)).length
def notE : ElemFn := fun _ _ _ a _ _ => ~~~a
/-- R93. -/
def madE : ElemFn := fun _ _ _ a b c => a * b + c
/-- R96. -/
def selE : ElemFn := fun _ _ _ a b c => if c = 0 then b else a
/-- R97. -/
def cmpE : ElemFn := fun f w sg a b _ => if holdsCc f.cc sg a b then BitVec.allOnes w else 0
/-- R131. -/
def absE : ElemFn := fun _ _ sg a _ _ => if sg && a.msb then -a else a

/-- The value of an integer by TY. -/
def valueOfE {w : Nat} (sg : Bool) (a : BitVec w) : Int := if sg then a.toInt else a.toNat
/-- An integer clamped to the range of w bits. -/
def clampE (w : Nat) (sg : Bool) (x : Int) : BitVec w :=
  BitVec.ofInt w (if sg then max (-2 ^ (w - 1)) (min (2 ^ (w - 1) - 1) x) else max 0 (min (2 ^ w - 1) x))
/-- R134. -/
def addsE : ElemFn := fun _ w sg a b _ => clampE w sg (valueOfE sg a + valueOfE sg b)
/-- R134. -/
def subsE : ElemFn := fun _ w sg a b _ => clampE w sg (valueOfE sg a - valueOfE sg b)
/-- R94: the quotient. -/
def divE : ElemFn := fun _ w sg a b _ => if b = 0 then BitVec.allOnes w else if sg then a.sdiv b else a / b
/-- R94: the remainder. -/
def remE : ElemFn := fun _ _ sg a b _ => if b = 0 then a else if sg then a.srem b else a % b

/-- The scalar forms whose elements R92, R93, R96 and R97 give. -/
def scalarInts : List ((Comp → Instr) × ElemFn) :=
  [(.sadd, addE), (.ssub, subE), (.sand, andE), (.sor, orE), (.sxor, xorE), (.sshl, shlE), (.sshr, shrE), (.ssar, sarE), (.smin, minE),
    (.smax, maxE), (.smul, mulE), (.smulh, mulhE), (.spopc, popcE), (.sclz, clzE), (.sffs, ffsE), (.snot, notE), (.smad, madE), (.ssel, selE),
    (.scmp, cmpE)]

/-- The vector forms whose elements R131, R132 and R134 give. -/
def vectorInts : List ((Comp → Instr) × ElemFn) :=
  [(.vadd, addE), (.vsub, subE), (.vand, andE), (.vor, orE), (.vxor, xorE), (.vshl, shlE), (.vshr, shrE), (.vsar, sarE), (.vmin, minE),
    (.vmax, maxE), (.vmul, mulE), (.vmulh, mulhE), (.vpopc, popcE), (.vclz, clzE), (.vabs, absE), (.vnot, notE), (.vmad, madE), (.vsel, selE),
    (.vadds, addsE), (.vsubs, subsE)]

/-- A register with new elements: every element, or only the one that SELD names (R35). -/
def merged (f : Comp) (old : Word) (v : Nat → Nat) : Word :=
  ofElems f.w (fun q => match seldPos f with | none => v q | some p => if q = p then v q else elem old q f.w)

/-- Element q of a form on given sources. -/
def elemOf (e : ElemFn) (f : Comp) (z : Srcs) (q : Nat) : Nat :=
  (e f f.w (tySigned f.ty.toNat) (BitVec.ofNat f.w (elem z.a q f.w)) (BitVec.ofNat f.w (elem z.b q f.w)) (BitVec.ofNat f.w (elem z.c q f.w))).toNat

/-! ### Bit fields, bit by bit (R95) -/

/-- POS and the length: from OPF in the 64-bit form, else from a register. -/
def fieldPlace (f : Comp) (c : Word) : Nat × Nat :=
  match f.len with
  | .l64 => ((f.opf.extractLsb' 0 6).toNat, (f.opf.extractLsb' 6 6).toNat + 1)
  | _ => ((c.extractLsb' 0 6).toNat, (c.extractLsb' 8 6).toNat + 1)

/-- Bit k of the field of a: zero at and above w, and at and above the length the sign bit for an i type or zero. -/
def bfxBit {w : Nat} (sg : Bool) (pos len : Nat) (a : BitVec w) (k : Nat) : Bool :=
  if k < len then a.getLsbD (pos + k) else sg && a.getLsbD (pos + len - 1)

/-- Bit k of b with its field replaced by the low bits of a. -/
def bfiBit {w : Nat} (pos len : Nat) (a b : BitVec w) (k : Nat) : Bool :=
  if pos ≤ k && k < pos + len then a.getLsbD (k - pos) else b.getLsbD k

/-- Element q of SBFX and VBFX. -/
def bfxOf (f : Comp) (z : Srcs) (q : Nat) : Nat :=
  (BitVec.ofBoolListLE ((List.range f.w).map (bfxBit (tySigned f.ty.toNat) (fieldPlace f z.c).1 (fieldPlace f z.c).2 (BitVec.ofNat f.w (elem z.a q f.w))))).toNat

/-- Element q of SBFI and VBFI. -/
def bfiOf (f : Comp) (z : Srcs) (q : Nat) : Nat :=
  (BitVec.ofBoolListLE ((List.range f.w).map
    (bfiBit (fieldPlace f z.c).1 (fieldPlace f z.c).2 (BitVec.ofNat f.w (elem z.a q f.w)) (BitVec.ofNat f.w (elem z.b q f.w))))).toNat

/-! ### Results of computational forms -/

/-- The group after a scalar form that writes these elements. -/
def scalarAfter (f : Comp) (s : State) (v : Nat → Nat) : Group :=
  (s.grp.writeS s.cur f.d.toNat (merged f (readS s f.d.toNat) v) allBits).passes s.cur f.len

/-- The group after a vector form that writes these elements in the lanes that compute, its queues popped. -/
def vectorAfter (x : Instr) (f : Comp) (s : State) (v : Nat → Nat → Nat) : Group :=
  popAll (vecSrcs x) ((s.grp.writeV f.d.toNat (active s f.msk.toNat) (fun l => merged f (lane (readV s f.d.toNat) l) (v l)) allBits).passes s.cur f.len)

/-- The group after a fixed-latency form: its writes, the flags it raises ORed into `fpstat` (R73), its queues popped. -/
def fixedAfter (x : Instr) (f : Comp) (o : Out) (s : State) : Group :=
  popAll (vecSrcs x) (((s.grp.applyAll s.cur o.writes).orFp o.fl).passes s.cur f.len)

/-- The group after a variable-latency form: an operation that will write and raise, and its queues popped (R24, R28). -/
def variableAfter (x : Instr) (f : Comp) (q : Bool) (o : Out) (s : State) : Group :=
  popAll (vecSrcs x)
    ((s.grp.starts s f.cf.toNat { Op.new .done with writes := o.writes, fp := if q then 0 else o.fl, qp := if q then o.fl else 0 }).passes s.cur f.len)

/-- The floating, converting and cross-lane forms of fixed latency, with what they write and raise (R136 to R148, R155 to R162). -/
def fixedForms : List ((Comp → Instr) × (Comp → CompInfo → Comp → State → Out)) :=
  [(.vfadd, fun _ => fltOut fAdd), (.vfsub, fun _ => fltOut fSub), (.vfmul, fun _ => fltOut fMul), (.vfmin, fun _ => fltOut fMin),
    (.vfmax, fun _ => fltOut fMax), (.vfabs, fun _ => fltOut (fSign (fun _ => false))), (.vfneg, fun _ => fltOut (fSign not)),
    (.vfcls, fun _ => fltOut fCls), (.vffma, fun _ => fltOut fFma), (.vfcmp, fun f => vcmpOut (cmpF (fmtOf f.ty.toNat) f.cc)),
    (.vfrcp, fun _ => sfnOut 0), (.vfrsq, fun _ => sfnOut 1), (.vfexp2, fun _ => sfnOut 2), (.vflog2, fun _ => sfnOut 3),
    (.vfsin, fun _ => sfnOut 4), (.vfcos, fun _ => sfnOut 5), (.vfsqrt, fun _ => sfnOut 6), (.vftanh, fun _ => sfnOut 7),
    (.vcvt, fun _ => cvtOut), (.vpack, fun _ => packOut), (.vunpk, fun _ => unpackOut), (.vdoth, fun _ => dotOut), (.vdotb, fun _ => dotOut),
    (.vdotn, fun _ => dotOut), (.vredu, fun _ => reduOut), (.vscan, fun _ => scanOut), (.vmatch, fun _ => matchOut), (.vredm, fun _ => redmOut)]

/-- MAJ 0x18 outside rational mode (R100 to R103). -/
def scalarFloats : List ((Comp → Instr) × (Comp → CompInfo → Comp → State → Out)) :=
  [(.sfadd, fun _ => fltOut fAdd), (.sfsub, fun _ => fltOut fSub), (.sfmul, fun _ => fltOut fMul), (.sfdiv, fun _ => fltOut fDiv),
    (.sfmin, fun _ => fltOut fMin), (.sfmax, fun _ => fltOut fMax), (.sffma, fun _ => fltOut fFma), (.sfcmp, fun f => fltOut (fCmp f.cc)),
    (.sfcvt, fun _ => sfcvtOut)]

/-- MAJ 0x18 in rational mode (R104). -/
def scalarRationals : List ((Comp → Instr) × (Comp → CompInfo → Comp → State → Out)) :=
  [(.sfadd, fun _ => ratOut (qBin QV.add)), (.sfsub, fun _ => ratOut (qBin QV.sub)), (.sfmul, fun _ => ratOut (qBin QV.mul)),
    (.sfdiv, fun _ => ratOut (qBin QV.div)), (.sfmin, fun _ => ratOut (qSel false)), (.sfmax, fun _ => ratOut (qSel true)),
    (.sffma, fun _ => ratOut qFma), (.sfcmp, fun f => ratOut (qCmp f.cc)), (.sfcvt, fun _ => sfcvtRat)]

/-- MAJ 0x38 (R149 to R153). -/
def vectorRationals : List ((Comp → Instr) × (Comp → CompInfo → Comp → State → Out)) :=
  [(.vqadd, fun _ => ratOut (qBin QV.add)), (.vqsub, fun _ => ratOut (qBin QV.sub)), (.vqmul, fun _ => ratOut (qBin QV.mul)),
    (.vqdiv, fun _ => ratOut (qBin QV.div)), (.vqcmp, fun f => ratOut (qCmp f.cc)), (.vqcvt, fun _ => vqcvtOut),
    (.vqrnd, fun f => ratOut (qRndElem (f.opfAt 0 6))), (.vqfma, fun _ => ratOut qFma)]

/-! ### Floats as numbers of their least unit (R68) -/

/-- The encodings of the finite magnitudes of a format are 0 to `maxEnc`; this is the magnitude in units of the least subnormal. -/
def Fmt.units (f : Fmt) (y : Nat) : Nat :=
  if y >>> f.mb = 0 then y % 2 ^ f.mb else (y % 2 ^ f.mb + 2 ^ f.mb) * 2 ^ (y >>> f.mb - 1)

/-- The number of least units in 1. -/
def Fmt.perOne (f : Fmt) : Nat := 2 ^ (f.bias + f.mb - 1)

/-- The magnitude r, of u r units, is x/d rounded by a rounding code among all the magnitudes (R71): the neighbour toward zero or away from it, or the
nearest, a tie to the even encoding. -/
def RoundsTo (rm : Nat) (neg : Bool) (u : Nat → Nat) (x d r : Nat) : Prop :=
  ((rm = 1 ∨ (rm = 2 ∧ neg = false) ∨ (rm = 3 ∧ neg = true)) → d * u r ≤ x ∧ ∀ y, d * u y ≤ x → u y ≤ u r)
  ∧ (((rm = 2 ∧ neg = true) ∨ (rm = 3 ∧ neg = false)) → x ≤ d * u r ∧ ∀ y, x ≤ d * u y → u r ≤ u y)
  ∧ (rm = 0 → ∀ y, ((d * u r : Int) - x).natAbs ≤ ((d * u y : Int) - x).natAbs
      ∧ (y ≠ r → ((d * u r : Int) - x).natAbs = ((d * u y : Int) - x).natAbs → r % 2 = 0))

/-- The magnitude r is the root of x/d, correctly rounded: between neighbours the midpoint decides, which no root meets (R141). -/
def RootRoundsTo (rm : Nat) (u : Nat → Nat) (x d r : Nat) : Prop :=
  ((rm = 1 ∨ rm = 2) → d * u r ^ 2 ≤ x ∧ ∀ y, d * u y ^ 2 ≤ x → u y ≤ u r)
  ∧ (rm = 3 → x ≤ d * u r ^ 2 ∧ ∀ y, x ≤ d * u y ^ 2 → u r ≤ u y)
  ∧ (rm = 0 → ∀ y, (u r < u y → 4 * x ≤ d * (u r + u y) ^ 2) ∧ (u y < u r → d * (u r + u y) ^ 2 ≤ 4 * x))

/-- A finite operand's signed value in units of 2^-k, where k reaches its exponent. -/
def FV.signed (k : Nat) : FV → Int
  | .fin s m e => (if s then -1 else 1) * ((m * 2 ^ (e + k).toNat : Nat) : Int)
  | _ => 0

/-- Is the operand finite, its exponent not below -k? -/
def FV.within (k : Nat) : FV → Prop
  | .fin _ _ e => 0 ≤ e + (k : Int)
  | _ => False

/-- The operand without its sign. -/
def FV.abs : FV → FV
  | .nan v => .nan v
  | .inf _ => .inf false
  | .fin _ m e => .fin false m e

/-! ### Forms that compute element by element (R35, R73, R128) -/

/-- Does a form write element q: every element, or only the one that SELD names (R35)? -/
def writesAt (f : Comp) (q : Nat) : Bool := match seldPos f with | none => true | some p => q == p

/-- The instruction ran, writing in the lanes of m of vector register D the elements that v gives, the other elements as they were, and ORing into `fpstat`
the flags of the elements it computed; e is what it does to the group besides. -/
def GivesLanes (x : Instr) (f : Comp) (s : State) (m : Mask) (w : Nat) (v : Nat → Nat → Option FRes) (e : Group → Group) : Prop :=
  ∃ (r : Nat → Word) (fl : Nat),
    (∀ l < 32, m.getLsbD l = true → ∀ q < 64 / w,
      elem (r l) q w = match v l q with | some y => y.bits % 2 ^ w | none => elem (lane (readV s f.d.toNat) l) q w)
    ∧ (∀ k < 6, fl.testBit k = true ↔ ∃ l < 32, m.getLsbD l = true ∧ ∃ q < 64 / w, ∃ y, v l q = some y ∧ y.fl.testBit k = true)
    ∧ Yields x s (popAll (vecSrcs x) (((e (s.grp.writeV f.d.toNat m r allBits)).orFp fl).passes s.cur f.len))

/-- The same with one result, in scalar register D. -/
def GivesScalar (x : Instr) (f : Comp) (s : State) (w : Nat) (v : Nat → Option FRes) (e : Group → Group) : Prop :=
  ∃ (r : Word) (fl : Nat),
    (∀ q < 64 / w, elem r q w = match v q with | some y => y.bits % 2 ^ w | none => elem (readS s f.d.toNat) q w)
    ∧ (∀ k < 6, fl.testBit k = true ↔ ∃ q < 64 / w, ∃ y, v q = some y ∧ y.fl.testBit k = true)
    ∧ Yields x s (popAll (vecSrcs x) (((e (s.grp.writeS s.cur f.d.toNat r allBits)).orFp fl).passes s.cur f.len))

/-- The sources of the lanes that compute, or of the group in a scalar or uniform form. -/
def sourcesOf (i : CompInfo) (f : Comp) (s : State) (immE wi : Nat) : List Srcs :=
  if i.scalar || f.u then [scalSrcs s i f immE wi]
  else ((List.range 32).filter (fun l => (active s f.msk.toNat).getLsbD l)).map (laneSrcs s i f immE wi)

/-- A form computes its elements of width w from the sources of each lane, or of the group in a scalar or uniform form; SELD leaves one element of them. -/
def Gives (x : Instr) (i : CompInfo) (f : Comp) (s : State) (immE wi w : Nat) (v : Srcs → Nat → Option FRes) (e : Group → Group) : Prop :=
  let v' := fun z q => if writesAt f q then v z q else none
  if i.scalar || f.u then GivesScalar x f s w (v' (scalSrcs s i f immE wi)) e
  else GivesLanes x f s (active s f.msk.toNat) w (fun l => v' (laneSrcs s i f immE wi l)) e

/-- An element of the three sources. -/
def atElem (f : Comp) (fn : Nat → Nat → Nat → FRes) (z : Srcs) (q : Nat) : Option FRes :=
  some (fn (elem z.a q f.w) (elem z.b q f.w) (elem z.c q f.w))

/-- The source element of element q of VCVT, if there is one (R143). -/
def cvtFrom (f : Comp) (q : Nat) : Option Nat :=
  let n := min (64 / tyWidth f.sty) (64 / f.w)
  let pos := (f.opf.extractLsb' 6 3).toNat
  if f.w < tyWidth f.sty then (if pos * n ≤ q ∧ q < pos * n + n then some (q - pos * n) else none)
  else if q < n then some (if tyWidth f.sty < f.w then pos * n + q else q) else none

/-- The product x of R143 of a source element. -/
def cvtX (f : Comp) (z : Srcs) (k : Nat) : FV :=
  let v := valueOf f.sty (elem z.a k (tyWidth f.sty))
  if f.opf.getLsbD 5 then v.mul (valueOf 10 (elem z.b 0 32)) else v

/-- How a conversion to a floating type overflows: the narrow types saturate unless `.nsat` (R72). -/
def narrowOv (ty : Nat) (nsat : Bool) : Ov := if [8, 9, 12, 13, 14].contains ty then (if nsat then .nsat else .sat) else .ieee

/-! ### Memory forms -/

/-- The group after an instruction that leaves an operation outstanding: its queues popped, its region ended where it ends one (R24, R42, R320); w is
the state in which the operation is made. -/
def Group.leaving (g : Group) (x : Instr) (w : State) (cf : Nat) (l : Len) (o : Op) : Group :=
  (popAll (vecSrcs x) ((g.starts w cf o).passes w.cur l)).closes x

/-- Every address is canonical, aligned and translated with its rights: the accesses, lane by lane (R167). -/
def Reaches (s : State) (vas : List (Nat × Nat)) (size : Nat) (nd : Need) (accs : List LaneAcc) : Prop :=
  accs.map (fun a => (a.lane, a.va)) = vas ∧ ∀ a ∈ accs, canonical a.va = true ∧ a.va % size = 0
    ∧ ∃ pa, xlate s (some s.grp.core) s.grp.part a.va size nd = .ok pa a.sreq ∧ a.pa = canonPa s pa

/-- The lanes of some addresses. -/
def lanesAt (vas : List (Nat × Nat)) : Mask := maskOf (fun l => vas.any (fun v => v.1 == l))

/-- The lowest lane's address. -/
def firstAt (vas : List (Nat × Nat)) : Nat := (vas.head?.map Prod.snd).getD 0

/-- Has an address no translation, its walk not refused by the access tables (R314, R438)? -/
def missesAt (s : State) (va : Nat) : Bool := (lookup s (some s.grp.core) s.grp.part va).isNone && ! walkRefused s s.grp.part va

/-- Is an address refused by the rights of its page or by the access tables (R313, R439)? -/
def refusedAt (s : State) (size : Nat) (nd : Need) (va : Nat) : Bool := xlate s (some s.grp.core) s.grp.part va size nd == .refused

/-- The forms with one address for each lane: what they need, and ACC of a record (R313, R319, R439). -/
def laneForms : List ((MemF → Instr) × Need × Nat) :=
  [(.ld, needLoad, 0), (.st, needStore, 1)]
    ++ ([.atomAdd, .atomMin, .atomMax, .atomAnd, .atomOr, .atomXor, .atomXchg, .atomFaddF32, .atomFaddBf16, .atomQadd, .redAdd, .redMin, .redMax, .redAnd,
        .redOr, .redXor, .redXchg, .redFaddF32, .redFaddBf16, .redQadd, .acas] : List (MemF → Instr)).map (fun c => (c, needAtomic, 2))

/-- The forms with one address: its size too. -/
def oneForms : List ((MemF → Instr) × (MemF → Nat) × Need × Nat) :=
  [(.ldu, fun f => tyBytes f.ty.toNat, needLoad, 0), (.stu, fun f => tyBytes f.ty.toNat, needStore, 1), (.sigp, fun _ => 8, needAtomic, 2),
    (.sigw, fun _ => 8, needWatch, 0), (.publ, fun _ => 8, needStore, 1)]

/-- The atomics and reductions with their operation and whether they return the old value (R59, R188, R192). -/
def atomForms : List ((MemF → Instr) × AtomKind × Bool) :=
  [(.atomAdd, .rmw 0, true), (.atomMin, .rmw 1, true), (.atomMax, .rmw 2, true), (.atomAnd, .rmw 3, true), (.atomOr, .rmw 4, true),
    (.atomXor, .rmw 5, true), (.atomXchg, .rmw 6, true), (.atomFaddF32, .rmw 7, true), (.atomFaddBf16, .rmw 8, true), (.atomQadd, .rmw 9, true),
    (.redAdd, .rmw 0, false), (.redMin, .rmw 1, false), (.redMax, .rmw 2, false), (.redAnd, .rmw 3, false), (.redOr, .rmw 4, false),
    (.redXor, .rmw 5, false), (.redXchg, .rmw 6, false), (.redFaddF32, .rmw 7, false), (.redFaddBf16, .rmw 8, false), (.redQadd, .rmw 9, false),
    (.acas, .cas, true)]

/-- The acquire of a load or a wait, if it has one (R170). -/
def acquired (f : MemF) (s : State) : State := match acqOf f with | some scope => acquireNow scope s | none => s

/-- The release that an order asks for, if it does (R170, R269). -/
def released (b : Bool) (f : MemF) (s : State) : State := if b then releaseNow f.scope.toNat s else s

/-- A global load's accesses with the words read for them (R168, R172, R174). -/
def gatherOf (f : MemF) (scalar valid : Bool) (s : State) (accs : List LaneAcc) (got : List (Nat × TWord)) (mine : List (Nat × List Byte)) : Gather :=
  { d := f.d.toNat, scalar := scalar, ty := f.ty.toNat, nv := f.nv, valid := valid, acq := acqOf f, tmpl := complTrap s 0 0 0, rdis := f.rdis.toNat, accs := accs, got := got,
    mine := mine, no := [] }

/-- The word of a load's access: what was read, under the slot's own buffered bytes (R172). -/
def Gather.word (g : Gather) (a : LaneAcc) : TWord := overlay g.mine a.pa ((assocGet (a.pa / 8 * 8) g.got).getD ⟨0, 0⟩)

/-- An atomic as it is issued (R187, R190). -/
def atomOf (f : MemF) (k : AtomKind) (ty qm : Nat) (ret : Bool) (reqs : List AtomReq) (va : Nat) (ticket : Option Nat) (s : State) : Op :=
  let a : AtomOp := {
    kind := k, ty := ty, ret := ret, nv := f.nv, d := f.d.toNat, qmode := qm, ticket := ticket,
    acq := (if f.ord == 1 || f.ord == 3 || f.ord == 4 then some f.scope.toNat else none), tmpl := complTrap s 0 0 va, reqs := reqs }
  let o : Op := { Op.new (.atomic a) with isLoad := ret, isWrite := true, ret := ret && k != .cas }
  if reqs.isEmpty then { atomDone a o with isLoad := ret, isWrite := true, ret := o.ret } else o

/-- The state in which an atomic's operation is made: its release made, its lines out of the issuing core's caches, a ticket taken where it is
seq-cst (R187, R190). -/
def atomReady' (f : MemF) (reqs : List AtomReq) (s : State) : State :=
  let s := released (atomReleases f) f s
  let s := ((reqs.map (fun r => lineNo s r.acc.pa)).eraseDups).foldl (fun s l => flushLine s.grp.core l s) s
  if f.ord = 4 then { s with ticket := s.ticket + 1 } else s

/-- What a cache holds of word i of a line: whether it is dirty, and the word. -/
def heldIn (l : List CLine) (line i : Nat) : Option (Bool × TWord) :=
  (findLine l line).bind (fun x => if (x.word i).valid then some ((x.word i).dirty, (x.word i).w) else none)

/-- The lines of a cache as every run leaves them: each once, of sixteen words, named by its home's number, no word dirty that is not there; and all of local
memory. -/
def LocalLines (s : State) (l : List CLine) : Prop :=
  (l.map CLine.line).Nodup ∧ ∀ x ∈ l, x.words.length = 16 ∧ (∀ w ∈ x.words, w.dirty = true → w.valid = true)
    ∧ lineNo s (x.line * 128) = x.line ∧ homeOf s (x.line * 128) = .localMem

/-- A grid as it is made when its packet is taken (R394). -/
def Grid.begun (id p snap pri : Nat) (k : Packet) : Grid :=
  { id := id, part := p, pkt := k, snap := snap, pri := pri, frontier := 0, sent := 0, retired := 0, cores := [], released := false, stall := none,
    posted := false }

/-! ### Runs -/

/-- A step that answers a next state. -/
def Steps (s t : State) : Prop := step s = .next t

/-- No step from a state faults or is refused. -/
def Safe (s : State) : Prop := ∃ t, step s = .next t

end Sys2Proof.Machine
end

