-- ==== Sys2Proof/Certificates/Slice0/Obligations.lean ====
section
/-! DEFINITION. The statements for the provers. Each says under which conditions on the state and the operands an instruction executes, and
what the next state then holds. -/
open Sys2Proof Sys2Proof.Machine

/-! ### Scalar and vector integers (R92 to R99, R131 to R135) -/

/-- R92, R93, R96, R97: the elements of the scalar integer forms; nothing else of the group changes but its PC, and no flag. -/
def Obligations.ScalarIntegerResults : Prop :=
  ∀ p ∈ scalarInts, ∀ (f : Comp) (i : CompInfo) (s : State), (p.1 f).info = .comp i f → clear (p.1 f) s = true →
    Yields (p.1 f) s (scalarAfter f s (elemOf p.2 f (scalSrcs s i f (immElem f) f.w)))

/-- R131, R132, R134: the elements of the vector integer forms, in the lanes that MK selects, or of the uniform
form's scalar register (R57); bound queues among the sources pop (R42). -/
def Obligations.VectorIntegerResults : Prop :=
  ∀ p ∈ vectorInts, ∀ (f : Comp) (i : CompInfo) (s : State), (p.1 f).info = .comp i f → clear (p.1 f) s = true →
    Yields (p.1 f) s (if f.u then scalarAfter f s (elemOf p.2 f (scalSrcs s i f (immElem f) f.w))
      else vectorAfter (p.1 f) f s (fun l => elemOf p.2 f (laneSrcs s i f (immElem f) f.w l)))

/-- R95, R132: the bit-field forms, bit by bit. -/
def Obligations.BitFieldResults : Prop :=
  (∀ p ∈ [(Instr.sbfx, bfxOf), (.sbfi, bfiOf)], ∀ (f : Comp) (i : CompInfo) (s : State), (p.1 f).info = .comp i f → clear (p.1 f) s = true →
    Yields (p.1 f) s (scalarAfter f s (p.2 f (scalSrcs s i f 0 f.w))))
  ∧ ∀ p ∈ [(Instr.vbfx, bfxOf), (.vbfi, bfiOf)], ∀ (f : Comp) (i : CompInfo) (s : State), (p.1 f).info = .comp i f → clear (p.1 f) s = true →
    Yields (p.1 f) s (vectorAfter (p.1 f) f s (fun l => p.2 f (laneSrcs s i f 0 f.w l)))

/-- R94: division makes one outstanding operation, counted on its flag, that will write the quotient or the remainder and raises nothing; no register
changes yet: that the old value stands whole until the operation completes, where R27 lets a reader see either, is the model's choice (log entry
66). -/
def Obligations.DivisionResults : Prop :=
  ∀ p ∈ [(Instr.sdiv, divE), (.srem, remE)], ∀ (f : Comp) (i : CompInfo) (s : State), (p.1 f).info = .comp i f → clear (p.1 f) s = true →
    ∃ o : Op, o.kind = .done ∧ o.fp = 0 ∧ o.qp = 0 ∧ o.ms = 0 ∧ o.trap = none ∧ o.void = false
      ∧ (∀ g : Group, g.applyAll s.cur o.writes
          = g.writeS s.cur f.d.toNat (merged f (readS { s with grp := g } f.d.toNat) (elemOf p.2 f (scalSrcs s i f (immElem f) f.w))) allBits)
      ∧ Yields (p.1 f) s ((s.grp.starts s f.cf.toNat o).passes s.cur f.len)

/-- R135: VCMP by FORM: elements of all ones in lanes, or a mask in a scalar register of the lanes in which all, or any, elements meet the
condition. -/
def Obligations.VectorCompare : Prop :=
  ∀ (f : Comp) (i : CompInfo) (s : State), (Instr.vcmp f).info = .comp i f → clear (.vcmp f) s = true →
    let z := fun l => laneSrcs s i f (immElem f) f.w l
    let hit := fun l q => holdsCc f.cc (tySigned f.ty.toNat) (BitVec.ofNat f.w (elem (z l).a q f.w)) (BitVec.ofNat f.w (elem (z l).b q f.w))
    let mask := fun (q : Nat → Bool) => ((BitVec.ofBoolListLE ((List.range 32).map (fun l => (active s f.msk.toNat).getLsbD l && q l))).setWidth 64 : Word)
    (cmpForm f = 2 → Yields (.vcmp f) s (vectorAfter (.vcmp f) f s (fun l q => if hit l q then ones f.w else 0)))
    ∧ (cmpForm f = 0 → Yields (.vcmp f) s (popAll (vecSrcs (.vcmp f))
        ((s.grp.writeS s.cur f.d.toNat (mask (fun l => (List.range (64 / f.w)).all (hit l))) allBits).passes s.cur f.len)))
    ∧ (cmpForm f = 1 → Yields (.vcmp f) s (popAll (vecSrcs (.vcmp f))
        ((s.grp.writeS s.cur f.d.toNat (mask (fun l => (List.range (64 / f.w)).any (hit l))) allBits).passes s.cur f.len)))

/-- R98, R99, R133: the moves copy whole registers or the immediate, of which SELD keeps one element; SLEA sums whole registers. -/
def Obligations.MoveResults : Prop :=
  (∀ (f : Comp) (s : State), clear (.smov f) s = true →
    Yields (.smov f) s (scalarAfter f s (fun q => elem (selWord (selIf f f.sela) (readS s f.a.toNat)) q f.w)))
  ∧ (∀ (f : Comp) (s : State), clear (.smovi f) s = true → Yields (.smovi f) s (scalarAfter f s (fun _ => immElem f)))
  ∧ (∀ (f : Comp) (s : State), clear (.slea f) s = true → Yields (.slea f) s
      ((s.grp.writeS s.cur f.d.toNat
        (readS s f.a.toNat + (if f.len = .l96 && ! f.ow then f.w1.signExtend 64 else readS s f.b.toNat) <<< (f.opf.extractLsb' 0 3).toNat
          + (if f.len = .l96 && f.ow then readS s f.c.toNat else 0)) allBits).passes s.cur f.len))
  ∧ (∀ (f : Comp) (s : State), clear (.vmov f) s = true → Yields (.vmov f) s (vectorAfter (.vmov f) f s
      (fun l q => elem (selWord (selIf f f.sela) (if f.ax then readS s f.a.toNat else lane (readQ s f.a.toNat) l)) q f.w)))
  ∧ (∀ (f : Comp) (s : State), clear (.vmovAmax f) s = true → Yields (.vmovAmax f) s (vectorAfter (.vmovAmax f) f s
      (fun _ q => elem (BitVec.ofNat 64 (vget s.grp.amax (f.opf.extractLsb' 1 2).toNat 0)) q f.w)))
  ∧ (∀ (f : Comp) (s : State), clear (.vmovi f) s = true → Yields (.vmovi f) s (vectorAfter (.vmovi f) f s (fun _ _ => immElem f)))

/-! ### Lanes (R154 to R158) -/

/-- R154 to R162: elements gathered from other lanes, the first active lane, one lane read and one lane written; the reductions, scans, matches and
rescaled sums, and what a reduction is: its identities, the integer operations, the exact sum rounded once, the floating minimum and maximum. -/
def Obligations.CrossLaneMoves : Prop :=
  ∀ (f : Comp) (s : State),
    let src := fun l => selWord (selIf f f.sela) (if f.ax then readS s f.a.toNat else lane (readQ s f.a.toNat) l)
    let b := fun l => if f.bx then readS s f.b.toNat else lane (readQ s f.b.toNat) l
    let c := fun l => if f.cx then readS s f.c.toNat else lane (readQ s f.c.toNat) l
    let named := if f.len = .l96 && ! f.ow then f.w1.toNat % 32 else (readS s f.b.toNat).toNat % 32
    (clear (.vshfl f) s = true → Yields (.vshfl f) s (vectorAfter (.vshfl f) f s (fun l q =>
      elem (src ((b l).toNat % 32)) (if f.len = .l96 then ((c l).toNat >>> (4 * q)) % (64 / f.w) else q) f.w)))
    ∧ (clear (.vshfi f) s = true → Yields (.vshfi f) s (vectorAfter (.vshfi f) f s (fun l q =>
      let m := f.w1.toNat % 32
      match f.opf.toNat % 16 with
      | 0 => elem (src (l ^^^ m)) q f.w
      | 1 => elem (src ((l + m) % 32)) q f.w
      | 2 => elem (src (if l + m > 31 then l else l + m)) q f.w
      | 3 => elem (src (if l < m then l else l - m)) q f.w
      | 4 => elem (src m) q f.w
      | _ => elem (src l) (((f.w1.toNat + 2 ^ 32 * f.w2.toNat) >>> (4 * q)) % (64 / f.w)) f.w)))
    ∧ (clear (.vrfal f) s = true → Yields (.vrfal f) s (popAll (vecSrcs (.vrfal f)) ((s.grp.writeS s.cur f.d.toNat
      (match (List.range 32).find? (fun l => (active s f.msk.toNat).getLsbD l) with | some l => src l | none => 0) allBits).passes s.cur f.len)))
    ∧ (clear (.vrdln f) s = true → Yields (.vrdln f) s (popAll (vecSrcs (.vrdln f))
      ((s.grp.writeS s.cur f.d.toNat (src named) allBits).passes s.cur f.len)))
    ∧ (clear (.vwrln f) s = true → Yields (.vwrln f) s (popAll (vecSrcs (.vwrln f)) ((s.grp.writeV f.d.toNat
      (BitVec.ofBoolListLE ((List.range 32).map (fun l => (active s f.msk.toNat).getLsbD l && l == named)))
      (fun l => merged f (lane (readV s f.d.toNat) l) (fun q => elem (src l) q f.w)) allBits).passes s.cur f.len)))
    ∧ (let act := fun l => (active s f.msk.toNat).getLsbD l
      let red := reduce (f.opf.extractLsb' 0 3).toNat f.ty.toNat (rmOf f)
      let col := fun (p : Nat → Bool) (q : Nat) => ((List.range 32).filter p).map (fun l => elem (src l) q f.w)
      (clear (.vredu f) s = true → GivesScalar (.vredu f) f s f.w (fun q => some (red (col act q))) id)
      ∧ (clear (.vscan f) s = true → GivesLanes (.vscan f) f s (active s f.msk.toNat) f.w (fun l q =>
          if writesAt f q then some (red (col (fun k => act k && (if f.opf.getLsbD 3 then decide (k < l) else decide (k ≤ l))) q)) else none) id)
      ∧ (clear (.vmatch f) s = true → ∃ r : Nat → Word, Yields (.vmatch f) s (popAll (vecSrcs (.vmatch f))
            ((s.grp.writeV f.d.toNat (BitVec.allOnes 32) r allBits).passes s.cur f.len))
          ∧ ∀ l < 32, ∀ k < 64, (r l).getLsbD k = true ↔ k < 32 ∧ act l = true ∧ act k = true
              ∧ if f.opf.getLsbD 0 then ∀ q < 64 / f.w,
                  let x := decodeF (fmtOf f.ty.toNat) (elem (src l) q f.w)
                  let y := decodeF (fmtOf f.ty.toNat) (elem (src k) q f.w)
                  x.isNan = false ∧ y.isNan = false ∧ cmpFV x y = 0
                else src l = src k)
      ∧ (clear (.vredm f) s = true →
          let v := fun l => act l && (readS s f.b.toNat).getLsbD (if f.opf.getLsbD 0 then l + 32 else l)
          let t := (List.range 32).countP act
          let n := (List.range 32).countP v
          ∃ (r : Word) (fl : Nat),
            (∀ q < 64 / f.w, elem r q f.w = if n = 0 then 0 else
              (roundEx (fmtOf f.ty.toNat) (rmOf f) .ieee ((sumEx (rmOf f) ((col v q).map (decodeF (fmtOf f.ty.toNat)))).scale t n)).bits)
            ∧ (∀ k < 6, fl.testBit k = true ↔ n ≠ 0 ∧ ∃ q < 64 / f.w,
              (roundEx (fmtOf f.ty.toNat) (rmOf f) .ieee ((sumEx (rmOf f) ((col v q).map (decodeF (fmtOf f.ty.toNat)))).scale t n)).fl.testBit k = true)
            ∧ Yields (.vredm f) s (popAll (vecSrcs (.vredm f)) ((((s.grp.writeS s.cur f.d.toNat r allBits).writeS s.cur (f.d.toNat + 1)
              (BitVec.ofNat 64 (n + t * 2 ^ 8 + (if n = 0 then 2 ^ 16 else 0))) allBits).orFp fl).passes s.cur f.len))))
    ∧ (∀ ty < 8, ∀ (rm : Nat) (l : List Nat), (∀ x ∈ l, x < 2 ^ tyWidth ty) →
        let w := tyWidth ty
        (∀ op < 6, (reduce op ty rm l).fl = 0 ∧ (reduce op ty rm l).bits < 2 ^ w)
        ∧ (reduce 0 ty rm l).bits = l.sum % 2 ^ w
        ∧ (l = [] → (reduce 1 ty rm l).bits = (if tySigned ty then 2 ^ (w - 1) - 1 else 2 ^ w - 1)
            ∧ (reduce 2 ty rm l).bits = (if tySigned ty then 2 ^ (w - 1) else 0))
        ∧ (l ≠ [] → (reduce 1 ty rm l).bits ∈ l ∧ (reduce 2 ty rm l).bits ∈ l)
        ∧ (∀ x ∈ l, intOf ty (reduce 1 ty rm l).bits ≤ intOf ty x ∧ intOf ty x ≤ intOf ty (reduce 2 ty rm l).bits)
        ∧ ∀ k < w, ((reduce 3 ty rm l).bits.testBit k = true ↔ ∀ x ∈ l, x.testBit k = true)
            ∧ ((reduce 4 ty rm l).bits.testBit k = true ↔ ∃ x ∈ l, x.testBit k = true)
            ∧ ((reduce 5 ty rm l).bits.testBit k = true ↔ l.countP (fun x => x.testBit k) % 2 = 1))
    ∧ (∀ ty ∈ [8, 9, 10, 11], ∀ (rm : Nat) (l : List Nat), (∀ x ∈ l, x < 2 ^ tyWidth ty) →
        let g := fmtOf ty
        (l = [] → reduce 0 ty rm l = ⟨0, 0⟩ ∧ reduce 1 ty rm l = ⟨g.maxEnc + 1, 0⟩ ∧ reduce 2 ty rm l = ⟨2 ^ (g.w - 1) + g.maxEnc + 1, 0⟩)
        ∧ (l ≠ [] → reduce 0 ty rm l = roundEx g rm .ieee (sumEx rm (l.map (decodeF g)))
          ∧ ∀ op ∈ [1, 2],
            let r := reduce op ty rm l
            ((∃ x ∈ l, (decodeF g x).isSnan = true) → r = ⟨canonNan g, NV⟩)
            ∧ ((∀ x ∈ l, (decodeF g x).isSnan = false) → (∀ x ∈ l, (decodeF g x).isNan = true) → r = ⟨canonNan g, 0⟩)
            ∧ ((∀ x ∈ l, (decodeF g x).isSnan = false) → (∃ x ∈ l, (decodeF g x).isNan = false) →
                r.fl = 0 ∧ r.bits ∈ l ∧ (decodeF g r.bits).isNan = false
                ∧ ∀ x ∈ l, (decodeF g x).isNan = false →
                    let c := cmpFV (decodeF g r.bits) (decodeF g x)
                    (op = 1 → c < 0 ∨ (c = 0 ∧ ((decodeF g r.bits).isNeg = true ∨ (decodeF g x).isNeg = false)))
                    ∧ (op = 2 → 0 < c ∨ (c = 0 ∧ ((decodeF g r.bits).isNeg = false ∨ (decodeF g x).isNeg = true))))))

/-! ### Floats and rationals (R68 to R82, R100 to R104, R136 to R153) -/

/-- R27, R73, R100, R136 to R148, R159 to R162: the floating, converting, dot-product and reducing forms write their result at once and OR the flags
of the lanes that compute into `fpstat`; in MAJ 0x18 this is what happens outside rational mode (R64). Element by element: the arithmetic of MAJ 0x28 and
0x18 and the special functions; the masks of VFCMP; VCVT's elements, products and `amax`; VPACK's and VUNPK's; the dot products; and SFCVT's. -/
def Obligations.FixedLatencyForms : Prop :=
  (∀ p ∈ fixedForms, ∀ (f : Comp) (i : CompInfo) (s : State), (p.1 f).info = .comp i f → clear (p.1 f) s = true →
    Yields (p.1 f) s (fixedAfter (p.1 f) f (p.2 f i f s) s))
  ∧ (∀ p ∈ scalarFloats, ∀ (f : Comp) (i : CompInfo) (s : State), (p.1 f).info = .comp i f → clear (p.1 f) s = true →
    ratScalar s.grp i f = false → Yields (p.1 f) s (fixedAfter (p.1 f) f (p.2 f i f s) s))
  ∧ (∀ (f : Comp) (s : State),
    let w := f.w
    let ty := f.ty.toNat
    let g := fmtOf ty
    let rm := rmOf f
    let sg := tySigned ty
    (∀ p ∈ [(Instr.vfadd, fAdd), (.vfsub, fSub), (.vfmul, fMul), (.vfmin, fMin), (.vfmax, fMax), (.vfabs, fSign (fun _ => false)), (.vfneg, fSign not),
        (.vfcls, fCls), (.vffma, fFma)], ∀ i : CompInfo, (p.1 f).info = .comp i f → clear (p.1 f) s = true →
      Gives (p.1 f) i f s (immElem f) w w (atElem f (p.2 rm g)) id)
    ∧ (∀ p ∈ [(Instr.sfadd, fAdd), (.sfsub, fSub), (.sfmul, fMul), (.sfdiv, fDiv), (.sfmin, fMin), (.sfmax, fMax), (.sffma, fFma),
        (.sfcmp, fCmp (f.opf.extractLsb' 0 3).toNat)],
      ∀ i : CompInfo, (p.1 f).info = .comp i f → clear (p.1 f) s = true → ratScalar s.grp i f = false →
      Gives (p.1 f) i f s (immElem f) w w (atElem f (p.2 rm g)) id)
    ∧ (∀ p ∈ [(Instr.vfrcp, 0), (.vfrsq, 1), (.vfexp2, 2), (.vflog2, 3), (.vfsin, 4), (.vfcos, 5), (.vfsqrt, 6), (.vftanh, 7)],
      ∀ i : CompInfo, (p.1 f).info = .comp i f → clear (p.1 f) s = true →
      Gives (p.1 f) i f s 0 w w (atElem f (fun a _ _ => sfunc p.2 ty rm a)) id)
    ∧ (∀ i : CompInfo, (Instr.vfcmp f).info = .comp i f → clear (.vfcmp f) s = true →
      let at' := fun l q => fCmp (f.opf.extractLsb' 0 3).toNat rm g (elem (laneSrcs s i f (immElem f) w l).a q w)
        (elem (laneSrcs s i f (immElem f) w l).b q w) 0
      let act := fun l => (active s f.msk.toNat).getLsbD l
      (cmpForm f = 2 → Gives (.vfcmp f) i f s (immElem f) w w (atElem f (fun a b _ => fCmp (f.opf.extractLsb' 0 3).toNat rm g a b 0)) id)
      ∧ (cmpForm f = 0 ∨ cmpForm f = 1 → ∃ (r : Word) (fl : Nat),
          (∀ k < 64, r.getLsbD k = true ↔ k < 32 ∧ act k = true
            ∧ if cmpForm f = 0 then ∀ q < 64 / w, (at' k q).bits ≠ 0 else ∃ q < 64 / w, (at' k q).bits ≠ 0)
          ∧ (∀ k < 6, fl.testBit k = true ↔ ∃ l < 32, act l = true ∧ ∃ q < 64 / w, (at' l q).fl.testBit k = true)
          ∧ Yields (.vfcmp f) s (popAll (vecSrcs (.vfcmp f)) (((s.grp.writeS s.cur f.d.toNat r allBits).orFp fl).passes s.cur f.len))))
    ∧ (∀ i : CompInfo, (Instr.vcvt f).info = .comp i f → clear (.vcvt f) s = true →
      let imm := if imm64 f then (roundEx (fmtOf 10) rm .ieee (decodeF (fmtOf 11) (immBitsOf f)).ex).bits else immBitsOf f % 2 ^ 32
      let conv := fun x : FV =>
        if tyInt ty then (if tyInt f.sty && ! f.opf.getLsbD 5 then ⟨(exToInt ty 1 x.ex).bits, 0⟩ else exToInt ty rm x.ex)
        else roundEx g rm (narrowOv ty (f.opf.getLsbD 4)) x.ex
      let xs := (sourcesOf i f s imm 32).flatMap (fun z => ((List.range (64 / w)).filter (writesAt f)).filterMap (fun q => (cvtFrom f q).map (cvtX f z)))
      let m := ((xs.filter (fun x => ! x.isNan)).map (fun x => (roundEx (fmtOf 10) 3 .ieee x.abs.ex).bits)).foldl max 0
      let nan := if xs.any FV.isNan then 2 ^ 32 else 0
      let op := (f.opf.extractLsb' 11 2).toNat
      Gives (.vcvt f) i f s imm 32 w (fun z q => (cvtFrom f q).map (fun k => conv (cvtX f z k)))
        (fun h => { h with amax := vmod h.amax (f.opf.extractLsb' 9 2).toNat (fun o =>
          if op = 1 then max (o % 2 ^ 32) m + (if o.testBit 32 then 2 ^ 32 else nan) else if op = 2 then m + nan else o) }))
    ∧ (∀ i : CompInfo, (Instr.vpack f).info = .comp i f → clear (.vpack f) s = true →
      Gives (.vpack f) i f s (immElem f) w w (fun z q =>
        let e := if q < 32 / w then elem z.a q (2 * w) else elem z.b (q - 32 / w) (2 * w)
        some ⟨if f.opf.getLsbD 1 then (clampE w sg (valueOfE sg (BitVec.ofNat (2 * w) e))).toNat else if f.opf.getLsbD 0 then e / 2 ^ w else e, 0⟩) id)
    ∧ (∀ i : CompInfo, (Instr.vunpk f).info = .comp i f → clear (.vunpk f) s = true →
      Gives (.vunpk f) i f s 0 w (2 * w) (fun z q =>
        let e := BitVec.ofNat w (elem z.a (if f.opf.getLsbD 0 then q + 32 / w else q) w)
        some ⟨if tyInt ty then (if sg then e.signExtend (2 * w) else e.setWidth (2 * w)).toNat else e.toNat * 2 ^ w, 0⟩) id)
    ∧ (∀ c ∈ [Instr.vdoth, .vdotb, .vdotn], ∀ i : CompInfo, (c f).info = .comp i f → clear (c f) s = true →
      let j := if f.opf.getLsbD 0 then 1 else 0
      Gives (c f) i f s (immElem f) w 32 (fun z q => if q = j then
        some (if tyInt ty then ⟨(BitVec.ofInt 32 (elem z.c j 32
              + ((List.range (64 / w)).map (fun k => intOf ty (elem z.a k w) * intOf ty (elem z.b k w))).sum)).toNat, 0⟩
          else roundEx (fmtOf 10) rm .ieee (sumEx rm (decodeF (fmtOf 10) (elem z.c j 32)
            :: (List.range (64 / w)).map (fun k => (decodeF g (elem z.a k w)).mul (decodeF g (elem z.b k w))))))
        else none) id)
    ∧ ∀ i : CompInfo, (Instr.sfcvt f).info = .comp i f → clear (.sfcvt f) s = true → ratScalar s.grp i f = false →
      Gives (.sfcvt f) i f s 0 w w (fun z q => some (if q < min (64 / tyWidth f.sty) (64 / w) then
        roundEx g rm (narrowOv ty (f.opf.getLsbD 4)) (decodeF (fmtOf f.sty) (elem z.a q (tyWidth f.sty))).ex else ⟨0, 0⟩)) id)

/-- R24, R25, R28, R73, R81, R104, R140, R149: VFDIV, the vector rationals and MAJ 0x18 in rational mode compute from the operands at issue
and leave an outstanding operation that holds the writes and the flags, those of rationals for `qstat`. -/
def Obligations.VariableLatencyForms : Prop :=
  (∀ (f : Comp) (i : CompInfo) (s : State), (Instr.vfdiv f).info = .comp i f → clear (.vfdiv f) s = true →
    Yields (.vfdiv f) s (variableAfter (.vfdiv f) f false (fltOut fDiv i f s) s))
  ∧ (∀ p ∈ vectorRationals, ∀ (f : Comp) (i : CompInfo) (s : State), (p.1 f).info = .comp i f → clear (p.1 f) s = true →
    Yields (p.1 f) s (variableAfter (p.1 f) f true (p.2 f i f s) s))
  ∧ ∀ p ∈ scalarRationals, ∀ (f : Comp) (i : CompInfo) (s : State), (p.1 f).info = .comp i f → clear (p.1 f) s = true →
    ratScalar s.grp i f = true → Yields (p.1 f) s (variableAfter (p.1 f) f true (p.2 f i f s) s)

/-- R67, R71, R141: the magnitude n/d that no overflow meets is rounded to a neighbour among the finite magnitudes of the format, which is the one the
rounding code names: nearest (a tie to the even encoding), toward zero, or by the sign; the same with the exponent range unbounded, which decides where a
result overflows; an integer result is rounded so, saturated and flagged; VFSQRT rounds the root, and VFRSQ to f16 and bf16 its reciprocal. -/
def Obligations.RoundingIsCorrect : Prop :=
  (∀ ty ∈ [8, 9, 10, 11, 12, 13, 14], ∀ (rm n d : Nat) (neg : Bool), rm < 4 → 0 < n → 0 < d →
    let f := fmtOf ty
    let r := (roundMag f rm neg n d).1
    let x := n * f.perOne
    r ≤ f.maxEnc →
      ((roundMag f rm neg n d).2.1 = false ↔ d * f.units r = x)
      ∧ ((rm = 1 ∨ (rm = 2 ∧ neg = false) ∨ (rm = 3 ∧ neg = true)) →
          d * f.units r ≤ x ∧ ∀ y ≤ f.maxEnc, d * f.units y ≤ x → f.units y ≤ f.units r)
      ∧ (((rm = 2 ∧ neg = true) ∨ (rm = 3 ∧ neg = false)) →
          x ≤ d * f.units r ∧ ∀ y ≤ f.maxEnc, x ≤ d * f.units y → f.units r ≤ f.units y)
      ∧ (rm = 0 → ∀ y ≤ f.maxEnc, ((d * f.units r : Int) - x).natAbs ≤ ((d * f.units y : Int) - x).natAbs
          ∧ (y ≠ r → ((d * f.units r : Int) - x).natAbs = ((d * f.units y : Int) - x).natAbs → r % 2 = 0)))
  ∧ (∀ ty ∈ [8, 9, 10, 11, 12, 13, 14], ∀ (rm n d : Nat) (neg : Bool), rm < 4 → 0 < n → 0 < d →
    let f := fmtOf ty
    let r := roundMag f rm neg n d
    RoundsTo rm neg f.units (n * f.perOne) d r.1 ∧ (r.2.1 = false ↔ d * f.units r.1 = n * f.perOne) ∧ (r.2.2 = true ↔ n * f.perOne < d * 2 ^ f.mb))
  ∧ (∀ ty < 8, ∀ (rm n d : Nat) (neg : Bool), rm < 4 → 0 < d →
    ∃ k : Nat, RoundsTo rm neg id n d k
      ∧ let v : Int := if neg then -(k : Int) else k
        exToInt ty rm (.real neg n d)
          = if v < intMin ty then ⟨(BitVec.ofInt (tyWidth ty) (intMin ty)).toNat, NV⟩
            else if intMax ty < v then ⟨(BitVec.ofInt (tyWidth ty) (intMax ty)).toNat, NV⟩
            else ⟨(BitVec.ofInt (tyWidth ty) v).toNat, if d * k = n then 0 else NX⟩)
  ∧ (∀ ty ∈ [8, 9, 10], ∀ (rm a : Nat), rm < 4 → 0 < a → a ≤ (fmtOf ty).maxEnc →
    let f := fmtOf ty
    ∃ r ≤ f.maxEnc, sfunc 6 ty rm a = ⟨r, if f.units r ^ 2 = f.units a * f.perOne then 0 else NX⟩
      ∧ RootRoundsTo rm f.units (f.units a * f.perOne) 1 r)
  ∧ ∀ ty ∈ [8, 9], ∀ (rm a : Nat), 0 < a → a ≤ (fmtOf ty).maxEnc →
    let f := fmtOf ty
    ∃ r ≤ f.maxEnc, sfunc 1 ty rm a = ⟨r, if f.units r ^ 2 * f.units a = f.perOne ^ 3 then 0 else NX⟩
      ∧ RootRoundsTo 0 f.units (f.perOne ^ 3) (f.units a) r

/-- R68, R69, R71 to R73, R100, R141, R142: what arithmetic gives for NaNs, infinities and divisions by zero: the canonical NaN, NV for a signalling operand,
an invalid operation NV, a finite nonzero value divided by zero an infinity with DZ. What an encoding stands for; that the sum, product and quotient of
finite values are exact, with the sign of a zero, and each result is that exact value rounded once, its overflow by the type and by saturation. Of the
special functions: the special operands, the exact cases, the reciprocal rounded to f16 and bf16, and within 1 ulp to f32. -/
def Obligations.FloatSpecials : Prop :=
  (∀ ty ∈ [8, 9, 10, 11], ∀ (rm a b c : Nat),
    let f := fmtOf ty
    let x := decodeF f a
    let y := decodeF f b
    let nan := (⟨canonNan f, 0⟩ : FRes)
    let bad := (⟨canonNan f, NV⟩ : FRes)
    ((∀ op ∈ [fAdd, fSub, fMul, fDiv], (x.isNan || y.isNan) = true → op rm f a b c = if x.isSnan || y.isSnan then bad else nan)
    ∧ ((x.isNan || y.isNan || (decodeF f c).isNan) = true → (fFma rm f a b c).bits = canonNan f)
    ∧ (∀ u, x = .inf u → y = .inf (! u) → fAdd rm f a b c = bad)
    ∧ (∀ u, x = .inf u → y = .inf u → fSub rm f a b c = bad)
    ∧ (∀ u v e, x = .inf u → y = .fin v 0 e → fMul rm f a b c = bad ∧ fMul rm f b a c = bad)
    ∧ (∀ u v, x = .inf u → y = .inf v → fDiv rm f a b c = bad)
    ∧ (∀ u v e g, x = .fin u 0 e → y = .fin v 0 g → fDiv rm f a b c = bad)
    ∧ (∀ u v m e g, x = .fin u m e → m ≠ 0 → y = .fin v 0 g → fDiv rm f a b c = ⟨signBit f (u != v) + f.maxEnc + 1, DZ⟩))
    ∧ fAdd rm f a b c = roundEx f rm .ieee (sumEx rm [x, y])
    ∧ fSub rm f a b c = roundEx f rm .ieee (sumEx rm [x, y.neg])
    ∧ fMul rm f a b c = roundEx f rm .ieee (x.mul y).ex
    ∧ fFma rm f a b c = roundEx f rm .ieee (sumEx rm [x.mul y, decodeF f c])
    ∧ (∀ u v m k e g, x = .fin u m e → y = .fin v k g → k ≠ 0 → fDiv rm f a b c = roundEx f rm .ieee (divEx x y).1))
  ∧ (∀ ty ∈ [8, 9, 10, 11, 12, 13, 14], ∀ a : Nat,
    let f := fmtOf ty
    let mag := a % 2 ^ (f.w - 1)
    let neg := a.testBit (f.w - 1)
    (mag ≤ f.maxEnc → ∃ (m : Nat) (e : Int), decodeF f a = .fin neg m e ∧ 0 ≤ e + (f.bias + f.mb - 1 : Int)
        ∧ m * 2 ^ (e + (f.bias + f.mb - 1 : Int)).toNat = f.units mag)
    ∧ (f.ieee = true → (mag = f.maxEnc + 1 → decodeF f a = .inf neg) ∧ (f.maxEnc + 1 < mag → decodeF f a = .nan (! mag.testBit (f.mb - 1))))
    ∧ (f.ieee = false → ∀ c, f.nan = some c → mag = c → decodeF f a = .nan false))
  ∧ (∀ (rm k : Nat) (l : List FV), (∀ t ∈ l, t.within k) →
    let sum := (l.map (FV.signed k)).sum
    ∃ (u : Bool) (n d : Nat), 0 < d ∧ sumEx rm l = .real u n d ∧ n * 2 ^ k = sum.natAbs * d
      ∧ (sum ≠ 0 → u = decide (sum < 0))
      ∧ (sum = 0 →
          let all := fun v => ∀ t ∈ l, ∃ e, t = FV.fin v 0 e
          (l ≠ [] → all true → u = true) ∧ (all false → u = false) ∧ (¬ all true → ¬ all false → u = (rm == 2))))
  ∧ (∀ (u v : Bool) (m k : Nat) (e g : Int), (FV.fin u m e).mul (.fin v k g) = .fin (u != v) (m * k) (e + g))
  ∧ (∀ (u v : Bool) (m k h : Nat) (e g : Int), 0 < k → 0 ≤ e + h → 0 ≤ g + h →
    ∃ n d : Nat, 0 < d ∧ divEx (.fin u m e) (.fin v k g) = (.real (u != v) n d, 0) ∧ n * (k * 2 ^ (g + h).toNat) = m * 2 ^ (e + h).toNat * d)
  ∧ (∀ (u : Bool) (m h : Nat) (e : Int), 0 ≤ e + h → ∃ n d : Nat, 0 < d ∧ (FV.fin u m e).ex = .real u n d ∧ n * 2 ^ h = m * 2 ^ (e + h).toNat * d)
  ∧ (∀ ty ∈ [8, 9, 10, 11, 12, 13, 14], ∀ (rm n d : Nat) (ov : Ov) (neg : Bool), rm < 4 → 0 < d →
    let f := fmtOf ty
    let sb := if neg then 2 ^ (f.w - 1) else 0
    let r := roundMag f rm neg n d
    (n = 0 → roundEx f rm ov (.real neg n d) = ⟨sb, 0⟩)
    ∧ (0 < n → r.1 ≤ f.maxEnc → roundEx f rm ov (.real neg n d)
        = ⟨sb + r.1, if d * f.units r.1 = n * f.perOne then 0 else if n * f.perOne < d * 2 ^ f.mb then NX + UF else NX⟩)
    ∧ (0 < n → f.maxEnc < r.1 → roundEx f rm ov (.real neg n d)
        = if ov = .sat then ⟨sb + f.maxEnc, SAT + NX⟩
          else if f.ieee then ⟨sb + (if rm = 0 ∨ (rm = 2 ∧ neg = true) ∨ (rm = 3 ∧ neg = false) then f.maxEnc + 1 else f.maxEnc), OF + NX⟩
          else if ty = 12 then ⟨0x7F, OF + NX⟩ else ⟨sb + f.maxEnc, OF + NX⟩)
    ∧ roundEx f rm ov (.inf neg)
        = (if f.ieee then ⟨sb + f.maxEnc + 1, 0⟩ else if ov = .sat then ⟨sb + f.maxEnc, SAT⟩
          else if ty = 12 then ⟨0x7F, NV⟩ else ⟨sb + f.maxEnc, NV⟩)
    ∧ ∀ v, roundEx f rm ov (.nan v) = ⟨canonNan f, if v = true ∨ ty = 14 then NV else 0⟩)
  ∧ ∀ ty ∈ [8, 9, 10], ∀ rm a : Nat, a < 2 ^ tyWidth ty →
    let f := fmtOf ty
    let sb := 2 ^ (f.w - 1)
    let inf := f.maxEnc + 1
    let one := f.bias * 2 ^ f.mb
    let nan := (⟨canonNan f, NV⟩ : FRes)
    let x := a % sb
    let neg := sb ≤ a
    (∀ v, decodeF f a = .nan v → ∀ k < 8, sfunc k ty rm a = ⟨canonNan f, if v then NV else 0⟩)
    ∧ (x = 0 → sfunc 0 ty rm a = ⟨(if neg then sb else 0) + inf, DZ⟩ ∧ sfunc 1 ty rm a = ⟨(if neg then sb else 0) + inf, DZ⟩
        ∧ sfunc 2 ty rm a = ⟨one, 0⟩ ∧ sfunc 3 ty rm a = ⟨sb + inf, DZ⟩ ∧ sfunc 5 ty rm a = ⟨one, 0⟩ ∧ ∀ k ∈ [4, 6, 7], sfunc k ty rm a = ⟨a, 0⟩)
    ∧ (a = inf → sfunc 0 ty rm a = ⟨0, 0⟩ ∧ sfunc 1 ty rm a = ⟨0, 0⟩ ∧ (∀ k ∈ [2, 3, 6], sfunc k ty rm a = ⟨inf, 0⟩) ∧ sfunc 4 ty rm a = nan
        ∧ sfunc 5 ty rm a = nan ∧ sfunc 7 ty rm a = ⟨one, 0⟩)
    ∧ (a = sb + inf → sfunc 0 ty rm a = ⟨sb, 0⟩ ∧ sfunc 2 ty rm a = ⟨0, 0⟩ ∧ (∀ k ∈ [1, 3, 4, 5, 6], sfunc k ty rm a = nan)
        ∧ sfunc 7 ty rm a = ⟨sb + one, 0⟩)
    ∧ (sb < a → a < sb + inf → ∀ k ∈ [1, 3, 6], sfunc k ty rm a = nan)
    ∧ (0 < x → x < inf →
        (∃ n d : Nat, 0 < d ∧ n * f.units x = f.perOne * d
          ∧ (ty ≠ 10 → sfunc 0 ty rm a = roundEx f 0 .ieee (.real (decide neg) n d)))
        ∧ (∀ y, 0 < y → y ≤ f.maxEnc → f.units x * f.units y = f.perOne ^ 2 → sfunc 0 ty rm a = ⟨(if neg then sb else 0) + y, 0⟩)
        ∧ (ty = 10 → (roundMag f 0 false f.perOne (f.units x)).1 ≤ f.maxEnc → ∃ y ≤ f.maxEnc, ∃ lo : Nat,
            (sfunc 0 ty rm a).bits = (if neg then sb else 0) + y
            ∧ f.units lo * f.units x ≤ f.perOne ^ 2 ∧ f.perOne ^ 2 < f.units (lo + 1) * f.units x
            ∧ ((f.units y * f.units x : Int) - f.perOne ^ 2).natAbs ≤ (f.units (lo + 1) - f.units lo) * f.units x)
        ∧ (∀ v : Nat, f.units x = v * f.perOne → 0 < v → v ≤ f.bias →
            sfunc 2 ty rm a = (if neg then roundEx f 0 .ieee (.real false 1 (2 ^ v)) else ⟨one + v * 2 ^ f.mb, 0⟩)
            ∧ sfunc 4 ty rm a = ⟨0, 0⟩ ∧ sfunc 5 ty rm a = ⟨if v % 2 = 0 then one else sb + one, 0⟩)
        ∧ (∀ h : Nat, 2 * f.units x = h * f.perOne → h % 2 = 1 → sfunc 5 ty rm a = ⟨0, 0⟩
            ∧ sfunc 4 ty rm a = ⟨if (h % 4 == 1) != decide neg then one else sb + one, 0⟩)
        ∧ (∀ v : Nat, f.units x = 2 ^ v → a < sb → sfunc 3 ty rm a =
            roundEx f 0 .ieee (.real (decide (v < f.bias + f.mb - 1)) ((v : Int) - (f.bias + f.mb - 1 : Int)).natAbs 1)))

/-- R101, R102, R136, R137: the element results of the floating minimum, maximum and comparison, of VFABS and VFNEG, and the class masks of VFCLS. -/
def Obligations.FloatOrder : Prop :=
  ∀ ty ∈ [8, 9, 10, 11], ∀ (rm a b c : Nat), a < 2 ^ tyWidth ty → b < 2 ^ tyWidth ty →
    let f := fmtOf ty
    let x := decodeF f a
    let y := decodeF f b
    (∀ op ∈ [fMin, fMax],
      ((x.isSnan || y.isSnan) = true → op rm f a b c = ⟨canonNan f, NV⟩)
      ∧ ((x.isSnan || y.isSnan) = false → (x.isNan && y.isNan) = true → op rm f a b c = ⟨canonNan f, 0⟩)
      ∧ ((x.isSnan || y.isSnan) = false → x.isNan = true → y.isNan = false → op rm f a b c = ⟨b, 0⟩)
      ∧ ((x.isSnan || y.isSnan) = false → x.isNan = false → y.isNan = true → op rm f a b c = ⟨a, 0⟩))
    ∧ ((x.isNan || y.isNan) = false → cmpFV x y < 0 → fMin rm f a b c = ⟨a, 0⟩ ∧ fMax rm f a b c = ⟨b, 0⟩)
    ∧ ((x.isNan || y.isNan) = false → 0 < cmpFV x y → fMin rm f a b c = ⟨b, 0⟩ ∧ fMax rm f a b c = ⟨a, 0⟩)
    ∧ (∀ e g, x = .fin true 0 e → y = .fin false 0 g → fMin rm f a b c = ⟨a, 0⟩ ∧ fMax rm f a b c = ⟨b, 0⟩
        ∧ fMin rm f b a c = ⟨a, 0⟩ ∧ fMax rm f b a c = ⟨b, 0⟩)
    ∧ (∀ cc < 7, fCmp cc rm f a b c =
        ⟨if (if x.isNan || y.isNan then cc == 1 || cc == 6
             else match cc with
               | 0 => cmpFV x y == 0 | 1 => cmpFV x y != 0 | 2 => decide (cmpFV x y < 0) | 3 => decide (cmpFV x y ≤ 0)
               | 4 => decide (0 < cmpFV x y) | 5 => decide (0 ≤ cmpFV x y) | _ => false) then 2 ^ f.w - 1 else 0,
          if x.isSnan || y.isSnan || ((x.isNan || y.isNan) && decide (2 ≤ cc ∧ cc ≤ 5)) then NV else 0⟩)
    ∧ (let sb := 2 ^ (f.w - 1)
      let mag := a % sb
      (∀ op ∈ [fSign (fun _ => false), fSign not], (x.isSnan = true → op rm f a b c = ⟨canonNan f, NV⟩)
        ∧ (x.isNan = true → x.isSnan = false → op rm f a b c = ⟨canonNan f, 0⟩))
      ∧ (x.isNan = false → fSign (fun _ => false) rm f a b c = ⟨mag, 0⟩ ∧ fSign not rm f a b c = ⟨if a < sb then a + sb else a - sb, 0⟩)
      ∧ fCls rm f a b c = ⟨2 ^ (if x.isSnan then 8 else if x.isNan then 9
          else if mag = f.maxEnc + 1 then (if a < sb then 7 else 0)
          else if mag = 0 then (if a < sb then 4 else 3)
          else if mag < 2 ^ f.mb then (if a < sb then 5 else 2)
          else if a < sb then 6 else 1), 0⟩)

/-- R75, R76, R77, R104, R150, R152, R153: every result of rational arithmetic is written canonically, so that it reads back without NONCAN: of the sums,
products and quotients, of the minimum and maximum, of the fused form, of a rounding to a budget, and of a conversion to a rational format; an exact result
that the format represents is written as it is, with no flag of its rounding. -/
def Obligations.RationalResultsAreCanonical : Prop :=
  ∀ p ∈ [26, 57], ∀ mode ∈ [1, 2, 3, 4, 5, 6], ∀ (a b : Nat),
    (∀ op ∈ [QV.add, QV.sub, QV.mul, QV.div], (qRead p (qBin op p mode a b 0).bits).2 = false)
    ∧ (∀ (n : Int) (k : Nat), 0 < k → Nat.gcd n.natAbs k = 1 → bitlen n.natAbs + bitlen k ≤ p →
        (n ≠ 0 ∨ k = 1) → qFinish p mode ⟨.fin n k, 0⟩ = ⟨qWrite p (.fin n k), 0⟩ ∧ qRead p (qWrite p (.fin n k)) = (.fin n k, false))
    ∧ (∀ (up : Bool) (c : Nat), (qRead p (qSel up p mode a b c).bits).2 = false ∧ (qRead p (qFma p mode a b c).bits).2 = false)
    ∧ (∀ pb, 2 ≤ pb → pb ≤ p → (qRead p (qRndElem pb p mode a 0 0).bits).2 = false)
    ∧ (∀ sty < 16, (qRead p (cvtFQ sty p mode a).bits).2 = false)
    ∧ (∀ po ∈ [26, 57], (qRead p (cvtQQ po p mode a).bits).2 = false)
    ∧ (qRead p (qWrite p (qRead p a).1)).2 = false

/-- R84: the postmark of the zero word, and the detection of every one-bit and two-bit change of a word's data. -/
def Obligations.PostmarkDetects : Prop :=
  postmark 0 = 0xE0
  ∧ (∀ (w : Word) (i : Nat), i < 64 → mismatch false ⟨w ^^^ (1 <<< i), postmark w⟩ = true)
  ∧ (∀ (w : Word) (i j : Nat), i < j → j < 64 → mismatch false ⟨w ^^^ (1 <<< i) ^^^ (1 <<< j), postmark w⟩ = true)
  ∧ (∀ (w : Word) (i : Nat), i < 7 → mismatch false ⟨w, postmark w ^^^ (1 <<< i)⟩ = true)

/-! ### Registers and operands (R31, R35, R36, R41, R42) -/

/-- R41, R128: a write of a scalar register, of the slots' masks among them, and of a vector register's lanes, and that nothing else of the group changes.
R90, R123, R129: where both slots of a group issue in one cycle, a scalar integer form leaves the registers as they were for the other slot; at the end of
the cycle the writes are made, the older slot's first, and the flags raised are ORed in after them and after a SYSW. -/
def Obligations.RegisterWrites : Prop :=
  (∀ (g : Group) (sl : Bool) (r : Nat) (v : Word), r < 62 →
    vget (g.writeS sl r v allBits).sregs r 0 = v
    ∧ (∀ k, k ≠ r → vget (g.writeS sl r v allBits).sregs k 0 = vget g.sregs k 0)
    ∧ { g.writeS sl r v allBits with sregs := g.sregs } = g)
  ∧ (∀ (g : Group) (sl : Bool) (v : Word), (g.slot sl).live = true →
    g.writeS sl 63 v allBits = g.modSlot sl (fun x => { x with exec := v.setWidth 32 }))
  ∧ (∀ (g : Group) (sl : Bool) (v : Word), (g.slot (! sl)).live = true →
    g.writeS sl 62 v allBits = g.modSlot (! sl) (fun x => { x with exec := v.setWidth 32 }))
  ∧ (∀ (g : Group) (sl : Bool) (v : Word), (g.slot (! sl)).live = false → g.writeS sl 62 v allBits = g)
  ∧ (∀ (g : Group) (r : Nat) (m : Mask) (v : Nat → Word), r < 64 →
    (∀ l < 32, lane (vget (g.writeV r m v allBits).vregs r (Vector.replicate 32 0)) l
        = if m.getLsbD l then v l else lane (vget g.vregs r (Vector.replicate 32 0)) l)
    ∧ (∀ k, k ≠ r → vget (g.writeV r m v allBits).vregs k (Vector.replicate 32 0) = vget g.vregs k (Vector.replicate 32 0))
    ∧ { g.writeV r m v allBits with vregs := g.vregs } = g)
  ∧ (∀ p ∈ scalarInts, ∀ (f : Comp) (i : CompInfo) (s : State) (l : List Late), (p.1 f).info = .comp i f → s.late = some l → ready (p.1 f) s = true →
    ∃ t ws, exec (p.1 f) s = .next t ∧ t.late = some (l ++ [.result s.cur ws false 0]) ∧ t.grp = s.grp.passes s.cur f.len
      ∧ ∀ g : Group, g.applyAll s.cur ws
          = g.writeS s.cur f.d.toNat (merged f (readS { s with grp := g } f.d.toNat) (elemOf p.2 f (scalSrcs s i f (immElem f) f.w))) allBits)
  ∧ (∀ (s : State) (x y : Nat × Bool) (lx ly : List Late),
      (ageIn s x ≤ ageIn s y → byAge x y s lx ly = lx ++ ly) ∧ (ageIn s y < ageIn s x → byAge x y s lx ly = ly ++ lx))
  ∧ ∀ (g : Group) (a b : List RegWrite) (x y : Nat) (sl : Bool) (n : Nat) (v : Word),
      g.settle [.result sl a false x, .result (! sl) b false y] = (((g.applyAll sl a).applyAll (! sl) b).orFp x).orFp y
      ∧ g.settle [.result sl a false x, .sysw n v] = ((g.applyAll sl a).sysw n v).orFp x
      ∧ g.settle [.sysw n v, .result sl a true x] = ((g.sysw n v).applyAll sl a).orQ x

/-- R35, R36, R42: a selected sub-element stands in every position; an integer immediate is sign-extended or cut to the element; the register of a
bound queue reads as the words of its head entry, and one pop takes that entry off, keeps it in the register, and unbinds the queue
with its last entry, after which its counts still read (R359, R360). -/
def Obligations.OperandSources : Prop :=
  (∀ (k : BitVec 5) (x : Word) (w pos q : Nat), selOf k.toNat = some (w, pos) → q < 64 / w → elem (selWord k x) q w = elem x pos w)
  ∧ (∀ x : Word, selWord 0 x = x)
  ∧ (∀ f : Comp, tyFloat f.ty.toNat = false → f.len = .l96 → immElem f = ((f.w1.signExtend 64).setWidth f.w).toNat)
  ∧ (∀ f : Comp, tyFloat f.ty.toNat = false → f.len = .l128 → f.ow = true → immElem f = ((f.w2.signExtend 64).setWidth f.w).toNat)
  ∧ (∀ f : Comp, tyFloat f.ty.toNat = false → f.len = .l128 → f.ow = false → immElem f = ((f.w2 ++ f.w1).setWidth f.w).toNat)
  ∧ (∀ (s : State) (k : Nat) (q : Queue) (e : QEntry) (t : List QEntry), k < 4 → vget s.grp.queues k none = some q → q.entries = e :: t →
      (∀ l < 32, lane (readQ s (60 + k)) l = (e.words.getD l ⟨0, 0⟩).data)
      ∧ (∀ l < 32, lane (vget (popOne s.grp k).vregs (60 + k) (Vector.replicate 32 0)) l = (e.words.getD l ⟨0, 0⟩).data)
      ∧ vget (popOne s.grp k).queues k none
          = (if q.popped + 1 = q.total then none else some { q with entries := t, popped := q.popped + 1 })
      ∧ (q.popped + 1 = q.total → vget (popOne s.grp k).past k (0, false) = (q.popped + 1, q.fetched == q.total)))
  ∧ (∀ (s : State) (r : Nat), r < 64 → (60 ≤ r → qBound s.grp (r - 60) = false) → readQ s r = readV s r)

/-! ### Clauses, branches and paths (R17 to R23, R105 to R121) -/

/-- R19: a header holds while a flag of WAIT is not zero, and with SER while an operation of its slot is outstanding; then it starts its clause, or
skips it where the slot's mask is empty. -/
def Obligations.ClauseHeaders : Prop :=
  ∀ (h : Header) (s : State), clear (.clauseHeader h) s = true →
    let x := Instr.clauseHeader h
    let u := entered x s
    let serHolds := h.ser && s.grp.ops.any (fun o => o.slot == s.cur)
    (¬ flagsClear (slot s) h.wait → exec x s = .next (holdSlot u))
    ∧ (flagsClear (slot s) h.wait → serHolds = true → exec x s = .next (holdSlot u))
    ∧ (flagsClear (slot s) h.wait → serHolds = false → pastBody u h.nins.toNat = .ok false → (slot s).exec ≠ 0 →
        Yields x s ((u.grp.modSlot s.cur (fun y => { Slot.issued y with
          pc := nextPc y.pc 8,
          cl := some { hdr := y.pc, nins := h.nins.toNat, idx := 0, setA := h.setA.toNat, setB := h.setB.toNat, yld := h.yld } })).closes x))
    ∧ (∀ pc w, flagsClear (slot s) h.wait → serHolds = false → pastBody u h.nins.toNat = .ok false → (slot s).exec = 0 →
        scanOver u h.nins.toNat (nextPc (slot s).pc 8) = .ok (pc, w) →
        ∃ t, exec x s = .next t ∧ t.grp = (w.grp.modSlot s.cur (fun y => Slot.loopEnd { Slot.issued y with pc := pc, cl := none })).closes x
          ∧ OutsideSame w t)

/-- R119, R120, R121: NOP moves on; YIELD moves on and makes its slot the youngest of the core; WAITF moves on where its flags read zero and
else holds. -/
def Obligations.PlainControl : Prop :=
  ∀ (f : Ctl) (s : State),
    (clear (.nop f) s = true → Yields (.nop f) s (s.grp.passes s.cur f.len))
    ∧ (clear (.yield f) s = true → ∃ t, exec (.yield f) s = .next t ∧ t.grp = s.grp.passes s.cur f.len ∧ OutsideSame s t
        ∧ (s.grp.core < 384 → (Machine.core t s.grp.core).age.getLast? = some (s.grp.gid, s.cur)))
    ∧ (clear (.waitf f) s = true → flagsClear (slot s) (f.imm.extractLsb' 0 12) →
        Yields (.waitf f) s ((entered (.waitf f) s).grp.passes s.cur f.len))
    ∧ (clear (.waitf f) s = true → ¬ flagsClear (slot s) (f.imm.extractLsb' 0 12) → exec (.waitf f) s = .next (holdSlot (entered (.waitf f) s)))

/-- R20, R105, R106, R107: a branch whose condition holds sends its slot to the target and ends the clause and any loop; one whose condition does not
hold moves on; a bad target traps as FETCHAL (R15). That a loop armed in the same clause, its body not yet begun, ends too, and one whose body ICINV
has unpinned, is the model's choice (log entry 67). -/
def Obligations.Branches : Prop :=
  ∀ (f : Ctl) (s : State), ∀ p ∈ [(Instr.bra f, true), (.braNz f, readS s f.a.toNat != 0), (.braZ f, readS s f.a.toNat == 0), (.braEz f, (slot s).exec == 0)],
    clear p.1 s = true →
      let pc := relTarget (slot s).pc (if f.len = .l64 then f.imm.toInt else f.w1.toInt)
      (p.2 = false → Yields p.1 s (s.grp.passes s.cur f.len))
      ∧ (p.2 = true → pc % 4 = 0 → pc % 32 ≠ 28 → Yields p.1 s (s.grp.modSlot s.cur (fun y => (Slot.issued y).goto pc)))
      ∧ (p.2 = true → (pc % 4 ≠ 0 ∨ pc % 32 = 28) → exec p.1 s = .next (takeTrap 0x02 (BitVec.allOnes 32) 0 0 s))

/-- R108, R109: BRX and RET go to the address in a register; CALL writes the address after its clause into its link register and goes to its target. -/
def Obligations.CallsAndReturns : Prop :=
  ∀ (f : Ctl) (s : State),
    (∀ x ∈ [Instr.brx f, .ret f], clear x s = true →
      let pc := (readS s f.a.toNat).toNat
      (badTarget pc = false → Yields x s (s.grp.modSlot s.cur (fun y => (Slot.issued y).goto pc)))
      ∧ (badTarget pc = true → exec x s = .next (takeTrap 0x02 (BitVec.allOnes 32) 0 0 s)))
    ∧ (clear (.call f) s = true → ∀ c w, continuation s (4 * f.len.words) = .ok (c, w) →
      let pc := relTarget (slot s).pc (if f.len = .l64 then f.imm.toInt else f.w1.toInt)
      (badTarget pc = false → ∃ t, exec (.call f) s = .next t ∧ OutsideSame w t
        ∧ t.grp = (w.grp.writeS s.cur f.d.toNat (BitVec.ofNat 64 c) allBits).modSlot s.cur (fun y => (Slot.issued y).goto pc))
      ∧ (badTarget pc = true → exec (.call f) s = .next (takeTrap 0x02 (BitVec.allOnes 32) 0 0 s)))

/-- R112, R23: SPLIT holds until its slot's flags read zero; then: no lane taken; every lane taken; a fork into the other slot; a push of the lanes not
taken, which traps as DIVDEEP at the capacity; a bad target traps as FETCHAL (R15). -/
def Obligations.Splits : Prop :=
  ∀ (f : Ctl) (s : State), clear (.split f) s = true →
    let x := Instr.split f
    let u := entered x s
    ((slot s).flagsZero = false → exec x s = .next (holdSlot u)) ∧ ((slot s).flagsZero = true →
    let k := (f.imm.extractLsb' 0 7).toNat
    let taken := (slot s).exec &&& (readS s f.a.toNat).setWidth 32
    let rest := (slot s).exec &&& ~~~((readS s f.a.toNat).setWidth 32)
    let target := relTarget (slot s).pc (if f.len = .l64 then (f.imm.extractLsb' 7 14).toInt else f.w1.toInt)
    (taken = 0 → Yields x s ((u.grp.passes s.cur f.len).closes x))
    ∧ (taken ≠ 0 → rest = 0 → badTarget target = false →
        Yields x s ((u.grp.modSlot s.cur (fun y => (Slot.issued y).goto target)).closes x))
    ∧ (taken ≠ 0 → badTarget target = true → (continuation u (4 * f.len.words)).isOk = true →
        exec x s = .next (takeTrap 0x02 (BitVec.allOnes 32) 0 0 u))
    ∧ (∀ c w, taken ≠ 0 → rest ≠ 0 → badTarget target = false → continuation u (4 * f.len.words) = .ok (c, w) →
        ((other s).live = false → (other s).flagsZero = true → ∃ t, exec x s = .next t ∧ OutsideSame w t
          ∧ t.grp = ((w.grp.modSlot (! s.cur) (fun y => { Slot.vacant with st := .ready, pc := c, exec := rest, flags := y.flags, tag := k })).modSlot s.cur
              (fun y => { (Slot.issued y).goto target with exec := taken, tag := k })).closes x)
        ∧ ((other s).live = false → (other s).flagsZero = false → exec x s = .next (holdSlot u))
        ∧ ((other s).live = true → s.grp.dvDepth = s.grp.dvCap → exec x s = .next (takeTrap 0x03 (BitVec.allOnes 32) 0 0 u))
        ∧ (∀ v, (other s).live = true → s.grp.dvDepth ≠ s.grp.dvCap →
            dvWrite s.grp.dvDepth { pc := dvPc c, k := k, own := s.cur, pend := true, mask := rest, saved := 0 } w = .ok v →
            ∃ t, exec x s = .next t ∧ OutsideSame (wakeStack v) t
              ∧ t.grp = ({ (wakeStack v).grp with dvDepth := s.grp.dvDepth + 1 }.modSlot s.cur
                  (fun y => { (Slot.issued y).goto target with exec := taken })).closes x)))

/-- R113, R23: JOIN, case by case, where its slot's flags read zero, and its hold where they do not; an entry whose PC is no target traps as FETCHAL
(R15, R106). A slot that parks where the other is parked for case 1, which now applies to it, releases it; one whose top entry changes is released where
it is parked by case 4. -/
def Obligations.Joins : Prop :=
  ∀ (f : Ctl) (s : State), clear (.join f) s = true →
    let x := Instr.join f
    let u := entered x s
    let k := (f.imm.extractLsb' 0 7).toNat
    let m := (slot s).exec
    let partner := (other s).live && (other s).tag == k
    ((slot s).flagsZero = false → exec x s = .next (holdSlot u)) ∧ ((slot s).flagsZero = true →
    (partner = true → (other s).atJoin k = true →
        Yields x s (((u.grp.modSlot (! s.cur) (fun y => { Slot.vacant with flags := y.flags })).modSlot s.cur
          (fun y => passed { y with exec := m ||| (other s).exec, tag := 127 } (4 * f.len.words))).closes x))
    ∧ (partner = true → (other s).atJoin k = false → exec x s = .next (modCur (fun y => { y with st := .parkJoin k false }) u))
    ∧ (partner = false → s.grp.dvDepth = 0 → Yields x s ((u.grp.passes s.cur f.len).closes x))
    ∧ (∀ e v, partner = false → s.grp.dvDepth ≠ 0 → dvRead (s.grp.dvDepth - 1) u = .ok (e, v) →
        (dvOwner s e ≠ s.cur → exec x s = .next (let w := modCur (fun y => { y with st := .parkJoin k true }) u
          if (other s).st = .parkJoin k false ∧ (slot s).tag = k then modOther (fun y => { y with st := .ready }) w else w))
        ∧ (dvOwner s e = s.cur → e.k ≠ k → ∃ t, exec x s = .next t ∧ OutsideSame v t ∧ t.grp = (v.grp.passes s.cur f.len).closes x)
        ∧ (dvOwner s e = s.cur → e.k = k → badTarget (pcOfDv e.pc) = true → (continuation v (4 * f.len.words)).isOk = true →
            (e.pend = true ∨ e.pc ≠ selfMark) → exec x s = .next (takeTrap 0x02 (BitVec.allOnes 32) 0 0 u))
        ∧ (∀ c w z, dvOwner s e = s.cur → e.k = k → e.pend = true → badTarget (pcOfDv e.pc) = false → continuation v (4 * f.len.words) = .ok (c, w) →
            dvWrite (s.grp.dvDepth - 1) { e with saved := m, pend := false, pc := dvPc c } w = .ok z →
            ∃ t, exec x s = .next t ∧ OutsideSame (wakeStack z) t
              ∧ t.grp = ((wakeStack z).grp.modSlot s.cur (fun y => { (Slot.issued y).goto (pcOfDv e.pc) with exec := e.mask })).closes x)
        ∧ (dvOwner s e = s.cur → e.k = k → e.pend = false → e.pc ≠ selfMark → badTarget (pcOfDv e.pc) = false →
            ∃ t, exec x s = .next t ∧ OutsideSame (wakeStack v) t
              ∧ t.grp = ({ (wakeStack v).grp with dvDepth := s.grp.dvDepth - 1 }.modSlot s.cur
                  (fun y => { (Slot.issued y).goto (pcOfDv e.pc) with exec := m ||| e.saved })).closes x)
        ∧ (dvOwner s e = s.cur → e.k = k → e.pend = false → e.pc = selfMark →
            ∃ t, exec x s = .next t ∧ OutsideSame (wakeStack v) t
              ∧ t.grp = ({ (wakeStack v).grp with dvDepth := s.grp.dvDepth - 1 }.modSlot s.cur
                  (fun y => passed { y with exec := m ||| e.saved } (4 * f.len.words))).closes x)))

/-- R114: EXIT with an empty stack ends its slot's path and releases a JOIN of the other slot; the group drains with its last path, its waits
cancelled (R228, R229); so does it with the other live slot's entry on top; with an entry of its own on top the slot runs the other side, or goes on at the
join with the lanes that wait there, or, where no lanes wait, EXIT is evaluated against the next entry; an entry whose PC is no target traps as FETCHAL
(R15, R106). -/
def Obligations.Exits : Prop :=
  ∀ (f : Ctl) (s : State), clear (.exit f) s = true →
    let x := Instr.exit f
    let u := entered x s
    let ended := wakeJoin (modCur (fun y => { Slot.vacant with flags := y.flags }) u)
    (s.grp.dvDepth = 0 → (other s).live = true → Yields x s (ended.grp.closes x))
    ∧ (s.grp.dvDepth = 0 → (other s).live = false → s.grp.inHandler = false →
        Yields x s ({ ended.grp with life := .draining, ops := ended.grp.ops.filter (fun o => ! o.isWait), waitList := [] }.closes x))
    ∧ (∀ e v, s.grp.dvDepth ≠ 0 → dvRead (s.grp.dvDepth - 1) u = .ok (e, v) → dvOwner s e = s.cur →
        ((e.pend = true ∨ e.saved ≠ 0) → badTarget (pcOfDv e.pc) = true → exec x s = .next (takeTrap 0x02 (BitVec.allOnes 32) 0 0 u))
        ∧ (∀ z, e.pend = true → badTarget (pcOfDv e.pc) = false →
          dvWrite (s.grp.dvDepth - 1) { e with pend := false, saved := 0, pc := selfMark } v = .ok z →
          ∃ t, exec x s = .next t ∧ OutsideSame (wakeStack z) t
            ∧ t.grp = ((wakeStack z).grp.modSlot s.cur (fun y => { (Slot.issued y).goto (pcOfDv e.pc) with exec := e.mask })).closes x)
        ∧ (e.pend = false → e.saved ≠ 0 → badTarget (pcOfDv e.pc) = false →
          ∃ t, exec x s = .next t ∧ OutsideSame (wakeStack v) t
            ∧ t.grp = ({ (wakeStack v).grp with dvDepth := s.grp.dvDepth - 1 }.modSlot s.cur
                (fun y => { (Slot.issued y).goto (pcOfDv e.pc) with exec := e.saved })).closes x)
        ∧ (e.pend = false → e.saved = 0 → s.grp.dvDepth = 1 → (other s).live = true →
          let w := wakeJoin (modCur (fun y => { Slot.vacant with flags := y.flags }) (setDepth 0 v))
          ∃ t, exec x s = .next t ∧ OutsideSame w t ∧ t.grp = w.grp.closes x)
        ∧ (∀ r, e.pend = false → e.saved = 0 → exitScan 255 (setDepth (s.grp.dvDepth - 1) v) = .ok r → r.grp.gid = s.grp.gid →
          ∃ t, exec x s = .next t ∧ OutsideSame r t ∧ t.grp = r.grp.closes x))
    ∧ (∀ e v, s.grp.dvDepth ≠ 0 → dvRead (s.grp.dvDepth - 1) u = .ok (e, v) → dvOwner s e ≠ s.cur →
        let w := wakeJoin (modCur (fun y => { Slot.vacant with flags := y.flags }) v)
        ∃ t, exec x s = .next t ∧ OutsideSame w t ∧ t.grp = w.grp.closes x)

/-- R116, R118: LOOP arms a loop of the count and length it gives, which its clause's end takes up, or skips where the count is 0; at the end of its
body a loop goes round until its count is reached; that it replaces a loop armed before it in its clause or in a body that ICINV has unpinned, is the
model's choice (log entry 67); REP sets up the repetitions of the next instruction, which moves on only after the last, and is ILL as the last of its
clause, before a header or control instruction, and where a field would pass 63. -/
def Obligations.LoopsAndRepeats : Prop :=
  (∀ (f : Ctl) (s : State), clear (.loop f) s = true →
    let n := if f.len = .l64 then (readS s f.a.toNat).toNat else f.w1.toNat
    let l : Loop := { body := 0, len := 4 * f.imm.toNat, count := n, iter := 0, run := false, pin := .want }
    Yields (.loop f) s ((s.grp.modSlot s.cur (fun y => { y with loop := some l })).passes s.cur f.len))
  ∧ (∀ (y : Slot) (l : Loop), y.loop = some l → l.run = false → l.count ≠ 0 →
      y.loopEnd = { y with loop := some { l with body := y.pc, run := true, iter := 0, pin := .want } })
  ∧ (∀ (y : Slot) (l : Loop), y.loop = some l → l.run = false → l.count = 0 → y.loopEnd = { y with pc := nextPc (y.pc + l.len) 0, loop := none })
  ∧ (∀ (y : Slot) (l : Loop), y.loop = some l → l.run = true → y.pc = l.endPc → l.iter + 1 < l.count →
      y.loopEnd = { y with pc := l.body, loop := some { l with iter := l.iter + 1 } })
  ∧ (∀ (y : Slot) (l : Loop), y.loop = some l → l.run = true → y.pc = l.endPc → l.count ≤ l.iter + 1 → y.loopEnd = { y with loop := none })
  ∧ (∀ (f : Ctl) (s : State), clear (.rep f) s = true →
      (slot s).atLast = true ∨ (∃ ws n v, fetchWords s (nextPc (slot s).pc (4 * f.len.words)) = .ok (ws, n, v) ∧ isControl ws = true) →
      exec (.rep f) s = .next (takeTrap 0x01 (BitVec.allOnes 32) 0 0 s))
  ∧ (∀ (f : Ctl) (s : State) (ws : Words) (n : Nat) (v : State) (i : Instr), clear (.rep f) s = true → (slot s).atLast = false →
      fetchWords s (nextPc (slot s).pc (4 * f.len.words)) = .ok (ws, n, v) → isControl ws = false → parse ws = some i →
      let r : Rep := { n := (f.imm.extractLsb' 0 6).toNat + 1, i := 0, sdd := (f.imm.extractLsb' 6 3).toNat, sda := (f.imm.extractLsb' 9 3).toNat,
                       sdb := (f.imm.extractLsb' 12 3).toNat, sdc := (f.imm.extractLsb' 15 3).toNat }
      (strideOver r.n r.sdd r.sda r.sdb r.sdc i ws = false →
        ∃ t, exec (.rep f) s = .next t ∧ OutsideSame v t ∧ t.grp = (v.grp.passes s.cur f.len).modSlot s.cur (fun y => { y with rep := some r }))
      ∧ (strideOver r.n r.sdd r.sda r.sdb r.sdc i ws = true → exec (.rep f) s = .next (takeTrap 0x01 (BitVec.allOnes 32) 0 0 s)))
  ∧ (∀ (y : Slot) (r : Rep) (n : Nat), y.rep = some r →
      y.step n = if r.i + 1 < r.n then { y with rep := some { r with i := r.i + 1 } } else Slot.past { y with rep := none } n)

/-! ### System instructions (R44, R122 to R127) -/

/-- R44, R123: SYSR writes the system register that it names, with the values R73, R81, R82, R110, R260, R316, R335, R345, R410 and R411 give, every
reserved bit zero; link and slice registers need read rights on the register block. What counts as waiting at a slice is log entry 74's. -/
def Obligations.SystemReads : Prop :=
  (∀ (f : Ctl) (s : State), clear (.sysr f) s = true →
    ((f.imm.toNat < 0x100 ∨ blockReadable s = true) →
      Yields (.sysr f) s ((s.grp.writeS s.cur f.d.toNat (sysRead s f.imm.toNat) allBits).passes s.cur f.len))
    ∧ (0x100 ≤ f.imm.toNat → blockReadable s = false → exec (.sysr f) s = .next (takeTrap 0x05 (BitVec.allOnes 32) 0 0 s)))
  ∧ ∀ s : State,
      sysRead s 0 = BitVec.ofNat 64 s.grp.fpstat ∧ sysRead s 1 = BitVec.ofNat 64 s.grp.qstat ∧ sysRead s 2 = BitVec.ofNat 64 s.grp.qmode
      ∧ sysRead s 0x10 = s.team.gang
      ∧ (s.grp.dvDepth < 256 → s.grp.dvCap < 256 → s.grp.slot0.tag < 128 → s.grp.slot1.tag < 128 →
          sysRead s 0x20 = BitVec.ofNat 64 (s.grp.dvDepth + 2 ^ 8 * s.grp.dvCap + 2 ^ 16 * s.grp.slot0.tag + 2 ^ 23 * s.grp.slot1.tag))
      ∧ (s.grp.pgtok < 2 ^ 32 → sysRead s 0x21 = BitVec.ofNat 64 (s.grp.pgtok + 2 ^ 32 * (if s.grp.pgPend then 1 else 0)))
      ∧ (let w := sysRead s 0x11
         let fld := fun lo n => (w.extractLsb' lo n).toNat
         fld 0 6 = s.team.mfl % 64 ∧ fld 6 2 = 0 ∧ w.getLsbD 8 = s.team.lheld ∧ w.getLsbD 9 = s.team.lpend ∧ fld 10 11 = s.team.lcnt % 2048
          ∧ fld 21 3 = 0 ∧ w.getLsbD 24 = s.team.latch.broken ∧ fld 25 7 = 0 ∧ fld 32 32 = s.team.bankc % 2 ^ 32)
      ∧ (∀ k < 15,
          let w := sysRead s (0x100 + k)
          let fld := fun lo n => (w.extractLsb' lo n).toNat
          let l := link s k
          let lit := fun (v : Word) => ((List.range 64).filter (fun i => v.getLsbD i)).length
          fld 0 2 = (if l.training then 1 else if l.up = false then 0 else if lit l.txLit = 64 ∧ lit l.rxLit = 64 then 2 else 3)
          ∧ w.getLsbD 2 = l.txKph ∧ w.getLsbD 3 = (l.rot || l.rxRot) ∧ fld 4 4 = (s.mgmt.device + k + 1) % 16
          ∧ fld 8 7 = lit l.txLit ∧ fld 15 7 = lit l.rxLit
          ∧ (∀ c < 4, w.getLsbD (22 + c) = (List.range 64).any (fun i => l.txLit.getLsbD i && i % 16 / 4 == c)
              ∧ w.getLsbD (26 + c) = (List.range 64).any (fun i => l.rxLit.getLsbD i && i % 16 / 4 == c))
          ∧ fld 30 8 = l.spf % 256 ∧ fld 38 12 = vget l.txEsn 0 0 % 4096 ∧ fld 50 9 = l.kept.length % 512 ∧ fld 59 5 = 0)
      ∧ (∀ i < 8, ((sysRead s 0x10F).extractLsb' (4 * i) 4).toNat = vget s.fabric.spares i 15 % 16 ∧ ((sysRead s 0x10F).extractLsb' 32 32).toNat = 0)
      ∧ (∀ m < 256,
          let w := sysRead s (0x200 + m)
          let fld := fun lo n => (w.extractLsb' lo n).toNat
          let pinned := s.pins.flatMap (fun x => (List.range 32).map (fun i => x.1 * 4096 + 128 * i))
          fld 0 32 = (vget s.slices m ⟨0⟩).accept % 2 ^ 32 ∧ fld 32 10 = min 1023 (waitingAt s m)
          ∧ fld 42 6 = min 63 (s.claims.filter (fun c => inSlice s m (c.1 * 128))).length
          ∧ fld 48 14 = min 8192 ((pinned.filter (inSlice s m)).length / 8) ∧ fld 62 2 = 0)

/-- R44, R73, R81, R82, R110, R123, R336, R345: SYSW stores the fields of the register that it names and ignores reserved ones; the gang register takes
only a valid value, empties the latch and traps the members waiting there; another depth wakes a slot parked at JOIN for its top entry. -/
def Obligations.SystemWrites : Prop :=
  ∀ (f : Ctl) (s : State), clear (.sysw f) s = true →
    let x := Instr.sysw f
    let u := entered x s
    let v := readS s f.a.toNat
    let fld := fun (lo n : Nat) => (v.extractLsb' lo n).toNat
    (f.imm.toNat = 0 → Yields x s ({ u.grp with fpstat := fld 0 6 }.passes s.cur f.len).begins)
    ∧ (f.imm.toNat = 1 → Yields x s ({ u.grp with qstat := fld 0 6 }.passes s.cur f.len).begins)
    ∧ (f.imm.toNat = 2 → Yields x s ({ u.grp with qmode := if fld 0 3 = 0 ∨ fld 0 3 = 7 then 1 else fld 0 3 }.passes s.cur f.len).begins)
    ∧ (f.imm.toNat = 0x20 → ((∀ k, (other s).st ≠ .parkJoin k true) ∨ min (fld 0 8) s.grp.dvCap = s.grp.dvDepth) → Yields x s
        ({ u.grp with dvDepth := min (fld 0 8) s.grp.dvCap, slot0 := { s.grp.slot0 with tag := fld 16 7 }, slot1 := { s.grp.slot1 with tag := fld 23 7 } }.passes
          s.cur f.len).begins)
    ∧ (∀ k, f.imm.toNat = 0x20 → (other s).st = .parkJoin k true → min (fld 0 8) s.grp.dvCap ≠ s.grp.dvDepth → Yields x s
        (({ u.grp with dvDepth := min (fld 0 8) s.grp.dvCap, slot0 := { s.grp.slot0 with tag := fld 16 7 }, slot1 := { s.grp.slot1 with tag := fld 23 7 }
          }.modSlot (! s.cur) (fun y => { y with st := .ready })).passes s.cur f.len).begins)
    ∧ (f.imm.toNat = 0x11 → YieldsIn x s { s with team := { s.team with mfl := fld 0 6, bankc := fld 32 32 } } (u.grp.passes s.cur f.len).begins)
    ∧ (f.imm.toNat = 0x10 → gangValid v s.team.ngroups = true → s.team.latch.arrived = [] →
        YieldsIn x s { s with team := { s.team with gang := v, latch := Latch.empty } } (u.grp.passes s.cur f.len).begins)
    ∧ (f.imm.toNat = 0x10 → gangValid v s.team.ngroups = true →
        let w := gangTrap s.team.tid false u
        YieldsIn x s { w with team := { s.team with gang := v, latch := Latch.empty } } (w.grp.passes s.cur f.len).begins)
    ∧ (f.imm.toNat = 0x10 → gangValid v s.team.ngroups = false → exec x s = .next (takeTrap 0x01 (BitVec.allOnes 32) 0 0 u))

/-- R124, R125: TIME writes the global time counter, and IDX the index that SEL names, from the team's place in its grid. -/
def Obligations.TimeAndIndices : Prop :=
  (∀ (f : Ctl) (s : State), clear (.time f) s = true →
    Yields (.time f) s ((s.grp.writeS s.cur f.d.toNat (BitVec.ofNat 64 s.time) allBits).passes s.cur f.len))
  ∧ (∀ (f : Ctl) (s : State) (g : Grid), clear (.idx f) s = true → gridOf s s.grp.grid = some g →
      let t := s.team.index
      let p := t % (g.pkt.w * g.pkt.h)
      let table := [s.grp.index, t % g.pkt.x, t / g.pkt.x % g.pkt.y, t / (g.pkt.x * g.pkt.y), g.pkt.x, g.pkt.y, g.pkt.z, g.pkt.gm1 + 1,
        p % g.pkt.w, p / g.pkt.w, g.pkt.w, g.pkt.h, t, if s.cur then 1 else 0]
      f.imm.toNat < 14 →
      Yields (.idx f) s ((s.grp.writeS s.cur f.d.toNat (BitVec.ofNat 64 (table.getD f.imm.toNat 0)) allBits).passes s.cur f.len))

/-- R126, R396: LAUNCH checks its address, releases the group's writes at device scope, and reports by its status: 2 for an invalid packet, 3 where the
access tables refuse the packet's read, what it names or the snapshot's writing (log entry 76), 1 where the queue or the snapshots are full, 0 where the
packet entered the launch queue with a snapshot. That the rights of pages count with those of the tables, and which status comes first, are the model's choices (log entry 71). -/
def Obligations.Launches : Prop :=
  ∀ (f : Ctl) (s : State), clear (.launch f) s = true →
    let x := Instr.launch f
    let u := entered x s
    let p := s.grp.part
    let me := launchReader s.grp.gid s.cur
    let va := (readS s f.a.toNat).toNat
    let done := fun (v : State) (st : Nat) =>
      let w := dropArgs p me v
      YieldsIn x s { w with nextId := w.nextId + 1 } ((w.grp.starts w f.cf.toNat (Op.writing f.d.toNat (BitVec.ofNat 64 st))).passes s.cur f.len).begins
    (canonical va = false → exec x s = .next (takeTrap 0x05 (BitVec.allOnes 32) va 0 u))
    ∧ (canonical va = true → va % 64 ≠ 0 → exec x s = .next (takeTrap 0x04 (BitVec.allOnes 32) va 0 u))
    ∧ (canonical va = true → va % 64 = 0 → xlate u (some s.grp.core) p va 64 needLoad = .refused → releaseStop u 4 = none →
        done (releaseNow 4 u) 3)
    ∧ (∀ pa sreq, canonical va = true → va % 64 = 0 → xlate u (some s.grp.core) p va 64 needLoad = .ok pa sreq → releaseStop u 4 = none →
        let a := canonPa u pa
        let r := releaseNow 4 u
        let w := accept r a
        let ws := (List.range 8).map (fun i => (distWord r p me (a + 8 * i)).data)
        let k := packetOf ws
        (distNo u p me a = true → done r 3)
        ∧ (distNo u p me a = false → lineHeld u s.grp.core (lineNo u a) = false → distHere u p me a = true →
          (packetValid w p ws = false → done w 2)
          ∧ (packetValid w p ws = true → packetRefused w p me k = true → done w 3)
          ∧ (packetValid w p ws = true → packetRefused w p me k = false → firstMiss w p (argPages k) = none → argFills w p me k = [] →
            (freeSnap w p = none → done w 1)
            ∧ (∀ n, freeSnap w p = some n → 256 ≤ (part w p).launchQ.length → done w 1)
            ∧ (∀ n, freeSnap w p = some n → (part w p).launchQ.length < 256 → snapRefused w p n = true → done w 3)
            ∧ (∀ n, freeSnap w p = some n → (part w p).launchQ.length < 256 → snapRefused w p n = false → (distPa w p (snapVa w p n)).isSome = true →
                argsHeld w p n k = false →
                let v := makeSnap p me n k w
                done (modPart p (fun q => { q with
                  launchQ := q.launchQ ++ [{ pkt := k, pri := (f.imm.extractLsb' 0 2).toNat, snap := n, seq := v.nextId, stall := none }] }) v) 0))))

/-- R127: ICINV drops the partition's copies of the blocks that it names from its core, or from every core, unpins loop bodies that overlap them, and is
an operation that its flag counts. -/
def Obligations.CodeInvalidation : Prop :=
  ∀ (f : Ctl) (s : State), clear (.icinv f) s = true →
    let x := Instr.icinv f
    let u := entered x s
    let va := (readS s f.a.toNat).toNat
    let first := va57 va / 32
    let n := (f.imm.extractLsb' 0 8).toNat + 1
    let all := f.imm.getLsbD 8
    let w := dropCode s.grp.part (if all then none else some s.grp.core) first n u
    (canonical va = false → exec x s = .next (takeTrap 0x05 (BitVec.allOnes 32) va 0 u))
    ∧ (canonical va = true → YieldsIn x s w ((w.grp.starts w f.cf.toNat (Op.new .done)).passes s.cur f.len).begins)
    ∧ (∀ c < 384, (Machine.core w c).icache = if all || c == s.grp.core then
          (Machine.core s c).icache.filter (fun b => ! (b.part == s.grp.part && first ≤ b.block && b.block < first + n))
        else (Machine.core s c).icache)
    ∧ MemorySame s w

/-! ### Words and steps (R9, R13 to R18, R29, R50, R65) -/

/-- R9, R13, R17, R29, R32, R38: every well-formed instruction of every family is read back from its bytes, with every operand, and what follows
it is left. -/
def Obligations.EncodeThenDecode : Prop :=
  ∀ (i : Instr) (rest : List Byte), i.wf = true → (encode i).isSome = true →
    decode (encodeBytes i ++ rest) = .ok (i, rest) ∧ (encodeBytes i).length = i.size

/-- R13, R50, R65: bytes that decode are the bytes of the one instruction that they decode to, which is well formed: no bit is ignored. -/
def Obligations.DecodeThenEncode : Prop :=
  ∀ (bs rest : List Byte) (i : Instr), decode bs = .ok (i, rest) → i.wf = true ∧ encodeBytes i ++ rest = bs

/-- R17, R29, R32, R38: words written out from the encoding tables, and what they stand for. -/
def Obligations.SampleWords : Prop :=
  let comp : Comp := { len := .l64, d := 3, a := 1, b := 2, ty := 4, msk := 0, cf := 0, u := false, ax := false, bx := false, rm := 0, ow := false,
                       qr := 0, opf := 0, w1 := 0, w2 := 0 }
  let mem : MemF := { len := .l64, d := 5, a := 1, b := 2, ty := 6, msk := 0, cf := 1, u := false, sc := 3, rdis := 0, ord := 0, scope := 0, spw := false,
                      nv := false, off8 := 2, w1 := 0, w2 := 0 }
  let ctl : Ctl := { len := .l64, d := 0, a := 4, b := 0, ty := 0, msk := 0, cf := 0, u := false, imm := 5, w1 := 0, w2 := 0 }
  -- D 3 at bit 14, A 1 at bit 20, B 2 at bit 26, TY 4 at bit 32; MAJ 0x20, SUB 0 at bits 2 and 10
  decodeTableWord 64 (0x20 * 2 ^ 2 + 3 * 2 ^ 14 + 1 * 2 ^ 20 + 2 * 2 ^ 26 + 4 * 2 ^ 32) = some (.vadd comp)
  -- MAJ 0x80; TY 6; CF 1 at bit 40; SC 3 at bit 43; OFF8 2 at bit 56
  ∧ decodeTableWord 64 (0x80 * 2 ^ 2 + 5 * 2 ^ 14 + 1 * 2 ^ 20 + 2 * 2 ^ 26 + 6 * 2 ^ 32 + 1 * 2 ^ 40 + 3 * 2 ^ 43 + 2 * 2 ^ 56) = some (.ld mem)
  -- MAJ 0x08; A 4; the join number 5 at bit 43
  ∧ decodeTableWord 64 (0x08 * 2 ^ 2 + 4 * 2 ^ 20 + 5 * 2 ^ 43) = some (.split ctl)
  -- a header: NINS 3 at bit 2, WAIT 4 at bit 8, SETA 0 and SETB 1 at bits 20 and 24
  ∧ decodeTableWord 64 (3 + 3 * 2 ^ 2 + 4 * 2 ^ 8 + 0 * 2 ^ 20 + 1 * 2 ^ 24)
      = some (.clauseHeader { nins := 3, wait := 4, setA := 0, setB := 1, yld := false, ser := false, rsv := 0 })
  -- the same header with a reserved bit set, and one of no instructions (R50)
  ∧ decodeTableWord 64 (3 + 3 * 2 ^ 2 + 4 * 2 ^ 8 + 1 * 2 ^ 24 + 2 ^ 30) = none
  ∧ decodeTableWord 64 (3 + 4 * 2 ^ 8 + 1 * 2 ^ 24) = none

/-- A step with no input due runs the instruction whose bytes stand at the PC of the slot whose turn it is (R13 to R18, R402); a step with an input
due takes it; and what is fetched is memory's content where no copy of it is held (R452) and its line is not held at home (R248, R277). Where an
instruction has issued, every other slot of its core that was ready has waited one cycle more; a slot whose instruction cannot issue is held, and the next of
its core is picked; where a second slot is picked for the same cycle, both issue (R403), `RegisterWrites` says what each of one group reads, and of two traps
in a group the older slot's comes first (R308). -/
def Obligations.StepRunsTheDecodedInstruction : Prop :=
  (∀ (s t : State) (x : Nat × Bool) (i : Instr) (bs rest : List Byte), s.agenda = [] → s.turn = false → pick (elapse s) = some x →
    let p := picked x (elapse s)
    partner x (elapse s) = none → (slot p).reenter = false → ((slot p).cl = none → badTarget (slot p).pc = false) → (∀ l, (slot p).loop = some l → l.run = true → l.pin ≠ .want) → fetchFrom p (slot p).pc = .ok (bs, t) →
    (slot p).pc % 32 + lenBytes (bs.getD 0 0) ≤ 32 → decode bs = .ok (i, rest) → ((slot p).skipBp = true ∨ comparator t (slot p).pc = none) →
    badTransfer i t = false → ((slot p).cl = none → ∃ h, i = .clauseHeader h) → (slot p).rep = none →
    ∃ g, groupOf (elapse s) x.1 = some g
      ∧ (∀ u, exec i t = .next u → u.issues ≠ s.issues → step s = .next (countWaits g.core [x] (elapse s) u))
      ∧ (∀ u, exec i t = .next u → u.issues = s.issues → (slotOf u x).st ≠ .held → step s = .next u)
      ∧ (∀ u, exec i t = .next u → u.issues = s.issues → (slotOf u x).st = .held →
          step s = match firstSlot u (besides g.core x u) with
            | some y => cycle 95 [(x.1, x.2, g.core)] (y.1, y.2.1) u
            | none => .next u)
      ∧ (∀ r, exec i t = .fault r → step s = .fault r) ∧ (∀ r, exec i t = .refused r → step s = .refused r))
  ∧ (∀ (s t : State) (x y : Nat × Bool), s.agenda = [] → s.turn = false → pick (elapse s) = some x → partner x (elapse s) = some y →
      let e := elapse s
      let two := if y.1 ≠ x.1 then issueApart x y e
        else if ageIn e y < ageIn e x ∧ trapping x e = true ∧ trapping y e = true then issueBoth y x e else issueBoth x y e
      two = .next t → ∃ g, groupOf e x.1 = some g
        ∧ (t.issues ≠ s.issues → step s = .next (countWaits g.core [x, y] e t))
        ∧ (t.issues = s.issues → (slotOf t x).st ≠ .held → step s = .next t))
  ∧ (∀ (s : State) (i : Instr) (rest : List Instr), s.agenda = i :: rest → step s = exec i { elapse s with agenda := rest })
  ∧ (∀ (s : State) (va pa : Nat) (sr : Bool), pinnedBytes (slot s) va = none → icacheGet s s.grp.core s.grp.part (va57 va / 32) = none →
    canonical va = true → xlate s (some s.grp.core) s.grp.part (va57 va / 32 * 32) 32 needFetch = .ok pa sr → (∀ d l, homeOf s pa ≠ .peer d l) →
    lineHeld s s.grp.core (lineNo s pa) = false →
    ∃ t, fetchFrom s va = .ok ((readBytes s pa 32).drop (va % 32), t) ∧ t.grp = s.grp ∧ t.mem = s.mem ∧ t.agenda = s.agenda)

/-- R292, R439, R444, R446: what device reset leaves: no team, epoch 0, the measurement registers zero, the access tables empty but for master 49's
entry over each target, the ownership table's pattern, and memory in its canonical form; which targets there are, one for the slice sets, the register
block, the host port and the fabric endpoint and one for each stack's memory controller and each Flume engine, and their numbers, is the model's reading
(log entry 11), and that an unlisted byte reads 0 is log entry 4's. -/
def Obligations.ResetState : Prop :=
  State.reset.groups = [] ∧ State.reset.teams = [] ∧ State.reset.clusters = [] ∧ State.reset.grids = []
  ∧ State.reset.grp.life = .retired ∧ State.reset.team.life = .retired ∧ State.reset.time = 0
  ∧ State.reset.weir.e = 0 ∧ State.reset.weir.queue = [] ∧ State.reset.weir.lastTicket = 0
  ∧ (∀ k < 8, vget State.reset.mgmt.mr k 1 = 0)
  ∧ State.reset.mgmt.tables = ([0, 1, 2, 4] ++ (List.range 16).map (fun k => 3 + 8 * k) ++ (List.range 384).map (fun c => 5 + 8 * c)).map
      (fun t => (t, 49, 0, ⟨0, 2 ^ 52, true, true, true, true, false⟩))
  ∧ (∀ i < 128, vget State.reset.mgmt.owner i 0 = i % 96)
  ∧ (∀ k < 256, vget State.reset.slices k ⟨1⟩ = ⟨0⟩)
  ∧ (∀ p < 16, field (part State.reset p).ctxcfg 12 16 = 0)
  ∧ Memory.wf State.reset = true ∧ ∀ a, readByte State.reset a = 0 ∧ readMark State.reset a = 0 ∧ readValid State.reset a = false

/-- Every step keeps the canonical form of memory, so that equal contents are equal lists. -/
def Obligations.MemoryStaysCanonical : Prop :=
  ∀ s t : State, Memory.wf s = true → Steps s t → Memory.wf t = true

/-- R50, R307, R309: a word that may not execute where it stands has no effect of its own: it traps as ILL for the whole group. -/
def Obligations.IllegalWords : Prop :=
  ∀ (i : Instr) (s : State), i.info ≠ .event → (slot s).live = true → illHere s i = true →
    exec i s = .next (takeTrap 0x01 (BitVec.allOnes 32) 0 0 s)

/-! ### Taking a trap (R306 to R311) -/

/-- R121, R306, R307, R309: BRK and TRAP trap at issue with their code. A group whose operations have completed enters its handler at once: its image
is written with the trap record (its time and `s0` those of the report, R310), slot 0 is live at the handler's address in all lanes with its flags zero, slot 1 is not, `s0` holds the
record's address, and every other register keeps its value. -/
def Obligations.TrapEntry : Prop :=
  (∀ (f : Ctl) (s : State), clear (.brk f) s = true → exec (.brk f) s = .next (takeTrap 0x0D (BitVec.allOnes 32) 0 f.imm.toNat s))
  ∧ (∀ (f : Ctl) (s : State), clear (.trap f) s = true → exec (.trap f) s = .next (takeTrap 0x0E (BitVec.allOnes 32) 0 f.imm.toNat s))
  ∧ (∀ (s : State) (code addr detail : Nat) (lanes : BitVec 32), s.grp.life = .resident → s.grp.trap = none → s.grp.stopped = false →
      s.grp.inHandler = false → s.late = none → s.grp.buf = [] → s.grp.drained = true → s.team.tid = s.grp.team → memberOf s.team s.grp.index = none →
      ctxMapped s s.grp.core s.grp.part (imageVa s s.grp) 0x5000 = true → handlerOf s s.grp ≠ 0 →
      let t := { slotTrap (slot s) s.cur code false lanes addr detail with s0 := vget s.grp.sregs 0 0, time := s.time }
      let g := (({ s.grp with trap := some t }).modSlot s.cur (fun y => { y with st := .ready })).cancelWaits
      let w := dropLaunch s.grp.part s.grp.gid (writeImage g (trapWords t) { s with grp := g })
      (takeTrap code lanes addr detail s).grp = (g.enter (handlerOf s s.grp) (imageVa s s.grp)).begins
        ∧ OutsideSame w (takeTrap code lanes addr detail s))
  ∧ (∀ (g : Group) (h r : Nat), (g.enter h r).slot0.live = true ∧ (g.enter h r).slot0.pc = h ∧ (g.enter h r).slot0.exec = BitVec.allOnes 32
      ∧ (∀ k < 12, (g.enter h r).slot0.flag k = 0) ∧ (g.enter h r).slot1.live = false ∧ vget (g.enter h r).sregs 0 0 = BitVec.ofNat 64 r
      ∧ (∀ k, 0 < k → vget (g.enter h r).sregs k 0 = vget g.sregs k 0) ∧ (g.enter h r).vregs = g.vregs ∧ dvspWord (g.enter h r) = dvspWord g
      ∧ (g.enter h r).fpstat = g.fpstat ∧ (g.enter h r).qstat = g.qstat ∧ (g.enter h r).qmode = g.qmode ∧ (g.enter h r).rdDepth = g.rdDepth
      ∧ (g.enter h r).rdPar = g.rdPar ∧ (g.enter h r).inHandler = true)

/-! ### Memory (R165 to R185) -/

/-- R165, R167, R438: a memory instruction checks its addresses in order, over all its lanes: canonical form, alignment, translation, rights. The first that
some lane fails traps, naming every lane that fails it, or, for a translation, starts a walk while the slot holds; nothing is performed. -/
def Obligations.AddressChecks : Prop :=
  (∀ p ∈ laneForms, ∀ (f : MemF) (s : State), clear (p.1 f) s = true →
    let x := p.1 f
    let u := entered x s
    let vas := laneVas u x f
    let size := tyBytes f.ty.toNat
    let far := vas.filter (fun v => ! canonical v.2)
    let odd := vas.filter (fun v => v.2 % size != 0)
    let gone := vas.filter (fun v => missesAt u v.2)
    let no := vas.filter (fun v => refusedAt u size p.2.1 v.2)
    (far ≠ [] → exec x s = .next (takeTrap 0x05 (lanesAt far) (firstAt far) 0 u))
    ∧ (far = [] → odd ≠ [] → exec x s = .next (takeTrap 0x04 (lanesAt odd) (firstAt odd) 0 u))
    ∧ (far = [] → odd = [] → gone ≠ [] → exec x s = .next (holdSlot (startWalk (firstAt gone) p.2.2 (lanesAt gone) u)))
    ∧ (far = [] → odd = [] → gone = [] → no ≠ [] → exec x s = .next (takeTrap 0x05 (lanesAt no) (firstAt no) 0 u)))
  ∧ ∀ p ∈ oneForms, ∀ (f : MemF) (s : State), clear (p.1 f) s = true →
    let x := p.1 f
    let u := entered x s
    let va := baseVa u f
    let size := p.2.1 f
    (canonical va = false → exec x s = .next (takeTrap 0x05 (BitVec.allOnes 32) va 0 u))
    ∧ (canonical va = true → va % size ≠ 0 → exec x s = .next (takeTrap 0x04 (BitVec.allOnes 32) va 0 u))
    ∧ (canonical va = true → va % size = 0 → missesAt u va = true →
        exec x s = .next (holdSlot (startWalk va p.2.2.2 (BitVec.allOnes 32) u)))
    ∧ (canonical va = true → va % size = 0 → missesAt u va = false → refusedAt u size p.2.2.1 va = true →
        exec x s = .next (takeTrap 0x05 (BitVec.allOnes 32) va 0 u))

/-- R164, R168, R169: what a load whose words are there writes when it completes: the element of each lane, extended by its type; with NV = 0 a lane
with a mismatch keeps its register and the load traps as POSTMARK, with NV = 1 it is written and the scalar register of the same number
receives the mask, the slots' masks under the numbers 62 and 63 among them; LDU writes its scalar register. -/
def Obligations.LoadedElements : Prop :=
  (∀ (g : Gather) (o : Op) (h : Group) (b : Bool), g.no = [] → g.d < 64 → (g.accs.map LaneAcc.lane).Nodup → (∀ a ∈ g.accs, a.lane < 32) →
    let bad := fun a : LaneAcc => mismatch a.sreq (g.word a)
    let done := loadDone g o
    let t := h.applyAll b done.writes
    (g.scalar = false →
      (∀ a ∈ g.accs, lane (vget t.vregs g.d (Vector.replicate 32 0)) a.lane
          = if g.nv || ! bad a then loadElem g.ty a.pa (g.word a).data else lane (vget h.vregs g.d (Vector.replicate 32 0)) a.lane)
      ∧ (∀ l < 32, (∀ a ∈ g.accs, a.lane ≠ l) →
          lane (vget t.vregs g.d (Vector.replicate 32 0)) l = lane (vget h.vregs g.d (Vector.replicate 32 0)) l)
      ∧ (g.nv = true → ∃ m : Word, (∀ l < 64, m.getLsbD l = g.accs.any (fun a => a.lane == l && bad a))
          ∧ t = { h with vregs := t.vregs }.writeS b g.d m allBits)
      ∧ (g.nv = false → t = { h with vregs := t.vregs }))
    ∧ (∀ a, g.scalar = true → g.accs = [a] → a.lane = 0 →
        t = if g.nv || ! bad a then h.writeS b g.d (loadElem g.ty a.pa (g.word a).data) allBits else h)
    ∧ (done.trap.isSome = (! g.nv && g.accs.any bad))
    ∧ (∀ x, done.trap = some x → x.code = 0x06
        ∧ (g.scalar = false → ∀ l < 32, x.lanes.getLsbD l = g.accs.any (fun a => a.lane == l && bad a))))
  ∧ ∀ (ty addr : Nat) (w : Word), ty < 16 →
      loadElem ty addr w = (let n := 8 * tyBytes ty
        let e : BitVec n := w.extractLsb' (8 * (addr % 8)) n
        if ty ∈ [0, 2, 4, 6] then e.signExtend 64 else e.setWidth 64)

/-- R24, R170, R172, R174, R175: LD and LDU make one outstanding load; where its words are at hand it already holds what it will write, and a load
with an acquire makes that at once; where a peer must be asked it waits for the words. -/
def Obligations.Loads : Prop :=
  ∀ p ∈ [(Instr.ld, false), (.ldu, true)], ∀ (f : MemF) (s : State) (accs : List LaneAcc), clear (p.1 f) s = true →
    let x := p.1 f
    let u := entered x s
    let pas := accs.map LaneAcc.pa
    Reaches u (if p.2 then [(0, baseVa u f)] else laneVas u x f) (tyBytes f.ty.toNat) needLoad accs → memHold u (inWords pas) = none →
    (if f.ord = 5 then claimHold u pas else recallHold u pas) = none →
    let r := readWords u.grp.core f.rdis.toNat (if f.ord = 5 then some f.scope.toNat else none) (wordsOf accs) u
    let g := gatherOf f p.2 false u accs r.1 (bufferedBytes u none)
    (g.missing = [] → YieldsIn x s (acquired f r.2) (r.2.grp.leaving x r.2 f.cf.toNat f.len { loadDone g (Op.new .done) with isLoad := true }))
    ∧ (g.missing ≠ [] → ∃ t, exec x s = .next t
        ∧ t.grp = r.2.grp.leaving x r.2 f.cf.toNat f.len { Op.new (.gather g) with isLoad := true })

/-- R171 to R176, R320: a relaxed ST or STU puts its bytes in the region's buffer, those of spillway stores too (R176), and changes no memory; one with a
release makes it, stores through the caches and writes back to its scope. -/
def Obligations.Stores : Prop :=
  ∀ p ∈ [(Instr.st, false), (.stu, true)], ∀ (f : MemF) (s : State) (accs : List LaneAcc), clear (p.1 f) s = true →
    let x := p.1 f
    let u := entered x s
    let data := fun (l : Nat) => if p.2 then readS u f.d.toNat else lane (readQ u f.d.toNat) l
    let bytes := fun (a : LaneAcc) => (bytesOf (data a.lane)).take (tyBytes f.ty.toNat)
    let spill := fun (a : LaneAcc) => f.spw && (peerLine u (lineNo u a.pa)).isSome
    Reaches u (if p.2 then [(0, baseVa u f)] else laneVas u x f) (tyBytes f.ty.toNat) needStore accs → memHold u (inWords (accs.map LaneAcc.pa)) = none →
    (f.ord = 0 → YieldsIn x s u { u.grp.leaving x u f.cf.toNat f.len
        { Op.new (if accs.isEmpty then .done else .buffered) with isWrite := accs.any (fun a => ! spill a) } with
          buf := u.grp.buf ++ accs.map (fun a =>
            ({ op := u.nextId, slot := u.cur, spad := none, va := a.va, addr := a.pa, rdis := f.rdis.toNat,
               spill := (if spill a then some (Machine.core u u.grp.core).cut else none), bytes := bytes a } : BufStore)) })
    ∧ (f.ord ≠ 0 → releaseStop u f.scope.toNat = none → storesRefused u accs = [] → (∀ a ∈ accs, wordHere u u.grp.core a.pa = true) →
        (∀ a ∈ accs, lineHeld u u.grp.core (lineNo u a.pa) = false) →
        let w0 := releaseNow f.scope.toNat u
        let w1 := accs.foldl (fun w a => cacheStore u.grp.core a.pa u.grp.part f.rdis.toNat (bytes a) w) w0
        let w2 := ((accs.map (fun a => lineNo w0 a.pa)).eraseDups).foldl (fun w n => performAt f.scope.toNat n w) w1
        YieldsIn x s w2 (w2.grp.leaving x w2 f.cf.toNat f.len { peerOp (firstAt (accs.map (fun a => (a.lane, a.va)))) w1 w2 with isWrite := true }))

/-- R171, R174, R240, R266: a word written through a core's caches is what the core then reads there; a word of local memory that no cache holds is
read from home, and reading it changes no memory there where no dirty line leaves the caches. -/
def Obligations.CachedWords : Prop :=
  (∀ (s : State) (c pa p r rdis : Nat) (t : TWord), c < 384 → (∀ x ∈ (Machine.core s c).l1, x.words.length = 16) →
    (cacheRead c pa rdis (cacheWrite c pa p r t s)).1 = t)
  ∧ (∀ (s : State) (c pa rdis : Nat), c < 384 → (Machine.core s c).l1 = [] → (die s (dieOf c)).fills = [] → (die s (dieOf c)).lines = [] →
      peerLine s (lineNo s pa) = none →
      (cacheRead c pa rdis s).1 = homeWord s (lineNo s pa * 128 + 8 * wordIx pa) ∧ MemorySame s (cacheRead c pa rdis s).2)
  ∧ ∀ (t : TWord) (off : Nat) (bs : List Byte), off + bs.length ≤ 8 →
      (mergeInto t off bs).mark = postmark (mergeInto t off bs).data
      ∧ ∀ i < 8, (bytesOf (mergeInto t off bs).data).getD i 0 = if off ≤ i ∧ i < off + bs.length then bs.getD (i - off) 0 else (bytesOf t.data).getD i 0

/-- R39, R165, R177, R178, R239: the checks of a scratchpad access in order, of the team's own scratchpad or of a cluster team's, which alone checks
canonical form; its load, and its store into the region's buffer, or at once where it releases. That MISALIGN comes before ACCESS and presence last is
the model's reading (log entry 58). -/
def Obligations.Scratchpads : Prop :=
  (∀ p ∈ [(Instr.lds, false), (.sts, false), (.ldc, true), (.stc, true)], ∀ (f : MemF) (s : State), clear (p.1 f) s = true →
    let x := p.1 f
    let u := entered x s
    let vas := laneVas u x f
    let size := tyBytes f.ty.toNat
    let place := fun v : Nat × Nat => padOf u p.2 v
    let far := vas.filter (fun v => p.2 && ! canonical v.2)
    let odd := vas.filter (fun v => v.2 % size != 0)
    let out := vas.filter (fun v => ! (place v).any (fun q => q.2 + size ≤ 32768 * q.1.spadGran))
    (far ≠ [] → exec x s = .next (takeTrap 0x05 (lanesAt far) (firstAt far) 0 u))
    ∧ (far = [] → odd ≠ [] → exec x s = .next (takeTrap 0x04 (lanesAt odd) (firstAt odd) 0 u))
    ∧ (far = [] → odd = [] → out ≠ [] → exec x s = .next (takeTrap 0x05 (lanesAt out) (firstAt out) 0 u))
    ∧ (∀ t q, far = [] → odd = [] → out = [] → (vas.filterMap place).find? (fun q => q.1.absent.contains (q.2 / 128)) = some (t, q) →
        exec x s = .next (modCur (fun y => { y with st := .parkPresence t.tid (q / 128) }) u)))
  ∧ (∀ p ∈ [(Instr.lds, false), (.ldc, true)], ∀ (f : MemF) (s : State) (ps : List PadAcc), clear (p.1 f) s = true →
      let x := p.1 f
      let u := entered x s
      padCheck u p.2 (laneVas u x f) (tyBytes f.ty.toNat) = .ok ps → acquirePending u = false →
      let accs := ps.map (fun q => ({ lane := q.lane, va := q.va, pa := q.tid * 2 ^ 21 + q.off, sreq := false } : LaneAcc))
      let g := { gatherOf f false false u accs (ps.map (fun q => (q.tid * 2 ^ 21 + q.off / 8 * 8, padWord u q.tid q.off))) [] with acq := none, rdis := 0 }
      YieldsIn x s (acquired f u) (u.grp.leaving x u f.cf.toNat f.len { loadDone g (Op.new .done) with isLoad := true }))
  ∧ (∀ p ∈ [(Instr.sts, false), (.stc, true)], ∀ (f : MemF) (s : State) (ps : List PadAcc), clear (p.1 f) s = true →
      let x := p.1 f
      let u := entered x s
      let bytes := fun (q : PadAcc) => (bytesOf (lane (readQ u f.d.toNat) q.lane)).take (tyBytes f.ty.toNat)
      padCheck u p.2 (laneVas u x f) (tyBytes f.ty.toNat) = .ok ps → acquirePending u = false →
      (f.ord = 0 → YieldsIn x s u { u.grp.leaving x u f.cf.toNat f.len { Op.new (if ps.isEmpty then .done else .buffered) with isWrite := ! ps.isEmpty } with
        buf := u.grp.buf ++ ps.map (fun q =>
          ({ op := u.nextId, slot := u.cur, spad := some q.tid, va := q.va, addr := q.off, rdis := 0, spill := none, bytes := bytes q } : BufStore)) })
      ∧ (f.ord ≠ 0 → releaseStop u f.scope.toNat = none →
          let w := ps.foldl (fun w q => modTeam q.tid (fun t => t.store q.off (bytes q)) w) (releaseNow f.scope.toNat u)
          YieldsIn x s w (w.grp.leaving x w f.cf.toNat f.len { Op.new .done with isWrite := true })))

/-- R86, R87, R180, R181, R257: LDV loads each lane's validity word, whose bit i is the validity bit of block i of the lane's 4 KiB region; CLRV
zeroes its blocks at home, stamped, with their validity bits cleared, and nothing else. That a bad length of CLRV traps as MISALIGN wherever its start
is canonical, before the end of its range is looked at, is the model's reading (log entry 75). -/
def Obligations.Validity : Prop :=
  (∀ (f : MemF) (s : State) (accs : List LaneAcc), clear (.ldv f) s = true →
    let x := Instr.ldv f
    let u := entered x s
    let regions := accs.map (fun a => { a with pa := a.pa / 4096 * 4096, sreq := false })
    Reaches u ((laneVas u x f).map (fun v => (v.1, v.2 / 64 * 64))) 64 needLoad accs → acquirePending u = false →
    claimHold u (accs.map LaneAcc.pa) = none → (∀ a ∈ regions, homeOf u a.pa = .localMem) →
    let r := validWords (wordsOf regions) u
    let g := { gatherOf f false true u regions r.1 [] with ty := 7, nv := false, rdis := 0 }
    YieldsIn x s (acquired f r.2) (r.2.grp.leaving x r.2 f.cf.toNat f.len { loadDone g (Op.new .done) with isLoad := true }))
  ∧ (∀ (s : State) (pa i : Nat), i < 64 → (validityWord s pa).getLsbD i = readValid s (pa / 4096 * 4096 + 64 * i))
  ∧ (∀ (f : MemF) (s : State) (ps : List (Nat × Nat)), clear (.clrv f) s = true →
      let x := Instr.clrv f
      let u := entered x s
      let va := baseVa u f
      let n := (readS u f.d.toNat).toNat
      (canonical va = true → n % 64 ≠ 0 ∨ 2 ^ 32 < n → exec x s = .next (takeTrap 0x04 (BitVec.allOnes 32) va 0 u))
      ∧ (n % 64 = 0 → n ≤ 2 ^ 32 → rangeCheck u va n 64 needStore 6 = .ok ps → memHold u (inPieces ps) = none → claimHold u (blocksOf ps) = none →
          (∀ b ∈ blocksOf ps, homeOf u b = .localMem) →
          let w := (blocksOf ps).foldl (fun w b => clearBlock (accept (dropBlock u.grp.core b w) b) b) u
          YieldsIn x s w (w.grp.leaving x w f.cf.toNat f.len { Op.new .done with isWrite := true })))
  ∧ ∀ (s : State) (pa a : Nat), homeOf s pa = .localMem →
      (canonPa s a / 64 = canonPa s pa / 64 → readByte (clearBlock s pa) a = 0 ∧ readMark (clearBlock s pa) a = 0xE0 ∧ readValid (clearBlock s pa) a = false)
      ∧ (canonPa s a / 64 ≠ canonPa s pa / 64 →
          readByte (clearBlock s pa) a = readByte s a ∧ readMark (clearBlock s pa) a = readMark s a ∧ readValid (clearBlock s pa) a = readValid s a)

/-- R182, R183: PREF brings the lines of the lanes that may be read to its level, walking for their translations, and traps on none; CINV and CWB
write back, and CINV drops, the lines of their range to the level of their scope, and trap where the length is over 4 GiB. That PREF asks for the
rights of one byte of each lane, and that CINV and CWB look at the length before the range's end, is the model's reading (log entry 75). -/
def Obligations.CacheControl : Prop :=
  (∀ (f : MemF) (s : State), clear (.pref f) s = true →
    let x := Instr.pref f
    let u := entered x s
    let r := prefPas ((laneVas u x f).map Prod.snd) u
    memHold u (fun _ => false) = none → recallHold u r.1 = none →
    let w := r.1.foldl (fun w pa => prefetch f.d.toNat f.rdis.toNat pa w) r.2
    YieldsIn x s w (w.grp.leaving x w f.cf.toNat f.len (Op.new .done)))
  ∧ (∀ (s : State) (vas : List Nat), (∀ va ∈ vas, canonical va = true → (lookup s (some s.grp.core) s.grp.part va).isSome = true) →
      (prefPas vas s).2 = s ∧ (prefPas vas s).1 = vas.filterMap (fun va => match xlate s (some s.grp.core) s.grp.part va 1 needLoad with
        | .ok pa _ => if canonical va then some (canonPa s pa) else none
        | _ => none))
  ∧ ∀ p ∈ [(Instr.cinv, true), (.cwb, false)], ∀ (f : MemF) (s : State) (ps : List (Nat × Nat)), clear (p.1 f) s = true →
      let x := p.1 f
      let u := entered x s
      let va := baseVa u f
      let n := (readS u f.d.toNat).toNat
      (canonical va = true → 2 ^ 32 < n → exec x s = .next (takeTrap 0x04 (BitVec.allOnes 32) va 0 u))
      ∧ (n ≤ 2 ^ 32 → rangeCheck u va n 64 needCache 6 = .ok ps → memHold u (fun _ => false) = none →
          (∀ l ∈ linesOf u ps, 4 ≤ f.scope.toNat → acqClass u f.scope.toNat l = true → lineHeld u u.grp.core l = false) →
          let w := (linesOf u ps).foldl (fun w l => cleanLine p.2 f.scope.toNat l w) u
          YieldsIn x s w (w.grp.leaving x w f.cf.toNat f.len { peerOp va u w with isWrite := true }))

/-- R179, R184, R185, R239, R252: LLCK pins the granules of its range against the issuing partition, or reports why not: 3 where the access tables
refuse one, 1 for the quota, 2 for want of room; for granules that are granted and lie at peers or in host memory its status is free and nothing is
pinned (the model's choice, log entry 69). That a nonzero sD[63:32] is ILL and 3 comes before 1 and 1 before 2 is log entry 58's reading. LUNL takes
pins away and skips what is not pinned; an address that is nowhere traps (R243), and one that the tables refuse, which is log entry 75's. PRES reads
the presence bits of 64 lines, or is to change those of its mask. -/
def Obligations.Residency : Prop :=
  (∀ (f : MemF) (s : State) (gs : List (Nat × Bool)), clear (.llck f) s = true →
    let x := Instr.llck f
    let u := entered x s
    let v := readS u f.d.toNat
    let new := ((gs.map (fun g => g.1 / 4096)).eraseDups).filter (fun g => ! u.pins.any (fun p => p.1 == g))
    let mine := (u.pins.filter (fun p => p.2 == u.grp.part)).length
    let ends := fun (w : State) (st : Word) => YieldsIn x s w (w.grp.leaving x w f.cf.toNat f.len (Op.writing f.d.toNat st))
    (v.extractLsb' 32 32 ≠ 0 → exec x s = .next (takeTrap 0x01 (BitVec.allOnes 32) 0 0 u))
    ∧ (v.extractLsb' 32 32 = 0 → granules u (baseVa u f) (v.extractLsb' 0 32).toNat = .ok gs →
        ((∃ g ∈ gs, physOk u g.1 = false) → exec x s = .next (takeTrap 0x05 (BitVec.allOnes 32) (baseVa u f) 0 u))
        ∧ ((∀ g ∈ gs, physOk u g.1 = true) → acquirePending u = false →
          (gs = [] → ends u 0)
          ∧ ((∃ g ∈ gs, g.2 = false) → ends u 3)
          ∧ (gs ≠ [] → (∀ g ∈ gs, g.2 = true) → (∃ g ∈ gs, homeOf u g.1 ≠ .localMem) →
              ∃ st : Word, YieldsIn x s u (u.grp.leaving x u f.cf.toNat f.len (Op.writing f.d.toNat st)))
          ∧ (gs ≠ [] → (∀ g ∈ gs, g.2 = true ∧ homeOf u g.1 = .localMem) →
              ((part u u.grp.part).llcquota < mine + new.length → ends u 1)
              ∧ (mine + new.length ≤ (part u u.grp.part).llcquota →
                  ends { u with pins := if noRoom u new then u.pins else new.foldl (fun l g => assocSet g u.grp.part l) u.pins }
                    (if noRoom u new then 2 else 0))))))
  ∧ (∀ (f : MemF) (s : State) (gs : List (Nat × Bool)), clear (.lunl f) s = true →
      let x := Instr.lunl f
      let u := entered x s
      granules u (baseVa u f) (readS u f.d.toNat).toNat = .ok gs →
      (((∃ g ∈ gs, physOk u g.1 = false) ∨ ∃ g ∈ gs, g.2 = false) → exec x s = .next (takeTrap 0x05 (BitVec.allOnes 32) (baseVa u f) 0 u))
      ∧ ((∀ g ∈ gs, physOk u g.1 = true ∧ g.2 = true) → acquirePending u = false →
          YieldsIn x s { u with pins := u.pins.filter (fun p => ! gs.any (fun g => g.1 / 4096 == p.1)) }
            (u.grp.leaving x u f.cf.toNat f.len (Op.new .done))))
  ∧ ∀ (f : MemF) (s : State),
      let off := baseVa s f
      let ok := off % 8192 = 0 ∧ off < 32768 * s.team.spadGran ∧ acquirePending s = false
      (clear (.presQuery f) s = true → ok → ∃ w : Word, (∀ i < 64, w.getLsbD i = ! s.team.absent.contains (off / 128 + i))
        ∧ Yields (.presQuery f) s (s.grp.leaving (.presQuery f) s f.cf.toNat f.len (Op.writing f.d.toNat w)))
      ∧ (∀ p ∈ [(Instr.presSet, true), (.presClr, false)], clear (p.1 f) s = true → ok →
          Yields (p.1 f) s (s.grp.leaving (p.1 f) s f.cf.toNat f.len (Op.new (.pres s.team.tid (off / 128) (readS s f.d.toNat).toNat p.2))))
      ∧ (∀ c ∈ [Instr.presQuery, .presSet, .presClr], clear (c f) s = true →
          (off % 8192 ≠ 0 → exec (c f) s = .next (takeTrap 0x04 (BitVec.allOnes 32) off 0 s))
          ∧ (off % 8192 = 0 → 32768 * s.team.spadGran ≤ off → exec (c f) s = .next (takeTrap 0x05 (BitVec.allOnes 32) off 0 s)))

/-! ### Order, atomics and barriers (R186 to R198) -/

/-- R186, R269: FENCE holds while a Flume command of its slot claims its lines (R351); with a release while a write of its group is outstanding, and while
write-backs wait or are on their way, which it sends first; with an acquire while a load, LDV, atomic or SIGW of its slot is outstanding; with `.sc` while a
seq-cst atomic of its group is not performed. Then it makes its release, its acquire, or both, and is an operation that may complete. An acquire drops, by
scope, the clean words of the L1, and from dev on those of local, peer and host memory in the L1 and the die cache; a release leaves no dirty word in the L1,
and from dev on none in the die cache, each at home then, and changes no other word. -/
def Obligations.Fences : Prop :=
  (∀ (f : MemF) (s : State), clear (.fence f) s = true →
    let x := Instr.fence f
    let u := entered x s
    let rel := f.ord ≠ 1
    let loads := f.ord ≠ 2 ∧ ∃ o ∈ u.grp.ops, o.slot = u.cur ∧ o.isLoad = true
    let w := if f.ord != 2 then acquireNow f.scope.toNat (released (f.ord != 1) f u) else released (f.ord != 1) f u
    (flumeClaiming u = true → exec x s = .next (holdSlot u))
    ∧ (rel → (slot u).flushed = false → (∃ o ∈ u.grp.ops, o.isWrite = true) → exec x s = .next (holdSlot u))
    ∧ (rel → releaseStop u f.scope.toNat = some .hold → exec x s = .next (holdSlot u))
    ∧ (flumeClaiming u = false → rel → releaseStop u f.scope.toNat = some (.flush f.scope.toNat) →
        exec x s = .next (holdSlot (modCur (fun y => { y with flushed := true })
          (releaseAction u.grp.core f.scope.toNat (advanceCut u.grp.core f.scope.toNat u)))))
    ∧ (flumeClaiming u = false → (rel → releaseStop u f.scope.toNat = none) →
        (loads → exec x s = .next (holdSlot u))
        ∧ (f.ord = 4 → scPending u = true → exec x s = .next (holdSlot u))
        ∧ (¬ loads → (f.ord = 4 → scPending u = false) → YieldsIn x s w (w.grp.leaving x w f.cf.toNat f.len (Op.new .done)))))
  ∧ (∀ (s : State) (k : Nat), s.grp.core < 384 → ((Machine.core s s.grp.core).l1.map CLine.line).Nodup →
      ((die s (dieOf s.grp.core)).lines.map CLine.line).Nodup →
      let c := s.grp.core
      let t := acquireNow k s
      let named := fun line => match homeOf s (line * 128) with | .peer _ _ => decide (5 ≤ k) | .host => decide (6 ≤ k) | _ => decide (4 ≤ k)
      let inL1 := fun line => if k < 2 then false else if k < 4 then true else named line
      (∀ line i, heldIn (Machine.core t c).l1 line i = (heldIn (Machine.core s c).l1 line i).filter (fun w => w.1 || ! inL1 line))
      ∧ (∀ line i, heldIn (die t (dieOf c)).lines line i = (heldIn (die s (dieOf c)).lines line i).filter (fun w => w.1 || ! (decide (4 ≤ k) && named line)))
      ∧ (∀ e, e ≠ c → Machine.core t e = Machine.core s e) ∧ (∀ d, d ≠ dieOf c → die t d = die s d) ∧ MemorySame s t)
  ∧ ∀ (s : State) (k : Nat), s.grp.core < 384 → (slot s).flushed = false → ((Machine.core s s.grp.core).l1.map CLine.line).Nodup →
      ((die s (dieOf s.grp.core)).lines.map CLine.line).Nodup →
      let c := s.grp.core
      let d := dieOf c
      let t := releaseNow k s
      let dirtyAt := fun line i w => heldIn (Machine.core s c).l1 line i = some (true, w)
        ∨ ((∀ v, heldIn (Machine.core s c).l1 line i ≠ some (true, v)) ∧ heldIn (die s d).lines line i = some (true, w))
      (k < 2 → t = s)
      ∧ (2 ≤ k → ∀ x ∈ (Machine.core t c).l1, x.isDirty = false)
      ∧ (4 ≤ k → ∀ x ∈ (die t d).lines, x.isDirty = false)
      ∧ (Memory.wf s = true → LocalLines s (Machine.core s c).l1 → LocalLines s (die s d).lines → (∀ r l, lineHeld s r l = false) →
          (2 ≤ k → ∀ line, ∀ i < 16, ∀ w, dirtyAt line i w →
            (match heldIn (die t d).lines line i with | some v => v.2 | none => homeWord t (line * 128 + 8 * i)) = w)
          ∧ (4 ≤ k → ∀ line, ∀ i < 16, ∀ w, dirtyAt line i w → homeWord t (line * 128 + 8 * i) = w)
          ∧ (∀ line, ∀ i < 16, lineNo s (line * 128) = line → (∀ w, ¬ dirtyAt line i w) →
              homeWord t (line * 128 + 8 * i) = homeWord s (line * 128 + 8 * i)))

/-- R28, R187, R190, R192, R197: an atomic, a reduction, an ACAS or a SIGP captures its operands at issue, its lines leave the issuing core's caches,
and it is one outstanding operation of all its lanes; a seq-cst one takes the next ticket. Memory changes only when it is performed. That an ACAS
needs no free return slot, where R187 has an ATOM wait for one, is the model's reading (log entry 75). -/
def Obligations.AtomicsIssue : Prop :=
  (∀ p ∈ atomForms, ∀ (f : MemF) (s : State) (accs : List LaneAcc), clear (p.1 f) s = true →
    let x := p.1 f
    let u := entered x s
    let ty := f.ty.toNat
    Reaches u (laneVas u x f) (tyBytes ty) needAtomic accs → atomStop u f (p.2.2 && p.2.1 != .cas) = none →
    let one := fun (r l : Nat) => BitVec.ofNat 64 (elem (lane (readQ u r) l) 0 (tyWidth ty))
    let reqs := accs.map (fun a =>
      let nv : Word := if p.2.1 = .cas then one (f.d.toNat + 1) a.lane else 0
      ({ acc := a, operand := one f.d.toNat a.lane, newVal := nv, done := false, old := 0, bad := false, no := false } : AtomReq))
    let w := atomReady' f reqs u
    let o := atomOf f p.2.1 ty (if p.2.1 = .rmw 9 then u.grp.qmode else 0) p.2.2 reqs (firstAt (accs.map (fun a => (a.lane, a.va))))
      (if f.ord = 4 then some (u.ticket + 1) else none) u
    (∃ t, exec x s = .next t ∧ t.grp = w.grp.leaving x w f.cf.toNat f.len o)
    ∧ ((∀ a ∈ accs, peerLine u (lineNo u a.pa) = none) → YieldsIn x s w (w.grp.leaving x w f.cf.toNat f.len o)))
  ∧ ∀ (f : MemF) (s : State) (a : LaneAcc), clear (.sigp f) s = true →
    let x := Instr.sigp f
    let u := entered x s
    Reaches u [(0, baseVa u f)] 8 needAtomic [a] → atomStop u f false = none →
    let reqs := [({ acc := a, operand := readS u f.d.toNat, newVal := 0, done := false, old := 0, bad := false, no := false } : AtomReq)]
    let w := atomReady' f reqs u
    let o := atomOf f (.rmw 0) 6 0 false reqs (baseVa u f) none u
    (∃ t, exec x s = .next t ∧ t.grp = w.grp.leaving x w f.cf.toNat f.len o)
    ∧ (peerLine u (lineNo u a.pa) = none → YieldsIn x s w (w.grp.leaving x w f.cf.toNat f.len o))

/-- R59, R188, R191, R192: what an operation does to one element of a word: the sum, the bounds, the bit operations and the exchange of its type,
binary32 and bf16 sums rounded to nearest, exact rationals under `qmode`; ACAS writes where the compare holds and leaves the word, and its postmark,
where it fails (DEDUCED, log entry 28); a mismatch leaves it. -/
def Obligations.AtomicResults : Prop :=
  (∀ (ty e : Nat) (t : TWord) (v n : Word), ty < 8 → e < 64 / tyWidth ty → mismatch false t = false →
    let w := tyWidth ty
    let a : BitVec w := t.data.extractLsb' (e * w) w
    let b : BitVec w := v.extractLsb' 0 w
    let z : BitVec w := 0
    let c0 : Comp :=
      { len := .l64, d := 0, a := 0, b := 0, ty := 0, msk := 0, cf := 0, u := false
        ax := false, bx := false, rm := 0, ow := false, qr := 0, opf := 0, w1 := 0, w2 := 0 }
    let sg := tySigned ty
    let put := fun (r : BitVec w) => ({ bad := false, put := some (stamped (setElem t.data e w r.toNat)), fl := 0 } : AtomRes)
    atomWord (.rmw 0) ty 0 e false t v n = put (addE c0 w sg a b z) ∧ atomWord (.rmw 1) ty 0 e false t v n = put (minE c0 w sg a b z)
    ∧ atomWord (.rmw 2) ty 0 e false t v n = put (maxE c0 w sg a b z) ∧ atomWord (.rmw 3) ty 0 e false t v n = put (andE c0 w sg a b z)
    ∧ atomWord (.rmw 4) ty 0 e false t v n = put (orE c0 w sg a b z) ∧ atomWord (.rmw 5) ty 0 e false t v n = put (xorE c0 w sg a b z)
    ∧ atomWord (.rmw 6) ty 0 e false t v n = put b
    ∧ (a = b → atomWord .cas ty 0 e false t v n = put (n.extractLsb' 0 w))
    ∧ (a ≠ b → atomWord .cas ty 0 e false t v n = { bad := false, put := none, fl := 0 }))
  ∧ (∀ (e q : Nat) (t : TWord) (v n : Word), mismatch false t = false →
      (atomWord (.rmw 7) 10 q e false t v n = let r := fAdd 0 (fmtOf 10) (elem t.data e 32) (elem v 0 32) 0
        { bad := false, put := some (stamped (setElem t.data e 32 r.bits)), fl := r.fl })
      ∧ (atomWord (.rmw 8) 9 q e false t v n = let r := fAdd 0 (fmtOf 9) (elem t.data e 16) (elem v 0 16) 0
        { bad := false, put := some (stamped (setElem t.data e 16 r.bits)), fl := r.fl })
      ∧ (∀ ty ∈ [10, 11], atomWord (.rmw 6) ty q e false t v n
          = { bad := false, put := some (stamped (setElem t.data e (tyWidth ty) (elem v 0 (tyWidth ty)))), fl := 0 })
      ∧ ∀ ty ∈ [10, 11], atomWord (.rmw 9) ty q e false t v n = let r := qBin QV.add (qPay ty) q (elem t.data e (tyWidth ty)) (elem v 0 (tyWidth ty)) 0
          { bad := false, put := some (stamped (setElem t.data e (tyWidth ty) r.bits)), fl := r.fl })
  ∧ (∀ (k : AtomKind) (ty q e : Nat) (b : Bool) (t : TWord) (v n : Word), mismatch b t = true →
      atomWord k ty q e b t v n = { bad := true, put := none, fl := 0 })
  ∧ ∀ (w e : Nat) (d r : Word), w ∈ [8, 16, 32, 64] → e < 64 / w →
      (setElem d e w r.toNat).extractLsb' (e * w) w = r.extractLsb' 0 w
      ∧ ∀ k < 64, (k < e * w ∨ e * w + w ≤ k) → (setElem d e w r.toNat).getLsbD k = d.getLsbD k

/-- R187, R188, R191: ATOMIC_PERFORM of an operation with one lane at home here: the word is read where every copy of the issuing core has been written back, the
operation's word is written there as one step, the flags it raises are ORed into the group's, and the operation holds the old element; of an
operation with more lanes, those at home here are done in lane order. A reduction's mismatch waits until its record finds room (R319). -/
def Obligations.AtomicsPerform : Prop :=
  (∀ (s : State) (o : Op) (a : AtomOp) (r : AtomReq), s.grp.op o.id = some o → o.kind = .atomic a → a.reqs = [r] → atomReady s s.grp o = true →
    let f := flushLine s.grp.core (lineNo s r.acc.pa) s
    let m := homeWord f r.acc.pa
    let z := atomWord a.kind a.ty a.qmode (elemIx a.ty r.acc.pa) r.acc.sreq m r.operand r.newVal
    let h := match z.put with | some v => homeWrite (accept f r.acc.pa) r.acc.pa v | none => accept f r.acc.pa
    let b := { a with reqs := [{ r with done := true, old := loadElem a.ty r.acc.pa m.data, bad := z.bad }] }
    (a.ret = false → z.bad = true → faultRoom f s.grp.part = true) → ∃ t, exec (.atomicPerform o.id) s = .next t
      ∧ ((a.ret = true ∨ z.bad = false) → MemorySame h t)
      ∧ t.grp = { (if a.kind = .rmw 9 then s.grp.orQ z.fl else s.grp.orFp z.fl) with
                    ops := s.grp.ops.map (fun p => if p.id = o.id then atomDone b p else p) })
  ∧ ∀ (s : State) (o : Op), s.grp.op o.id = some o → atomReady s s.grp o = true →
      exec (.atomicPerform o.id) s = .next (performAtomic s.grp o s)

/-- R193 to R196, R230: a barrier's phases: an arrival counts, the last completes the phase and the next count takes over; a retirement lowers the count and
may complete it; BARV arrives and writes the token of its phase, BARW waits for a phase, by parity for the last completed one or the next, BARS sets a count between phases and
refuses one that is zero or above the groups of its scope. -/
def Obligations.Barriers : Prop :=
  (∀ b : Barrier,
    (b.arr + 1 ≠ b.count → b.arrive = { b with arr := b.arr + 1 })
    ∧ (b.arr + 1 = b.count → b.arrive = { count := b.next.getD b.count, arr := 0, lastc := (b.lastc + 1) % 65536, next := none })
    ∧ (b.arr ≠ 0 → b.count ≤ b.arr + 1 → b.retire = { count := (b.next.map (· - 1)).getD (b.count - 1), arr := 0, lastc := (b.lastc + 1) % 65536, next := none })
    ∧ (b.arr = 0 ∨ b.arr + 1 < b.count → b.retire = { b with count := b.count - 1, next := b.next.map (· - 1) })
    ∧ (∀ p < 65536, b.lastc < 65536 → (phaseDone b p = true ↔ ∃ d < 32768, (p + d) % 65536 = b.lastc)))
  ∧ (∀ (f : MemF) (s : State), clear (.barv f) s = true →
      let x := Instr.barv f
      let u := entered x s
      let k := f.off8.toNat
      (f.ord = 2 → releaseStop u f.scope.toNat = none) → flumeClaiming u = false →
      let v := released (f.ord == 2) f u
      let w := if f.scope = 2 then modCluster v.grp.cluster (fun c => { c with cb := vmod c.cb k Barrier.arrive }) v
        else { v with team := { v.team with bars := vmod v.team.bars k Barrier.arrive } }
      let b := barGet u (f.scope == 2) k
      YieldsIn x s w (w.grp.leaving x w f.cf.toNat f.len
        (Op.writing f.d.toNat (BitVec.ofNat 64 ((b.lastc + 1) % 65536 + 65536 * (k % 16) + 2 ^ 20 * (if f.scope = 2 then 1 else 0))))))
  ∧ (∀ p ∈ [(Instr.barw, false), (.barwP, true)], ∀ (f : MemF) (s : State), clear (p.1 f) s = true →
      let x := p.1 f
      let v := readS s f.a.toNat
      let clus := v.getLsbD 20
      let k := (v.extractLsb' 16 4).toNat
      let ph := (v.extractLsb' 0 16).toNat
      let bad := v.extractLsb' 21 11 ≠ 0 ∨ (clus = true ∧ 7 < k) ∨ (clus = true ↔ f.scope ≠ 2)
      let now := (barGet s clus k).lastc
      let o := Op.new (.barw clus k (if p.2 then (if now % 2 = ph % 2 then now else (now + 1) % 65536) else ph) p.2 (if f.ord = 1 then 1 else 0) f.scope.toNat)
      (bad → exec x s = .next (takeTrap 0x01 (BitVec.allOnes 32) 0 0 s))
      ∧ (¬ bad → flumeClaiming s = false → waitsFull s = false →
          (p.2 = true ∨ phaseLate (barGet s clus k) ph = false → Yields x s (s.grp.leaving x s f.cf.toNat f.len o))
          ∧ (p.2 = false → phaseLate (barGet s clus k) ph = true →
              YieldsIn x s { s with team := { s.team with mfl := s.team.mfl ||| 32 } } (s.grp.leaving x s f.cf.toNat f.len o))))
  ∧ ∀ (f : MemF) (s : State), clear (.bars f) s = true →
      let x := Instr.bars f
      let n := (readS s f.a.toNat).toNat
      let k := f.off8.toNat
      let clus := f.scope == 2
      flumeClaiming s = false →
      (n = 0 ∨ liveGroups s clus < n → Yields x s (s.grp.leaving x s f.cf.toNat f.len (Op.writing f.d.toNat 1)))
      ∧ (n ≠ 0 → n ≤ liveGroups s clus →
          let w := if clus then modCluster s.grp.cluster (fun c => { c with cb := vmod c.cb k (Barrier.setCount n) }) s
            else { s with team := { s.team with bars := vmod s.team.bars k (Barrier.setCount n) } }
          YieldsIn x s w (w.grp.leaving x w f.cf.toNat f.len (Op.writing f.d.toNat 0)))

/-- R198: SIGW watches a signal for its condition: equal, different, below, or not below, signed; a write performed at home that meets it is kept with its value,
whatever is written later; SIGW_SATISFIED ends the wait with that value, or with the signal's where the condition holds at a line that nothing holds. -/
def Obligations.SignalWaits : Prop :=
  (∀ (f : MemF) (s : State) (a : LaneAcc), clear (.sigw f) s = true →
    let x := Instr.sigw f
    Reaches s [(0, baseVa s f)] 8 needWatch [a] → memHold s (inWords [a.pa]) = none → waitsFull s = false → peerLine s (lineNo s a.pa) = none →
    let w : SigWait := { va := baseVa s f, pa := some a.pa, cnd := sigCnd f, cmp := readS s f.d.toNat, d := f.d.toNat, acq := if f.ord = 1 then 1 else 0,
                         scope := f.scope.toNat, peer := false, stall := none }
    ∃ t, exec x s = .next t ∧ OutsideSame s t
      ∧ t.grp = s.grp.leaving x s f.cf.toNat f.len { Op.new (.sigw w) with isLoad := true, trap := some (complTrap s 0x05 (BitVec.allOnes 32) (baseVa s f)) }
      ∧ t.watches = s.watches ++ [{ key := opWatch s.nextId, word := canonPa s a.pa / 8, cnd := w.cnd, cmp := w.cmp, met := none }])
  ∧ (∀ v c : Word, sigHolds 0 v c = decide (v = c) ∧ sigHolds 1 v c = decide (v ≠ c) ∧ sigHolds 2 v c = v.slt c ∧ sigHolds 3 v c = ! v.slt c)
  ∧ (∀ (s : State) (pa : Nat) (t : TWord) (w : Watch), s.watches.find? (fun y => y.key == w.key) = some w →
      (w.met = none → w.word = canonPa s pa / 8 → sigHolds w.cnd t.data w.cmp = true → (watchMet (homeWrite s pa t) w.key).map TWord.data = some t.data)
      ∧ (w.met = none → (w.word ≠ canonPa s pa / 8 ∨ sigHolds w.cnd t.data w.cmp = false) → watchMet (homeWrite s pa t) w.key = none)
      ∧ (∀ m, w.met = some m → watchMet (homeWrite s pa t) w.key = some m))
  ∧ ∀ (s : State) (o : Op) (w : SigWait) (pa : Nat) (v : Word), s.grp.op o.id = some o → o.kind = .sigw w → w.pa = some pa → w.peer = false → w.acq ≠ 1 →
      ((∃ m, watchMet s (opWatch o.id) = some m ∧ v = m.data)
        ∨ (watchMet s (opWatch o.id) = none ∧ lineHeld s s.grp.core (lineNo s pa) = false ∧ v = (homeWord s pa).data ∧ sigHolds w.cnd v w.cmp = true)) →
      exec (.sigwSatisfied o.id) s = .next { s with
        change := s.change + 1, watches := s.watches.filter (fun y => y.key != opWatch o.id)
        grp := { s.grp with ops := s.grp.ops.map (fun p =>
          if p.id = o.id then { p with kind := .done, writes := [.scal w.d v allBits], trap := none } else p) } }

/-- R199 to R203, R291, R296, R298: the reader sections count on their core by parity; PUBL stores its pointer stamped at home after its release; RETQ enters a
retirement or says why not, one of SCOPE 5 tagged with the pod epoch known here (log entry 70); GPWT waits for a ticket, GPQY reads the epoch, from another
device the root's, which is the one known here until this device has reported an E two past its e_d, and from then on that or the next and never lower than one
read before (R305; which of them is the model's free value, log entries 3 and 70). -/
def Obligations.Publication : Prop :=
  (∀ (f : MemF) (s : State), clear (.rdsb f) s = true →
    let x := Instr.rdsb f
    let par := (Machine.core s s.grp.core).known % 2 == 1
    (s.grp.rdDepth = 255 → exec x s = .next (takeTrap 0x07 (BitVec.allOnes 32) 0 0 s))
    ∧ (s.grp.rdDepth = 0 → YieldsIn x s (modCore s.grp.core (fun k => if par then { k with c1 := k.c1 + 1 } else { k with c0 := k.c0 + 1 }) s)
        (({ s.grp with rdPar := par, rdDepth := 1 }).leaving x s f.cf.toNat f.len (Op.new .done)))
    ∧ (s.grp.rdDepth ≠ 0 → s.grp.rdDepth ≠ 255 → Yields x s (({ s.grp with rdDepth := s.grp.rdDepth + 1 }).leaving x s f.cf.toNat f.len (Op.new .done))))
  ∧ (∀ (f : MemF) (s : State), clear (.rdse f) s = true →
      let x := Instr.rdse f
      (s.grp.rdDepth = 0 → exec x s = .next (takeTrap 0x08 (BitVec.allOnes 32) 0 0 s))
      ∧ (s.grp.rdDepth ≠ 0 → (∀ o ∈ s.grp.ops, o.isLoad = true → o.isWait = true) →
          YieldsIn x s (if s.grp.rdDepth = 1 then
              modCore s.grp.core (fun k => if s.grp.rdPar then { k with c1 := k.c1 - 1 } else { k with c0 := k.c0 - 1 }) s else s)
            (({ s.grp with rdDepth := s.grp.rdDepth - 1 }).leaving x s f.cf.toNat f.len (Op.new .done))))
  ∧ (∀ (f : MemF) (s : State) (a : LaneAcc), clear (.publ f) s = true →
      let x := Instr.publ f
      let u := entered x s
      Reaches u [(0, baseVa u f)] 8 needStore [a] → memHold u (inWords [a.pa]) = none → releaseStop u f.scope.toNat = none → claimHold u [a.pa] = none →
      peerLine u (lineNo u a.pa) = none →
      let v := flushLine u.grp.core (lineNo u a.pa) (releaseNow f.scope.toNat u)
      let w := homeWrite (accept v a.pa) a.pa ⟨readS u f.d.toNat, postmark (readS u f.d.toNat)⟩
      ∃ o : Op, o.isWrite = true ∧ o.writes = [] ∧ (o.kind = .done ∨ ∃ ts m, o.kind = .peer ts m)
        ∧ YieldsIn x s w (w.grp.leaving x w f.cf.toNat f.len o))
  ∧ (∀ (f : MemF) (s : State), clear (.retq f) s = true →
      let x := Instr.retq f
      let va := baseVa s f
      let v := readS s f.d.toNat
      let sig := readS s (f.d.toNat + 1)
      let n := (v.extractLsb' 0 32).toNat
      let pool := (v.extractLsb' 32 16).toNat
      let log := (vget (part s s.grp.part).pools (4 * pool + 1) 0).extractLsb' 0 4
      let bad := n = 0 ∨ v.extractLsb' 48 16 ≠ 0 ∨ 64 ≤ pool ∨ log < 4 ∨ sig.toNat % 8 ≠ 0 ∨ (f.scope = 5 ∧ podWhole s = false)
      let ends := fun (w : State) (st ticket : Nat) =>
        YieldsIn x s w (w.grp.leaving x w f.cf.toNat f.len (Op.writing f.d.toNat (BitVec.ofNat 64 (st + 2 ^ 16 * (ticket % 2 ^ 48)))))
      (canonical va = false → exec x s = .next (takeTrap 0x05 (BitVec.allOnes 32) va 0 s))
      ∧ (canonical va = true → va % 4096 ≠ 0 → exec x s = .next (takeTrap 0x04 (BitVec.allOnes 32) va 0 s))
      ∧ (canonical va = true → va % 4096 = 0 → flumeClaiming s = false →
          (bad → ends s 2 0)
          ∧ (∀ gs sg, ¬ bad → granules s va n = .ok gs → retqSignal s sig = .ok sg →
              let ok := (∀ g ∈ gs, g.2 = true ∧ ownerOf s g.1 = some s.grp.part) ∧ ∀ y, sg = some y → y.2 = true
              (¬ ok → ends s 3 0)
              ∧ (ok → 8192 ≤ s.weir.queue.length → ends s 1 0)
              ∧ (ok → s.weir.queue.length < 8192 → f.scope = 4 →
                  let e : Retire := { ticket := s.weir.lastTicket + 1, tag := s.weir.e, pod := false, base := va57 va, ngran := n, pool := pool,
                                      sig := sg.map Prod.fst, part := s.grp.part }
                  ends { s with weir := { s.weir with queue := s.weir.queue ++ [e], lastTicket := s.weir.lastTicket + 1 } }
                    0 (s.weir.lastTicket + 1))
              ∧ (ok → s.weir.queue.length < 8192 → f.scope = 5 →
                  let e : Retire := { ticket := s.weir.lastTicket + 1, tag := s.weir.knownP, pod := true, base := va57 va, ngran := n, pool := pool,
                                      sig := sg.map Prod.fst, part := s.grp.part }
                  ∃ w : State, ends w 0 (s.weir.lastTicket + 1) ∧ w.weir.queue = s.weir.queue ++ [e] ∧ w.weir.lastTicket = s.weir.lastTicket + 1
                    ∧ w.grp = s.grp ∧ MemorySame s w))))
  ∧ (∀ (f : MemF) (s : State), clear (.gpwt f) s = true → flumeClaiming s = false → waitsFull s = false →
      let x := Instr.gpwt f
      let t := ((readS s f.a.toNat).extractLsb' 16 48).toNat
      (t = 0 ∨ s.weir.lastTicket < t → Yields x s (s.grp.leaving x s f.cf.toNat f.len (Op.writing f.d.toNat (BitVec.allOnes 64))))
      ∧ (t ≠ 0 → t ≤ s.weir.lastTicket → Yields x s (s.grp.leaving x s f.cf.toNat f.len (Op.new (.gpwt t f.d.toNat)))))
  ∧ ∀ (f : MemF) (s : State), clear (.gpqy f) s = true → flumeClaiming s = false →
      let x := Instr.gpqy f
      (f.scope = 4 → Yields x s (s.grp.leaving x s f.cf.toNat f.len (Op.writing f.d.toNat (BitVec.ofNat 64 s.weir.e))))
      ∧ (f.scope = 5 → s.weir.podroot = s.mgmt.device →
          Yields x s (s.grp.leaving x s f.cf.toNat f.len (Op.writing f.d.toNat (BitVec.ofNat 64 s.weir.podP))))
      ∧ (∀ n, f.scope = 5 → s.weir.podroot ≠ s.mgmt.device → s.weir.poden = true → s.weir.ed = some n → s.weir.lastE < n + 2 →
          Yields x s (s.grp.leaving x s f.cf.toNat f.len (Op.writing f.d.toNat (BitVec.ofNat 64 s.weir.knownP))))
      ∧ (∀ n, f.scope = 5 → s.weir.podroot ≠ s.mgmt.device → s.weir.poden = true → s.weir.ed = some n → n + 2 ≤ s.weir.lastE → ∃ p : Nat,
          s.weir.knownP ≤ p ∧ s.weir.seenP ≤ p
          ∧ p ≤ max s.weir.seenP (s.weir.knownP + 1)
          ∧ YieldsIn x s { s with weir := { s.weir with seenP := p } } (s.grp.leaving x s f.cf.toNat f.len (Op.writing f.d.toNat (BitVec.ofNat 64 p))))
      ∧ (f.scope = 5 → s.weir.podroot ≠ s.mgmt.device → (s.weir.poden = false ∨ s.weir.ed = none) →
          ∃ v : Word, Yields x s (s.grp.leaving x s f.cf.toNat f.len (Op.writing f.d.toNat v)))

/-! ### The matrix engine (R329 to R346) -/

/-- R331 to R345, R366: the lease passes by the arbiter and expires with its count; GANG takes a valid value, empties the latch and traps those that wait
at it; an MMA stops for a reason, waits at the latch or, as the last member, queues the joint MMA, at whose start every member issues (log entry 62);
that one checks its format block and its tiles' chains, runs every tile of its grid with one rounding of the exact sum, in passes for the 32-bit modes, and
takes one from the count, or traps every member; MZERO zeroes tiles; MDRN is a drain, whose registers, flags and `amax` update are of the exact scaled
products, and which traps with nothing written where a scale lies outside the scratchpad (log entry 3 for a tile without a chain); and MSTAT reads `mstat` and may clear it (log entry 19 for a grant to the holder). -/
def Obligations.Matrix : Prop :=
  (∀ (f : Ctl) (s : State), clear (.lease f) s = true →
    let x := Instr.lease f
    let n := (f.imm.extractLsb' 0 10).toNat + 1
    let c := s.grp.core
    let t := s.team.tid
    let waiting := ∃ y ∈ (Machine.core s c).leaseQ, y ≠ t
    (s.team.lheld = true → ¬ waiting →
      YieldsIn x s { s with team := { s.team with lcnt := n } } (s.grp.leaving x s f.cf.toNat f.len (Op.new .done)))
    ∧ (s.team.lheld = false ∨ waiting →
        let v := expireNow c (modCore c (fun k => { k with leaseQ := if t ∈ k.leaseQ then k.leaseQ else k.leaseQ ++ [t] })
          { s with team := { s.team with lpend := true, pn := n } })
        let w := grantHead c { v with grp := s.grp.leaving x s f.cf.toNat f.len (Op.new .lease) }
        YieldsIn x s w w.grp
        ∧ ((Machine.core s c).holder = none → (Machine.core s c).leaseQ = [] → c < 384 →
            w.team.lheld = true ∧ w.team.lcnt = n ∧ (Machine.core w c).holder = some t ∧ (Machine.core w c).leaseQ = [])))
  ∧ (∀ (f : Ctl) (s : State), clear (.rels f) s = true →
      let x := Instr.rels f
      let c := s.grp.core
      let t := s.team.tid
      let v := leaseDone t (modCore c (fun k => { k with
          holder := if k.holder = some t then none else k.holder, expired := if k.holder = some t then false else k.expired,
          leaseQ := k.leaseQ.filter (· ≠ t) })
        { s with team := { s.team with lheld := false, lcnt := 0, lpend := false, pn := 0 } })
      let w := grantHead c { v with grp := v.grp.leaving x v f.cf.toNat f.len (Op.new .done) }
      YieldsIn x s w w.grp)
  ∧ (∀ (s : State) (c t : Nat), (Machine.core s c).leaseQ.head? = some t → (Machine.core s c).holder = none → c < 384 →
      ∃ w, exec (.leaseGrant c) s = .next w ∧ (Machine.core w c).holder = some t ∧ t ∉ (Machine.core w c).leaseQ
        ∧ teamOf w t = (teamOf s t).map (fun y => { y with lheld := true, lcnt := y.pn, lpend := false })
        ∧ ∀ g ∈ allGroups w, g.team = t → ∀ o ∈ g.ops, o.kind ≠ .lease)
  ∧ (∀ (s : State) (c t : Nat) (y : Team), (Machine.core s c).holder = some t → teamOf s t = some y → y.lcnt = 0 → c < 384 →
      (∃ z ∈ (Machine.core s c).leaseQ, z ≠ t) → expireNow c s = modCore c (fun k => { k with expired := true }) s)
  ∧ (∀ (s : State) (c t : Nat), (Machine.core s c).holder = some t → (Machine.core s c).expired = true →
      exec (.leaseExpire c) s
        = .next (grantHead c (modCore c (fun k => { k with holder := none, expired := false }) (modTeam t (fun y => { y with lheld := false, lcnt := 0 }) s))))
  ∧ (∀ (f : Ctl) (s : State), clear (.gang f) s = true →
      let x := Instr.gang f
      let v := readS s f.a.toNat
      (gangValid v s.team.ngroups = false → exec x s = .next (takeTrap 0x01 (BitVec.allOnes 32) 0 0 s))
      ∧ (gangValid v s.team.ngroups = true →
          (s.team.latch.arrived = [] → YieldsIn x s { s with team := { s.team with gang := v, latch := Latch.empty } }
            (s.grp.leaving x s f.cf.toNat f.len (Op.new .done)))
          ∧ let u := gangTrap s.team.tid false s
            YieldsIn x s { u with team := { s.team with gang := v, latch := Latch.empty } } (u.grp.leaving x u f.cf.toNat f.len (Op.new .done))))
  ∧ (∀ (f : Ctl) (s : State), clear (.mma f) s = true →
      let x := Instr.mma f
      let t := s.team
      let na := (t.gang.extractLsb' 0 3).toNat
      let nb := (t.gang.extractLsb' 3 3).toNat
      let tag := (f.imm.extractLsb' 0 8).toNat
      let traps := fun c => exec x s = .next (takeTrap c (BitVec.allOnes 32) 0 0 s)
      (inJoint s = true → exec x s = .next (holdSlot s))
      ∧ (inJoint s = false → memberOf t s.grp.index = none → traps 0x01)
      ∧ ∀ m, inJoint s = false → memberOf t s.grp.index = some m →
          (8 * t.accGran < f.d.toNat + na * nb → traps 0x01)
          ∧ (f.d.toNat + na * nb ≤ 8 * t.accGran → t.latch.broken = true → traps 0x0A)
          ∧ (f.d.toNat + na * nb ≤ 8 * t.accGran → t.latch.broken = false →
              (t.lheld = false → t.lpend = false → traps 0x09)
              ∧ (t.lheld = true ∨ t.lpend = true →
                  (t.latch.arrived ≠ [] → (t.latch.tag ≠ tag ∨ t.latch.d ≠ f.d.toNat ∨ t.latch.sb ≠ readS s f.b.toNat) → traps 0x0A)
                  ∧ ((t.latch.arrived = [] ∨ t.latch.tag = tag ∧ t.latch.d = f.d.toNat ∧ t.latch.sb = readS s f.b.toNat) →
                      ((∃ a ∈ t.latch.arrived, a.member = m) → exec x s = .next (holdSlot s))
                      ∧ ((∀ a ∈ t.latch.arrived, a.member ≠ m) →
                      let all := t.latch.arrived ++ [arrival f m s]
                      let l : Latch := { tag := tag, d := f.d.toNat, sb := readS s f.b.toNat, arrived := all, broken := false }
                      (all.length < na + nb → YieldsIn x s { s with team := { t with latch := l } }
                        (popAll (vecSrcs x) (s.grp.modSlot s.cur (fun y => { y with st := .parkGang }))))
                      ∧ (na + nb ≤ all.length →
                          let r := all.foldl (fun s a => unparkMember a s) s
                          let j : Joint := { no := s.nextId, d := f.d.toNat, sb := (readS s f.b.toNat).toNat, gang := t.gang, frags := all }
                          YieldsIn x s { r with team := { t with latch := { l with arrived := [] }, joints := t.joints ++ [j] } }
                            (popAll (vecSrcs x) r.grp)))))))
  ∧ (∀ (tid : Nat) (s : State) (t : Team) (x : Joint), teamOf s tid = some t → jointReady s t = some x → jointTrap t x = none →
      ∃ w y, exec (.jointMmaStart tid) s = .next w ∧ teamOf w tid = some y ∧ y.lcnt = t.lcnt - 1 ∧ y.joints = t.joints.drop 1
        ∧ y.tiles = (runJoint t (fmtBlock t x.sb) x).1 ∧ y.mfl = t.mfl ||| mstatBits (runJoint t (fmtBlock t x.sb) x).2
        ∧ ∀ a ∈ x.frags, ∃ g, groupOf w a.gid = some g ∧ (g.slot a.slot).st = .ready
            ∧ ∃ o ∈ g.ops, o.kind = .done ∧ o.slot = a.slot ∧ o.flag = a.flag)
  ∧ (∀ (tid : Nat) (s : State) (t : Team) (x : Joint) (c : Nat), teamOf s tid = some t → jointReady s t = some x → jointTrap t x = some c →
      ∃ w y, exec (.jointMmaStart tid) s = .next w ∧ teamOf w tid = some y ∧ y.tiles = t.tiles ∧ y.latch.broken = true ∧ y.joints = t.joints.drop 1
        ∧ ∀ a ∈ x.frags, ∃ g z, groupOf w a.gid = some g ∧ g.trap = some z ∧ z.code = c ∧ z.lanes = BitVec.allOnes 32)
  ∧ (∀ (b : FmtBlk) (rows : List (List Nat)) (p q : Frag) (r c : Nat), r < 32 → c < 32 →
      let w := pairWidth b.aty b.bty
      let ps := (List.range (4 * (64 / w))).map (fun k => (fragElem p w r k, fragElem q w c k))
      ((((tileRows b rows p q).1.getD r []).getD c 0) = (accumulate b.aty b.bty ((rows.getD r []).getD c 0) ps).bits)
      ∧ (b.aty ≠ 10 → b.aty ≠ 4 → b.aty ≠ 5 →
          (accumulate b.aty b.bty ((rows.getD r []).getD c 0) ps).bits
            = (mRound (accTerm ((rows.getD r []).getD c 0) :: ps.map (fun z => mmaTerm b.aty b.bty z.1 z.2))).bits))
  ∧ (∀ ts : List FV, mRound ts = roundEx (fmtOf 10) 0 .ieee (sumEx 0 ts))
  ∧ (∀ acc : Nat, accTerm acc = match decodeF (fmtOf 10) acc with | .nan _ => .nan true | y => y)
  ∧ (∀ aty bty a b : Nat, mmaTerm aty bty a b = match (valueOf aty a).mul (valueOf bty b) with
      | .nan _ => .nan true | .inf u => .inf u | .fin u m e => .fin (if m = 0 ∧ (tyInt aty = true ∨ tyInt bty = true) then false else u) m e)
  ∧ (∀ (bty acc : Nat) (ps : List (Nat × Nat)),
      let pass := fun (terms : List FV) (x : FRes) => let r := mRound (accTerm x.bits :: terms); (⟨r.bits, x.fl ||| r.fl⟩ : FRes)
      let cut := fun l : List FV => (roundEx (fmtOf 9) 1 .ieee (sumEx 0 l)).bits
      let low := fun y : Nat => (decodeF (fmtOf 9) y).neg
      let slice := fun (k x : Nat) =>
        let v := decodeF (fmtOf 10) x
        let hi := (roundEx (fmtOf 9) 1 .ieee v.ex).bits
        let mid := match v with | .fin _ _ _ => cut [v, low hi] | _ => 0
        let lo := match v with | .fin _ _ _ => cut [v, low hi, low mid] | _ => 0
        if k = 0 then hi else if k = 1 then mid else lo
      let term := fun (z q : Nat × Nat) => loudNan ((decodeF (fmtOf 9) (slice z.1 q.1)).mul (decodeF (fmtOf 9) (slice z.2 q.2)))
      accumulate 10 bty acc ps = [(2, 0), (0, 2), (1, 1), (1, 0), (0, 1), (0, 0)].foldl (fun x z => pass (ps.map (term z)) x) ⟨acc, 0⟩
      ∧ ∀ aty ∈ [4, 5], ∀ bty ∈ [4, 5],
          let part := fun (ty k x : Nat) => if k = 3 ∧ ty = 4 then (BitVec.ofNat 8 (x / 2 ^ 24)).toInt else ((x / 2 ^ (8 * k) % 256 : Nat) : Int)
          let prod := fun (z q : Nat × Nat) => part aty z.1 q.1 * part bty z.2 q.2
          accumulate aty bty acc ps = [(0, 3), (1, 2), (2, 1), (3, 0), (1, 3), (2, 2), (3, 1), (2, 3), (3, 2), (3, 3)].foldl (fun x z =>
            pass (ps.map (fun q => .fin (decide (prod z q < 0)) (prod z q).natAbs (8 * (z.1 + z.2)))) x) ⟨acc, 0⟩)
  ∧ (∀ (t : Team) (x : Joint),
      let w := fun i => (t.word (x.sb / 8 + i)).data
      let pair := fun a b => [[8, 9], [0, 1, 12, 13], [14, 15], [10], [4, 5]].any (fun r : List Nat => r.contains a && r.contains b)
      let scaleBad := fun a : Nat => a ≠ 0xFFFFFFFF ∧ a % 4 ≠ 0
      let aty := ((w 0).extractLsb' 0 4).toNat
      let bty := ((w 0).extractLsb' 4 4).toNat
      let saa := ((w 0).extractLsb' 32 32).toNat
      let sab := ((w 1).extractLsb' 0 32).toNat
      let bad := x.sb % 32 ≠ 0 ∨ t.spadSize < x.sb + 32 ∨ (w 0).extractLsb' 18 14 ≠ 0 ∨ (w 1).extractLsb' 32 32 ≠ 0 ∨ w 2 ≠ 0 ∨ w 3 ≠ 0
        ∨ scaleBad saa ∨ scaleBad sab ∨ pair aty bty = false
      let chain := fun i j : Nat => (⟨true, saa, sab, ((w 0).extractLsb' 8 5).toNat + 1, ((w 0).extractLsb' 13 5).toNat + 1, 32 * i, 32 * j⟩ : Chain)
      let a := (x.gang.extractLsb' 0 3).toNat
      let b := (x.gang.extractLsb' 3 3).toNat
      let fits := ∀ i < a, ∀ j < b, ∃ z c, t.tiles[x.d + i * b + j]? = some z ∧ z.chain = some c ∧ (c.set = true → c = chain i j)
      (bad → jointTrap t x = some 0x01) ∧ (¬ bad → ¬ fits → jointTrap t x = some 0x0B) ∧ (¬ bad → fits → jointTrap t x = none)
      ∧ (fmtBlock t x.sb).aty = aty ∧ (fmtBlock t x.sb).bty = bty
      ∧ ∀ i < a, ∀ j < b, ∀ z p q, t.tiles[x.d + i * b + j]? = some z → x.frags.find? (fun g => g.member == i) = some p →
          x.frags.find? (fun g => g.member == a + j) = some q →
          (runJoint t (fmtBlock t x.sb) x).1[x.d + i * b + j]? = some ⟨(tileRows (fmtBlock t x.sb) z.rows p q).1, some (chain i j)⟩)
  ∧ (∀ (s : State) (t : Team) (o : Op) (d tile row nreg ty rm amx amop : Nat) (nsat : Bool) (mul : Option Nat) (ti : Tile),
      o.kind = .mdrn d tile row nreg ty rm amx amop nsat mul → t.tiles[tile]? = some ti → ty ∈ [8, 9, 10, 11, 12, 13, 14] →
      let n := 64 / tyWidth ty
      let f32 := fun v => decodeF (fmtOf 10) v
      let used := fun (on : Chain → Nat) => ti.chain.bind (fun c => if c.set ∧ on c ≠ 0xFFFFFFFF then some c else none)
      let offA := fun (c : Chain) r => c.saa + 4 * ((c.roff + r) / c.alen)
      let offB := fun (c : Chain) l => c.sab + 4 * ((c.coff + l) / c.blen)
      let at' := fun off : Nat => f32 ((t.word (off / 8)).data.extractLsb' (8 * (off % 8)) 32).toNat
      let sa := fun r => match used Chain.saa with | some c => at' (offA c r) | none => .fin false 1 0
      let sb := fun l => match used Chain.sab with | some c => at' (offB c l) | none => .fin false 1 0
      let out := (∃ c, used Chain.saa = some c ∧ ∃ i < nreg * n, t.spadSize < offA c (row + i) + 4)
        ∨ ∃ c, used Chain.sab = some c ∧ ∃ l < 32, t.spadSize < offB c l + 4
      let content := fun r l => f32 (if ti.chain.isSome then (ti.rows.getD r []).getD l 0 else (Config.freeWord (s.free + 32 * r + l)).toNat % 2 ^ 32)
      let x := fun j l i => (((content (row + j * n + i) l).mul (sa (row + j * n + i))).mul (sb l)).mul (f32 (mul.getD 0x3F800000))
      let xs := (List.range nreg).flatMap (fun j => (List.range 32).flatMap (fun l => (List.range n).map (x j l)))
      let y := fun v : FV => roundEx (fmtOf ty) rm (narrowOv ty nsat) v.ex
      (out → mdrnResult s t o = { o with kind := .done })
      ∧ (¬ out → ∃ (v : Nat → Nat → Word) (ms : Nat),
          mdrnResult s t o = { o with
            kind := .done, trap := none, ms := ms,
            writes := (List.range nreg).map (fun j => .vec (d + j) (BitVec.allOnes 32) ((List.range 32).map (v j)) allBits)
              ++ (if amop = 0 then [] else [.amax amx amop
                (((xs.filter (fun x => ! x.isNan)).map (fun x => (roundEx (fmtOf 10) 3 .ieee x.abs.ex).bits)).foldl max 0) (xs.any FV.isNan)]) }
          ∧ (∀ j < nreg, ∀ l < 32, ∀ i < n, elem (v j l) i (tyWidth ty) = (y (x j l i)).bits % 2 ^ tyWidth ty)
          ∧ ∀ p ∈ [(0, 0), (1, 1), (2, 2), (3, 4), (4, 5)], ms.testBit p.1 = true ↔ ∃ v ∈ xs, (y v).fl.testBit p.2 = true))
  ∧ (∀ (f : Ctl) (s : State), clear (.mzero f) s = true →
      let x := Instr.mzero f
      let n := (f.imm.extractLsb' 0 6).toNat + 1
      (8 * s.team.accGran < f.d.toNat + n → exec x s = .next (takeTrap 0x01 (BitVec.allOnes 32) 0 0 s))
      ∧ (f.d.toNat + n ≤ 8 * s.team.accGran → tilesBusy s ((List.range n).map (fun i => f.d.toNat + i)) = false →
          ∃ ts : List Tile, ts.length = s.team.tiles.length
            ∧ (∀ i < ts.length, ts[i]? = if f.d.toNat ≤ i ∧ i < f.d.toNat + n then some Tile.zero else s.team.tiles[i]?)
            ∧ YieldsIn x s { s with team := { s.team with tiles := ts } } (s.grp.leaving x s f.cf.toNat f.len (Op.new .done))))
  ∧ (∀ (f : Ctl) (s : State), clear (.mdrn f) s = true →
      let x := Instr.mdrn f
      (8 * s.team.accGran ≤ f.a.toNat → exec x s = .next (takeTrap 0x01 (BitVec.allOnes 32) 0 0 s))
      ∧ (f.a.toNat < 8 * s.team.accGran → ∃ k, Yields x s (s.grp.leaving x s f.cf.toNat f.len
          { Op.new k with trap := some (complTrap s 0x05 (BitVec.allOnes 32) 0) })
          ∧ k = .mdrn f.d.toNat f.a.toNat (f.imm.extractLsb' 0 5).toNat ((f.imm.extractLsb' 5 2).toNat + 1) f.ty.toNat (f.imm.extractLsb' 12 2).toNat
              (f.imm.extractLsb' 7 2).toNat (f.imm.extractLsb' 9 2).toNat (f.imm.getLsbD 11) (if f.len = .l64 then none else some f.w1.toNat)))
  ∧ ∀ (f : Ctl) (s : State), clear (.mstat f) s = true →
      let x := Instr.mstat f
      let g := (s.grp.starts s f.cf.toNat (Op.new .done)).writeS s.cur f.d.toNat (mstatWord s.team) allBits
      (f.imm.getLsbD 0 = false → Yields x s (g.passes s.cur f.len))
      ∧ (f.imm.getLsbD 0 = true → YieldsIn x s { s with team := { s.team with mfl := 0, bankc := 0 } } (g.passes s.cur f.len))

/-! ### The Flume, the headrace and LDFR (R347 to R360, R375 to R382) -/

/-- R347 to R360, R380: LDFR loads a fragment by its walk record; FLCP, FLMC and FLRD make a command outstanding on a CCB that none of the core is on;
the engine reads the CCB, writes a line and sets its presence bit, and ends with the record's two words; FLWT waits for the record and FLST reads it;
HRST takes its record, a fetch adds the stream's next entry, HRSP unbinds and HRQS reads the queue's state (log entries 15, 20 and 21; 57 for the
order of LDFR's checks, that it reads its record at issue, and the lane that writes none; 55 and 56 for the edges of the Flume and of the queues). -/
def Obligations.Engines : Prop :=
  (∀ (f : Ctl) (s : State), clear (.ldfr f) s = true →
    let x := Instr.ldfr f
    let off := (readS s f.a.toNat + (if f.len = .l64 then 0 else f.w1.signExtend 64)).toNat
    let ws := (ldfrRecord off s).map TWord.data
    let w := walkOf ws
    let o0 := ((readS s f.b.toNat).extractLsb' 0 32).toInt
    let o1 := ((readS s f.b.toNat).extractLsb' 32 32).toInt
    let size := 32768 * s.team.spadGran
    (off % 64 ≠ 0 → exec x s = .next (takeTrap 0x04 (BitVec.allOnes 32) off 0 s))
    ∧ (off % 64 = 0 → size < off + 64 → exec x s = .next (takeTrap 0x05 (BitVec.allOnes 32) off 0 s))
    ∧ (off % 64 = 0 → off + 64 ≤ size → off / 128 ∈ s.team.absent → acquirePending s = false → exec x s = .next (modCur (fun y => { y with st := .parkPresence s.team.tid (off / 128) }) s))
    ∧ (off % 64 = 0 → off + 64 ≤ size → off / 128 ∉ s.team.absent → acquirePending s = false → (∃ r ∈ ldfrRecord off s, mismatch false r = true) →
        ∃ t : TrapInfo, t.code = 0x06 ∧ t.compl = true ∧ Yields x s (s.grp.leaving x s f.cf.toNat f.len { Op.new .done with isLoad := true, trap := some t }))
    ∧ (off % 64 = 0 → off + 64 ≤ size → off / 128 ∉ s.team.absent → acquirePending s = false → (∀ r ∈ ldfrRecord off s, mismatch false r = false) →
        3 < w.esz → exec x s = .next (takeTrap 0x01 (BitVec.allOnes 32) 0 0 s))
    ∧ (off % 64 = 0 → off + 64 ≤ size → off / 128 ∉ s.team.absent → acquirePending s = false → (∀ r ∈ ldfrRecord off s, mismatch false r = false) →
        w.esz ≤ 3 →
        (walkValid ws true = false ∨ ldfrInside w size o0 o1 = false →
          ∃ t : TrapInfo, t.code = 0x0C ∧ t.compl = true ∧ Yields x s (s.grp.leaving x s f.cf.toNat f.len { Op.new .done with isLoad := true, trap := some t }))
        ∧ (walkValid ws true = true → ldfrInside w size o0 o1 = true →
            (∀ j < 4, ∀ a ∈ ldfrWords w o0 o1 j, a / 128 ∉ s.team.absent) →
            let r := ldfrWrites s f.d.toNat w o0 o1
            let n := s.team.bankc + ldfrConflicts (ldfrWords w o0 o1 0) + ldfrConflicts (ldfrWords w o0 o1 1) + ldfrConflicts (ldfrWords w o0 o1 2)
              + ldfrConflicts (ldfrWords w o0 o1 3)
            YieldsIn x s { s with team := { s.team with bankc := n % 2 ^ 32 } } (s.grp.leaving x s f.cf.toNat f.len
              { Op.new .done with isLoad := true, writes := r.1, trap := if r.2 = 0 then none else some (complTrap s 0x06 r.2 0) }))))
  ∧ (∀ p ∈ [(Instr.flcp, FlumeKind.copy), (.flmc, .multicast), (.flrd, .reduce)], ∀ (f : Ctl) (s : State), clear (p.1 f) s = true →
      let x := p.1 f
      let u := entered x s
      let va := engineVa f u
      let mine := u.flumes.filter (fun y => y.core == u.grp.core)
      let onIt := ∃ y ∈ mine, y.ccbVa = va ∧ y.partn = u.grp.part
      (canonical va = false → exec x s = .next (takeTrap 0x05 (BitVec.allOnes 32) va 0 u))
      ∧ (canonical va = true → canonical ((va + 255) % 2 ^ 64) = true → va % 64 ≠ 0 → exec x s = .next (takeTrap 0x04 (BitVec.allOnes 32) va 0 u))
      ∧ (∀ ps, rangeCheck u va 256 64 needCcb 4 = .ok ps → acquirePending u = false → mine.length < 32 →
          (onIt → exec x s = .next (takeTrap 0x0C (BitVec.allOnes 32) va 0 u))
          ∧ (¬ onIt → ∃ y : Flume, y.id = u.nextId ∧ y.op = u.nextId ∧ y.gid = u.grp.gid ∧ y.slot = u.cur ∧ y.core = u.grp.core ∧ y.tid = u.grp.team
              ∧ y.partn = u.grp.part ∧ y.kind = p.2 ∧ y.ccbVa = va ∧ y.ph = .fetch ∧ y.status = 0 ∧ y.gone = 0
              ∧ YieldsIn x s { u with flumes := u.flumes ++ [y] } (u.grp.leaving x u f.cf.toNat f.len
                  { Op.new (.flume u.nextId) with trap := some (complTrap u 0x0C (BitVec.allOnes 32) va) }))))
  ∧ (∀ (f : Ctl) (s : State) (ps : List (Nat × Nat)), clear (.flwt f) s = true →
      let x := Instr.flwt f
      let va := (readS s f.a.toNat).toNat
      rangeCheck s va 256 64 needLoad 4 = .ok ps → acquirePending s = false →
      Yields x s (s.grp.leaving x s f.cf.toNat f.len (Op.new (if flumeUnwritten s va then .flwt va else .done))))
  ∧ (∀ (f : Ctl) (s : State) (ps : List (Nat × Nat)) (pa : Nat) (q : Bool), clear (.flst f) s = true →
      let x := Instr.flst f
      let va := (readS s f.a.toNat).toNat
      let h := canonPa s pa
      rangeCheck s va 256 64 needLoad 4 = .ok ps → xlate s (some s.grp.core) s.grp.part (va + 0xB0) 8 needLoad = .ok pa q →
      acquirePending s = false → lineHeld s s.grp.core (lineNo s h) = false → h % 8 = 0 →
      (flumeOn s va = true → Yields x s (s.grp.leaving x s f.cf.toNat f.len (Op.writing f.d.toNat 0xFF)))
      ∧ (flumeOn s va = false → peerLine s (lineNo s h) = none →
          YieldsIn x s (accept s h) (s.grp.leaving x s f.cf.toNat f.len { Op.writing f.d.toNat (homeWord s h).data with isLoad := true })))
  ∧ (∀ (f : Ctl) (s : State), clear (.hrst f) s = true →
      let x := Instr.hrst f
      let u := entered x s
      let q := (f.imm.extractLsb' 0 2).toNat
      let va := engineVa f u
      (qBound u.grp q = true → exec x s = .next (takeTrap 0x01 (BitVec.allOnes 32) 0 0 u))
      ∧ ∀ pa n ps, qBound u.grp q = false → rangeCheck u va 64 64 needLoad 5 = .ok ((pa, n) :: ps) → acquirePending u = false → hrstPending u q = false →
          lineHeld u u.grp.core (lineNo u pa) = false → peerLine u (lineNo u pa) = none →
          let accs := (List.range 8).map (fun i => ({ lane := i, va := va + 8 * i, pa := pa + 8 * i, sreq := false } : LaneAcc))
          ∃ g : Gather, g.accs = accs ∧ g.got = accs.map (fun a => (a.pa, homeWord u a.pa)) ∧ g.no = [] ∧ g.tmpl = complTrap u 0x0C (BitVec.allOnes 32) va
            ∧ YieldsIn x s (accept u pa) (u.grp.leaving x u f.cf.toNat f.len { Op.new (.hrst g q) with trap := some g.tmpl }))
  ∧ (∀ (f : Ctl) (s : State), clear (.hrsp f) s = true →
      let x := Instr.hrsp f
      let u := entered x s
      let q := (f.imm.extractLsb' 0 2).toNat
      acquirePending u = false → hrstPending u q = false →
      let v := dropReqs (fun r => r.purpose == .headrace u.grp.gid q) u
      let g := fun (y : Queue) => { u.grp with queues := vset u.grp.queues q none, past := vset u.grp.past q (y.popped, y.fetched == y.total) }
      (vget u.grp.queues q none = none → Yields x s (u.grp.leaving x u f.cf.toNat f.len (Op.new .done)))
      ∧ (∀ y, vget u.grp.queues q none = some y → y.popped ≠ 0 → YieldsIn x s v ((g y).leaving x u f.cf.toNat f.len (Op.new .done)))
      ∧ (∀ y, vget u.grp.queues q none = some y → y.popped = 0 → ∃ r : Lanes,
          YieldsIn x s v (({ g y with vregs := vset u.grp.vregs (60 + q) r }).leaving x u f.cf.toNat f.len (Op.new .done))))
  ∧ (∀ (f : Ctl) (s : State), clear (.hrqs f) s = true → acquirePending s = false →
      let x := Instr.hrqs f
      let q := vget s.grp.queues (f.imm.extractLsb' 0 2).toNat none
      let p := vget s.grp.past (f.imm.extractLsb' 0 2).toNat (0, false)
      (q = none → p.1 < 2 ^ 32 → Yields x s (s.grp.leaving x s f.cf.toNat f.len (Op.writing f.d.toNat
        (BitVec.ofNat 64 ((if p.2 = true then 2 else 0) + 2 ^ 32 * p.1)))))
      ∧ ∀ y, q = some y → y.entries.length < 16 → y.popped < 2 ^ 32 → Yields x s (s.grp.leaving x s f.cf.toNat f.len (Op.writing f.d.toNat
          (BitVec.ofNat 64 (1 + (if y.fetched = y.total then 2 else 0) + 4 * y.entries.length + 2 ^ 32 * y.popped)))))
  ∧ (∀ (s : State) (g : Group) (q : BitVec 2) (y : Queue), groupOf s g.gid = some g → vget g.queues q.toNat none = some y → y.stall = none →
      y.fetched < y.total → y.fetched < y.popped + 8 →
      let u := modCore g.core (fun k => { k with served := some (g.gid, q.toNat) }) s
      (∀ got v, engineReads needLoad g.core g.part 0 (y.walk.entryWords y.fetched) y.pend u = (got, .done, v) → gotAll got = true →
        exec (.headraceFetchReturn g.gid q) s = .next (bump (modGroup g.gid (fun g => { g with queues := vset g.queues q.toNat (some
          { y with entries := y.entries ++ [entryOf y.walk y.fetched got], fetched := y.fetched + 1, pend := [] }) }) v)))
      ∧ (∀ got v, engineReads needLoad g.core g.part 0 (y.walk.entryWords y.fetched) y.pend u = (got, .refused, v) →
        exec (.headraceFetchReturn g.gid q) s = .next (settleInv g.part (bump (reportTrap g.gid y.tmpl (dropQueue g.gid q.toNat v))))))
  ∧ (∀ (s v : State) (f : Flume) (place : Nat) (ws : List SrcWord), s.flumes.find? (fun y => y.id == f.id) = some f → f.stall = none → f.ph = .fetch →
      (∀ e ∈ f.before s, e.ph ≠ .fetch) → engineReads (needCcb.byFlume f.core) f.core f.partn (2 * f.id) ((List.range 32).map (fun i => f.ccbVa + 8 * i)) f.words s = (ws, .done, v) → gotAll ws = true →
      let r := flumeBegin { f with words := ws } v
      exec (.flumeLineArrival f.id place) s = .next (bump (freeLines (putFlume r.1 r.2)))
      ∧ ((∃ i w, i ≠ 22 ∧ ws[i]? = some w ∧ mismatch w.sreq (w.w.getD ⟨0, 0⟩) = true) → r.1.status = 3 ∧ r.1.lines = [] ∧ r.1.ph = .copy))
  ∧ (∀ (s : State) (f : Flume) (c : Ccb) (l : FLine) (ls : List FLine) (place : Nat) (t : Team), s.flumes.find? (fun y => y.id == f.id) = some f →
      f.stall = none → f.ph = .copy → f.ccb = some c → f.lines = l :: ls → (∀ y ∈ f.lines, y.granted = true) → l.own = none → c.srcSp = true →
      f.kind ≠ .reduce → f.got = [] → targetTeam s f.tid l.place = some t → t.saved = false → teamOf s t.tid = some t →
      ∃ w y, exec (.flumeLineArrival f.id place) s = .next w ∧ teamOf w t.tid = some y ∧ y.absent = t.absent.filter (· ≠ l.line)
        ∧ (∀ k < 16, ∀ v, (copyWords (padSources s f c) c l.line (fun k => t.word (16 * l.line + k)))[k]? = some (some v) → y.word (16 * l.line + k) = v)
        ∧ (∀ z, (z < 16 * l.line ∨ 16 * l.line + 16 ≤ z) → y.word z = t.word z)
        ∧ w.flumes = s.flumes.map (fun y => if y.id = f.id then { padSources s f c with lines := ls } else y))
  ∧ (∀ (s : State) (f : Flume) (w22 w23 : SrcWord), s.flumes.find? (fun y => y.id == f.id) = some f → f.tags = [] → f.stall = none → f.ph = .copy →
      f.lines = [] → (f.ccb = none ∨ ∃ c, f.ccb = some c ∧ c.sigen = false) → f.words[22]? = some w22 → f.words[23]? = some w23 →
      peerLine s (lineNo s w22.pa) = none → peerLine s (lineNo s w23.pa) = none → recordWaits s f = false →
      let st := if f.status = 0 ∧ f.gone ≠ 0 then 1 else f.status
      let v := homeWrite s w22.pa (stamped (packFields [(0, 8, st), (8, 12, f.gone)]))
      let v := accept (homeWrite v w23.pa (stamped (BitVec.ofNat 64 s.time))) w22.pa
      exec (.flumeComplete f.id) s = .next (settleInv f.partn (bump (freeLines (flumeFinish { f with status := st, ph := .signal } (flwtDone f v))))))
  ∧ ∀ (s : State) (f : Flume) (g : Group) (o : Op), s.claims = [] → groupOf s f.gid = some g → g.op f.op = some o → (∀ va, o.kind ≠ .flwt va) →
      flumeFinish f s = completeOp f.gid { o with trap := if 2 ≤ f.status then o.trap else none }
        (flwtDone f { s with flumes := s.flumes.filter (fun y => y.id != f.id) })

/-! ### Completion, walks, the life of groups and grids (R25, R173, R228 to R231, R308 to R321, R395) -/

/-- R25, R173, R179, R195, R202, R242, R249, R308, R309, R311, R314, R317, R321, R344, R358, R395, R402: what completes and when: an operation writes
its registers, ORs its flags and counts its flag down in one step; a wait ends when its condition holds; a drain, a stream's binding and presence bits
take effect then; a walk keeps its translation or parks its slots; a trapped group that has drained enters its handler; a group without operations
retires; a region whose slot has been parked for longer than the limit goes back to its start; and a grid's end posts its signal, or none where its
rights are refused (log entry 20). That all registers are written in one step is log entry 66's choice, and that a walk's translation is kept in all
three buffers, and so found again, log entry 68's. -/
def Obligations.Completions : Prop :=
  let plain := fun (g : Group) (o : Op) (s : State) => bump (modGroup g.gid (fun h =>
    { countOff o.slot o.flag (((h.applyAll o.slot o.writes).orFp o.fp).orQ o.qp) with ops := h.ops.filter (fun p => p.id != o.id) }) s)
  let quiet := fun (g : Group) (o : Op) => g.life ≠ .draining ∧ o.void = false ∧ o.trap = none ∧ o.ms = 0
  let waitDone := fun (s : State) (g : Group) (clus : Bool) (k ph : Nat) =>
    ∃ b : Barrier, (if clus then (clusterOf s g.cluster).map (fun c => vget c.cb k (.fresh 0)) else (teamOf s g.team).map (fun t => vget t.bars k (.fresh 0))) = some b
      ∧ phaseDone b ph = true
  (∀ (s : State) (g : Group) (o : Op), findOp s o.id = some (g, o) → groupOf s g.gid = some g → quiet g o → o.kind = .done →
    (o.isLoad = false → o.isWrite = false → exec (.operationComplete o.id) s = .next (plain g o s))
    ∧ (o.isLoad = true ∨ o.isWrite = true → exec (.memoryOpComplete o.id) s = .next (settleInv g.part (plain g o s))))
  ∧ (∀ (s : State) (g : Group) (o : Op) (t : TrapInfo), findOp s o.id = some (g, o) → groupOf s g.gid = some g → g.life = .resident → o.void = false →
      o.trap = some t → o.ms = 0 → o.kind = .done → o.isLoad = false → o.isWrite = false →
      exec (.operationComplete o.id) s = .next (bump (reportTrap g.gid t { plain g o s with change := s.change })))
  ∧ (∀ (s : State) (g : Group) (o : Op), findOp s o.id = some (g, o) → groupOf s g.gid = some g → g.life = .draining → o.ms = 0 → o.kind = .done →
      o.isLoad = false → o.isWrite = false →
      exec (.operationComplete o.id) s
        = .next (bump (modGroup g.gid (fun h => { countOff o.slot o.flag h with ops := h.ops.filter (fun p => p.id != o.id) }) s)))
  ∧ (∀ (s : State) (g : Group) (o : Op) (t : Team) (d tile row nreg ty rm amx amop : Nat) (nsat : Bool) (mul : Option Nat),
      findOp s o.id = some (g, o) → o.kind = .mdrn d tile row nreg ty rm amx amop nsat mul → mdrnReady s g o = true → teamOf s g.team = some t →
      exec (.operationComplete o.id) s = .next (completeOp g.gid (mdrnResult s t o) { s with free := s.free + 1024 }))
  ∧ (∀ (s : State) (g : Group) (o : Op), findOp s o.id = some (g, o) → groupOf s g.gid = some g → quiet g o →
      (∀ clus k ph par scope, o.kind = .barw clus k ph par 0 scope → waitDone s g clus k ph →
        exec (.memoryOpComplete o.id) s = .next (settleInv g.part (plain g o s)))
      ∧ (∀ t d e, o.kind = .gpwt t d → (s.weir.freed.find? (fun x => x.1 == t)) = some (t, e) →
        exec (.memoryOpComplete o.id) s = .next (settleInv g.part (plain g { o with writes := [.scal d (BitVec.ofNat 64 e) allBits] } s)))
      ∧ (∀ tags t, o.kind = .peer tags t → (∀ r ∈ s.fabric.reqs, r.tag ∉ tags) →
        exec (.memoryOpComplete o.id) s = .next (settleInv g.part (plain g o s)))
      ∧ (∀ tid line mask v, o.kind = .pres tid line mask v →
        exec (.memoryOpComplete o.id) s = .next (settleInv g.part (completeOp g.gid { o with kind := .done }
          ((List.range 64).foldl (fun w i => if mask.testBit i then setPresence tid (line + i) v w else w) s)))))
  ∧ (∀ (s : State) (g : Group) (o : Op) (h : Gather) (q : Nat), findOp s o.id = some (g, o) → groupOf s g.gid = some g → o.kind = .hrst h q →
      h.missing = [] → h.no = [] →
      let ws := h.accs.map (fun a => ((assocGet a.pa h.got).getD ⟨0, 0⟩).data)
      let w := walkOf ws
      let y : Queue := { walk := w, total := w.entries, fetched := 0, entries := [], popped := 0, pend := [], stall := none, tmpl := h.tmpl }
      (walkValid ws false = true ∧ w.ext.getD 4 0 = 1 → exec (.memoryOpComplete o.id) s = .next (settleInv g.part
        (completeOp g.gid { o with kind := .done, trap := none } (modGroup g.gid (fun g => { g with
          queues := vset g.queues q (some y),
          start := if o.region = g.region then g.start else { g.start with queues := vset g.start.queues q (some y) } }) s))))
      ∧ (walkValid ws false = false ∨ w.ext.getD 4 0 ≠ 1 →
          exec (.memoryOpComplete o.id) s = .next (settleInv g.part (completeOp g.gid { o with kind := .done } s))))
  ∧ (∀ (s : State) (d line : Nat) (x : CLine), d < 8 → findLine (die s d).lines line = some x → x.isDirty = true → lineHeld s (48 * d) line = false →
      homeOf s (line * 128) = .localMem →
      ∃ t, exec (.homeWritePerform d line) s = .next t ∧ findLine (die t d).lines line = none
        ∧ (∀ k < 16, (x.word k).valid = true → (x.word k).dirty = true → homeWord t (line * 128 + 8 * k) = (x.word k).w)
        ∧ ∀ a, canonPa s a / 128 ≠ canonPa s (line * 128) / 128 → readByte t a = readByte s a)
  ∧ (∀ (s : State) (c p va : Nat) (e : Tlb), c < 384 → e.covers va = true → lookup (addTlb c p e s) (some c) p va = some e)
  ∧ (∀ (s : State) (p : BitVec 4) (r : WalkReq), (part s p.toNat).walks = [r] → r.held = [] → walkHeld s p.toNat (r.page * 4096) = false →
      (∀ e, walkPage s p.toNat (r.page * 4096) = some e → lookup s (some r.core) p.toNat (r.page * 4096) = none →
        exec (.walkComplete p r.page) s = .next (bump (addTlb r.core p.toNat e (modPart p.toNat (fun q => { q with walks := [] }) s))))
      ∧ (∀ g w, walkPage s p.toNat (r.page * 4096) = none → r.waiters = [w] → groupOf s w.gid = some g → g.life = .resident → g.stopped = false →
          g.trap = none → (g.slot w.slot).st = .held → (∀ e ∈ (Machine.core s r.core).waits, e.part ≠ p.toNat ∨ e.page ≠ pageOf w.va) →
          (Machine.core s r.core).waits.length < 64 → faultRoom s p.toNat = true →
          let k := if (s.mgmt.tokens + 1) % 2 ^ 32 = 0 then 1 else (s.mgmt.tokens + 1) % 2 ^ 32
          ∃ h t, exec (.walkComplete p r.page) s = .next t ∧ groupOf t w.gid = some h ∧ (h.slot w.slot).st = .parkTrans k s.time ∧ h.pgtok = k
            ∧ h.pgPend = true ∧ t.mgmt.tokens = k))
  ∧ (∀ (s : State) (c : Nat) (p : BitVec 4), exec (.staleMapRetry c p) s =
      .next (bump (freeLines (modPart p.toNat (fun q => { q with stale := q.stale.filter (· ≠ c) }) s))))
  ∧ (∀ (s : State) (b : Bool), (s.grp.slot b).waited < 96 → exec (.slotUrgent s.grp.gid b) s = .next s)
  ∧ (∀ (s : State) (b : Bool), (s.grp.slot b).st = .ready ∨ (s.grp.slot b).st = .held → 96 ≤ (s.grp.slot b).waited →
      exec (.slotUrgent s.grp.gid b) s = .next { s with grp := s.grp.modSlot b (fun x => { x with urgent := true }) })
  ∧ (∀ (s : State) (g : Group) (t : TrapInfo) (ts : List TrapInfo), groupOf s g.gid = some g → g.life = .resident → g.trap = none → g.stopped = false →
      g.heldTraps = t :: ts →
      exec (.trapReport g.gid) s = .next (bump (enterHandler g.gid (reportTrap g.gid t (modGroup g.gid (fun g => { g with heldTraps := ts }) s)))))
  ∧ (∀ (s : State) (t : TrapInfo), s.grp.life = .resident → s.grp.trap = some t → s.grp.stopped = false → s.grp.inHandler = false → s.grp.buf = [] →
      s.late = none → s.grp.drained = true → ctxMapped s s.grp.core s.grp.part (imageVa s s.grp) 0x5000 = true → handlerOf s s.grp ≠ 0 → s.team.tid = s.grp.team →
      let g := s.grp.cancelWaits
      ∃ w, exec (.trapHandlerEntry s.grp.gid) s = .next w ∧ w.grp = (g.enter (handlerOf s s.grp) (imageVa s s.grp)).begins
        ∧ OutsideSame (dropLaunch s.grp.part s.grp.gid (writeImage g (trapWords t) { unwatch s.grp s with grp := g })) w)
  ∧ (∀ (s : State) (g : Group), groupOf s g.gid = some g → g.ops = [] → g.life = .draining →
      exec (.groupRetire g.gid) s = .next (settleInv g.part (bump (retireGroup g s)))
      ∧ ∀ h ∈ (retireGroup g s).groups, h.gid ≠ g.gid)
  ∧ (∀ (s : State) (g : Group) (k : Nat), groupOf s g.gid = some g → g.life = .resident → g.trap = none → g.stopped = false → g.aborting = false →
      faultRoom s g.part = true → parkedLong s g = some k →
      let a := accessOfToken s g.core k
      exec (.regionAbort g.gid) s = .next (settleInv g.part (bump (abortUnder g.gid 2 a.1 a.2 k s))))
  ∧ (∀ (g : Group) (token since : Nat), let h := g.abort token since
      h.buf = [] ∧ h.sregs = g.sregs ∧ h.vregs = g.vregs ∧ h.slot0.pc = g.start.s0.pc ∧ h.slot0.exec = g.start.s0.exec
        ∧ (g.start.s0.live = true → h.slot0.st = .parkTrans token since) ∧ h.dvDepth = g.start.depth ∧ h.fpstat = g.start.fpstat
        ∧ h.qstat = g.start.qstat ∧ h.queues = g.start.queues ∧ h.pgtok = token ∧ h.pgPend = true ∧ (∀ k < 12, h.slot0.flag k = 0))
  ∧ ∀ (s : State) (x : Grid), gridOf s x.id = some x → x.pkt.teams ≤ x.retired → x.stall = none → x.posted = false → x.released = true → writesOut s = false → s.wbs = [] →
      let gone := fun w : State => { modPart x.part (fun q => { q with snapsUsed := q.snapsUsed.filter (· ≠ x.snap) }) w with
                                     grids := w.grids.filter (fun y => y.id != x.id) }
      (x.pkt.compl = 0 → exec (.gridComplete x.id) s = .next (bump (gone s)))
      ∧ (x.pkt.compl ≠ 0 → xlate s none x.part x.pkt.compl 8 needAtomic = .refused → exec (.gridComplete x.id) s = .next (bump (gone s)))
      ∧ (∀ pa q, x.pkt.compl ≠ 0 → xlate s none x.part x.pkt.compl 8 needAtomic = .ok pa q →
          lineHeld s 386 (lineNo s (canonPa s pa)) = false → peerLine s (lineNo s (canonPa s pa)) = none →
          mismatch q (homeWord s (canonPa s pa)) = false →
          exec (.gridComplete x.id) s = .next (bump (gone (homeWrite (accept s (canonPa s pa)) (canonPa s pa)
            (stamped ((homeWord s (canonPa s pa)).data + 1))))))

/-! ### Pre-emption, resumption, replays and invalidations (R315, R318, R322 to R324, R445) -/

/-- R315, R318, R322, R324, R445: a write of `preempt` that names a resident cluster stops it, or waits while a barrier is partly arrived and the limit has not passed; a
stopped team whose operations have ended is saved and gives up its core, and a cluster all of whose teams are saved is suspended; a write of `resume` puts a saved cluster on a free rectangle, or
waits with GO set; a write of `remove` removes a saved cluster and pre-empts a resident one; a replay wakes what is parked under its page
or token; an invalidation drops its translations, and BUSY stands while accesses made under them are outstanding. -/
def Obligations.Suspension : Prop :=
  let stored := fun v : Word => v &&& 0x800007FFFFFFFFFF
  let ended := fun v : Word => v &&& 0x7FFFFFFFFFF
  (∀ (p : BitVec 4) (v : Word) (s : State), (part s p.toNat).preempt.getLsbD 63 = false →
    let reg := fun (w : Word) (s : State) => modPart p.toNat (fun q => { q with preempt := w }) s
    (v.getLsbD 63 = false ∨ namedCluster s p.toNat v = none → exec (.preempt p v) s = .next (reg (ended v) s))
    ∧ ∀ c, v.getLsbD 63 = true → namedCluster s p.toNat v = some c → c.life = .resident → c.preempt = none →
        let w := modCluster c.cid (fun x => { x with preempt := some s.time }) (reg (stored v) s)
        (partlyArrived s c = true → exec (.preempt p v) s = .next (bump w))
        ∧ (partlyArrived s c = false → exec (.preempt p v) s = .next (bump (stopCluster c.cid w))))
  ∧ (∀ (p : BitVec 4) (v : Word) (s : State), (part s p.toNat).preempt.getLsbD 63 = true → exec (.preempt p v) s = .next s)
  ∧ (∀ (s : State) (cid : Nat), ∀ g ∈ allGroups (stopCluster cid s), g.cluster = cid → g.life = .resident → g.stopped = true ∧ g.trap = none)
  ∧ (∀ (p : BitVec 4) (v : Word) (s : State) (c : Cluster) (t : Nat), namedCluster s p.toNat v = some c → c.preempt = some t → c.stopping = false →
      (partlyArrived s c = false ∨ t + 1000 * (part s c.part).plim ≤ s.time → exec (.preemptDeferExpire p v) s = .next (bump (stopCluster c.cid s)))
      ∧ (partlyArrived s c = true → s.time < t + 1000 * (part s c.part).plim → exec (.preemptDeferExpire p v) s = .next s))
  ∧ (∀ (s : State) (t : Team) (c : Cluster), teamOf s t.tid = some t → clusterOf s t.cluster = some c → c.stopping = true → t.tid ∈ c.teams →
      t.life ≠ .retired → t.saved = false →
      (∀ g ∈ savedGroups s t, g.buf = [] ∧ (∀ o ∈ g.ops, staysAtSave s g o = true)) → (∀ g ∈ groupsOfTeam s t.tid, g.life ≠ .draining) →
      (t.released = false → dirtyHeld s t.core 4 = false →
        exec (.teamSave t.tid) s = .next (bump (modTeam t.tid (fun t => { t with released := true }) (releaseAction t.core 4 s))))
      ∧ (t.released = true → writesOut s = false → s.wbs = [] → (∀ g ∈ savedGroups s t, moveHeld s g = false) → imageMapped s t = true →
          exec (.teamSave t.tid) s = .next (bump (saveTeam t c s))
          ∧ ∃ y, teamOf (saveTeam t c s) t.tid = some y ∧ y.life = .suspended ∧ y.saved = true ∧ y.lheld = false ∧ y.lpend = false
              ∧ y.savedLease = (if t.lheld then some t.lcnt else if t.lpend then some t.pn else none)))
  ∧ (∀ (s : State) (t : Team) (c : Cluster), teamOf s t.tid = some t → clusterOf s t.cluster = some c → c.stopping = true → faultRoom s c.part = true →
      (∀ y ∈ liveTeams s c, y.saved = true) → exec (.teamSave t.tid) s = .next (bump (clusterSaved c s)))
  ∧ (∀ (p : BitVec 4) (v : Word) (s : State), (part s p.toNat).resume.getLsbD 63 = false → v.getLsbD 63 = true →
      let reg := fun (w : Word) => modPart p.toNat (fun q => { q with resume := w }) s
      let u := reg (stored v)
      (namedCluster s p.toNat v = none → exec (.resume p v) s = .next (bump (reg (ended v))))
      ∧ ∀ c, namedCluster u p.toNat v = some c → c.stopping = false → c.removing = false → c.life = .suspended →
          (∀ g ∈ groupsOfCluster u c.cid, moveHeld u g = false) → (∀ t ∈ liveTeams u c, imageMapped u t = true) → faultRoom u p.toNat = true →
          (resumeRect u c = none → exec (.resume p v) s = .next u)
          ∧ ∀ cs, resumeRect u c = some cs → exec (.resume p v) s = .next (bump (clusterRecord 0x22 c
              (modPart p.toNat (fun q => { q with resume := q.resume &&& 0x7FFFFFFFFFFFFFFF }) (resumeCluster c cs u)))))
  ∧ (∀ (p : BitVec 4) (v : Word) (s : State), (part s p.toNat).remove.getLsbD 63 = false →
      let reg := fun (w : Word) => modPart p.toNat (fun q => { q with remove := w }) s
      (v.getLsbD 63 = false ∨ namedCluster s p.toNat v = none → exec (.remove p v) s = .next (reg (ended v)))
      ∧ ∀ c, v.getLsbD 63 = true → namedCluster s p.toNat v = some c →
          let w := modCluster c.cid (fun x => { x with removing := true }) (reg (stored v))
          (c.life = .suspended → (∀ y, w.clusters.find? (removeDue w) = some y → exec (.remove p v) s = .next (bump (bump (removeCluster y w))))
            ∧ (w.clusters.find? (removeDue w) = none → exec (.remove p v) s = .next (bump w)))
          ∧ (c.life ≠ .suspended → c.preempt = none → exec (.remove p v) s = .next (bump (beginPreempt c w))))
  ∧ (∀ (p : BitVec 4) (s : State), (part s p.toNat).walks = [] →
      let wakes := fun (hit : WaitPage → Prop) (w : State) => ∀ c < 384, ∀ e ∈ (Machine.core s c).waits, e.part = p.toNat → hit e →
        e ∉ (Machine.core w c).waits ∧ ∀ g ∈ allGroups w, g.core = c → g.life = .resident → ∀ b since, (g.slot b).st ≠ .parkTrans e.token since
      (∀ n < 2 ^ 45, ∃ w, exec (.replayPage p (BitVec.ofNat 64 (4096 * n))) s = .next w ∧ wakes (fun e => e.page = n) w
        ∧ ∀ c < 384, ∀ e ∈ (Machine.core w c).waits, e ∈ (Machine.core s c).waits)
      ∧ (∀ k < 2 ^ 32, ∃ w, exec (.replayToken p (BitVec.ofNat 64 (4096 * k + 1))) s = .next w ∧ wakes (fun e => e.token = k) w)
      ∧ ∀ v : Word, v.extractLsb' 1 11 ≠ 0 ∨ v.extractLsb' 57 7 ≠ 0 → exec (.replayPage p v) s = .next s ∧ exec (.replayToken p v) s = .next s)
  ∧ ∀ (p : BitVec 4) (s : State),
      let inv := fun (v : Word) (hit : Tlb → Bool) =>
        let keep := fun (e : Nat × Tlb) => ! (e.1 == p.toNat && hit e.2)
        modPart p.toNat (fun q => { q with tlbinv := v, tlbBusy := ! (invItems s p.toNat v).isEmpty, tlbOut := invItems s p.toNat v })
          { s with change := s.change + 1, cores := s.cores.map (fun k => { k with tlb1 := k.tlb1.filter keep, tlb2 := k.tlb2.filter keep }),
                   dies := s.dies.map (fun d => { d with xc := d.xc.filter keep }) }
      ((part s p.toNat).tlbBusy = false →
        (∀ n < 2 ^ 45, exec (.tlbInvalidatePage p (BitVec.ofNat 64 (4096 * n))) s
          = .next (inv (BitVec.ofNat 64 (4096 * n)) (fun t => t.base ≤ 4096 * n && 4096 * n < t.base + t.size)))
        ∧ exec (.tlbInvalidateAll p 1) s = .next (inv 1 (fun _ => true)))
      ∧ ((part s p.toNat).tlbBusy = true → ∀ v, exec (.tlbInvalidatePage p v) s
          = .next { (modPart p.toNat (fun q => { q with tlbHeld := q.tlbHeld ++ [v] }) s) with change := s.change + 1 }
        ∧ exec (.tlbInvalidateAll p v) s = exec (.tlbInvalidatePage p v) s)
      ∧ (∀ n < 2 ^ 45, ∀ g ∈ allGroups s, g.part = p.toNat → ∀ o ∈ g.ops, ∀ h : Gather, o.kind = .gather h → ∀ a ∈ h.accs, pageOf a.va = n →
          InvItem.op o.id ∈ invItems s p.toNat (BitVec.ofNat 64 (4096 * n)))
      ∧ ((part s p.toNat).tlbBusy = true → (∃ i ∈ (part s p.toNat).tlbOut, i.out s = true) → settleInv p.toNat s = s)
      ∧ ((part s p.toNat).tlbBusy = true → (∀ i ∈ (part s p.toNat).tlbOut, i.out s = false) → (part s p.toNat).tlbHeld = [] →
          settleInv p.toNat s = bump (modPart p.toNat (fun q => { q with tlbBusy := false, tlbOut := [] }) s))

/-! ### The Weir and the pod's reader tree (R290 to R305, R433), and the way from packets to teams (R217 to R221, R387 to R401) -/

/-- R291 to R299, R304, R305, R433: a tick on which nothing waits is used up; an attempt sums one parity; a zero sum over every core and the suspended
groups advances E by one, another leaves the machine Idle; the cores adopt it; the eligible head entry is scrubbed, appended to its pool and freed
with its ticket; a stall sets STALL; the pod root advances P when every device has moved on; devices adopt, report and scrub. R217 to R221, R387, R390
to R401: doorbells, packets taken or refused, launches taken, grids at frontier 0, TCBs sent, started, asked for and arrived, teams and groups
created. The wait before a field asks again is log entry 61's reading; that a stall of the pod is its own, and that an adoption clears STALL, log
entry 70's choice. -/
def Obligations.GraceAndDispatch : Prop :=
  (∀ s : State, s.weir.st ≠ .idle ∨ retireWaits s.weir = false → (weirElapse s).weir.lastAttempt = s.time)
  ∧ (∀ s : State, s.weir.st = .idle → tickSince s s.weir.lastAttempt = true → retireWaits s.weir = true →
    let q := (s.weir.e + 1) % 2
    exec .weirAttempt s = .next { s with weir := { s.weir with st := .summing q, lastQ := q, lastAttempt := s.time } })
  ∧ (∀ (s : State) (q : Nat), s.weir.st = .summing q →
      let n := ((List.range 384).map (fun c => if q = 1 then (Machine.core s c).c1 else (Machine.core s c).c0)).sum + (if q = 1 then s.weir.u1 else s.weir.u0)
      let w := fun (w : Weir) => { s with weir := { w with lastAttempt := s.time }, change := s.change + 1 }
      (n = 0 → s.weir.poden = false →
        exec .weirSumDone s = .next (w { s.weir with e := s.weir.e + 1, st := .adopting, stall := false, graceFrom := s.time }))
      ∧ (n = 0 → s.weir.poden = true → s.weir.podroot ≠ s.mgmt.device →
        exec .weirSumDone s = .next { sendCtl 0x11 s.weir.podroot (zeros 4 ++ leBytes 8 s.weir.knownP ++ leBytes 8 (s.weir.e + 1) ++ leBytes 1 (b2n (ownDemand s.weir)))
            (w { s.weir with e := s.weir.e + 1, st := .adopting, stall := false, graceFrom := s.time, lastE := s.weir.e + 1 }) with change := s.change + 1 })
      ∧ (n = 0 → s.weir.poden = true → s.weir.podroot = s.mgmt.device → ∃ w ed, exec .weirSumDone s = .next w
          ∧ w.weir.e = s.weir.e + 1 ∧ w.weir.st = .adopting ∧ w.weir.stall = false
          ∧ (s.mgmt.device, s.weir.knownP, ed, s.weir.e + 1, ownDemand s.weir) ∈ w.weir.reports)
      ∧ (n ≠ 0 → exec .weirSumDone s = .next (w { s.weir with st := .idle })))
  ∧ (∀ (s : State) (cs : List Nat), s.weir.st = .adopting → (∀ c < 384, c ∈ cs ∨ (Machine.core s c).known = s.weir.e) →
      ∃ w, exec (.weirAdopted cs) s = .next w ∧ w.weir = { s.weir with st := .idle, lastAttempt := s.time }
        ∧ ∀ c < 384, Machine.core w c = { Machine.core s c with known := s.weir.e })
  ∧ (∀ (s : State) (e : Retire) (es : List Retire), s.weir.freeing = .idle → s.weir.queue = e :: es → e.pod = false → e.tag + 2 ≤ s.weir.e →
      (∀ l ∈ entryLines s e, lineHeld s 386 l = false) →
      ∃ w, exec .weirFree s = .next w
        ∧ w.weir = { s.weir with freeing := .appending (runWords (runsOf e.base 0 (entryGranules s e))) }
        ∧ (∀ l ∈ entryLines s e, ∀ k, findLine (Machine.core w k).l1 l = none ∧ findLine (die w k).lines l = none) ∧ MemorySame s w)
  ∧ (∀ (s : State) (e : Retire) (es : List Retire) (r : Word × Nat), s.weir.freeing = .appending [r] → s.weir.queue = e :: es →
      appendOpen s e.part e.pool = true →
      let pl := poolPlace s e.part e.pool
      (peerLine s (lineNo s pl) = none → exec .weirAppend s = .next
        { tailPast e.part e.pool (homeWrite (homeWrite (accept s pl) pl (stamped r.1)) (pl + 8) (stamped (packFields [(0, 32, r.2), (32, 16, e.pool)])))
          with weir := { s.weir with freeing := .appending [], stall := false, poolFrom := s.time } })
      ∧ ((peerLine s (lineNo s pl)).isSome = true → exec .weirAppend s = .next
        { putHome e.part pl [stamped r.1, stamped (packFields [(0, 32, r.2), (32, 16, e.pool)])] (.append e.ticket) s
          with weir := { s.weir with poolFrom := s.time } }))
  ∧ (∀ (s : State) (e : Retire) (es : List Retire), s.weir.freeing = .appending [] → s.weir.queue = e :: es → e.sig = none → e.pod = false →
      exec .weirAppend s = .next { s with change := s.change + 1, weir := { s.weir with
        queue := es, freeing := .idle, freed := s.weir.freed ++ [(e.ticket, s.weir.e)] } })
  ∧ (∀ s : State,
      let due := fun (since : Nat) => since + 1000 * s.weir.gstall ≤ s.time
      let stalls := fun (u : Weir) => ∃ w, exec .graceStall s = .next w ∧ w.weir = { u with stall := true }
      (poolBlocked s = true → due s.weir.poolFrom → stalls { s.weir with poolFrom := s.time })
      ∧ (poolBlocked s = false → retireWaits s.weir = true → due s.weir.graceFrom → stalls { s.weir with graceFrom := s.time })
      ∧ (poolBlocked s = false → ¬ due s.weir.graceFrom → ownDemand s.weir = true → due s.weir.podFrom → stalls { s.weir with podFrom := s.time })
      ∧ (poolBlocked s = false → retireWaits s.weir = false → exec .graceStall s = .next s))
  ∧ (∀ s : State, podDue s = true →
      ∃ w, exec .podAdvance s = .next w ∧ w.weir.podP = s.weir.podP + 1 ∧ w.weir.knownP = s.weir.podP + 1 ∧ w.weir.e = s.weir.e ∧ w.weir.podLast = s.time)
  ∧ (∀ (s : State) (p : Word), s.weir.poden = true → s.weir.podroot ≠ s.mgmt.device →
      ∃ w, exec (.adopt p) s = .next w ∧ w.weir = { s.weir with knownP := p.toNat, ed := some s.weir.e, lastE := s.weir.e, podFrom := s.time, stall := false })
  ∧ (∀ (s : State) (dev : BitVec 4) (p e : Word) (b : Bool), s.weir.poden = true →
      (s.weir.podroot ≠ s.mgmt.device → dev.toNat = s.weir.podroot → exec (.report dev p e b) s = .next { s with weir := { s.weir with podDemand := b } })
      ∧ (s.weir.podroot = s.mgmt.device → ∃ w ed, exec (.report dev p e b) s = .next w ∧ (dev.toNat, p.toNat, ed, e.toNat, b) ∈ w.weir.reports
          ∧ ((∀ r ∈ s.weir.reports, r.1 ≠ dev.toNat ∨ r.2.1 ≠ p.toNat) → ed = e.toNat)))
  ∧ (∀ (s : State) (dev : BitVec 4) (base n ticket : Nat),
      let first := (0x100000000000 + dev.toNat * 2 ^ 40 + base % 2 ^ 40) / 128
      ∃ w, exec (.scrub dev base n ticket) s = .next w ∧ MemorySame s w
        ∧ ∀ l, first ≤ l → l < first + 32 * n → ∀ k, findLine (Machine.core w k).l1 l = none ∧ findLine (die w k).lines l = none)
  ∧ (∀ (s : State) (dev : BitVec 4) (e : Retire) (es : List Retire) (missing : List Nat) (runs : List (Word × Nat)),
      s.weir.freeing = .scrubbing missing runs → s.weir.queue = e :: es →
      let m := missing.erase dev.toNat
      exec (.scrubDone dev e.ticket) s = .next { s with weir := { s.weir with
        freeing := (if m = [] then .appending runs else .scrubbing m runs) } })
  ∧ (∀ (s : State) (p : BitVec 4) (k : BitVec 6) (v : Word), let h := hostQueue s p.toNat k.toNat
      let w := (v.extractLsb' 0 32).toNat
      let size := 2 ^ (h.base.extractLsb' 52 4).toNat
      let ok := blockOk s (17 + p.toNat) needStore (0x108010 + 0x10000 * p.toNat + 32 * k.toNat) 8
      (hostWaits s (p.toNat + 1) = false → ok = false → exec (.hqdoor p k v) s = .next { s with hostOut := s.hostOut ++ [.unsupported (p.toNat + 1)] })
      ∧ (hostWaits s (p.toNat + 1) = false → ok = true → exec (.hqdoor p k v) s = .next (bump (modHq p.toNat k.toNat (fun _ =>
        { h with wrx := w, halt := h.halt || decide (size < (w + 2 ^ 32 - h.rdx) % 2 ^ 32) }) s)))
      ∧ (hostWaits s (p.toNat + 1) = true → exec (.hqdoor p k v) s = .next { s with hostHeld := s.hostHeld ++ [.door p.toNat k.toNat v] })
      ∧ exec (.hqidxHalt p k v) s = .next (bump (modHq p.toNat k.toNat (fun _ =>
        { h with halt := v.getLsbD 32, rdx := if h.base.getLsbD 58 = false ∧ v.extractLsb' 0 32 = 0 then 0 else h.rdx }) s)))
  ∧ (∀ (s t : State) (p : BitVec 4) (k : BitVec 6), headWork s p.toNat k.toNat = some t → exec (.packetTake p k) s = .next (bump t))
  ∧ (∀ (s t : State) (p : BitVec 4) (k : BitVec 6) (pri : Nat), headWork s p.toNat k.toNat = none → takeTurn s p.toNat = some (pri, k.toNat, t) →
      exec (.packetTake p k) s = .next (bump (turnPast p.toNat pri k.toNat t)))
  ∧ (∀ (s t : State) (p : BitVec 4) (pri : Nat), launchDue s p.toNat = none → takeTurn s p.toNat = some (pri, 64, t) →
      exec (.launchQueueTake p) s = .next (bump (turnPast p.toNat pri 64 t)))
  ∧ (∀ (s : State) (p k : Nat), p < 16 → k < 64 → queueOpen (hostQueue s p k) = true → headHeld s p (hostQueue s p k) = false →
      let h := hostQueue s p k
      let ws := headPacket s h
      let pk := packetOf ws
      let made := fun (n : Nat) (t : State) => t.grids = s.grids ++ [Grid.begun s.nextId p n (h.base.extractLsb' 56 2).toNat pk]
      let read := tablesOk s p needDist (headAddr h) 64 = true
      let refused := packetRefused s p k pk = true ∨ ∃ n, freeSnap s p = some n ∧ snapRefused s p n = true
      (¬ read → headWork s p k = some (refusePacket p k 2 s))
      ∧ (read → packetValid s p ws = false → headWork s p k = some (refusePacket p k 1 s) ∧ (hostQueue (refusePacket p k 1 s) p k).halt = true)
      ∧ (read → packetValid s p ws = true → refused → headWork s p k = some (refusePacket p k 2 s))
      ∧ (read → packetValid s p ws = true → ¬ refused → packetDep s p k pk = .wait → headWork s p k = none ∧ takeNext s p k = none)
      ∧ ∀ n, read → packetValid s p ws = true → ¬ refused → packetDep s p k pk = .ok → freeSnap s p = some n →
          firstMiss s p (snapVa s p n :: argPages pk) = none → argFills s p k pk = [] → argsHeld s p n pk = false →
          headWork s p k = none ∧ ∃ t, takeNext s p k = some t ∧ made n t ∧ (hostQueue t p k).rdx = (h.rdx + 1) % 2 ^ 32 ∧ n ∈ (part t p).snapsUsed)
  ∧ (∀ (s : State) (p pri : Nat) (e : LaunchEnt), p < 16 → launchHead s p pri = some e → e.stall = none → packetDep s p (64 + pri) e.pkt = .ok →
      ∃ t, launchNext s p pri = some t ∧ (part t p).launchQ = (part s p).launchQ.erase e ∧ t.grids = s.grids ++ [Grid.begun s.nextId p e.snap e.pri e.pkt])
  ∧ (∀ (s : State) (f ctx c : Nat) (x : Tcb) (g : Grid), fieldStart s f = some (x, g, c) → partRoom s g 1 = some ctx →
      exec (.teamStart f) s = .next (bump (startCluster g (f / 12) ctx [c] (modField f (fun q => q.erase x) s))))
  ∧ (∀ (s : State) (g : Grid) (v ctx : Nat) (cs : List Nat), gridOf s g.id = some g → clusterPlace s g = some (v, ctx, cs) →
      exec (.clusterStart g.id) s = .next (bump (startCluster g v ctx cs s)))
  ∧ (∀ (s : State) (g : Grid) (t : Team) (gid i slot w : Nat), let x := newGroup s g t gid i slot w
      x.slot0.st = .ready ∧ x.slot0.pc = g.pkt.code ∧ x.slot0.exec = BitVec.allOnes 32 ∧ (∀ k < 12, x.slot0.flag k = 0) ∧ x.slot1.live = false
        ∧ vget x.sregs 0 0 = BitVec.ofNat 64 (snapVa s g.part g.snap) ∧ (∀ l < 32, lane (vget x.vregs 0 (Vector.replicate 32 0)) l = BitVec.ofNat 64 l)
        ∧ x.fpstat = 0 ∧ x.qstat = 0 ∧ x.qmode = 1 ∧ x.dvDepth = 0 ∧ x.dvCap = g.pkt.cap ∧ x.rmode = g.pkt.rmode ∧ x.ops = [] ∧ x.buf = []
        ∧ x.life = .resident ∧ x.window = w ∧ x.gslot = slot)
  ∧ (∀ (g : Grid) (tid cid i place c ctx : Nat), let t := newTeam g tid cid i place c ctx
      t.ngroups = g.pkt.groups ∧ t.spad = [] ∧ t.absent = [] ∧ t.gang = 0 ∧ t.mfl = 0 ∧ t.bankc = 0 ∧ t.lheld = false
        ∧ (∀ k < 16, vget t.bars k (.fresh 0) = { count := g.pkt.groups, arr := 0, lastc := 0xFFFF, next := none }) ∧ ∀ y ∈ t.tiles, y.chain = none)
  ∧ (∀ (s : State) (g : Grid) (f : Nat), gridOf s g.id = some g → tcbField s g = some f → g.pkt.w * g.pkt.h = 1 → g.sent < g.pkt.teams → g.sent < g.frontier + 16 →
      exec (.tcbSend g.id) s = .next (modGrid g.id (fun x => { x with sent := x.sent + 1 })
        (modField f (fun q => q ++ [{ grid := g.id, t := g.sent, pri := g.pri }]) s)))
  ∧ (∀ (s : State) (f d : Nat), mayAsk s f = true → busiest s f = some d → donation s d ≠ [] →
      let xs := donation s d
      exec (.stealRequest f) s = .next (modDistr (fun x => { x with transit := x.transit ++ [(f, xs)], refusedAt := x.refusedAt.filter (fun y => y.1 ≠ f) })
        (modField d (fun q => q.filter (fun x => x ∉ xs)) s)))
  ∧ (∀ (s : State) (f d : Nat), mayAsk s f = true → busiest s f = some d → donation s d = [] →
      exec (.stealRequest f) s = .next (modDistr (fun x => { x with refusedAt := x.refusedAt.filter (fun y => y.1 ≠ f) ++ [(f, s.time)] }) s))
  ∧ ∀ (s : State) (f : Nat) (xs : List Tcb) (ts : List (Nat × List Tcb)), s.distr.transit = (f, xs) :: ts →
      (32 < (fieldQ s f).length + xs.length → exec (.tcbArrival f) s = .next s)
      ∧ ((fieldQ s f).length + xs.length ≤ 32 → exec (.tcbArrival f) s = .next (modField f (fun q => q ++ xs) { s with distr := { s.distr with transit := ts } }))

/-! ### Maps, the host port, the management block and reset (R245 to R255, R277, R279, R326, R434 to R451) -/

/-- R248, R255, R279, R326, R434, R435, R439, R441, R443 to R447, R450, R451: a map change begins with a new version, moves its lines and ends with a
record; an uncorrectable line keeps its postmarks; a host's write is unstamped and valid, its read carries the bytes, and a refused one is
unsupported; access-table entries wait for what was checked under the old ones; registers take what their fields hold; digests extend MR5 to MR7, step
records are cleared, and DEVICE_RESET starts from the reset state with time 0 and measures the start firmware it loads into MR0 (log entries 7, 9, 11,
16 for what a stale map holds, 24 to 26, 29 for what function 0 may not write, 41 for what a failed step leads to, and 42 for what an update of the
tables waits for). -/
def Obligations.Management : Prop :=
  let m8 := fun (pa n : Nat) => (List.range n).map (fun i => pa + i)
  (∀ (p : BitVec 4) (off : Nat) (v : Word) (s : State), let q := part s p.toNat
    (q.change = none → ∃ w, exec (.mapChange p off v) s = .next w
      ∧ (part w p.toNat).mapVer = (q.mapVer + 1) % 65536 ∧ (part w p.toNat).stale = List.range 387
      ∧ (part w p.toNat).change = some
          { oldS := q.mapS, oldList := q.mapList.toList, oldTiled := q.tiled.toList, oldMask := q.mapTiled, moved := [], left := none, held := [] }
      ∧ (off = 0 → (part w p.toNat).mapS = min (v.extractLsb' 0 4).toNat 8 ∧ (part w p.toNat).mapTiled = (v.extractLsb' 32 16).toNat
          ∧ (part w p.toNat).mapList = q.mapList ∧ (part w p.toNat).tiled = q.tiled)
      ∧ (0x100 ≤ off → off < 0x200 → off % 8 = 0 → ∀ i < 8, vget (part w p.toNat).mapList (off - 0x100 + i) 0 = (v.extractLsb' (8 * i) 8).toNat)
      ∧ MemorySame s w)
    ∧ ∀ c, q.change = some c → exec (.mapChange p off v) s
        = .next (bump (modPart p.toNat (fun q => { q with change := some { c with held := c.held ++ [(off, v)] } }) s)))
  ∧ (∀ (p : BitVec 4) (line : Nat) (s : State), waitsHandover s p.toNat line = true → claimed s line = false →
      (∀ x ∈ s.pins, x.1 ≠ line / 32) →
      exec (.mapLineHandover p line) s = .next (bump (freeLines (modPart p.toNat (fun q => { q with
        change := q.change.map (fun c => { c with moved := insNat line c.moved, left := c.left.map (fun l => l.filter (fun x => x ≠ line)) }) }) s))))
  ∧ (∀ (s : State) (p r line : Nat) (c : MapChange), ownerOf s (line * 128) = some p → (part s p).change = some c →
      c.oldSlice (line * 128) ≠ newSlice (part s p) (line * 128) →
      (sliceOf s (line * 128) = some (if c.over line then newSlice (part s p) (line * 128) else c.oldSlice (line * 128)))
      ∧ (mapHeld s r line = true ↔ if c.over line then r ∈ (part s p).stale else r ∉ (part s p).stale))
  ∧ (∀ (p : BitVec 4) (s : State) (c : MapChange), (part s p.toNat).change = some c → c.held = [] → c.left = some [] → faultRoom s p.toNat = true →
      exec (.mapChangeComplete p) s = .next (bump (freeLines (modPart p.toNat (fun q => { q with change := none, stale := [] })
        (postFault p.toNat { FaultInfo.ofKind 0x20 with detail := (part s p.toNat).mapVer } s)))))
  ∧ (∀ (line : Nat) (ws : List Word) (s : State), ws.length = 16 → homeOf s (line * 128) = .localMem →
      ∃ w, exec (.stackUncorrectable line ws) s = .next (bump (postEvent 0 0x51 [(1, 1, stackOf (line * 128)), (8, 8, line * 128)] w))
        ∧ (∀ i < 16, (homeWord w (line * 128 + 8 * i)).data = ws.getD i 0) ∧ (∀ a, readMark w a = readMark s a) ∧ (∀ a, readValid w a = readValid s a)
        ∧ ∀ a, canonPa s a / 128 ≠ canonPa s (line * 128) / 128 → readByte w a = readByte s a)
  ∧ (∀ (fn : BitVec 5) (bar2 : Bool) (pa : Nat) (bs : List Byte) (s : State), bar2 = true ∨ hostOwn pa bs.length = false →
      let x := Instr.hostWrite fn ⟨bar2, pa⟩ bs
      let i := HostAcc.write fn.toNat bar2 pa bs
      (hostWaits s fn.toNat = true → exec x s = .next { s with hostHeld := s.hostHeld ++ [i] })
      ∧ (hostWaits s fn.toNat = false →
          (hostTakes s fn.toNat bar2 pa bs.length needStore = none → exec x s = .next { s with hostOut := s.hostOut ++ [.unsupported fn.toNat] })
          ∧ ∀ l, hostTakes s fn.toNat bar2 pa bs.length needStore = some l →
              (hostStops s i = true → exec x s = .next { s with hostHeld := s.hostHeld ++ [i] })
              ∧ (hostStops s i = false → exec x s = .next (bump (putPieces l bs s)))
              ∧ (hostStops s i = false → bar2 = false → ∃ w, exec x s = .next w ∧ w.cores = s.cores ∧ w.dies = s.dies ∧ w.hostOut = s.hostOut
                  ∧ (∀ i < bs.length, readByte w (pa + i) = bs.getD i 0 ∧ readMark w (pa + i) = 0 ∧ readValid w (pa + i) = true)
                  ∧ (∀ a, canonPa s a ∉ m8 pa bs.length → readByte w a = readByte s a))))
  ∧ (∀ (b len off n : Nat) (t : List (Nat × Nat)), 0 < n →
      (off + n ≤ len → piecesIn ((b, len) :: t) off n = some [(b + off, n)]) ∧ (len ≤ off → piecesIn ((b, len) :: t) off n = piecesIn t (off - len) n)
        ∧ piecesIn [] off n = none)
  ∧ (∀ (fn : BitVec 5) (sp : HostSpace) (pa n : Nat) (s : State), hostWaits s fn.toNat = false →
      let ends := fun (t : State) (o : HostOut) => exec (.hostRead fn sp pa n) s = .next { t with hostOut := s.hostOut ++ [o] }
      (sp ≠ .regs → hostTakes s fn.toNat (sp == .bar2) pa n needLoad = none → ends s (.unsupported fn.toNat))
      ∧ (sp = .memory → hostTakes s fn.toNat false pa n needLoad ≠ none → hostStops s (.read fn.toNat sp pa n) = false →
          ends ((linesIn pa n).foldl (fun t l => accept t (l * 128)) s) (.readDone pa (readBytes s pa n)))
      ∧ (∀ w, sp = .regs → n = 8 → fn.toNat ≤ 16 → regRead s (16 + fn.toNat) pa = some w → ends s (.readDone pa (bytesOf w)))
      ∧ (sp = .regs → n ≠ 8 ∨ regRead s (16 + fn.toNat) pa = none → ends s (.unsupported fn.toNat)))
  ∧ (∀ (t m sl : Nat) (v : BitVec 128) (s : State),
      let u := if dirtyFor s m then bump (writeBackFor m s) else s
      (checkedOut u m = false → ∃ w, exec (.accessTableUpdate t m sl v) s = .next w ∧ (∀ e, (t, m, sl, e) ∈ w.mgmt.tables ↔ e = accEntOf v)
        ∧ ∀ a b c e, (a, b, c) ≠ (t, m, sl) → ((a, b, c, e) ∈ w.mgmt.tables ↔ (a, b, c, e) ∈ u.mgmt.tables))
      ∧ (checkedOut u m = true → ∃ w, exec (.accessTableUpdate t m sl v) s = .next w ∧ w.mgmt.tables = u.mgmt.tables ∧ (t, m, sl, v) ∈ w.mgmt.accPending))
  ∧ (∀ v : BitVec 128, (accEntOf v).base = (v.extractLsb' 0 52).toNat ∧ (accEntOf v).len = (v.extractLsb' 64 52).toNat ∧ (accEntOf v).rd = v.getLsbD 116
      ∧ (accEntOf v).wr = v.getLsbD 117 ∧ (accEntOf v).atomic = v.getLsbD 118 ∧ (accEntOf v).ex = v.getLsbD 119
      ∧ ((accEntOf v).rsv = true ↔ v.extractLsb' 52 12 ≠ 0 ∨ v.extractLsb' 120 8 ≠ 0))
  ∧ (∀ (vd : BitVec 3) (v : Word) (s : State), exec (.vdmapWrite vd v) s = .next { s with
      change := s.change + 1, mgmt := { s.mgmt with vdmap := vset s.mgmt.vdmap vd.toNat (v.extractLsb' 0 4).toNat } })
  ∧ (∀ (fn : BitVec 5) (s : State), fn.toNat ≤ 16 → (vget (mailboxOf s fn.toNat) 6 0).getLsbD 0 = true → s.mgmt.attestQ = [] → s.mgmt.attestOut = none →
      (∀ x ∈ attestPlaces s fn.toNat, lineHeld s 386 (lineNo s x.1) = false ∧ peerLine s (x.1 / 128) = none) →
      ∃ w, exec (.attestRequest fn) s = .next w ∧ ((vget (mailboxOf w fn.toNat) 6 0).getLsbD 0 = false)
        ∧ (vget (mailboxOf w fn.toNat) 6 0).getLsbD 1 = true)
  ∧ (∀ (v : Word) (s : State), let k := (v.extractLsb' 0 3).toNat
      (5 ≤ k → exec (.mrext v) s = .next { s with mgmt := { s.mgmt with
        mr := vmod s.mgmt.mr k (fun x => Config.sha384 (leB 48 x.toNat ++ leB 48 s.mgmt.mrdigest.toNat)),
        log := s.mgmt.log ++ [{ step := 0, k := k, h := s.mgmt.mrdigest, time := s.time }] } })
      ∧ (k < 5 → exec (.mrext v) s = .next s))
  ∧ (∀ (v : Word) (s : State),
      (v.getLsbD 63 = true → exec (.stepclr v) s = .next { s with mgmt := { s.mgmt with
        steps := s.mgmt.steps.filter (fun r => ! (r.1 == (v.extractLsb' 0 4).toNat && r.2.1 == (v.extractLsb' 4 8).toNat)) } })
      ∧ (v.getLsbD 63 = false → exec (.stepclr v) s = .next s))
  ∧ (∀ s : State, ∃ w, exec .deviceReset s = .next w ∧ w.time = 0 ∧ w.mem = [] ∧ w.marks = [] ∧ w.valid = [] ∧ w.groups = [] ∧ w.teams = [] ∧ w.grids = []
      ∧ w.grp = State.reset.grp ∧ (∀ c, { Machine.core w c with age := [] } = { Machine.core State.reset c with age := [] }) ∧ w.dies = State.reset.dies ∧ w.weir = State.reset.weir ∧ w.mgmt.firmware = s.mgmt.firmware
      ∧ (let ext := fun fw : List Byte => Config.sha384 (leB 48 0 ++ leB 48 (Config.sha384 fw).toNat)
         vget w.mgmt.mr 0 0 = 0 ∨ vget w.mgmt.mr 0 0 = ext s.mgmt.firmware ∨ vget w.mgmt.mr 0 0 = ext s.mgmt.backup))
  ∧ (∀ (m off n : Nat) (v : Word) (s : State), 16 ≤ m → m ≤ 32 → hostWaits s (m - 16) = true →
      exec (.registerWrite m off ⟨n, v⟩) s = .next { s with hostHeld := s.hostHeld ++ [.reg m off n v] })
  ∧ (∀ (m off n : Nat) (v : Word) (s : State), s.hostHeld = [] → n ≠ 8 ∨ off % 8 ≠ 0 ∨ reaches m off = false ∨ blockOk s m needStore off 8 = false →
      exec (.registerWrite m off ⟨n, v⟩) s = .next { s with hostOut := s.hostOut ++ [.unsupported (m - 16)] })
  ∧ (∀ m ∈ [16, 49], ∀ (p : BitVec 4) (o : Nat) (v : Word) (s : State), o < 0x10000 → o % 8 = 0 → let off := 0x100000 + 0x10000 * p.toNat + o
      blockOk s m needStore off 8 = true → s.hostHeld = [] →
      let put := fun f : Partition → Partition => exec (.registerWrite m off ⟨8, v⟩) s = .next (bump (modPart p.toNat f s))
      (o = 0x08 → put (fun q => { q with llcquota := (v.extractLsb' 0 32).toNat }))
      ∧ (o = 0x10 → put (fun q => { q with pgtbase := v &&& 0xFFFFFFFFFF000 }))
      ∧ (o = 0x38 → put (fun q => { q with parklim := max 10 (min 100000 (v.extractLsb' 0 17).toNat) }))
      ∧ (o = 0x40 → put (fun q => { q with plim := max 10 (min 10000 (v.extractLsb' 0 14).toNat) }))
      ∧ (o = 0x60 → put (fun q => { q with ctxbase := v &&& 0x1FFFFFFFFFFF000 }))
      ∧ (o = 0x00 → exec (.registerWrite m off ⟨8, v⟩) s = exec (.mapChange p 0 v) s)
      ∧ (o = 0x48 → exec (.registerWrite m off ⟨8, v⟩) s = exec (.preempt p v) s)
      ∧ (o = 0x50 → exec (.registerWrite m off ⟨8, v⟩) s = exec (.resume p v) s)
      ∧ (o = 0x58 → exec (.registerWrite m off ⟨8, v⟩) s = exec (.remove p v) s)
      ∧ (o = 0x18 → exec (.registerWrite m off ⟨8, v⟩) s = exec (.tlbInvalidatePage p v) s)
      ∧ (o = 0x20 → exec (.registerWrite m off ⟨8, v⟩) s = exec (.replayPage p v) s)
      ∧ (∀ k : BitVec 6, o = 0x8008 + 32 * k.toNat → exec (.registerWrite m off ⟨8, v⟩) s = exec (.hqidxHalt p k v) s))
  ∧ ∀ (p : BitVec 4) (k : BitVec 6) (v : Word) (s : State), let off := 0x108010 + 0x10000 * p.toNat + 32 * k.toNat
      blockOk s (17 + p.toNat) needStore off 8 = true → s.hostHeld = [] → exec (.registerWrite (17 + p.toNat) off ⟨8, v⟩) s = exec (.hqdoor p k v) s

/-! ### The fabric (R407 to R433) -/

/-- R280, R409 to R432: what a device does for its peers and with their answers, with the flits of a link and their beats, and when light or keys
fail: a request is refused, waits or is performed and answered; a spillway write is dropped behind the cut, and a torn block cleared; an answer
settles its request; a flit in sequence is accepted, another asks for a replay; loss of light stops a direction until it has restriped, or takes the
link down; a link trains, and its keys rotate (log entries 18, 22, 23, 33 for the ninth replay, 35, 37 for the order after a link-down exchange, 38
for rotation by direction, 39 for light and restriping, and 72). -/
def Obligations.Fabric : Prop :=
  (∀ p ∈ ([(.rdl, 0, readDo), (.rdh, 1, readDo), (.wrl, 2, wrlDo), (.atm, 4, atmDo true), (.fabricRed, 5, atmDo false), (.clb, 6, clbDo),
      (.vld, 7, vldDo), (.wat, 8, watDo), (.clm, 9, clmDo)] : List ((FabHdr → List TWord → Instr) × BitVec 4 × (FabHdr → List TWord → State → State))),
    ∀ (h : FabHdr) (d : List TWord) (s : State), h.op = p.2.1 → s.fabric.held = [] →
    let u := noteCut h s
    (∀ st, refusal u h d = some st → exec (p.1 h d) s = .next (bump (sendRsp 12 h st [] u)))
    ∧ (refusal u h d = none → mustHold u h d = true → let v := modFabric (fun f => { f with held := [(h, d)] }) u
        exec (p.1 h d) s = .next (if h.op = 8 then addWatch (2 * (h.sdev.toNat * 1024 + h.tag.toNat) + 1) h.wordPa h.sub (dataWord d 0).data v else v))
    ∧ (refusal u h d = none → mustHold u h d = false → h.ord ≠ 4 ∨ (h.op ≠ 4 ∧ h.op ≠ 5) ∨ seqNext u h = seqOf d →
        exec (p.1 h d) s = .next (bump (p.2.2 h d u)))
    ∧ (refusal u h d = none → mustHold u h d = false → h.ord = 4 → h.op = 4 ∨ h.op = 5 → seqOf d < seqNext u h → exec (p.1 h d) s = .next u))
  ∧ (∀ (h : FabHdr) (d : List TWord) (s : State), homeOf s h.pa = .localMem →
      (MemorySame s (readDo h d s))
      ∧ (s.wbs = [] → ∀ i < 16, homeWord (wrlDo h d s) (h.pa + 8 * i) = if h.wmask.getLsbD i then dataWord d i else homeWord s (h.pa + 8 * i))
      ∧ (∀ b < 2, h.wmask.getLsbD b = true → ∀ i < 64, readByte (clbDo h d s) (h.pa + 64 * b + i) = 0 ∧ readValid (clbDo h d s) (h.pa + 64 * b + i) = false)
      ∧ (∀ b < 2, h.wmask.getLsbD b = false → ∀ i < 64, readByte (clbDo h d s) (h.pa + 64 * b + i) = readByte s (h.pa + 64 * b + i))
      ∧ (clmDo h d s).claims = s.claims ++ [(h.laddr.toNat, 2 * (512 * h.sdev.toNat + h.score.toNat) + 1)]
      ∧ MemorySame s (vldDo h d s) ∧ MemorySame s (watDo h d s)
      ∧ (∀ ret, let w4 := (dataWord d 4).data.toNat
          let x := atomWord (if h.sub = 10 then .cas else .rmw h.sub) h.ty (w4 / 4) (w4 % 4) ((dataWord d 0).mark != 0) (homeWord s h.wordPa) (dataWord d 0).data (dataWord d 1).data
          homeWord (atmDo ret h d s) h.wordPa = x.put.getD (homeWord s h.wordPa)))
  ∧ (∀ (k : Nat) (h : FabHdr) (d : List TWord) (s : State), h.op = 3 → s.fabric.spill = [(k, [(h, d)])] → lineHeld s 385 h.laddr.toNat = false →
      let u := modFabric (fun f => { f with spill := [] }) s
      (cutBehind s h = true → exec (.wrs h d) s = .next (bump u))
      ∧ (cutBehind s h = false → refusal (noteCut h u) h d ≠ none → exec (.wrs h d) s = .next (bump (noteCut h u)))
      ∧ (cutBehind s h = false → refusal (noteCut h u) h d = none → exec (.wrs h d) s
          = .next (bump (spillBlock h.pa h.wmask.toNat 1 d (spillBlock h.pa h.wmask.toNat 0 d (accept (noteCut h u) h.pa))))))
  ∧ (∀ (k : Nat) (h : FabHdr) (d : List TWord) (s : State), h.op = 3 → s.fabric.spill = [(k, [(h, d)])] → lineHeld s 385 h.laddr.toNat = true →
      exec (.wrs h d) s = .next s)
  ∧ (∀ (s : State) (pa mask b : Nat) (d : List TWord), b < 2 → pa % 128 = 0 → homeOf s pa = .localMem → (∃ i < 8, mask.testBit (8 * b + i) = true) →
      let t := spillBlock pa mask b d s
      ((∃ i < 8, mask.testBit (8 * b + i) = true ∧ mismatch false (dataWord d (8 * b + i)) = true) →
        ∀ i < 64, readByte t (pa + 64 * b + i) = 0 ∧ readValid t (pa + 64 * b + i) = false)
      ∧ ((∀ i < 8, mask.testBit (8 * b + i) = true → mismatch false (dataWord d (8 * b + i)) = false) →
          ∀ i < 8, homeWord t (pa + 64 * b + 8 * i) = if mask.testBit (8 * b + i) then dataWord d (8 * b + i) else homeWord s (pa + 64 * b + 8 * i)))
  ∧ (∀ (h : FabHdr) (d : List TWord) (s : State) (r : Req), answerTo s (h.as 10) = some r → wantsData r = true →
      exec (.rdata h d) s = .next (bump (settleInv r.part (pumpReqs (applyData r d (settleReq r s))))))
  ∧ (∀ (h : FabHdr) (d : List TWord) (s : State) (r : Req), answerTo s (h.as 11) = some r → wantsData r = false →
      (answerHeld s (h.as 11) = false → exec (.rdone h d) s = .next (bump (settleInv r.part (pumpReqs (applyDone r (h.as 11) (settleReq r s))))))
      ∧ (answerHeld s (h.as 11) = true →
          exec (.rdone h d) s = .next (modFabric (fun f => { f with inbox := f.inbox ++ [.msg (h.as 11) d] }) s)))
  ∧ (∀ (h : FabHdr) (d : List TWord) (s : State) (r : Req), answerTo s (h.as 12) = some r → let st := h.wmask.toNat % 16
      (st = 3 → r.purpose ≠ .dropped → exec (.rnack h d) s = .next (bump (resend r s)))
      ∧ (st = 3 → r.purpose = .dropped → exec (.rnack h d) s = .next (bump (settleInv r.part (pumpReqs (settleReq r s)))))
      ∧ ((reqsBefore s r).any r.sameLine = true → resend r s = modFabric (fun f => { f with
          reqs := f.reqs.map (fun x => if x.tag = r.tag then { x with again := true, sent := false } else x) }) s)
      ∧ (st = 1 ∨ st = 2 → answerHeld s (h.as 12) = false →
          exec (.rnack h d) s = .next (bump (settleInv r.part (pumpReqs (applyRefusal r st (settleReq r s)))))))
  ∧ (∀ (k : Nat) (x : Flit) (s : State), k < 15 → (link s k).up = true → let esn := expected (link s k) x
      let taken := flitWhole x = true ∧ (x.ctl.extractLsb' 25 2 = 0) ∧ (x.ctl.extractLsb' 0 12).toNat = esn % 4096
      (¬ taken → exec (.numberedFlitReceive k x) s = .next (modLink k (fun l => { l with needRrq := true }) s))
      ∧ ∀ key, taken → (link s k).rxKeys.get (x.ctl.getLsbD 24) = some key →
          let items := flitItems s (segKinds x) (crypt key (ivOf 0 (x.ctl.getLsbD 24) esn) (padTo 624 x.body))
          ∃ w, exec (.numberedFlitReceive k x) s = .next w ∧ vget (link w k).rxEsn 0 0 = esn + 1
            ∧ w.fabric.inbox = s.fabric.inbox ++ items.filter (fun i => i.dest == s.mgmt.device))
  ∧ (∀ (k : Nat) (x : Flit) (s : State), k < 15 → (link s k).up = true → flitWhole x = true → x.ctl.extractLsb' 25 2 = 2 →
      ∀ key, (link s k).rxKeys.get (x.ctl.getLsbD 24) = some key →
        let esn := nearestEsn (vget (link s k).rxEsn 2 0) (x.ctl.extractLsb' 0 12).toNat
        let es := gmacEntries (crypt key (ivOf 2 (x.ctl.getLsbD 24) esn) (padTo 624 x.body))
        (es.any gmacBad = true → exec (.controlFlitReceive k x) s = .next s)
        ∧ (es.any gmacBad = false → ∃ w, exec (.controlFlitReceive k x) s = .next w ∧ vget (link w k).rxEsn 2 0 = esn))
  ∧ (∀ (k : Nat) (x : Flit) (s : State), flitWhole x = false →
      exec (.controlFlitReceive k x) s = .next s ∧ exec (.spillwayFlitReceive k x) s = .next s)
  ∧ (∀ (k : Nat) (x : Flit) (s : State), k < 15 → (link s k).up = true → flitWhole x = true → x.ctl.extractLsb' 25 2 = 1 →
      ∀ key, (link s k).rxKeys.get (x.ctl.getLsbD 24) = some key →
        let esn := nearestEsn (vget (link s k).rxEsn 1 0) (x.ctl.extractLsb' 0 12).toNat
        let items := flitItems s (segKinds x) (crypt key (ivOf 1 (x.ctl.getLsbD 24) esn) (padTo 624 x.body))
        items ≠ [] → spillValid items = true → (∀ i ∈ items, i.dest = s.mgmt.device) →
        ∃ w, exec (.spillwayFlitReceive k x) s = .next w ∧ vget (link w k).rxEsn 1 0 = esn
          ∧ w.fabric.spill = (let left := (spillArrive (spillPairs items) s).1
              if 64 ≤ (s.fabric.spill.filter (fun b => b.1 == k)).length ∨ left = [] then s.fabric.spill else s.fabric.spill ++ [(k, left)]))
  ∧ (∀ (x : FabHdr × List TWord) (t : List (FabHdr × List TWord)) (s : State),
      (cutBehind s x.1 = true → (spillArrive (x :: t) s).1 = (spillArrive t s).1)
      ∧ (cutBehind s x.1 = false → (spillArrive (x :: t) s).1 = x :: (spillArrive t (noteCut x.1 s)).1))
  ∧ (∀ (k : Nat) (s : State), let l := link s k
      l.sends = true → l.kept ≠ [] → l.ackSeen + 2000 ≤ s.time →
      (l.replays < 8 → exec (.replayTimeout k) s = .next (modLink k (fun l => { l.onWire (l.kept.map Kept.flit) with
        replays := l.replays + 1, replayFrom := l.kept.head?.map Kept.esn, ackSeen := s.time }) s))
      ∧ (8 ≤ l.replays → exec (.replayTimeout k) s = .next (linkDown k s)))
  ∧ (∀ (l : Link) (xs : List Flit), (l.onWire xs).beat = l.beat + 80 * xs.length
      ∧ ∀ i < xs.length, (l.onWire xs).out[l.out.length + i]? = xs[i]?.map (fun f => { flit := f, beat := l.beat + 80 * i, lit := l.txLit }))
  ∧ (∀ m : Word, (∀ f < 4, ∀ k < 16, 16 * f + k ∈ litChannels m ↔ m.getLsbD (16 * f + k) = true)
      ∧ (litChannels m).Pairwise (fun a b => a % 16 < b % 16 ∨ (a % 16 = b % 16 ∧ a < b)))
  ∧ (∀ x : Sent, x.lit ≠ 0 → let l := litChannels x.lit
      x.onChannels.length = 80
      ∧ ∀ b < 80, x.onChannels[b]?.map Prod.fst = l[(x.beat + b) % l.length]? ∧ x.onChannels[b]?.map Prod.snd = (flitBeats x.flit)[b]?)
  ∧ (∀ (k : Nat) (s : State), k < 15 → (link s k).up = true → let w := linkDown k s
      (link w k).up = false ∧ (link w k).kept = []
        ∧ ((link s k).heard = none → (link w k).undone = (link s k).undone ++ (link s k).kept.map (fun x => (x.esn, x.items)))
        ∧ ((link s k).heard ≠ none → (link w k).undone = []))
  ∧ (∀ (k : Nat) (h : FabHdr) (d : List TWord) (t : List (List FabItem)) (s : State), (link s k).relayQ = [.msg h d] :: t →
      let u := modLink k (fun l => { l with relayQ := t }) s
      let on := linkTo u h.ddev.toNat
      (h.op.toNat < 10 → h.op ≠ 3 → (h.rly = true ∨ (link u on).up = false) → exec (.relayForward k) s = .next (bump (sendRsp 12 h 3 [] u)))
      ∧ ((10 ≤ h.op.toNat ∨ (h.op ≠ 3 ∧ h.rly = false ∧ (link u on).up = true)) →
          exec (.relayForward k) s = .next (bump (transmit on { h with rly := true } d u)))
      ∧ (h.op = 3 → h.rly = true ∨ (link u on).up = false ∨ 32 < queueFlits (link u on) →
          exec (.relayForward k) s = .next (bump (modFabric (fun f => { f with relayDrop := f.relayDrop + 1 }) u)))
      ∧ (h.op = 3 → h.rly = false → (link u on).up = true → queueFlits (link u on) ≤ 32 →
          exec (.relayForward k) s = .next (bump (queueSpill on [({ h with rly := true }, d)] u))))
  ∧ (∀ (k : Nat) (seq : BitVec 12) (s : State), let l := link s k
      (l.up = true → l.owed = false → exec (.linkDownExchange k seq) s = .next (bump (modLink k (fun l => { l with heard := some seq.toNat }) s)))
      ∧ (l.up = false ∨ l.owed = true → exec (.linkDownExchange k seq) s = .next (bump
          (reroute ((l.undone.filter (fun x => pastSeq seq.toNat x.1)).flatMap Prod.snd ++ l.waiting.map Prod.snd) []
            (modLink k (fun l => { l with undone := [], waiting := [], owed := false, heard := none }) s)))))
  ∧ (∀ (i : FabItem) (t : List FabItem) (b : List ((Nat × Nat) × Nat)) (s : State), let j := pathTo s i.dest
      (i.ownLine s = none → reroute (i :: t) b s = reroute t b (transmitItem j i s))
      ∧ ∀ x, i.ownLine s = some x →
          (∀ k, b.lookup x = some k → reroute (i :: t) b s = reroute t b (transmitItem k i s))
          ∧ (b.lookup x = none → reroute (i :: t) b s = reroute t ((x, j) :: b) (transmitItem j i (bindLine x.1 x.2 j s))))
  ∧ (∀ (k : Nat) (dark : Word) (s : State), k < 15 → (link s k).up = true → let l := link s k
      l.txLit &&& dark ≠ 0 →
      ∃ w, exec (.lossOfLight k false dark) s = .next w ∧ (link w k).txLit = l.txLit &&& ~~~ dark ∧ (link w k).sends = false
        ∧ ((link w k).up = false ↔ litCount (l.txLit &&& ~~~ dark) < 16)
        ∧ (16 ≤ litCount (l.txLit &&& ~~~ dark) → (link w k).restripes = l.restripes ++ [(false, l.txLit &&& dark, s.time)]))
  ∧ (∀ (i : BitVec 3) (s : State) (b n t : Nat), let rx := 4 ≤ i.toNat
      let k := vget s.fabric.spares i.toNat 15
      k < 15 → (link s k).sparing.find? (fun x => x.2.1 == i.toNat) = some (b, n, t) → (link s k).spf.testBit b = false → (link s k).up = true →
      ∃ w, exec (.spareTrained i) s = .next w ∧ (link w k).lit (decide rx) = (link s k).lit (decide rx) ||| fibreMask (b % 4)
        ∧ (link w k).spf = (link s k).spf ||| (1 <<< b))
  ∧ (∀ (k : Nat) (lit : Word) (s : State), k < 15 →
      exec (.channelLightReturn k false lit) s = .next (modLink k (fun l => { l with txSeen := l.txSeen ||| lit }) s)
      ∧ ((link s k).up = true → let l := link s k
          ∃ w, exec (.channelLightReturn k true lit) s = .next w ∧ (link w k).rxLit = l.rxLit ∧ (link w k).rxSeen = l.rxSeen ||| lit
          ∧ (link w k).sparing = l.sparing
          ∧ (link w k).waiting = queueLight (stepKey s,
              .seg ⟨0x21, s.mgmt.device, peerOf s k, leB 2 k ++ zeros 2 ++ leB 8 (l.rxLit ||| (l.rxSeen ||| lit)).toNat⟩) l.waiting))
  ∧ (∀ (x : Nat × FabItem) (q : List (Nat × FabItem)), (∀ y ∈ q, y.2.isLight = false ∧ y.2.isExchange = false) → queueLight x q = x :: q)
  ∧ (∀ (k : Nat) (lit : Word) (s : State), k < 15 → (link s k).up = true → let l := link s k
      exec (.channelsLit k lit) s = .next (bump (modLink k (fun x => { x with
        restripeAt := some ((vget l.txEsn 0 0 + 31) / 32 * 32, (lit &&& l.txSeen) ||| (lit &&& l.txLit &&& servedMask l false), s.time) }) s)))
  ∧ (∀ (l : Link) (esn n t : Nat) (m : Word), l.restripeAt = some (n, m, t) →
      (n ≤ esn → (l.atEsn esn).txLit = m ∧ (l.atEsn esn).beat = 0 ∧ (l.atEsn esn).restripeAt = none)
      ∧ (esn < n → (l.atEsn esn).txLit = l.txLit ∧ (l.atEsn esn).restripeAt = l.restripeAt))
  ∧ (∀ (s : State) (k esn e : Nat) (m own : Word), k < 15 → (link s k).rxNew = some (e, m, own) → let l := link s k
      (esn % 32 = 0 ∧ (∀ x ∈ l.kept, x.esn ≠ e) → (link (restripeRx k esn s) k).rxLit = l.rxLit ||| (m &&& l.rxSeen) ∧ (link (restripeRx k esn s) k).rxNew = none)
      ∧ (esn % 32 ≠ 0 ∨ (∃ x ∈ l.kept, x.esn = e) → restripeRx k esn s = s))
  ∧ (∀ (k : Nat) (s : State), let l := link s k
      (24 ≤ l.gmacDue + l.spillTags.length → canOther l = true → sendNext k s = sendGmac k s)
      ∧ (l.gmacDue + l.spillTags.length < 24 → canSpill l = true → sendNext k s = emitSpillway k s)
      ∧ (l.gmacDue + l.spillTags.length < 24 → canSpill l = false → canSend l = true → sendNext k s = emitNumbered k s))
  ∧ (∀ (k : Nat) (c : BitVec 2) (s : State), k < 15 → (link s k).keyHold = false →
      2 ^ 47 ≤ vget (link s k).txEsn c.toNat 0 - vget (link s k).keyFrom c.toNat 0 →
      ∃ w, exec (.keyLimit k c) s = .next w ∧ link w k = { link s k with keyHold := true })
  ∧ (∀ (l : Link), (∃ c < 3, 2 ^ 47 ≤ vget l.txEsn c 0 - vget l.keyFrom c 0) →
      canOther l = false ∧ (l.flipAt = none → canSend l = false) ∧ (2 ^ 47 ≤ vget l.txEsn 0 0 - vget l.keyFrom 0 0 → phaseAt l (vget l.txEsn 0 0) = l.txKph → canSend l = false))
  ∧ (∀ (k : Nat) (v : Word) (s : State), k < 15 →
      ∃ w, exec (.linkctlRetrain k v) s = .next w ∧ (link w k).linkctl = BitVec.ofNat 64 (v.extractLsb' 0 2).toNat
        ∧ (v.getLsbD 63 = true → peerOf s k < s.mgmt.podSize → (link w k).up = false ∧ (link w k).training = true)
        ∧ ((v.getLsbD 63 = false ∨ s.mgmt.podSize ≤ peerOf s k) → (link w k).up = (link s k).up))
  ∧ (∀ (k : Nat) (s : State), k < 15 → (link s k).training = true →
      (Config.startOutcome s.tick 5 k false = true → let l := link (trainEnd k s) k
        l.up = true ∧ l.training = false ∧ l.txLit = BitVec.allOnes 64 ∧ l.rxLit = BitVec.allOnes 64 ∧ l.undone = (link s k).undone)
      ∧ (Config.startOutcome s.tick 5 k false = false → trainEnd k s = modLink k (fun l => { l with training := false }) s))
  ∧ (∀ (k : Nat) (v : Word) (s : State), k < 15 → v.getLsbD 63 = true →
      ((link s k).rot = true ∨ (link s k).rxRot = true →
        ∃ w, exec (.linkctlRotate k v) s = .next w ∧ (link w k).linkctl.getLsbD 63 = true ∧ (link w k).txKph = (link s k).txKph)
      ∧ ((link s k).rot = false → (link s k).rxRot = false →
          exec (.linkctlRotate k v) s = .next (bump (modLink k (fun l => { l with
            linkctl := accepted v, rot := true, flipAt := some ((vget (link s k).txEsn 0 0 + 31) / 32 * 32) }) s))))
  ∧ (∀ (k : Nat) (s : State), k < 15 → txRotated (link s k) = true →
      ∃ w, exec (.rotationComplete k) s = .next w ∧ (link w k).rot = false ∧ (link w k).txKeys.get (! (link s k).txKph) = none
        ∧ (link w k).txKeys.get (link s k).txKph = (link s k).txKeys.get (link s k).txKph)
  ∧ ∀ (k : Nat) (s : State), k < 15 → let ph := fun (q : Keys) (b : Bool) => if q.get b = none then b else ! b
      (∃ w, exec (.keyloadTransmit k) s = .next w
        ∧ (link w k).txKeys.get (ph (link s k).txKeys (link s k).txKph) = some (link s k).loadTx)
      ∧ ∃ w, exec (.keyloadReceive k) s = .next w ∧ (link w k).rxKeys.get (ph (link s k).rxKeys (link s k).rxKph) = some (link s k).loadRx
end

