-- ==== Sys2Proof/Laws/Encoding.lean ====
section
/-! SUPPORT. Reading back the fields that the encoder packs (R17, R29, R32, R38), and an instruction's bytes as one number. -/
namespace Sys2Proof
open Sys2Proof.Machine

/-! ### Fields of a concatenation -/

/-- A field above the low part. -/
theorem field_above {v w : Nat} {x : BitVec v} {y : BitVec w} {s len : Nat} (k : Nat) (h : w + k = s) :
    (x ++ y).extractLsb' s len = x.extractLsb' k len := by
  subst h
  rw [BitVec.extractLsb'_append_eq_of_le (Nat.le_add_right w k), Nat.add_sub_cancel_left]

/-- The low part. -/
theorem field_low {v w : Nat} {x : BitVec v} {y : BitVec w} : (x ++ y).extractLsb' 0 w = y := by
  rw [BitVec.extractLsb'_append_eq_of_add_le (by omega)]
  simp

/-- A field within the low part. -/
theorem field_within {v w : Nat} {x : BitVec v} {y : BitVec w} {s len : Nat} (h : s + len ≤ w) : (x ++ y).extractLsb' s len = y.extractLsb' s len :=
  BitVec.extractLsb'_append_eq_of_add_le h

/-- The whole. -/
theorem field_all {w : Nat} (x : BitVec w) : x.extractLsb' 0 w = x := by simp

/-- A bit as a field of one. -/
theorem bit_of_field {w : Nat} {x : BitVec w} {n : Nat} {b : Bool} (h : x.extractLsb' n 1 = BitVec.ofBool b) : x.getLsbD n = b := by
  have := congrArg (fun y : BitVec 1 => y.getLsbD 0) h
  cases b <;> simpa using this

/-! ### W0 (R29) -/

section
variable (len : BitVec 2) (maj : BitVec 8) (sub : BitVec 4) (d a b : BitVec 6) (ty msk : BitVec 4) (cf : BitVec 2) (u : Bool) (imm : BitVec 21)

theorem packW0_len : (packW0 len maj sub d a b ty msk cf u imm).extractLsb' 0 2 = len := field_low
theorem packW0_maj : (packW0 len maj sub d a b ty msk cf u imm).extractLsb' 2 8 = maj := (field_above 0 rfl).trans field_low
theorem packW0_sub : (packW0 len maj sub d a b ty msk cf u imm).extractLsb' 10 4 = sub :=
  (field_above 8 rfl).trans ((field_above 0 rfl).trans field_low)
theorem packW0_d : (packW0 len maj sub d a b ty msk cf u imm).extractLsb' 14 6 = d :=
  (field_above 12 rfl).trans ((field_above 4 rfl).trans ((field_above 0 rfl).trans field_low))
theorem packW0_a : (packW0 len maj sub d a b ty msk cf u imm).extractLsb' 20 6 = a :=
  (field_above 18 rfl).trans ((field_above 10 rfl).trans ((field_above 6 rfl).trans ((field_above 0 rfl).trans field_low)))
theorem packW0_b : (packW0 len maj sub d a b ty msk cf u imm).extractLsb' 26 6 = b :=
  (field_above 24 rfl).trans ((field_above 16 rfl).trans ((field_above 12 rfl).trans ((field_above 6 rfl).trans ((field_above 0 rfl).trans field_low))))

/-- The part of W0 above D, A and B. -/
theorem packW0_high {n : Nat} (s : Nat) : (packW0 len maj sub d a b ty msk cf u imm).extractLsb' (32 + s) n
    = (imm ++ BitVec.ofBool u ++ cf ++ msk ++ ty).extractLsb' s n :=
  (field_above (30 + s) (by omega)).trans ((field_above (22 + s) (by omega)).trans ((field_above (18 + s) (by omega)).trans
    ((field_above (12 + s) (by omega)).trans ((field_above (6 + s) (by omega)).trans (field_above s (by omega))))))
theorem packW0_ty : (packW0 len maj sub d a b ty msk cf u imm).extractLsb' 32 4 = ty :=
  (packW0_high len maj sub d a b ty msk cf u imm 0).trans field_low
theorem packW0_msk : (packW0 len maj sub d a b ty msk cf u imm).extractLsb' 36 4 = msk :=
  (packW0_high len maj sub d a b ty msk cf u imm 4).trans ((field_above 0 rfl).trans field_low)
theorem packW0_cf : (packW0 len maj sub d a b ty msk cf u imm).extractLsb' 40 2 = cf :=
  (packW0_high len maj sub d a b ty msk cf u imm 8).trans ((field_above 4 rfl).trans ((field_above 0 rfl).trans field_low))
theorem packW0_u : (packW0 len maj sub d a b ty msk cf u imm).getLsbD 42 = u :=
  bit_of_field ((packW0_high len maj sub d a b ty msk cf u imm 10).trans ((field_above 6 rfl).trans ((field_above 2 rfl).trans
    ((field_above 0 rfl).trans field_low))))
/-- W0 [63:43]. -/
theorem packW0_imm {n : Nat} (s : Nat) : (packW0 len maj sub d a b ty msk cf u imm).extractLsb' (43 + s) n = imm.extractLsb' s n := by
  rw [show 43 + s = 32 + (11 + s) by omega, packW0_high]
  exact (field_above (7 + s) (by omega)).trans ((field_above (3 + s) (by omega)).trans ((field_above (1 + s) (by omega)).trans (field_above s (by omega))))
theorem packW0_immAll : (packW0 len maj sub d a b ty msk cf u imm).extractLsb' 43 21 = imm :=
  (packW0_imm len maj sub d a b ty msk cf u imm 0).trans (field_all imm)
end

/-! ### Formats -/

/-- A computational instruction's fields read back (R32). -/
theorem unpackComp_pack (f : Comp) (maj : BitVec 8) (sub : BitVec 4) :
    unpackComp f.len ⟨packW0 f.len.code maj sub f.d f.a f.b f.ty f.msk f.cf f.u (packComp f), f.w1, f.w2⟩ = f := by
  have i (s : Nat) {n : Nat} := packW0_imm f.len.code maj sub f.d f.a f.b f.ty f.msk f.cf f.u (packComp f) (n := n) s
  have hax := bit_of_field (b := f.ax) ((i 0).trans field_low)
  have hbx := bit_of_field (b := f.bx) ((i 1).trans ((field_above 0 rfl).trans field_low))
  have how := bit_of_field (b := f.ow) ((i 4).trans ((field_above 3 rfl).trans ((field_above 2 rfl).trans ((field_above 0 rfl).trans field_low))))
  have hrm := (i (n := 2) 2).trans ((field_above (y := BitVec.ofBool f.ax) 1 rfl).trans ((field_above 0 rfl).trans field_low))
  have hqr := (i (n := 3) 5).trans ((field_above (y := BitVec.ofBool f.ax) 4 rfl).trans ((field_above 3 rfl).trans ((field_above 1 rfl).trans
    ((field_above 0 rfl).trans field_low))))
  have hopf := (i (n := 13) 8).trans ((field_above (y := BitVec.ofBool f.ax) 7 rfl).trans ((field_above 6 rfl).trans ((field_above 4 rfl).trans
    ((field_above 3 rfl).trans ((field_above 0 rfl).trans (field_all f.opf))))))
  unfold unpackComp
  simp only [packW0_d, packW0_a, packW0_b, packW0_ty, packW0_msk, packW0_cf, packW0_u]
  rw [hax, hbx, how, hrm, hqr, hopf]

/-- A memory instruction's fields read back (R38). -/
theorem unpackMem_pack (f : MemF) (maj : BitVec 8) (sub : BitVec 4) :
    unpackMem f.len ⟨packW0 f.len.code maj sub f.d f.a f.b f.ty f.msk f.cf f.u (packMem f), f.w1, f.w2⟩ = f := by
  have i (s : Nat) {n : Nat} := packW0_imm f.len.code maj sub f.d f.a f.b f.ty f.msk f.cf f.u (packMem f) (n := n) s
  have hsc := (i (n := 3) 0).trans field_low
  have hrd := (i (n := 2) 3).trans ((field_above 0 rfl).trans field_low)
  have hor := (i (n := 3) 5).trans ((field_above 2 rfl).trans ((field_above 0 rfl).trans field_low))
  have hsp := (i (n := 3) 8).trans ((field_above 5 rfl).trans ((field_above 3 rfl).trans ((field_above 0 rfl).trans field_low)))
  have hspw := bit_of_field (b := f.spw) ((i 11).trans ((field_above 8 rfl).trans ((field_above 6 rfl).trans ((field_above 3 rfl).trans
    ((field_above 0 rfl).trans field_low)))))
  have hnv := bit_of_field (b := f.nv) ((i 12).trans ((field_above 9 rfl).trans ((field_above 7 rfl).trans ((field_above 4 rfl).trans
    ((field_above 1 rfl).trans ((field_above 0 rfl).trans field_low))))))
  have hoff := (i (n := 8) 13).trans ((field_above 10 rfl).trans ((field_above 8 rfl).trans ((field_above 5 rfl).trans ((field_above 2 rfl).trans
    ((field_above 1 rfl).trans ((field_above 0 rfl).trans (field_all f.off8)))))))
  unfold unpackMem
  simp only [packW0_d, packW0_a, packW0_b, packW0_ty, packW0_msk, packW0_cf, packW0_u]
  rw [hsc, hrd, hor, hsp, hspw, hnv, hoff]

/-- The fields of another instruction read back (R29). -/
theorem unpackCtl_pack (f : Ctl) (maj : BitVec 8) (sub : BitVec 4) :
    unpackCtl f.len ⟨packW0 f.len.code maj sub f.d f.a f.b f.ty f.msk f.cf f.u f.imm, f.w1, f.w2⟩ = f := by
  unfold unpackCtl
  simp only [packW0_d, packW0_a, packW0_b, packW0_ty, packW0_msk, packW0_cf, packW0_u, packW0_immAll]

/-- A clause header's fields read back (R17). -/
theorem unpackHeader_pack (h : Header) : unpackHeader (packHeader h) = h := by
  have h0 : (packHeader h).extractLsb' 2 6 = h.nins := (field_above 0 rfl).trans field_low
  have h1 : (packHeader h).extractLsb' 8 12 = h.wait := (field_above 6 rfl).trans ((field_above 0 rfl).trans field_low)
  have h2 : (packHeader h).extractLsb' 20 4 = h.setA :=
    (field_above 18 rfl).trans ((field_above 12 rfl).trans ((field_above 0 rfl).trans field_low))
  have h3 : (packHeader h).extractLsb' 24 4 = h.setB :=
    (field_above 22 rfl).trans ((field_above 16 rfl).trans ((field_above 4 rfl).trans ((field_above 0 rfl).trans field_low)))
  have h4 : (packHeader h).getLsbD 28 = h.yld := bit_of_field ((field_above 26 rfl).trans ((field_above 20 rfl).trans ((field_above 8 rfl).trans
    ((field_above 4 rfl).trans ((field_above 0 rfl).trans field_low)))))
  have h5 : (packHeader h).getLsbD 29 = h.ser := bit_of_field ((field_above 27 rfl).trans ((field_above 21 rfl).trans ((field_above 9 rfl).trans
    ((field_above 5 rfl).trans ((field_above 1 rfl).trans ((field_above 0 rfl).trans field_low))))))
  have h6 : (packHeader h).extractLsb' 30 34 = h.rsv := (field_above 28 rfl).trans ((field_above 22 rfl).trans ((field_above 10 rfl).trans
    ((field_above 6 rfl).trans ((field_above 2 rfl).trans ((field_above 1 rfl).trans ((field_above 0 rfl).trans (field_all h.rsv)))))))
  unfold unpackHeader
  rw [h0, h1, h2, h3, h4, h5, h6]

/-- A header announces itself in its low two bits. -/
theorem packHeader_code (h : Header) : (packHeader h).extractLsb' 0 2 = 3 := field_low

/-- A length is read back from its code. -/
theorem lenOf_code (l : Len) : lenOf l.code = some l := by cases l <;> rfl

/-! ### The parse of a packed instruction (R65) -/

/-- W0 [51] of a computational instruction is the low bit of OPF. -/
theorem packComp_bit51 (f : Comp) (maj : BitVec 8) (sub : BitVec 4) :
    (packW0 f.len.code maj sub f.d f.a f.b f.ty f.msk f.cf f.u (packComp f)).getLsbD 51 = f.opf.getLsbD 0 := by
  have := congrArg (fun g : Comp => g.opf.getLsbD 0) (unpackComp_pack f maj sub)
  simpa [unpackComp] using this

/-- W0 [56] of a memory instruction is the low bit of OFF8. -/
theorem packMem_bit56 (f : MemF) (maj : BitVec 8) (sub : BitVec 4) :
    (packW0 f.len.code maj sub f.d f.a f.b f.ty f.msk f.cf f.u (packMem f)).getLsbD 56 = f.off8.getLsbD 0 := by
  have := congrArg (fun g : MemF => g.off8.getLsbD 0) (unpackMem_pack f maj sub)
  simpa [unpackMem] using this

/-- A computational instruction. -/
theorem parse_comp {f : Comp} {maj sub : Nat} {c : Comp → Instr} (hm : maj < 2 ^ 8) (hs : sub < 2 ^ 4)
    (h : compOf maj sub (f.opf.getLsbD 0) = some c) :
    parse ⟨packW0 f.len.code (BitVec.ofNat 8 maj) (BitVec.ofNat 4 sub) f.d f.a f.b f.ty f.msk f.cf f.u (packComp f), f.w1, f.w2⟩ = some (c f) := by
  unfold parse
  simp only [packW0_len, lenOf_code, packW0_maj, packW0_sub, BitVec.toNat_ofNat, packComp_bit51]
  rw [Nat.mod_eq_of_lt hm, Nat.mod_eq_of_lt hs, h]
  simp only [unpackComp_pack]

/-- A memory instruction. -/
theorem parse_mem {f : MemF} {maj sub : Nat} {c : MemF → Instr} (hm : maj < 2 ^ 8) (hs : sub < 2 ^ 4)
    (hc : ∀ b, compOf maj sub b = none) (h : memOf maj sub (f.off8.getLsbD 0) = some c) :
    parse ⟨packW0 f.len.code (BitVec.ofNat 8 maj) (BitVec.ofNat 4 sub) f.d f.a f.b f.ty f.msk f.cf f.u (packMem f), f.w1, f.w2⟩ = some (c f) := by
  unfold parse
  simp only [packW0_len, lenOf_code, packW0_maj, packW0_sub, BitVec.toNat_ofNat, packMem_bit56]
  rw [Nat.mod_eq_of_lt hm, Nat.mod_eq_of_lt hs, hc, h]
  simp only [unpackMem_pack]

/-- A control, system or engine instruction. -/
theorem parse_ctl {f : Ctl} {maj sub : Nat} {c : Ctl → Instr} (hm : maj < 2 ^ 8) (hs : sub < 2 ^ 4)
    (hc : ∀ b, compOf maj sub b = none) (hn : ∀ b, memOf maj sub b = none) (h : ctlOf maj sub = some c) :
    parse ⟨packW0 f.len.code (BitVec.ofNat 8 maj) (BitVec.ofNat 4 sub) f.d f.a f.b f.ty f.msk f.cf f.u f.imm, f.w1, f.w2⟩ = some (c f) := by
  unfold parse
  simp only [packW0_len, lenOf_code, packW0_maj, packW0_sub, BitVec.toNat_ofNat]
  rw [Nat.mod_eq_of_lt hm, Nat.mod_eq_of_lt hs, hc, hn, h]
  simp only [unpackCtl_pack, Option.map_some]

/-- A clause header. -/
theorem parse_header (h : Header) : parse ⟨packHeader h, 0, 0⟩ = some (.clauseHeader h) := by
  unfold parse
  simp only [packHeader_code, unpackHeader_pack]
  rfl

end Sys2Proof
end

