-- ==== Sys2Proof/Laws/Flits.lean ====
section
/-! SUPPORT. Flits: what is encrypted is decrypted again under the same key and IV, and a sealed flit's CRC holds (R417, R427). -/
namespace Sys2Proof.Machine

/-! ### Encryption (R427) -/

@[simp] theorem crypt_length (key : BitVec 256) (iv : BitVec 96) (l : List Byte) : (crypt key iv l).length = l.length := by simp [crypt]

theorem crypt_crypt (key : BitVec 256) (iv : BitVec 96) (l : List Byte) : crypt key iv (crypt key iv l) = l := by
  apply List.ext_getElem
  · simp
  · intro i h1 h2
    simp [crypt, BitVec.xor_assoc]

@[simp] theorem padTo_length (n : Nat) (l : List Byte) : (padTo n l).length = n := by
  simp only [padTo, zeros, List.length_take, List.length_append, List.length_replicate]
  omega

theorem padTo_of_length {n : Nat} {l : List Byte} (h : l.length = n) : padTo n l = l := by
  subst h
  simp [padTo]

/-! ### CRC (R417) -/

theorem crcByte_lt {c : Nat} (h : c < 2 ^ 32) (b : Byte) : crcByte c b < 2 ^ 32 := by
  have step : ∀ (n x : Nat), x < 2 ^ 32 →
      (List.replicate n ()).foldl (fun x _ => if x % 2 = 1 then (x / 2) ^^^ 0xEDB88320 else x / 2) x < 2 ^ 32 := by
    intro n
    induction n with
    | zero => exact fun x hx => hx
    | succ n ih =>
      intro x hx
      rw [List.replicate_succ, List.foldl_cons]
      apply ih
      split
      · exact Nat.xor_lt_two_pow (by omega) (by decide)
      · omega
  have hx : c ^^^ b.toNat < 2 ^ 32 := Nat.xor_lt_two_pow h (by have := b.isLt; omega)
  exact step 8 _ hx

theorem crc32_lt (l : List Byte) : crc32 l < 2 ^ 32 := by
  have go : ∀ (l : List Byte) (c : Nat), c < 2 ^ 32 → l.foldl crcByte c < 2 ^ 32 := by
    intro l
    induction l with
    | nil => exact fun c h => h
    | cons b t ih => exact fun c h => ih _ (crcByte_lt h b)
  exact Nat.xor_lt_two_pow (go l _ (by decide)) (by decide)

/-! ### Sealed flits -/

theorem leBytes_mod (n : Nat) : ∀ a b : Nat, a % 256 ^ n = b % 256 ^ n → leBytes n a = leBytes n b := by
  induction n with
  | zero => exact fun _ _ _ => rfl
  | succ n ih =>
    intro a b h
    simp only [leBytes]
    have h0 : a % 256 = b % 256 := by
      have := congrArg (· % 256) h
      simpa [Nat.pow_succ', Nat.mod_mul_right_mod] using this
    have h1 : a / 256 % 256 ^ n = b / 256 % 256 ^ n := by
      have := congrArg (· / 256) h
      simpa [Nat.pow_succ', Nat.mod_mul_right_div_self] using this
    rw [ih _ _ h1]
    congr 1
    apply BitVec.eq_of_toNat_eq
    simpa using h0

theorem sealFlit_ctl {ctl : Nat} (h : ctl < 2 ^ 96) (body : List Byte) :
    (sealFlit ctl body).ctl.toNat = ctl + crc32 (leB 12 ctl ++ padTo 624 body) * 2 ^ 96 := by
  have := crc32_lt (leB 12 ctl ++ padTo 624 body)
  simp only [sealFlit, BitVec.toNat_ofNat]
  apply Nat.mod_eq_of_lt
  omega

theorem flitField_seal {ctl : Nat} (h : ctl < 2 ^ 96) (body : List Byte) {lo len : Nat} (hl : lo + len ≤ 96) :
    flitField (sealFlit ctl body) lo len = (ctl >>> lo) % 2 ^ len := by
  unfold flitField
  rw [sealFlit_ctl h body]
  apply Nat.eq_of_testBit_eq
  intro i
  simp only [Nat.testBit_mod_two_pow, Nat.testBit_shiftRight]
  by_cases hi : i < len
  · simp only [hi, decide_true, Bool.true_and]
    rw [Nat.mul_comm, Nat.add_comm, Nat.testBit_two_pow_mul_add _ h]
    simp [show lo + i < 96 by omega]
  · simp [hi]

theorem crcHolds_seal {ctl : Nat} (h : ctl < 2 ^ 96) (body : List Byte) : crcHolds (sealFlit ctl body) = true := by
  have hc := sealFlit_ctl h body
  have hb : (sealFlit ctl body).body = padTo 624 body := rfl
  simp only [crcHolds, flitCovered, hb, hc, beq_iff_eq, leB]
  rw [padTo_of_length (padTo_length 624 body)]
  have e : leBytes 12 (ctl + crc32 (leBytes 12 ctl ++ padTo 624 body) * 2 ^ 96) = leBytes 12 ctl :=
    leBytes_mod 12 _ _ (by
      have : (256 : Nat) ^ 12 = 2 ^ 96 := by decide
      rw [this, Nat.add_mul_mod_self_right])
  have hl := crc32_lt (leBytes 12 ctl ++ padTo 624 body)
  unfold leB at hc
  rw [e]
  unfold flitField
  rw [hc, Nat.shiftRight_eq_div_pow, Nat.add_mul_div_right _ _ (by decide), Nat.div_eq_of_lt h, Nat.zero_add]
  exact (Nat.mod_eq_of_lt hl).symm

theorem seal_extract {ctl : Nat} (h : ctl < 2 ^ 96) (body : List Byte) {lo len : Nat} (hl : lo + len ≤ 96) :
    (sealFlit ctl body).ctl.extractLsb' lo len = BitVec.ofNat len (ctl >>> lo) := by
  apply BitVec.eq_of_toNat_eq
  rw [BitVec.extractLsb'_toNat, BitVec.toNat_ofNat]
  exact flitField_seal h body hl

theorem seal_bit {ctl : Nat} (h : ctl < 2 ^ 96) (body : List Byte) {i : Nat} (hi : i < 96) :
    (sealFlit ctl body).ctl.getLsbD i = ctl.testBit i := by
  show (sealFlit ctl body).ctl.toNat.testBit i = _
  rw [sealFlit_ctl h body, Nat.mul_comm, Nat.add_comm, Nat.testBit_two_pow_mul_add _ h]
  simp [hi]

theorem segKinds_seal {ctl : Nat} (h : ctl < 2 ^ 96) (body : List Byte) :
    segKinds (sealFlit ctl body) = (List.range 9).map (fun i => (ctl >>> (28 + 3 * i)) % 2 ^ 3) := by
  unfold segKinds
  apply List.map_congr_left
  intro i hi
  exact flitField_seal h body (by have := List.mem_range.1 hi; omega)

theorem flitWhole_seal {ctl : Nat} (h : ctl < 2 ^ 96) (body : List Byte) :
    flitWhole (sealFlit ctl body) = ((List.range 9).map (fun i => (ctl >>> (28 + 3 * i)) % 2 ^ 3)).all (fun k => k < 6) := by
  unfold flitWhole
  rw [crcHolds_seal h, segKinds_seal h, Bool.true_and]

/-- The receiver's bytes are the sender's. -/
theorem opened (ctl : Nat) (key : BitVec 256) (iv : BitVec 96) {plain : List Byte} (hp : plain.length = 624) :
    crypt key iv (padTo 624 (sealFlit ctl (crypt key iv plain)).body) = plain := by
  show crypt key iv (padTo 624 (padTo 624 (crypt key iv plain))) = plain
  rw [padTo_of_length (padTo_length 624 _), padTo_of_length (by simp [hp]), crypt_crypt]

end Sys2Proof.Machine
end

