-- ==== Sys2Proof/Laws/State.lean ====
section
/-! SUPPORT. What each named update of the state leaves as it was and what it changes, field by field: every line holds by computation. -/
namespace Sys2Proof.Machine

/-! `modPart` changes `parts` alone. -/
@[simp] theorem modPart_grp (p : Nat) (f : Partition → Partition) (s : State) : (modPart p f s).grp = s.grp := rfl
@[simp] theorem modPart_cur (p : Nat) (f : Partition → Partition) (s : State) : (modPart p f s).cur = s.cur := rfl
@[simp] theorem modPart_groups (p : Nat) (f : Partition → Partition) (s : State) : (modPart p f s).groups = s.groups := rfl
@[simp] theorem modPart_team (p : Nat) (f : Partition → Partition) (s : State) : (modPart p f s).team = s.team := rfl
@[simp] theorem modPart_teams (p : Nat) (f : Partition → Partition) (s : State) : (modPart p f s).teams = s.teams := rfl
@[simp] theorem modPart_clusters (p : Nat) (f : Partition → Partition) (s : State) : (modPart p f s).clusters = s.clusters := rfl
@[simp] theorem modPart_grids (p : Nat) (f : Partition → Partition) (s : State) : (modPart p f s).grids = s.grids := rfl
@[simp] theorem modPart_cores (p : Nat) (f : Partition → Partition) (s : State) : (modPart p f s).cores = s.cores := rfl
@[simp] theorem modPart_dies (p : Nat) (f : Partition → Partition) (s : State) : (modPart p f s).dies = s.dies := rfl
@[simp] theorem modPart_slices (p : Nat) (f : Partition → Partition) (s : State) : (modPart p f s).slices = s.slices := rfl
@[simp] theorem modPart_mem (p : Nat) (f : Partition → Partition) (s : State) : (modPart p f s).mem = s.mem := rfl
@[simp] theorem modPart_marks (p : Nat) (f : Partition → Partition) (s : State) : (modPart p f s).marks = s.marks := rfl
@[simp] theorem modPart_valid (p : Nat) (f : Partition → Partition) (s : State) : (modPart p f s).valid = s.valid := rfl
@[simp] theorem modPart_pins (p : Nat) (f : Partition → Partition) (s : State) : (modPart p f s).pins = s.pins := rfl
@[simp] theorem modPart_claims (p : Nat) (f : Partition → Partition) (s : State) : (modPart p f s).claims = s.claims := rfl
@[simp] theorem modPart_wbs (p : Nat) (f : Partition → Partition) (s : State) : (modPart p f s).wbs = s.wbs := rfl
@[simp] theorem modPart_watches (p : Nat) (f : Partition → Partition) (s : State) : (modPart p f s).watches = s.watches := rfl
@[simp] theorem modPart_flumes (p : Nat) (f : Partition → Partition) (s : State) : (modPart p f s).flumes = s.flumes := rfl
@[simp] theorem modPart_weir (p : Nat) (f : Partition → Partition) (s : State) : (modPart p f s).weir = s.weir := rfl
@[simp] theorem modPart_distr (p : Nat) (f : Partition → Partition) (s : State) : (modPart p f s).distr = s.distr := rfl
@[simp] theorem modPart_fabric (p : Nat) (f : Partition → Partition) (s : State) : (modPart p f s).fabric = s.fabric := rfl
@[simp] theorem modPart_mgmt (p : Nat) (f : Partition → Partition) (s : State) : (modPart p f s).mgmt = s.mgmt := rfl
@[simp] theorem modPart_ticket (p : Nat) (f : Partition → Partition) (s : State) : (modPart p f s).ticket = s.ticket := rfl
@[simp] theorem modPart_hostOut (p : Nat) (f : Partition → Partition) (s : State) : (modPart p f s).hostOut = s.hostOut := rfl
@[simp] theorem modPart_hostHeld (p : Nat) (f : Partition → Partition) (s : State) : (modPart p f s).hostHeld = s.hostHeld := rfl
@[simp] theorem modPart_time (p : Nat) (f : Partition → Partition) (s : State) : (modPart p f s).time = s.time := rfl
@[simp] theorem modPart_tick (p : Nat) (f : Partition → Partition) (s : State) : (modPart p f s).tick = s.tick := rfl
@[simp] theorem modPart_free (p : Nat) (f : Partition → Partition) (s : State) : (modPart p f s).free = s.free := rfl
@[simp] theorem modPart_nextId (p : Nat) (f : Partition → Partition) (s : State) : (modPart p f s).nextId = s.nextId := rfl
@[simp] theorem modPart_change (p : Nat) (f : Partition → Partition) (s : State) : (modPart p f s).change = s.change := rfl
@[simp] theorem modPart_issues (p : Nat) (f : Partition → Partition) (s : State) : (modPart p f s).issues = s.issues := rfl
@[simp] theorem modPart_late (p : Nat) (f : Partition → Partition) (s : State) : (modPart p f s).late = s.late := rfl
@[simp] theorem modPart_agenda (p : Nat) (f : Partition → Partition) (s : State) : (modPart p f s).agenda = s.agenda := rfl
@[simp] theorem modPart_turn (p : Nat) (f : Partition → Partition) (s : State) : (modPart p f s).turn = s.turn := rfl
@[simp] theorem modPart_lastCore (p : Nat) (f : Partition → Partition) (s : State) : (modPart p f s).lastCore = s.lastCore := rfl

/-! `modCore` changes `cores` alone. -/
@[simp] theorem modCore_grp (c : Nat) (f : Core → Core) (s : State) : (modCore c f s).grp = s.grp := rfl
@[simp] theorem modCore_cur (c : Nat) (f : Core → Core) (s : State) : (modCore c f s).cur = s.cur := rfl
@[simp] theorem modCore_groups (c : Nat) (f : Core → Core) (s : State) : (modCore c f s).groups = s.groups := rfl
@[simp] theorem modCore_team (c : Nat) (f : Core → Core) (s : State) : (modCore c f s).team = s.team := rfl
@[simp] theorem modCore_teams (c : Nat) (f : Core → Core) (s : State) : (modCore c f s).teams = s.teams := rfl
@[simp] theorem modCore_clusters (c : Nat) (f : Core → Core) (s : State) : (modCore c f s).clusters = s.clusters := rfl
@[simp] theorem modCore_grids (c : Nat) (f : Core → Core) (s : State) : (modCore c f s).grids = s.grids := rfl
@[simp] theorem modCore_parts (c : Nat) (f : Core → Core) (s : State) : (modCore c f s).parts = s.parts := rfl
@[simp] theorem modCore_dies (c : Nat) (f : Core → Core) (s : State) : (modCore c f s).dies = s.dies := rfl
@[simp] theorem modCore_slices (c : Nat) (f : Core → Core) (s : State) : (modCore c f s).slices = s.slices := rfl
@[simp] theorem modCore_mem (c : Nat) (f : Core → Core) (s : State) : (modCore c f s).mem = s.mem := rfl
@[simp] theorem modCore_marks (c : Nat) (f : Core → Core) (s : State) : (modCore c f s).marks = s.marks := rfl
@[simp] theorem modCore_valid (c : Nat) (f : Core → Core) (s : State) : (modCore c f s).valid = s.valid := rfl
@[simp] theorem modCore_pins (c : Nat) (f : Core → Core) (s : State) : (modCore c f s).pins = s.pins := rfl
@[simp] theorem modCore_claims (c : Nat) (f : Core → Core) (s : State) : (modCore c f s).claims = s.claims := rfl
@[simp] theorem modCore_wbs (c : Nat) (f : Core → Core) (s : State) : (modCore c f s).wbs = s.wbs := rfl
@[simp] theorem modCore_watches (c : Nat) (f : Core → Core) (s : State) : (modCore c f s).watches = s.watches := rfl
@[simp] theorem modCore_flumes (c : Nat) (f : Core → Core) (s : State) : (modCore c f s).flumes = s.flumes := rfl
@[simp] theorem modCore_weir (c : Nat) (f : Core → Core) (s : State) : (modCore c f s).weir = s.weir := rfl
@[simp] theorem modCore_distr (c : Nat) (f : Core → Core) (s : State) : (modCore c f s).distr = s.distr := rfl
@[simp] theorem modCore_fabric (c : Nat) (f : Core → Core) (s : State) : (modCore c f s).fabric = s.fabric := rfl
@[simp] theorem modCore_mgmt (c : Nat) (f : Core → Core) (s : State) : (modCore c f s).mgmt = s.mgmt := rfl
@[simp] theorem modCore_ticket (c : Nat) (f : Core → Core) (s : State) : (modCore c f s).ticket = s.ticket := rfl
@[simp] theorem modCore_hostOut (c : Nat) (f : Core → Core) (s : State) : (modCore c f s).hostOut = s.hostOut := rfl
@[simp] theorem modCore_hostHeld (c : Nat) (f : Core → Core) (s : State) : (modCore c f s).hostHeld = s.hostHeld := rfl
@[simp] theorem modCore_time (c : Nat) (f : Core → Core) (s : State) : (modCore c f s).time = s.time := rfl
@[simp] theorem modCore_tick (c : Nat) (f : Core → Core) (s : State) : (modCore c f s).tick = s.tick := rfl
@[simp] theorem modCore_free (c : Nat) (f : Core → Core) (s : State) : (modCore c f s).free = s.free := rfl
@[simp] theorem modCore_nextId (c : Nat) (f : Core → Core) (s : State) : (modCore c f s).nextId = s.nextId := rfl
@[simp] theorem modCore_change (c : Nat) (f : Core → Core) (s : State) : (modCore c f s).change = s.change := rfl
@[simp] theorem modCore_issues (c : Nat) (f : Core → Core) (s : State) : (modCore c f s).issues = s.issues := rfl
@[simp] theorem modCore_late (c : Nat) (f : Core → Core) (s : State) : (modCore c f s).late = s.late := rfl
@[simp] theorem modCore_agenda (c : Nat) (f : Core → Core) (s : State) : (modCore c f s).agenda = s.agenda := rfl
@[simp] theorem modCore_turn (c : Nat) (f : Core → Core) (s : State) : (modCore c f s).turn = s.turn := rfl
@[simp] theorem modCore_lastCore (c : Nat) (f : Core → Core) (s : State) : (modCore c f s).lastCore = s.lastCore := rfl

/-! `modDie` changes `dies` alone. -/
@[simp] theorem modDie_grp (d : Nat) (f : Die → Die) (s : State) : (modDie d f s).grp = s.grp := rfl
@[simp] theorem modDie_cur (d : Nat) (f : Die → Die) (s : State) : (modDie d f s).cur = s.cur := rfl
@[simp] theorem modDie_groups (d : Nat) (f : Die → Die) (s : State) : (modDie d f s).groups = s.groups := rfl
@[simp] theorem modDie_team (d : Nat) (f : Die → Die) (s : State) : (modDie d f s).team = s.team := rfl
@[simp] theorem modDie_teams (d : Nat) (f : Die → Die) (s : State) : (modDie d f s).teams = s.teams := rfl
@[simp] theorem modDie_clusters (d : Nat) (f : Die → Die) (s : State) : (modDie d f s).clusters = s.clusters := rfl
@[simp] theorem modDie_grids (d : Nat) (f : Die → Die) (s : State) : (modDie d f s).grids = s.grids := rfl
@[simp] theorem modDie_parts (d : Nat) (f : Die → Die) (s : State) : (modDie d f s).parts = s.parts := rfl
@[simp] theorem modDie_cores (d : Nat) (f : Die → Die) (s : State) : (modDie d f s).cores = s.cores := rfl
@[simp] theorem modDie_slices (d : Nat) (f : Die → Die) (s : State) : (modDie d f s).slices = s.slices := rfl
@[simp] theorem modDie_mem (d : Nat) (f : Die → Die) (s : State) : (modDie d f s).mem = s.mem := rfl
@[simp] theorem modDie_marks (d : Nat) (f : Die → Die) (s : State) : (modDie d f s).marks = s.marks := rfl
@[simp] theorem modDie_valid (d : Nat) (f : Die → Die) (s : State) : (modDie d f s).valid = s.valid := rfl
@[simp] theorem modDie_pins (d : Nat) (f : Die → Die) (s : State) : (modDie d f s).pins = s.pins := rfl
@[simp] theorem modDie_claims (d : Nat) (f : Die → Die) (s : State) : (modDie d f s).claims = s.claims := rfl
@[simp] theorem modDie_wbs (d : Nat) (f : Die → Die) (s : State) : (modDie d f s).wbs = s.wbs := rfl
@[simp] theorem modDie_watches (d : Nat) (f : Die → Die) (s : State) : (modDie d f s).watches = s.watches := rfl
@[simp] theorem modDie_flumes (d : Nat) (f : Die → Die) (s : State) : (modDie d f s).flumes = s.flumes := rfl
@[simp] theorem modDie_weir (d : Nat) (f : Die → Die) (s : State) : (modDie d f s).weir = s.weir := rfl
@[simp] theorem modDie_distr (d : Nat) (f : Die → Die) (s : State) : (modDie d f s).distr = s.distr := rfl
@[simp] theorem modDie_fabric (d : Nat) (f : Die → Die) (s : State) : (modDie d f s).fabric = s.fabric := rfl
@[simp] theorem modDie_mgmt (d : Nat) (f : Die → Die) (s : State) : (modDie d f s).mgmt = s.mgmt := rfl
@[simp] theorem modDie_ticket (d : Nat) (f : Die → Die) (s : State) : (modDie d f s).ticket = s.ticket := rfl
@[simp] theorem modDie_hostOut (d : Nat) (f : Die → Die) (s : State) : (modDie d f s).hostOut = s.hostOut := rfl
@[simp] theorem modDie_hostHeld (d : Nat) (f : Die → Die) (s : State) : (modDie d f s).hostHeld = s.hostHeld := rfl
@[simp] theorem modDie_time (d : Nat) (f : Die → Die) (s : State) : (modDie d f s).time = s.time := rfl
@[simp] theorem modDie_tick (d : Nat) (f : Die → Die) (s : State) : (modDie d f s).tick = s.tick := rfl
@[simp] theorem modDie_free (d : Nat) (f : Die → Die) (s : State) : (modDie d f s).free = s.free := rfl
@[simp] theorem modDie_nextId (d : Nat) (f : Die → Die) (s : State) : (modDie d f s).nextId = s.nextId := rfl
@[simp] theorem modDie_change (d : Nat) (f : Die → Die) (s : State) : (modDie d f s).change = s.change := rfl
@[simp] theorem modDie_issues (d : Nat) (f : Die → Die) (s : State) : (modDie d f s).issues = s.issues := rfl
@[simp] theorem modDie_late (d : Nat) (f : Die → Die) (s : State) : (modDie d f s).late = s.late := rfl
@[simp] theorem modDie_agenda (d : Nat) (f : Die → Die) (s : State) : (modDie d f s).agenda = s.agenda := rfl
@[simp] theorem modDie_turn (d : Nat) (f : Die → Die) (s : State) : (modDie d f s).turn = s.turn := rfl
@[simp] theorem modDie_lastCore (d : Nat) (f : Die → Die) (s : State) : (modDie d f s).lastCore = s.lastCore := rfl

/-! `modSlice` changes `slices` alone. -/
@[simp] theorem modSlice_grp (i : Nat) (f : Slice → Slice) (s : State) : (modSlice i f s).grp = s.grp := rfl
@[simp] theorem modSlice_cur (i : Nat) (f : Slice → Slice) (s : State) : (modSlice i f s).cur = s.cur := rfl
@[simp] theorem modSlice_groups (i : Nat) (f : Slice → Slice) (s : State) : (modSlice i f s).groups = s.groups := rfl
@[simp] theorem modSlice_team (i : Nat) (f : Slice → Slice) (s : State) : (modSlice i f s).team = s.team := rfl
@[simp] theorem modSlice_teams (i : Nat) (f : Slice → Slice) (s : State) : (modSlice i f s).teams = s.teams := rfl
@[simp] theorem modSlice_clusters (i : Nat) (f : Slice → Slice) (s : State) : (modSlice i f s).clusters = s.clusters := rfl
@[simp] theorem modSlice_grids (i : Nat) (f : Slice → Slice) (s : State) : (modSlice i f s).grids = s.grids := rfl
@[simp] theorem modSlice_parts (i : Nat) (f : Slice → Slice) (s : State) : (modSlice i f s).parts = s.parts := rfl
@[simp] theorem modSlice_cores (i : Nat) (f : Slice → Slice) (s : State) : (modSlice i f s).cores = s.cores := rfl
@[simp] theorem modSlice_dies (i : Nat) (f : Slice → Slice) (s : State) : (modSlice i f s).dies = s.dies := rfl
@[simp] theorem modSlice_mem (i : Nat) (f : Slice → Slice) (s : State) : (modSlice i f s).mem = s.mem := rfl
@[simp] theorem modSlice_marks (i : Nat) (f : Slice → Slice) (s : State) : (modSlice i f s).marks = s.marks := rfl
@[simp] theorem modSlice_valid (i : Nat) (f : Slice → Slice) (s : State) : (modSlice i f s).valid = s.valid := rfl
@[simp] theorem modSlice_pins (i : Nat) (f : Slice → Slice) (s : State) : (modSlice i f s).pins = s.pins := rfl
@[simp] theorem modSlice_claims (i : Nat) (f : Slice → Slice) (s : State) : (modSlice i f s).claims = s.claims := rfl
@[simp] theorem modSlice_wbs (i : Nat) (f : Slice → Slice) (s : State) : (modSlice i f s).wbs = s.wbs := rfl
@[simp] theorem modSlice_watches (i : Nat) (f : Slice → Slice) (s : State) : (modSlice i f s).watches = s.watches := rfl
@[simp] theorem modSlice_flumes (i : Nat) (f : Slice → Slice) (s : State) : (modSlice i f s).flumes = s.flumes := rfl
@[simp] theorem modSlice_weir (i : Nat) (f : Slice → Slice) (s : State) : (modSlice i f s).weir = s.weir := rfl
@[simp] theorem modSlice_distr (i : Nat) (f : Slice → Slice) (s : State) : (modSlice i f s).distr = s.distr := rfl
@[simp] theorem modSlice_fabric (i : Nat) (f : Slice → Slice) (s : State) : (modSlice i f s).fabric = s.fabric := rfl
@[simp] theorem modSlice_mgmt (i : Nat) (f : Slice → Slice) (s : State) : (modSlice i f s).mgmt = s.mgmt := rfl
@[simp] theorem modSlice_ticket (i : Nat) (f : Slice → Slice) (s : State) : (modSlice i f s).ticket = s.ticket := rfl
@[simp] theorem modSlice_hostOut (i : Nat) (f : Slice → Slice) (s : State) : (modSlice i f s).hostOut = s.hostOut := rfl
@[simp] theorem modSlice_hostHeld (i : Nat) (f : Slice → Slice) (s : State) : (modSlice i f s).hostHeld = s.hostHeld := rfl
@[simp] theorem modSlice_time (i : Nat) (f : Slice → Slice) (s : State) : (modSlice i f s).time = s.time := rfl
@[simp] theorem modSlice_tick (i : Nat) (f : Slice → Slice) (s : State) : (modSlice i f s).tick = s.tick := rfl
@[simp] theorem modSlice_free (i : Nat) (f : Slice → Slice) (s : State) : (modSlice i f s).free = s.free := rfl
@[simp] theorem modSlice_nextId (i : Nat) (f : Slice → Slice) (s : State) : (modSlice i f s).nextId = s.nextId := rfl
@[simp] theorem modSlice_change (i : Nat) (f : Slice → Slice) (s : State) : (modSlice i f s).change = s.change := rfl
@[simp] theorem modSlice_issues (i : Nat) (f : Slice → Slice) (s : State) : (modSlice i f s).issues = s.issues := rfl
@[simp] theorem modSlice_late (i : Nat) (f : Slice → Slice) (s : State) : (modSlice i f s).late = s.late := rfl
@[simp] theorem modSlice_agenda (i : Nat) (f : Slice → Slice) (s : State) : (modSlice i f s).agenda = s.agenda := rfl
@[simp] theorem modSlice_turn (i : Nat) (f : Slice → Slice) (s : State) : (modSlice i f s).turn = s.turn := rfl
@[simp] theorem modSlice_lastCore (i : Nat) (f : Slice → Slice) (s : State) : (modSlice i f s).lastCore = s.lastCore := rfl

/-! `modWeir` changes `weir` alone. -/
@[simp] theorem modWeir_grp (f : Weir → Weir) (s : State) : (modWeir f s).grp = s.grp := rfl
@[simp] theorem modWeir_cur (f : Weir → Weir) (s : State) : (modWeir f s).cur = s.cur := rfl
@[simp] theorem modWeir_groups (f : Weir → Weir) (s : State) : (modWeir f s).groups = s.groups := rfl
@[simp] theorem modWeir_team (f : Weir → Weir) (s : State) : (modWeir f s).team = s.team := rfl
@[simp] theorem modWeir_teams (f : Weir → Weir) (s : State) : (modWeir f s).teams = s.teams := rfl
@[simp] theorem modWeir_clusters (f : Weir → Weir) (s : State) : (modWeir f s).clusters = s.clusters := rfl
@[simp] theorem modWeir_grids (f : Weir → Weir) (s : State) : (modWeir f s).grids = s.grids := rfl
@[simp] theorem modWeir_parts (f : Weir → Weir) (s : State) : (modWeir f s).parts = s.parts := rfl
@[simp] theorem modWeir_cores (f : Weir → Weir) (s : State) : (modWeir f s).cores = s.cores := rfl
@[simp] theorem modWeir_dies (f : Weir → Weir) (s : State) : (modWeir f s).dies = s.dies := rfl
@[simp] theorem modWeir_slices (f : Weir → Weir) (s : State) : (modWeir f s).slices = s.slices := rfl
@[simp] theorem modWeir_mem (f : Weir → Weir) (s : State) : (modWeir f s).mem = s.mem := rfl
@[simp] theorem modWeir_marks (f : Weir → Weir) (s : State) : (modWeir f s).marks = s.marks := rfl
@[simp] theorem modWeir_valid (f : Weir → Weir) (s : State) : (modWeir f s).valid = s.valid := rfl
@[simp] theorem modWeir_pins (f : Weir → Weir) (s : State) : (modWeir f s).pins = s.pins := rfl
@[simp] theorem modWeir_claims (f : Weir → Weir) (s : State) : (modWeir f s).claims = s.claims := rfl
@[simp] theorem modWeir_wbs (f : Weir → Weir) (s : State) : (modWeir f s).wbs = s.wbs := rfl
@[simp] theorem modWeir_watches (f : Weir → Weir) (s : State) : (modWeir f s).watches = s.watches := rfl
@[simp] theorem modWeir_flumes (f : Weir → Weir) (s : State) : (modWeir f s).flumes = s.flumes := rfl
@[simp] theorem modWeir_distr (f : Weir → Weir) (s : State) : (modWeir f s).distr = s.distr := rfl
@[simp] theorem modWeir_fabric (f : Weir → Weir) (s : State) : (modWeir f s).fabric = s.fabric := rfl
@[simp] theorem modWeir_mgmt (f : Weir → Weir) (s : State) : (modWeir f s).mgmt = s.mgmt := rfl
@[simp] theorem modWeir_ticket (f : Weir → Weir) (s : State) : (modWeir f s).ticket = s.ticket := rfl
@[simp] theorem modWeir_hostOut (f : Weir → Weir) (s : State) : (modWeir f s).hostOut = s.hostOut := rfl
@[simp] theorem modWeir_hostHeld (f : Weir → Weir) (s : State) : (modWeir f s).hostHeld = s.hostHeld := rfl
@[simp] theorem modWeir_time (f : Weir → Weir) (s : State) : (modWeir f s).time = s.time := rfl
@[simp] theorem modWeir_tick (f : Weir → Weir) (s : State) : (modWeir f s).tick = s.tick := rfl
@[simp] theorem modWeir_free (f : Weir → Weir) (s : State) : (modWeir f s).free = s.free := rfl
@[simp] theorem modWeir_nextId (f : Weir → Weir) (s : State) : (modWeir f s).nextId = s.nextId := rfl
@[simp] theorem modWeir_change (f : Weir → Weir) (s : State) : (modWeir f s).change = s.change := rfl
@[simp] theorem modWeir_issues (f : Weir → Weir) (s : State) : (modWeir f s).issues = s.issues := rfl
@[simp] theorem modWeir_late (f : Weir → Weir) (s : State) : (modWeir f s).late = s.late := rfl
@[simp] theorem modWeir_agenda (f : Weir → Weir) (s : State) : (modWeir f s).agenda = s.agenda := rfl
@[simp] theorem modWeir_turn (f : Weir → Weir) (s : State) : (modWeir f s).turn = s.turn := rfl
@[simp] theorem modWeir_lastCore (f : Weir → Weir) (s : State) : (modWeir f s).lastCore = s.lastCore := rfl

/-! `modFabric` changes `fabric` alone. -/
@[simp] theorem modFabric_grp (f : Fabric → Fabric) (s : State) : (modFabric f s).grp = s.grp := rfl
@[simp] theorem modFabric_cur (f : Fabric → Fabric) (s : State) : (modFabric f s).cur = s.cur := rfl
@[simp] theorem modFabric_groups (f : Fabric → Fabric) (s : State) : (modFabric f s).groups = s.groups := rfl
@[simp] theorem modFabric_team (f : Fabric → Fabric) (s : State) : (modFabric f s).team = s.team := rfl
@[simp] theorem modFabric_teams (f : Fabric → Fabric) (s : State) : (modFabric f s).teams = s.teams := rfl
@[simp] theorem modFabric_clusters (f : Fabric → Fabric) (s : State) : (modFabric f s).clusters = s.clusters := rfl
@[simp] theorem modFabric_grids (f : Fabric → Fabric) (s : State) : (modFabric f s).grids = s.grids := rfl
@[simp] theorem modFabric_parts (f : Fabric → Fabric) (s : State) : (modFabric f s).parts = s.parts := rfl
@[simp] theorem modFabric_cores (f : Fabric → Fabric) (s : State) : (modFabric f s).cores = s.cores := rfl
@[simp] theorem modFabric_dies (f : Fabric → Fabric) (s : State) : (modFabric f s).dies = s.dies := rfl
@[simp] theorem modFabric_slices (f : Fabric → Fabric) (s : State) : (modFabric f s).slices = s.slices := rfl
@[simp] theorem modFabric_mem (f : Fabric → Fabric) (s : State) : (modFabric f s).mem = s.mem := rfl
@[simp] theorem modFabric_marks (f : Fabric → Fabric) (s : State) : (modFabric f s).marks = s.marks := rfl
@[simp] theorem modFabric_valid (f : Fabric → Fabric) (s : State) : (modFabric f s).valid = s.valid := rfl
@[simp] theorem modFabric_pins (f : Fabric → Fabric) (s : State) : (modFabric f s).pins = s.pins := rfl
@[simp] theorem modFabric_claims (f : Fabric → Fabric) (s : State) : (modFabric f s).claims = s.claims := rfl
@[simp] theorem modFabric_wbs (f : Fabric → Fabric) (s : State) : (modFabric f s).wbs = s.wbs := rfl
@[simp] theorem modFabric_watches (f : Fabric → Fabric) (s : State) : (modFabric f s).watches = s.watches := rfl
@[simp] theorem modFabric_flumes (f : Fabric → Fabric) (s : State) : (modFabric f s).flumes = s.flumes := rfl
@[simp] theorem modFabric_weir (f : Fabric → Fabric) (s : State) : (modFabric f s).weir = s.weir := rfl
@[simp] theorem modFabric_distr (f : Fabric → Fabric) (s : State) : (modFabric f s).distr = s.distr := rfl
@[simp] theorem modFabric_mgmt (f : Fabric → Fabric) (s : State) : (modFabric f s).mgmt = s.mgmt := rfl
@[simp] theorem modFabric_ticket (f : Fabric → Fabric) (s : State) : (modFabric f s).ticket = s.ticket := rfl
@[simp] theorem modFabric_hostOut (f : Fabric → Fabric) (s : State) : (modFabric f s).hostOut = s.hostOut := rfl
@[simp] theorem modFabric_hostHeld (f : Fabric → Fabric) (s : State) : (modFabric f s).hostHeld = s.hostHeld := rfl
@[simp] theorem modFabric_time (f : Fabric → Fabric) (s : State) : (modFabric f s).time = s.time := rfl
@[simp] theorem modFabric_tick (f : Fabric → Fabric) (s : State) : (modFabric f s).tick = s.tick := rfl
@[simp] theorem modFabric_free (f : Fabric → Fabric) (s : State) : (modFabric f s).free = s.free := rfl
@[simp] theorem modFabric_nextId (f : Fabric → Fabric) (s : State) : (modFabric f s).nextId = s.nextId := rfl
@[simp] theorem modFabric_change (f : Fabric → Fabric) (s : State) : (modFabric f s).change = s.change := rfl
@[simp] theorem modFabric_issues (f : Fabric → Fabric) (s : State) : (modFabric f s).issues = s.issues := rfl
@[simp] theorem modFabric_late (f : Fabric → Fabric) (s : State) : (modFabric f s).late = s.late := rfl
@[simp] theorem modFabric_agenda (f : Fabric → Fabric) (s : State) : (modFabric f s).agenda = s.agenda := rfl
@[simp] theorem modFabric_turn (f : Fabric → Fabric) (s : State) : (modFabric f s).turn = s.turn := rfl
@[simp] theorem modFabric_lastCore (f : Fabric → Fabric) (s : State) : (modFabric f s).lastCore = s.lastCore := rfl

/-! `modLink` changes `fabric` alone. -/
@[simp] theorem modLink_grp (k : Nat) (f : Link → Link) (s : State) : (modLink k f s).grp = s.grp := rfl
@[simp] theorem modLink_cur (k : Nat) (f : Link → Link) (s : State) : (modLink k f s).cur = s.cur := rfl
@[simp] theorem modLink_groups (k : Nat) (f : Link → Link) (s : State) : (modLink k f s).groups = s.groups := rfl
@[simp] theorem modLink_team (k : Nat) (f : Link → Link) (s : State) : (modLink k f s).team = s.team := rfl
@[simp] theorem modLink_teams (k : Nat) (f : Link → Link) (s : State) : (modLink k f s).teams = s.teams := rfl
@[simp] theorem modLink_clusters (k : Nat) (f : Link → Link) (s : State) : (modLink k f s).clusters = s.clusters := rfl
@[simp] theorem modLink_grids (k : Nat) (f : Link → Link) (s : State) : (modLink k f s).grids = s.grids := rfl
@[simp] theorem modLink_parts (k : Nat) (f : Link → Link) (s : State) : (modLink k f s).parts = s.parts := rfl
@[simp] theorem modLink_cores (k : Nat) (f : Link → Link) (s : State) : (modLink k f s).cores = s.cores := rfl
@[simp] theorem modLink_dies (k : Nat) (f : Link → Link) (s : State) : (modLink k f s).dies = s.dies := rfl
@[simp] theorem modLink_slices (k : Nat) (f : Link → Link) (s : State) : (modLink k f s).slices = s.slices := rfl
@[simp] theorem modLink_mem (k : Nat) (f : Link → Link) (s : State) : (modLink k f s).mem = s.mem := rfl
@[simp] theorem modLink_marks (k : Nat) (f : Link → Link) (s : State) : (modLink k f s).marks = s.marks := rfl
@[simp] theorem modLink_valid (k : Nat) (f : Link → Link) (s : State) : (modLink k f s).valid = s.valid := rfl
@[simp] theorem modLink_pins (k : Nat) (f : Link → Link) (s : State) : (modLink k f s).pins = s.pins := rfl
@[simp] theorem modLink_claims (k : Nat) (f : Link → Link) (s : State) : (modLink k f s).claims = s.claims := rfl
@[simp] theorem modLink_wbs (k : Nat) (f : Link → Link) (s : State) : (modLink k f s).wbs = s.wbs := rfl
@[simp] theorem modLink_watches (k : Nat) (f : Link → Link) (s : State) : (modLink k f s).watches = s.watches := rfl
@[simp] theorem modLink_flumes (k : Nat) (f : Link → Link) (s : State) : (modLink k f s).flumes = s.flumes := rfl
@[simp] theorem modLink_weir (k : Nat) (f : Link → Link) (s : State) : (modLink k f s).weir = s.weir := rfl
@[simp] theorem modLink_distr (k : Nat) (f : Link → Link) (s : State) : (modLink k f s).distr = s.distr := rfl
@[simp] theorem modLink_mgmt (k : Nat) (f : Link → Link) (s : State) : (modLink k f s).mgmt = s.mgmt := rfl
@[simp] theorem modLink_ticket (k : Nat) (f : Link → Link) (s : State) : (modLink k f s).ticket = s.ticket := rfl
@[simp] theorem modLink_hostOut (k : Nat) (f : Link → Link) (s : State) : (modLink k f s).hostOut = s.hostOut := rfl
@[simp] theorem modLink_hostHeld (k : Nat) (f : Link → Link) (s : State) : (modLink k f s).hostHeld = s.hostHeld := rfl
@[simp] theorem modLink_time (k : Nat) (f : Link → Link) (s : State) : (modLink k f s).time = s.time := rfl
@[simp] theorem modLink_tick (k : Nat) (f : Link → Link) (s : State) : (modLink k f s).tick = s.tick := rfl
@[simp] theorem modLink_free (k : Nat) (f : Link → Link) (s : State) : (modLink k f s).free = s.free := rfl
@[simp] theorem modLink_nextId (k : Nat) (f : Link → Link) (s : State) : (modLink k f s).nextId = s.nextId := rfl
@[simp] theorem modLink_change (k : Nat) (f : Link → Link) (s : State) : (modLink k f s).change = s.change := rfl
@[simp] theorem modLink_issues (k : Nat) (f : Link → Link) (s : State) : (modLink k f s).issues = s.issues := rfl
@[simp] theorem modLink_late (k : Nat) (f : Link → Link) (s : State) : (modLink k f s).late = s.late := rfl
@[simp] theorem modLink_agenda (k : Nat) (f : Link → Link) (s : State) : (modLink k f s).agenda = s.agenda := rfl
@[simp] theorem modLink_turn (k : Nat) (f : Link → Link) (s : State) : (modLink k f s).turn = s.turn := rfl
@[simp] theorem modLink_lastCore (k : Nat) (f : Link → Link) (s : State) : (modLink k f s).lastCore = s.lastCore := rfl

/-! `modMgmt` changes `mgmt` alone. -/
@[simp] theorem modMgmt_grp (f : Mgmt → Mgmt) (s : State) : (modMgmt f s).grp = s.grp := rfl
@[simp] theorem modMgmt_cur (f : Mgmt → Mgmt) (s : State) : (modMgmt f s).cur = s.cur := rfl
@[simp] theorem modMgmt_groups (f : Mgmt → Mgmt) (s : State) : (modMgmt f s).groups = s.groups := rfl
@[simp] theorem modMgmt_team (f : Mgmt → Mgmt) (s : State) : (modMgmt f s).team = s.team := rfl
@[simp] theorem modMgmt_teams (f : Mgmt → Mgmt) (s : State) : (modMgmt f s).teams = s.teams := rfl
@[simp] theorem modMgmt_clusters (f : Mgmt → Mgmt) (s : State) : (modMgmt f s).clusters = s.clusters := rfl
@[simp] theorem modMgmt_grids (f : Mgmt → Mgmt) (s : State) : (modMgmt f s).grids = s.grids := rfl
@[simp] theorem modMgmt_parts (f : Mgmt → Mgmt) (s : State) : (modMgmt f s).parts = s.parts := rfl
@[simp] theorem modMgmt_cores (f : Mgmt → Mgmt) (s : State) : (modMgmt f s).cores = s.cores := rfl
@[simp] theorem modMgmt_dies (f : Mgmt → Mgmt) (s : State) : (modMgmt f s).dies = s.dies := rfl
@[simp] theorem modMgmt_slices (f : Mgmt → Mgmt) (s : State) : (modMgmt f s).slices = s.slices := rfl
@[simp] theorem modMgmt_mem (f : Mgmt → Mgmt) (s : State) : (modMgmt f s).mem = s.mem := rfl
@[simp] theorem modMgmt_marks (f : Mgmt → Mgmt) (s : State) : (modMgmt f s).marks = s.marks := rfl
@[simp] theorem modMgmt_valid (f : Mgmt → Mgmt) (s : State) : (modMgmt f s).valid = s.valid := rfl
@[simp] theorem modMgmt_pins (f : Mgmt → Mgmt) (s : State) : (modMgmt f s).pins = s.pins := rfl
@[simp] theorem modMgmt_claims (f : Mgmt → Mgmt) (s : State) : (modMgmt f s).claims = s.claims := rfl
@[simp] theorem modMgmt_wbs (f : Mgmt → Mgmt) (s : State) : (modMgmt f s).wbs = s.wbs := rfl
@[simp] theorem modMgmt_watches (f : Mgmt → Mgmt) (s : State) : (modMgmt f s).watches = s.watches := rfl
@[simp] theorem modMgmt_flumes (f : Mgmt → Mgmt) (s : State) : (modMgmt f s).flumes = s.flumes := rfl
@[simp] theorem modMgmt_weir (f : Mgmt → Mgmt) (s : State) : (modMgmt f s).weir = s.weir := rfl
@[simp] theorem modMgmt_distr (f : Mgmt → Mgmt) (s : State) : (modMgmt f s).distr = s.distr := rfl
@[simp] theorem modMgmt_fabric (f : Mgmt → Mgmt) (s : State) : (modMgmt f s).fabric = s.fabric := rfl
@[simp] theorem modMgmt_ticket (f : Mgmt → Mgmt) (s : State) : (modMgmt f s).ticket = s.ticket := rfl
@[simp] theorem modMgmt_hostOut (f : Mgmt → Mgmt) (s : State) : (modMgmt f s).hostOut = s.hostOut := rfl
@[simp] theorem modMgmt_hostHeld (f : Mgmt → Mgmt) (s : State) : (modMgmt f s).hostHeld = s.hostHeld := rfl
@[simp] theorem modMgmt_time (f : Mgmt → Mgmt) (s : State) : (modMgmt f s).time = s.time := rfl
@[simp] theorem modMgmt_tick (f : Mgmt → Mgmt) (s : State) : (modMgmt f s).tick = s.tick := rfl
@[simp] theorem modMgmt_free (f : Mgmt → Mgmt) (s : State) : (modMgmt f s).free = s.free := rfl
@[simp] theorem modMgmt_nextId (f : Mgmt → Mgmt) (s : State) : (modMgmt f s).nextId = s.nextId := rfl
@[simp] theorem modMgmt_change (f : Mgmt → Mgmt) (s : State) : (modMgmt f s).change = s.change := rfl
@[simp] theorem modMgmt_issues (f : Mgmt → Mgmt) (s : State) : (modMgmt f s).issues = s.issues := rfl
@[simp] theorem modMgmt_late (f : Mgmt → Mgmt) (s : State) : (modMgmt f s).late = s.late := rfl
@[simp] theorem modMgmt_agenda (f : Mgmt → Mgmt) (s : State) : (modMgmt f s).agenda = s.agenda := rfl
@[simp] theorem modMgmt_turn (f : Mgmt → Mgmt) (s : State) : (modMgmt f s).turn = s.turn := rfl
@[simp] theorem modMgmt_lastCore (f : Mgmt → Mgmt) (s : State) : (modMgmt f s).lastCore = s.lastCore := rfl

/-! `modDistr` changes `distr` alone. -/
@[simp] theorem modDistr_grp (f : Distr → Distr) (s : State) : (modDistr f s).grp = s.grp := rfl
@[simp] theorem modDistr_cur (f : Distr → Distr) (s : State) : (modDistr f s).cur = s.cur := rfl
@[simp] theorem modDistr_groups (f : Distr → Distr) (s : State) : (modDistr f s).groups = s.groups := rfl
@[simp] theorem modDistr_team (f : Distr → Distr) (s : State) : (modDistr f s).team = s.team := rfl
@[simp] theorem modDistr_teams (f : Distr → Distr) (s : State) : (modDistr f s).teams = s.teams := rfl
@[simp] theorem modDistr_clusters (f : Distr → Distr) (s : State) : (modDistr f s).clusters = s.clusters := rfl
@[simp] theorem modDistr_grids (f : Distr → Distr) (s : State) : (modDistr f s).grids = s.grids := rfl
@[simp] theorem modDistr_parts (f : Distr → Distr) (s : State) : (modDistr f s).parts = s.parts := rfl
@[simp] theorem modDistr_cores (f : Distr → Distr) (s : State) : (modDistr f s).cores = s.cores := rfl
@[simp] theorem modDistr_dies (f : Distr → Distr) (s : State) : (modDistr f s).dies = s.dies := rfl
@[simp] theorem modDistr_slices (f : Distr → Distr) (s : State) : (modDistr f s).slices = s.slices := rfl
@[simp] theorem modDistr_mem (f : Distr → Distr) (s : State) : (modDistr f s).mem = s.mem := rfl
@[simp] theorem modDistr_marks (f : Distr → Distr) (s : State) : (modDistr f s).marks = s.marks := rfl
@[simp] theorem modDistr_valid (f : Distr → Distr) (s : State) : (modDistr f s).valid = s.valid := rfl
@[simp] theorem modDistr_pins (f : Distr → Distr) (s : State) : (modDistr f s).pins = s.pins := rfl
@[simp] theorem modDistr_claims (f : Distr → Distr) (s : State) : (modDistr f s).claims = s.claims := rfl
@[simp] theorem modDistr_wbs (f : Distr → Distr) (s : State) : (modDistr f s).wbs = s.wbs := rfl
@[simp] theorem modDistr_watches (f : Distr → Distr) (s : State) : (modDistr f s).watches = s.watches := rfl
@[simp] theorem modDistr_flumes (f : Distr → Distr) (s : State) : (modDistr f s).flumes = s.flumes := rfl
@[simp] theorem modDistr_weir (f : Distr → Distr) (s : State) : (modDistr f s).weir = s.weir := rfl
@[simp] theorem modDistr_fabric (f : Distr → Distr) (s : State) : (modDistr f s).fabric = s.fabric := rfl
@[simp] theorem modDistr_mgmt (f : Distr → Distr) (s : State) : (modDistr f s).mgmt = s.mgmt := rfl
@[simp] theorem modDistr_ticket (f : Distr → Distr) (s : State) : (modDistr f s).ticket = s.ticket := rfl
@[simp] theorem modDistr_hostOut (f : Distr → Distr) (s : State) : (modDistr f s).hostOut = s.hostOut := rfl
@[simp] theorem modDistr_hostHeld (f : Distr → Distr) (s : State) : (modDistr f s).hostHeld = s.hostHeld := rfl
@[simp] theorem modDistr_time (f : Distr → Distr) (s : State) : (modDistr f s).time = s.time := rfl
@[simp] theorem modDistr_tick (f : Distr → Distr) (s : State) : (modDistr f s).tick = s.tick := rfl
@[simp] theorem modDistr_free (f : Distr → Distr) (s : State) : (modDistr f s).free = s.free := rfl
@[simp] theorem modDistr_nextId (f : Distr → Distr) (s : State) : (modDistr f s).nextId = s.nextId := rfl
@[simp] theorem modDistr_change (f : Distr → Distr) (s : State) : (modDistr f s).change = s.change := rfl
@[simp] theorem modDistr_issues (f : Distr → Distr) (s : State) : (modDistr f s).issues = s.issues := rfl
@[simp] theorem modDistr_late (f : Distr → Distr) (s : State) : (modDistr f s).late = s.late := rfl
@[simp] theorem modDistr_agenda (f : Distr → Distr) (s : State) : (modDistr f s).agenda = s.agenda := rfl
@[simp] theorem modDistr_turn (f : Distr → Distr) (s : State) : (modDistr f s).turn = s.turn := rfl
@[simp] theorem modDistr_lastCore (f : Distr → Distr) (s : State) : (modDistr f s).lastCore = s.lastCore := rfl

/-! `modCluster` changes `clusters` alone. -/
@[simp] theorem modCluster_grp (c : Nat) (f : Cluster → Cluster) (s : State) : (modCluster c f s).grp = s.grp := rfl
@[simp] theorem modCluster_cur (c : Nat) (f : Cluster → Cluster) (s : State) : (modCluster c f s).cur = s.cur := rfl
@[simp] theorem modCluster_groups (c : Nat) (f : Cluster → Cluster) (s : State) : (modCluster c f s).groups = s.groups := rfl
@[simp] theorem modCluster_team (c : Nat) (f : Cluster → Cluster) (s : State) : (modCluster c f s).team = s.team := rfl
@[simp] theorem modCluster_teams (c : Nat) (f : Cluster → Cluster) (s : State) : (modCluster c f s).teams = s.teams := rfl
@[simp] theorem modCluster_grids (c : Nat) (f : Cluster → Cluster) (s : State) : (modCluster c f s).grids = s.grids := rfl
@[simp] theorem modCluster_parts (c : Nat) (f : Cluster → Cluster) (s : State) : (modCluster c f s).parts = s.parts := rfl
@[simp] theorem modCluster_cores (c : Nat) (f : Cluster → Cluster) (s : State) : (modCluster c f s).cores = s.cores := rfl
@[simp] theorem modCluster_dies (c : Nat) (f : Cluster → Cluster) (s : State) : (modCluster c f s).dies = s.dies := rfl
@[simp] theorem modCluster_slices (c : Nat) (f : Cluster → Cluster) (s : State) : (modCluster c f s).slices = s.slices := rfl
@[simp] theorem modCluster_mem (c : Nat) (f : Cluster → Cluster) (s : State) : (modCluster c f s).mem = s.mem := rfl
@[simp] theorem modCluster_marks (c : Nat) (f : Cluster → Cluster) (s : State) : (modCluster c f s).marks = s.marks := rfl
@[simp] theorem modCluster_valid (c : Nat) (f : Cluster → Cluster) (s : State) : (modCluster c f s).valid = s.valid := rfl
@[simp] theorem modCluster_pins (c : Nat) (f : Cluster → Cluster) (s : State) : (modCluster c f s).pins = s.pins := rfl
@[simp] theorem modCluster_claims (c : Nat) (f : Cluster → Cluster) (s : State) : (modCluster c f s).claims = s.claims := rfl
@[simp] theorem modCluster_wbs (c : Nat) (f : Cluster → Cluster) (s : State) : (modCluster c f s).wbs = s.wbs := rfl
@[simp] theorem modCluster_watches (c : Nat) (f : Cluster → Cluster) (s : State) : (modCluster c f s).watches = s.watches := rfl
@[simp] theorem modCluster_flumes (c : Nat) (f : Cluster → Cluster) (s : State) : (modCluster c f s).flumes = s.flumes := rfl
@[simp] theorem modCluster_weir (c : Nat) (f : Cluster → Cluster) (s : State) : (modCluster c f s).weir = s.weir := rfl
@[simp] theorem modCluster_distr (c : Nat) (f : Cluster → Cluster) (s : State) : (modCluster c f s).distr = s.distr := rfl
@[simp] theorem modCluster_fabric (c : Nat) (f : Cluster → Cluster) (s : State) : (modCluster c f s).fabric = s.fabric := rfl
@[simp] theorem modCluster_mgmt (c : Nat) (f : Cluster → Cluster) (s : State) : (modCluster c f s).mgmt = s.mgmt := rfl
@[simp] theorem modCluster_ticket (c : Nat) (f : Cluster → Cluster) (s : State) : (modCluster c f s).ticket = s.ticket := rfl
@[simp] theorem modCluster_hostOut (c : Nat) (f : Cluster → Cluster) (s : State) : (modCluster c f s).hostOut = s.hostOut := rfl
@[simp] theorem modCluster_hostHeld (c : Nat) (f : Cluster → Cluster) (s : State) : (modCluster c f s).hostHeld = s.hostHeld := rfl
@[simp] theorem modCluster_time (c : Nat) (f : Cluster → Cluster) (s : State) : (modCluster c f s).time = s.time := rfl
@[simp] theorem modCluster_tick (c : Nat) (f : Cluster → Cluster) (s : State) : (modCluster c f s).tick = s.tick := rfl
@[simp] theorem modCluster_free (c : Nat) (f : Cluster → Cluster) (s : State) : (modCluster c f s).free = s.free := rfl
@[simp] theorem modCluster_nextId (c : Nat) (f : Cluster → Cluster) (s : State) : (modCluster c f s).nextId = s.nextId := rfl
@[simp] theorem modCluster_change (c : Nat) (f : Cluster → Cluster) (s : State) : (modCluster c f s).change = s.change := rfl
@[simp] theorem modCluster_issues (c : Nat) (f : Cluster → Cluster) (s : State) : (modCluster c f s).issues = s.issues := rfl
@[simp] theorem modCluster_late (c : Nat) (f : Cluster → Cluster) (s : State) : (modCluster c f s).late = s.late := rfl
@[simp] theorem modCluster_agenda (c : Nat) (f : Cluster → Cluster) (s : State) : (modCluster c f s).agenda = s.agenda := rfl
@[simp] theorem modCluster_turn (c : Nat) (f : Cluster → Cluster) (s : State) : (modCluster c f s).turn = s.turn := rfl
@[simp] theorem modCluster_lastCore (c : Nat) (f : Cluster → Cluster) (s : State) : (modCluster c f s).lastCore = s.lastCore := rfl

/-! `modGrid` changes `grids` alone. -/
@[simp] theorem modGrid_grp (g : Nat) (f : Grid → Grid) (s : State) : (modGrid g f s).grp = s.grp := rfl
@[simp] theorem modGrid_cur (g : Nat) (f : Grid → Grid) (s : State) : (modGrid g f s).cur = s.cur := rfl
@[simp] theorem modGrid_groups (g : Nat) (f : Grid → Grid) (s : State) : (modGrid g f s).groups = s.groups := rfl
@[simp] theorem modGrid_team (g : Nat) (f : Grid → Grid) (s : State) : (modGrid g f s).team = s.team := rfl
@[simp] theorem modGrid_teams (g : Nat) (f : Grid → Grid) (s : State) : (modGrid g f s).teams = s.teams := rfl
@[simp] theorem modGrid_clusters (g : Nat) (f : Grid → Grid) (s : State) : (modGrid g f s).clusters = s.clusters := rfl
@[simp] theorem modGrid_parts (g : Nat) (f : Grid → Grid) (s : State) : (modGrid g f s).parts = s.parts := rfl
@[simp] theorem modGrid_cores (g : Nat) (f : Grid → Grid) (s : State) : (modGrid g f s).cores = s.cores := rfl
@[simp] theorem modGrid_dies (g : Nat) (f : Grid → Grid) (s : State) : (modGrid g f s).dies = s.dies := rfl
@[simp] theorem modGrid_slices (g : Nat) (f : Grid → Grid) (s : State) : (modGrid g f s).slices = s.slices := rfl
@[simp] theorem modGrid_mem (g : Nat) (f : Grid → Grid) (s : State) : (modGrid g f s).mem = s.mem := rfl
@[simp] theorem modGrid_marks (g : Nat) (f : Grid → Grid) (s : State) : (modGrid g f s).marks = s.marks := rfl
@[simp] theorem modGrid_valid (g : Nat) (f : Grid → Grid) (s : State) : (modGrid g f s).valid = s.valid := rfl
@[simp] theorem modGrid_pins (g : Nat) (f : Grid → Grid) (s : State) : (modGrid g f s).pins = s.pins := rfl
@[simp] theorem modGrid_claims (g : Nat) (f : Grid → Grid) (s : State) : (modGrid g f s).claims = s.claims := rfl
@[simp] theorem modGrid_wbs (g : Nat) (f : Grid → Grid) (s : State) : (modGrid g f s).wbs = s.wbs := rfl
@[simp] theorem modGrid_watches (g : Nat) (f : Grid → Grid) (s : State) : (modGrid g f s).watches = s.watches := rfl
@[simp] theorem modGrid_flumes (g : Nat) (f : Grid → Grid) (s : State) : (modGrid g f s).flumes = s.flumes := rfl
@[simp] theorem modGrid_weir (g : Nat) (f : Grid → Grid) (s : State) : (modGrid g f s).weir = s.weir := rfl
@[simp] theorem modGrid_distr (g : Nat) (f : Grid → Grid) (s : State) : (modGrid g f s).distr = s.distr := rfl
@[simp] theorem modGrid_fabric (g : Nat) (f : Grid → Grid) (s : State) : (modGrid g f s).fabric = s.fabric := rfl
@[simp] theorem modGrid_mgmt (g : Nat) (f : Grid → Grid) (s : State) : (modGrid g f s).mgmt = s.mgmt := rfl
@[simp] theorem modGrid_ticket (g : Nat) (f : Grid → Grid) (s : State) : (modGrid g f s).ticket = s.ticket := rfl
@[simp] theorem modGrid_hostOut (g : Nat) (f : Grid → Grid) (s : State) : (modGrid g f s).hostOut = s.hostOut := rfl
@[simp] theorem modGrid_hostHeld (g : Nat) (f : Grid → Grid) (s : State) : (modGrid g f s).hostHeld = s.hostHeld := rfl
@[simp] theorem modGrid_time (g : Nat) (f : Grid → Grid) (s : State) : (modGrid g f s).time = s.time := rfl
@[simp] theorem modGrid_tick (g : Nat) (f : Grid → Grid) (s : State) : (modGrid g f s).tick = s.tick := rfl
@[simp] theorem modGrid_free (g : Nat) (f : Grid → Grid) (s : State) : (modGrid g f s).free = s.free := rfl
@[simp] theorem modGrid_nextId (g : Nat) (f : Grid → Grid) (s : State) : (modGrid g f s).nextId = s.nextId := rfl
@[simp] theorem modGrid_change (g : Nat) (f : Grid → Grid) (s : State) : (modGrid g f s).change = s.change := rfl
@[simp] theorem modGrid_issues (g : Nat) (f : Grid → Grid) (s : State) : (modGrid g f s).issues = s.issues := rfl
@[simp] theorem modGrid_late (g : Nat) (f : Grid → Grid) (s : State) : (modGrid g f s).late = s.late := rfl
@[simp] theorem modGrid_agenda (g : Nat) (f : Grid → Grid) (s : State) : (modGrid g f s).agenda = s.agenda := rfl
@[simp] theorem modGrid_turn (g : Nat) (f : Grid → Grid) (s : State) : (modGrid g f s).turn = s.turn := rfl
@[simp] theorem modGrid_lastCore (g : Nat) (f : Grid → Grid) (s : State) : (modGrid g f s).lastCore = s.lastCore := rfl

/-! `modGrp` changes `grp` alone. -/
@[simp] theorem modGrp_cur (f : Group → Group) (s : State) : (modGrp f s).cur = s.cur := rfl
@[simp] theorem modGrp_groups (f : Group → Group) (s : State) : (modGrp f s).groups = s.groups := rfl
@[simp] theorem modGrp_team (f : Group → Group) (s : State) : (modGrp f s).team = s.team := rfl
@[simp] theorem modGrp_teams (f : Group → Group) (s : State) : (modGrp f s).teams = s.teams := rfl
@[simp] theorem modGrp_clusters (f : Group → Group) (s : State) : (modGrp f s).clusters = s.clusters := rfl
@[simp] theorem modGrp_grids (f : Group → Group) (s : State) : (modGrp f s).grids = s.grids := rfl
@[simp] theorem modGrp_parts (f : Group → Group) (s : State) : (modGrp f s).parts = s.parts := rfl
@[simp] theorem modGrp_cores (f : Group → Group) (s : State) : (modGrp f s).cores = s.cores := rfl
@[simp] theorem modGrp_dies (f : Group → Group) (s : State) : (modGrp f s).dies = s.dies := rfl
@[simp] theorem modGrp_slices (f : Group → Group) (s : State) : (modGrp f s).slices = s.slices := rfl
@[simp] theorem modGrp_mem (f : Group → Group) (s : State) : (modGrp f s).mem = s.mem := rfl
@[simp] theorem modGrp_marks (f : Group → Group) (s : State) : (modGrp f s).marks = s.marks := rfl
@[simp] theorem modGrp_valid (f : Group → Group) (s : State) : (modGrp f s).valid = s.valid := rfl
@[simp] theorem modGrp_pins (f : Group → Group) (s : State) : (modGrp f s).pins = s.pins := rfl
@[simp] theorem modGrp_claims (f : Group → Group) (s : State) : (modGrp f s).claims = s.claims := rfl
@[simp] theorem modGrp_wbs (f : Group → Group) (s : State) : (modGrp f s).wbs = s.wbs := rfl
@[simp] theorem modGrp_watches (f : Group → Group) (s : State) : (modGrp f s).watches = s.watches := rfl
@[simp] theorem modGrp_flumes (f : Group → Group) (s : State) : (modGrp f s).flumes = s.flumes := rfl
@[simp] theorem modGrp_weir (f : Group → Group) (s : State) : (modGrp f s).weir = s.weir := rfl
@[simp] theorem modGrp_distr (f : Group → Group) (s : State) : (modGrp f s).distr = s.distr := rfl
@[simp] theorem modGrp_fabric (f : Group → Group) (s : State) : (modGrp f s).fabric = s.fabric := rfl
@[simp] theorem modGrp_mgmt (f : Group → Group) (s : State) : (modGrp f s).mgmt = s.mgmt := rfl
@[simp] theorem modGrp_ticket (f : Group → Group) (s : State) : (modGrp f s).ticket = s.ticket := rfl
@[simp] theorem modGrp_hostOut (f : Group → Group) (s : State) : (modGrp f s).hostOut = s.hostOut := rfl
@[simp] theorem modGrp_hostHeld (f : Group → Group) (s : State) : (modGrp f s).hostHeld = s.hostHeld := rfl
@[simp] theorem modGrp_time (f : Group → Group) (s : State) : (modGrp f s).time = s.time := rfl
@[simp] theorem modGrp_tick (f : Group → Group) (s : State) : (modGrp f s).tick = s.tick := rfl
@[simp] theorem modGrp_free (f : Group → Group) (s : State) : (modGrp f s).free = s.free := rfl
@[simp] theorem modGrp_nextId (f : Group → Group) (s : State) : (modGrp f s).nextId = s.nextId := rfl
@[simp] theorem modGrp_change (f : Group → Group) (s : State) : (modGrp f s).change = s.change := rfl
@[simp] theorem modGrp_issues (f : Group → Group) (s : State) : (modGrp f s).issues = s.issues := rfl
@[simp] theorem modGrp_late (f : Group → Group) (s : State) : (modGrp f s).late = s.late := rfl
@[simp] theorem modGrp_agenda (f : Group → Group) (s : State) : (modGrp f s).agenda = s.agenda := rfl
@[simp] theorem modGrp_turn (f : Group → Group) (s : State) : (modGrp f s).turn = s.turn := rfl
@[simp] theorem modGrp_lastCore (f : Group → Group) (s : State) : (modGrp f s).lastCore = s.lastCore := rfl

/-! `modCur` changes `grp` alone. -/
@[simp] theorem modCur_cur (f : Slot → Slot) (s : State) : (modCur f s).cur = s.cur := rfl
@[simp] theorem modCur_groups (f : Slot → Slot) (s : State) : (modCur f s).groups = s.groups := rfl
@[simp] theorem modCur_team (f : Slot → Slot) (s : State) : (modCur f s).team = s.team := rfl
@[simp] theorem modCur_teams (f : Slot → Slot) (s : State) : (modCur f s).teams = s.teams := rfl
@[simp] theorem modCur_clusters (f : Slot → Slot) (s : State) : (modCur f s).clusters = s.clusters := rfl
@[simp] theorem modCur_grids (f : Slot → Slot) (s : State) : (modCur f s).grids = s.grids := rfl
@[simp] theorem modCur_parts (f : Slot → Slot) (s : State) : (modCur f s).parts = s.parts := rfl
@[simp] theorem modCur_cores (f : Slot → Slot) (s : State) : (modCur f s).cores = s.cores := rfl
@[simp] theorem modCur_dies (f : Slot → Slot) (s : State) : (modCur f s).dies = s.dies := rfl
@[simp] theorem modCur_slices (f : Slot → Slot) (s : State) : (modCur f s).slices = s.slices := rfl
@[simp] theorem modCur_mem (f : Slot → Slot) (s : State) : (modCur f s).mem = s.mem := rfl
@[simp] theorem modCur_marks (f : Slot → Slot) (s : State) : (modCur f s).marks = s.marks := rfl
@[simp] theorem modCur_valid (f : Slot → Slot) (s : State) : (modCur f s).valid = s.valid := rfl
@[simp] theorem modCur_pins (f : Slot → Slot) (s : State) : (modCur f s).pins = s.pins := rfl
@[simp] theorem modCur_claims (f : Slot → Slot) (s : State) : (modCur f s).claims = s.claims := rfl
@[simp] theorem modCur_wbs (f : Slot → Slot) (s : State) : (modCur f s).wbs = s.wbs := rfl
@[simp] theorem modCur_watches (f : Slot → Slot) (s : State) : (modCur f s).watches = s.watches := rfl
@[simp] theorem modCur_flumes (f : Slot → Slot) (s : State) : (modCur f s).flumes = s.flumes := rfl
@[simp] theorem modCur_weir (f : Slot → Slot) (s : State) : (modCur f s).weir = s.weir := rfl
@[simp] theorem modCur_distr (f : Slot → Slot) (s : State) : (modCur f s).distr = s.distr := rfl
@[simp] theorem modCur_fabric (f : Slot → Slot) (s : State) : (modCur f s).fabric = s.fabric := rfl
@[simp] theorem modCur_mgmt (f : Slot → Slot) (s : State) : (modCur f s).mgmt = s.mgmt := rfl
@[simp] theorem modCur_ticket (f : Slot → Slot) (s : State) : (modCur f s).ticket = s.ticket := rfl
@[simp] theorem modCur_hostOut (f : Slot → Slot) (s : State) : (modCur f s).hostOut = s.hostOut := rfl
@[simp] theorem modCur_hostHeld (f : Slot → Slot) (s : State) : (modCur f s).hostHeld = s.hostHeld := rfl
@[simp] theorem modCur_time (f : Slot → Slot) (s : State) : (modCur f s).time = s.time := rfl
@[simp] theorem modCur_tick (f : Slot → Slot) (s : State) : (modCur f s).tick = s.tick := rfl
@[simp] theorem modCur_free (f : Slot → Slot) (s : State) : (modCur f s).free = s.free := rfl
@[simp] theorem modCur_nextId (f : Slot → Slot) (s : State) : (modCur f s).nextId = s.nextId := rfl
@[simp] theorem modCur_change (f : Slot → Slot) (s : State) : (modCur f s).change = s.change := rfl
@[simp] theorem modCur_issues (f : Slot → Slot) (s : State) : (modCur f s).issues = s.issues := rfl
@[simp] theorem modCur_late (f : Slot → Slot) (s : State) : (modCur f s).late = s.late := rfl
@[simp] theorem modCur_agenda (f : Slot → Slot) (s : State) : (modCur f s).agenda = s.agenda := rfl
@[simp] theorem modCur_turn (f : Slot → Slot) (s : State) : (modCur f s).turn = s.turn := rfl
@[simp] theorem modCur_lastCore (f : Slot → Slot) (s : State) : (modCur f s).lastCore = s.lastCore := rfl

/-! `modOther` changes `grp` alone. -/
@[simp] theorem modOther_cur (f : Slot → Slot) (s : State) : (modOther f s).cur = s.cur := rfl
@[simp] theorem modOther_groups (f : Slot → Slot) (s : State) : (modOther f s).groups = s.groups := rfl
@[simp] theorem modOther_team (f : Slot → Slot) (s : State) : (modOther f s).team = s.team := rfl
@[simp] theorem modOther_teams (f : Slot → Slot) (s : State) : (modOther f s).teams = s.teams := rfl
@[simp] theorem modOther_clusters (f : Slot → Slot) (s : State) : (modOther f s).clusters = s.clusters := rfl
@[simp] theorem modOther_grids (f : Slot → Slot) (s : State) : (modOther f s).grids = s.grids := rfl
@[simp] theorem modOther_parts (f : Slot → Slot) (s : State) : (modOther f s).parts = s.parts := rfl
@[simp] theorem modOther_cores (f : Slot → Slot) (s : State) : (modOther f s).cores = s.cores := rfl
@[simp] theorem modOther_dies (f : Slot → Slot) (s : State) : (modOther f s).dies = s.dies := rfl
@[simp] theorem modOther_slices (f : Slot → Slot) (s : State) : (modOther f s).slices = s.slices := rfl
@[simp] theorem modOther_mem (f : Slot → Slot) (s : State) : (modOther f s).mem = s.mem := rfl
@[simp] theorem modOther_marks (f : Slot → Slot) (s : State) : (modOther f s).marks = s.marks := rfl
@[simp] theorem modOther_valid (f : Slot → Slot) (s : State) : (modOther f s).valid = s.valid := rfl
@[simp] theorem modOther_pins (f : Slot → Slot) (s : State) : (modOther f s).pins = s.pins := rfl
@[simp] theorem modOther_claims (f : Slot → Slot) (s : State) : (modOther f s).claims = s.claims := rfl
@[simp] theorem modOther_wbs (f : Slot → Slot) (s : State) : (modOther f s).wbs = s.wbs := rfl
@[simp] theorem modOther_watches (f : Slot → Slot) (s : State) : (modOther f s).watches = s.watches := rfl
@[simp] theorem modOther_flumes (f : Slot → Slot) (s : State) : (modOther f s).flumes = s.flumes := rfl
@[simp] theorem modOther_weir (f : Slot → Slot) (s : State) : (modOther f s).weir = s.weir := rfl
@[simp] theorem modOther_distr (f : Slot → Slot) (s : State) : (modOther f s).distr = s.distr := rfl
@[simp] theorem modOther_fabric (f : Slot → Slot) (s : State) : (modOther f s).fabric = s.fabric := rfl
@[simp] theorem modOther_mgmt (f : Slot → Slot) (s : State) : (modOther f s).mgmt = s.mgmt := rfl
@[simp] theorem modOther_ticket (f : Slot → Slot) (s : State) : (modOther f s).ticket = s.ticket := rfl
@[simp] theorem modOther_hostOut (f : Slot → Slot) (s : State) : (modOther f s).hostOut = s.hostOut := rfl
@[simp] theorem modOther_hostHeld (f : Slot → Slot) (s : State) : (modOther f s).hostHeld = s.hostHeld := rfl
@[simp] theorem modOther_time (f : Slot → Slot) (s : State) : (modOther f s).time = s.time := rfl
@[simp] theorem modOther_tick (f : Slot → Slot) (s : State) : (modOther f s).tick = s.tick := rfl
@[simp] theorem modOther_free (f : Slot → Slot) (s : State) : (modOther f s).free = s.free := rfl
@[simp] theorem modOther_nextId (f : Slot → Slot) (s : State) : (modOther f s).nextId = s.nextId := rfl
@[simp] theorem modOther_change (f : Slot → Slot) (s : State) : (modOther f s).change = s.change := rfl
@[simp] theorem modOther_issues (f : Slot → Slot) (s : State) : (modOther f s).issues = s.issues := rfl
@[simp] theorem modOther_late (f : Slot → Slot) (s : State) : (modOther f s).late = s.late := rfl
@[simp] theorem modOther_agenda (f : Slot → Slot) (s : State) : (modOther f s).agenda = s.agenda := rfl
@[simp] theorem modOther_turn (f : Slot → Slot) (s : State) : (modOther f s).turn = s.turn := rfl
@[simp] theorem modOther_lastCore (f : Slot → Slot) (s : State) : (modOther f s).lastCore = s.lastCore := rfl

/-! `bump` changes `change` alone. -/
@[simp] theorem bump_grp (s : State) : (bump s).grp = s.grp := rfl
@[simp] theorem bump_cur (s : State) : (bump s).cur = s.cur := rfl
@[simp] theorem bump_groups (s : State) : (bump s).groups = s.groups := rfl
@[simp] theorem bump_team (s : State) : (bump s).team = s.team := rfl
@[simp] theorem bump_teams (s : State) : (bump s).teams = s.teams := rfl
@[simp] theorem bump_clusters (s : State) : (bump s).clusters = s.clusters := rfl
@[simp] theorem bump_grids (s : State) : (bump s).grids = s.grids := rfl
@[simp] theorem bump_parts (s : State) : (bump s).parts = s.parts := rfl
@[simp] theorem bump_cores (s : State) : (bump s).cores = s.cores := rfl
@[simp] theorem bump_dies (s : State) : (bump s).dies = s.dies := rfl
@[simp] theorem bump_slices (s : State) : (bump s).slices = s.slices := rfl
@[simp] theorem bump_mem (s : State) : (bump s).mem = s.mem := rfl
@[simp] theorem bump_marks (s : State) : (bump s).marks = s.marks := rfl
@[simp] theorem bump_valid (s : State) : (bump s).valid = s.valid := rfl
@[simp] theorem bump_pins (s : State) : (bump s).pins = s.pins := rfl
@[simp] theorem bump_claims (s : State) : (bump s).claims = s.claims := rfl
@[simp] theorem bump_wbs (s : State) : (bump s).wbs = s.wbs := rfl
@[simp] theorem bump_watches (s : State) : (bump s).watches = s.watches := rfl
@[simp] theorem bump_flumes (s : State) : (bump s).flumes = s.flumes := rfl
@[simp] theorem bump_weir (s : State) : (bump s).weir = s.weir := rfl
@[simp] theorem bump_distr (s : State) : (bump s).distr = s.distr := rfl
@[simp] theorem bump_fabric (s : State) : (bump s).fabric = s.fabric := rfl
@[simp] theorem bump_mgmt (s : State) : (bump s).mgmt = s.mgmt := rfl
@[simp] theorem bump_ticket (s : State) : (bump s).ticket = s.ticket := rfl
@[simp] theorem bump_hostOut (s : State) : (bump s).hostOut = s.hostOut := rfl
@[simp] theorem bump_hostHeld (s : State) : (bump s).hostHeld = s.hostHeld := rfl
@[simp] theorem bump_time (s : State) : (bump s).time = s.time := rfl
@[simp] theorem bump_tick (s : State) : (bump s).tick = s.tick := rfl
@[simp] theorem bump_free (s : State) : (bump s).free = s.free := rfl
@[simp] theorem bump_nextId (s : State) : (bump s).nextId = s.nextId := rfl
@[simp] theorem bump_issues (s : State) : (bump s).issues = s.issues := rfl
@[simp] theorem bump_late (s : State) : (bump s).late = s.late := rfl
@[simp] theorem bump_agenda (s : State) : (bump s).agenda = s.agenda := rfl
@[simp] theorem bump_turn (s : State) : (bump s).turn = s.turn := rfl
@[simp] theorem bump_lastCore (s : State) : (bump s).lastCore = s.lastCore := rfl

/-! `countIssue` changes `issues` alone. -/
@[simp] theorem countIssue_grp (s : State) : (countIssue s).grp = s.grp := rfl
@[simp] theorem countIssue_cur (s : State) : (countIssue s).cur = s.cur := rfl
@[simp] theorem countIssue_groups (s : State) : (countIssue s).groups = s.groups := rfl
@[simp] theorem countIssue_team (s : State) : (countIssue s).team = s.team := rfl
@[simp] theorem countIssue_teams (s : State) : (countIssue s).teams = s.teams := rfl
@[simp] theorem countIssue_clusters (s : State) : (countIssue s).clusters = s.clusters := rfl
@[simp] theorem countIssue_grids (s : State) : (countIssue s).grids = s.grids := rfl
@[simp] theorem countIssue_parts (s : State) : (countIssue s).parts = s.parts := rfl
@[simp] theorem countIssue_cores (s : State) : (countIssue s).cores = s.cores := rfl
@[simp] theorem countIssue_dies (s : State) : (countIssue s).dies = s.dies := rfl
@[simp] theorem countIssue_slices (s : State) : (countIssue s).slices = s.slices := rfl
@[simp] theorem countIssue_mem (s : State) : (countIssue s).mem = s.mem := rfl
@[simp] theorem countIssue_marks (s : State) : (countIssue s).marks = s.marks := rfl
@[simp] theorem countIssue_valid (s : State) : (countIssue s).valid = s.valid := rfl
@[simp] theorem countIssue_pins (s : State) : (countIssue s).pins = s.pins := rfl
@[simp] theorem countIssue_claims (s : State) : (countIssue s).claims = s.claims := rfl
@[simp] theorem countIssue_wbs (s : State) : (countIssue s).wbs = s.wbs := rfl
@[simp] theorem countIssue_watches (s : State) : (countIssue s).watches = s.watches := rfl
@[simp] theorem countIssue_flumes (s : State) : (countIssue s).flumes = s.flumes := rfl
@[simp] theorem countIssue_weir (s : State) : (countIssue s).weir = s.weir := rfl
@[simp] theorem countIssue_distr (s : State) : (countIssue s).distr = s.distr := rfl
@[simp] theorem countIssue_fabric (s : State) : (countIssue s).fabric = s.fabric := rfl
@[simp] theorem countIssue_mgmt (s : State) : (countIssue s).mgmt = s.mgmt := rfl
@[simp] theorem countIssue_ticket (s : State) : (countIssue s).ticket = s.ticket := rfl
@[simp] theorem countIssue_hostOut (s : State) : (countIssue s).hostOut = s.hostOut := rfl
@[simp] theorem countIssue_hostHeld (s : State) : (countIssue s).hostHeld = s.hostHeld := rfl
@[simp] theorem countIssue_time (s : State) : (countIssue s).time = s.time := rfl
@[simp] theorem countIssue_tick (s : State) : (countIssue s).tick = s.tick := rfl
@[simp] theorem countIssue_free (s : State) : (countIssue s).free = s.free := rfl
@[simp] theorem countIssue_nextId (s : State) : (countIssue s).nextId = s.nextId := rfl
@[simp] theorem countIssue_change (s : State) : (countIssue s).change = s.change := rfl
@[simp] theorem countIssue_late (s : State) : (countIssue s).late = s.late := rfl
@[simp] theorem countIssue_agenda (s : State) : (countIssue s).agenda = s.agenda := rfl
@[simp] theorem countIssue_turn (s : State) : (countIssue s).turn = s.turn := rfl
@[simp] theorem countIssue_lastCore (s : State) : (countIssue s).lastCore = s.lastCore := rfl

/-! `modFlume` changes `flumes` alone. -/
@[simp] theorem modFlume_grp (id : Nat) (g : Flume → Flume) (s : State) : (modFlume id g s).grp = s.grp := rfl
@[simp] theorem modFlume_cur (id : Nat) (g : Flume → Flume) (s : State) : (modFlume id g s).cur = s.cur := rfl
@[simp] theorem modFlume_groups (id : Nat) (g : Flume → Flume) (s : State) : (modFlume id g s).groups = s.groups := rfl
@[simp] theorem modFlume_team (id : Nat) (g : Flume → Flume) (s : State) : (modFlume id g s).team = s.team := rfl
@[simp] theorem modFlume_teams (id : Nat) (g : Flume → Flume) (s : State) : (modFlume id g s).teams = s.teams := rfl
@[simp] theorem modFlume_clusters (id : Nat) (g : Flume → Flume) (s : State) : (modFlume id g s).clusters = s.clusters := rfl
@[simp] theorem modFlume_grids (id : Nat) (g : Flume → Flume) (s : State) : (modFlume id g s).grids = s.grids := rfl
@[simp] theorem modFlume_parts (id : Nat) (g : Flume → Flume) (s : State) : (modFlume id g s).parts = s.parts := rfl
@[simp] theorem modFlume_cores (id : Nat) (g : Flume → Flume) (s : State) : (modFlume id g s).cores = s.cores := rfl
@[simp] theorem modFlume_dies (id : Nat) (g : Flume → Flume) (s : State) : (modFlume id g s).dies = s.dies := rfl
@[simp] theorem modFlume_slices (id : Nat) (g : Flume → Flume) (s : State) : (modFlume id g s).slices = s.slices := rfl
@[simp] theorem modFlume_mem (id : Nat) (g : Flume → Flume) (s : State) : (modFlume id g s).mem = s.mem := rfl
@[simp] theorem modFlume_marks (id : Nat) (g : Flume → Flume) (s : State) : (modFlume id g s).marks = s.marks := rfl
@[simp] theorem modFlume_valid (id : Nat) (g : Flume → Flume) (s : State) : (modFlume id g s).valid = s.valid := rfl
@[simp] theorem modFlume_pins (id : Nat) (g : Flume → Flume) (s : State) : (modFlume id g s).pins = s.pins := rfl
@[simp] theorem modFlume_claims (id : Nat) (g : Flume → Flume) (s : State) : (modFlume id g s).claims = s.claims := rfl
@[simp] theorem modFlume_wbs (id : Nat) (g : Flume → Flume) (s : State) : (modFlume id g s).wbs = s.wbs := rfl
@[simp] theorem modFlume_watches (id : Nat) (g : Flume → Flume) (s : State) : (modFlume id g s).watches = s.watches := rfl
@[simp] theorem modFlume_weir (id : Nat) (g : Flume → Flume) (s : State) : (modFlume id g s).weir = s.weir := rfl
@[simp] theorem modFlume_distr (id : Nat) (g : Flume → Flume) (s : State) : (modFlume id g s).distr = s.distr := rfl
@[simp] theorem modFlume_fabric (id : Nat) (g : Flume → Flume) (s : State) : (modFlume id g s).fabric = s.fabric := rfl
@[simp] theorem modFlume_mgmt (id : Nat) (g : Flume → Flume) (s : State) : (modFlume id g s).mgmt = s.mgmt := rfl
@[simp] theorem modFlume_ticket (id : Nat) (g : Flume → Flume) (s : State) : (modFlume id g s).ticket = s.ticket := rfl
@[simp] theorem modFlume_hostOut (id : Nat) (g : Flume → Flume) (s : State) : (modFlume id g s).hostOut = s.hostOut := rfl
@[simp] theorem modFlume_hostHeld (id : Nat) (g : Flume → Flume) (s : State) : (modFlume id g s).hostHeld = s.hostHeld := rfl
@[simp] theorem modFlume_time (id : Nat) (g : Flume → Flume) (s : State) : (modFlume id g s).time = s.time := rfl
@[simp] theorem modFlume_tick (id : Nat) (g : Flume → Flume) (s : State) : (modFlume id g s).tick = s.tick := rfl
@[simp] theorem modFlume_free (id : Nat) (g : Flume → Flume) (s : State) : (modFlume id g s).free = s.free := rfl
@[simp] theorem modFlume_nextId (id : Nat) (g : Flume → Flume) (s : State) : (modFlume id g s).nextId = s.nextId := rfl
@[simp] theorem modFlume_change (id : Nat) (g : Flume → Flume) (s : State) : (modFlume id g s).change = s.change := rfl
@[simp] theorem modFlume_issues (id : Nat) (g : Flume → Flume) (s : State) : (modFlume id g s).issues = s.issues := rfl
@[simp] theorem modFlume_late (id : Nat) (g : Flume → Flume) (s : State) : (modFlume id g s).late = s.late := rfl
@[simp] theorem modFlume_agenda (id : Nat) (g : Flume → Flume) (s : State) : (modFlume id g s).agenda = s.agenda := rfl
@[simp] theorem modFlume_turn (id : Nat) (g : Flume → Flume) (s : State) : (modFlume id g s).turn = s.turn := rfl
@[simp] theorem modFlume_lastCore (id : Nat) (g : Flume → Flume) (s : State) : (modFlume id g s).lastCore = s.lastCore := rfl

/-! What each update does change. -/
@[simp] theorem modWeir_weir (f : Weir → Weir) (s : State) : (modWeir f s).weir = f s.weir := rfl
@[simp] theorem modFabric_fabric (f : Fabric → Fabric) (s : State) : (modFabric f s).fabric = f s.fabric := rfl
@[simp] theorem modMgmt_mgmt (f : Mgmt → Mgmt) (s : State) : (modMgmt f s).mgmt = f s.mgmt := rfl
@[simp] theorem modDistr_distr (f : Distr → Distr) (s : State) : (modDistr f s).distr = f s.distr := rfl
@[simp] theorem modGrp_grp (f : Group → Group) (s : State) : (modGrp f s).grp = f s.grp := rfl
@[simp] theorem bump_change (s : State) : (bump s).change = s.change + 1 := rfl
@[simp] theorem modCur_grp (f : Slot → Slot) (s : State) : (modCur f s).grp = s.grp.modSlot s.cur f := rfl
@[simp] theorem modOther_grp (f : Slot → Slot) (s : State) : (modOther f s).grp = s.grp.modSlot (! s.cur) f := rfl

/-- A slot changed reads as changed. -/
@[simp] theorem Group.slot_modSlot_self (g : Group) (b : Bool) (f : Slot → Slot) : (g.modSlot b f).slot b = f (g.slot b) := by
  cases b <;> rfl
/-- A slot changed leaves the other slot. -/
@[simp] theorem Group.slot_modSlot_other (g : Group) (b : Bool) (f : Slot → Slot) : (g.modSlot b f).slot (! b) = g.slot (! b) := by
  cases b <;> rfl
@[simp] theorem slot_modCur (f : Slot → Slot) (s : State) : slot (modCur f s) = f (slot s) := by
  simp [slot]
@[simp] theorem other_modCur (f : Slot → Slot) (s : State) : other (modCur f s) = other s := by
  simp [other]
@[simp] theorem slot_bump (s : State) : slot (bump s) = slot s := rfl
@[simp] theorem other_bump (s : State) : other (bump s) = other s := rfl
@[simp] theorem slot_modCore (c : Nat) (f : Core → Core) (s : State) : slot (modCore c f s) = slot s := rfl
@[simp] theorem other_modCore (c : Nat) (f : Core → Core) (s : State) : other (modCore c f s) = other s := rfl

/-! A slot's update leaves the rest of its group. -/
@[simp] theorem Group.modSlot_gid (g : Group) (b : Bool) (f : Slot → Slot) : (g.modSlot b f).gid = g.gid := by cases b <;> rfl
@[simp] theorem Group.modSlot_part (g : Group) (b : Bool) (f : Slot → Slot) : (g.modSlot b f).part = g.part := by cases b <;> rfl
@[simp] theorem Group.modSlot_grid (g : Group) (b : Bool) (f : Slot → Slot) : (g.modSlot b f).grid = g.grid := by cases b <;> rfl
@[simp] theorem Group.modSlot_team (g : Group) (b : Bool) (f : Slot → Slot) : (g.modSlot b f).team = g.team := by cases b <;> rfl
@[simp] theorem Group.modSlot_cluster (g : Group) (b : Bool) (f : Slot → Slot) : (g.modSlot b f).cluster = g.cluster := by cases b <;> rfl
@[simp] theorem Group.modSlot_index (g : Group) (b : Bool) (f : Slot → Slot) : (g.modSlot b f).index = g.index := by cases b <;> rfl
@[simp] theorem Group.modSlot_core (g : Group) (b : Bool) (f : Slot → Slot) : (g.modSlot b f).core = g.core := by cases b <;> rfl
@[simp] theorem Group.modSlot_place (g : Group) (b : Bool) (f : Slot → Slot) : (g.modSlot b f).place = g.place := by cases b <;> rfl
@[simp] theorem Group.modSlot_gslot (g : Group) (b : Bool) (f : Slot → Slot) : (g.modSlot b f).gslot = g.gslot := by cases b <;> rfl
@[simp] theorem Group.modSlot_life (g : Group) (b : Bool) (f : Slot → Slot) : (g.modSlot b f).life = g.life := by cases b <;> rfl
@[simp] theorem Group.modSlot_sregs (g : Group) (b : Bool) (f : Slot → Slot) : (g.modSlot b f).sregs = g.sregs := by cases b <;> rfl
@[simp] theorem Group.modSlot_vregs (g : Group) (b : Bool) (f : Slot → Slot) : (g.modSlot b f).vregs = g.vregs := by cases b <;> rfl
@[simp] theorem Group.modSlot_fpstat (g : Group) (b : Bool) (f : Slot → Slot) : (g.modSlot b f).fpstat = g.fpstat := by cases b <;> rfl
@[simp] theorem Group.modSlot_qstat (g : Group) (b : Bool) (f : Slot → Slot) : (g.modSlot b f).qstat = g.qstat := by cases b <;> rfl
@[simp] theorem Group.modSlot_qmode (g : Group) (b : Bool) (f : Slot → Slot) : (g.modSlot b f).qmode = g.qmode := by cases b <;> rfl
@[simp] theorem Group.modSlot_dvDepth (g : Group) (b : Bool) (f : Slot → Slot) : (g.modSlot b f).dvDepth = g.dvDepth := by cases b <;> rfl
@[simp] theorem Group.modSlot_dvCap (g : Group) (b : Bool) (f : Slot → Slot) : (g.modSlot b f).dvCap = g.dvCap := by cases b <;> rfl
@[simp] theorem Group.modSlot_pgtok (g : Group) (b : Bool) (f : Slot → Slot) : (g.modSlot b f).pgtok = g.pgtok := by cases b <;> rfl
@[simp] theorem Group.modSlot_pgPend (g : Group) (b : Bool) (f : Slot → Slot) : (g.modSlot b f).pgPend = g.pgPend := by cases b <;> rfl
@[simp] theorem Group.modSlot_amax (g : Group) (b : Bool) (f : Slot → Slot) : (g.modSlot b f).amax = g.amax := by cases b <;> rfl
@[simp] theorem Group.modSlot_rdDepth (g : Group) (b : Bool) (f : Slot → Slot) : (g.modSlot b f).rdDepth = g.rdDepth := by cases b <;> rfl
@[simp] theorem Group.modSlot_rdPar (g : Group) (b : Bool) (f : Slot → Slot) : (g.modSlot b f).rdPar = g.rdPar := by cases b <;> rfl
@[simp] theorem Group.modSlot_queues (g : Group) (b : Bool) (f : Slot → Slot) : (g.modSlot b f).queues = g.queues := by cases b <;> rfl
@[simp] theorem Group.modSlot_past (g : Group) (b : Bool) (f : Slot → Slot) : (g.modSlot b f).past = g.past := by cases b <;> rfl
@[simp] theorem Group.modSlot_window (g : Group) (b : Bool) (f : Slot → Slot) : (g.modSlot b f).window = g.window := by cases b <;> rfl
@[simp] theorem Group.modSlot_ops (g : Group) (b : Bool) (f : Slot → Slot) : (g.modSlot b f).ops = g.ops := by cases b <;> rfl
@[simp] theorem Group.modSlot_region (g : Group) (b : Bool) (f : Slot → Slot) : (g.modSlot b f).region = g.region := by cases b <;> rfl
@[simp] theorem Group.modSlot_buf (g : Group) (b : Bool) (f : Slot → Slot) : (g.modSlot b f).buf = g.buf := by cases b <;> rfl
@[simp] theorem Group.modSlot_start (g : Group) (b : Bool) (f : Slot → Slot) : (g.modSlot b f).start = g.start := by cases b <;> rfl
@[simp] theorem Group.modSlot_waitList (g : Group) (b : Bool) (f : Slot → Slot) : (g.modSlot b f).waitList = g.waitList := by cases b <;> rfl
@[simp] theorem Group.modSlot_trap (g : Group) (b : Bool) (f : Slot → Slot) : (g.modSlot b f).trap = g.trap := by cases b <;> rfl
@[simp] theorem Group.modSlot_heldTraps (g : Group) (b : Bool) (f : Slot → Slot) : (g.modSlot b f).heldTraps = g.heldTraps := by cases b <;> rfl
@[simp] theorem Group.modSlot_laterTraps (g : Group) (b : Bool) (f : Slot → Slot) : (g.modSlot b f).laterTraps = g.laterTraps := by cases b <;> rfl
@[simp] theorem Group.modSlot_inHandler (g : Group) (b : Bool) (f : Slot → Slot) : (g.modSlot b f).inHandler = g.inHandler := by cases b <;> rfl
@[simp] theorem Group.modSlot_noHandler (g : Group) (b : Bool) (f : Slot → Slot) : (g.modSlot b f).noHandler = g.noHandler := by cases b <;> rfl
@[simp] theorem Group.modSlot_stopped (g : Group) (b : Bool) (f : Slot → Slot) : (g.modSlot b f).stopped = g.stopped := by cases b <;> rfl
@[simp] theorem Group.modSlot_removed (g : Group) (b : Bool) (f : Slot → Slot) : (g.modSlot b f).removed = g.removed := by cases b <;> rfl
@[simp] theorem Group.modSlot_aborting (g : Group) (b : Bool) (f : Slot → Slot) : (g.modSlot b f).aborting = g.aborting := by cases b <;> rfl
@[simp] theorem Group.modSlot_rmode (g : Group) (b : Bool) (f : Slot → Slot) : (g.modSlot b f).rmode = g.rmode := by cases b <;> rfl

/-! Memory at home is read alike in states that agree on it and on the device number. -/
theorem readByte_congr {s t : State} (h : t.mem = s.mem) (d : t.mgmt = s.mgmt) (a : Nat) : readByte t a = readByte s a := by
  simp [readByte, canonPa, h, d]
theorem readMark_congr {s t : State} (h : t.marks = s.marks) (d : t.mgmt = s.mgmt) (a : Nat) : readMark t a = readMark s a := by
  simp [readMark, homeOf, canonPa, h, d]
theorem readValid_congr {s t : State} (h : t.valid = s.valid) (d : t.mgmt = s.mgmt) (a : Nat) : readValid t a = readValid s a := by
  simp [readValid, canonPa, h, d]
/-- States that agree on memory and on the management block read memory alike. -/
theorem memorySame_of_eq {s t : State} (m : t.mem = s.mem) (k : t.marks = s.marks) (v : t.valid = s.valid) (d : t.mgmt = s.mgmt) : MemorySame s t :=
  ⟨readByte_congr m d, readMark_congr k d, readValid_congr v d⟩
/-- Memory reads the same as itself. -/
theorem MemorySame.refl (s : State) : MemorySame s s := ⟨fun _ => rfl, fun _ => rfl, fun _ => rfl⟩
/-- Reading memory alike composes. -/
theorem MemorySame.trans {s t u : State} (h : MemorySame s t) (k : MemorySame t u) : MemorySame s u :=
  ⟨fun a => (k.bytes a).trans (h.bytes a), fun a => (k.marks a).trans (h.marks a), fun a => (k.valid a).trans (h.valid a)⟩

end Sys2Proof.Machine
end

