-- ==== Sys2Proof/Laws/Memory.lean ====
section
/-! SUPPORT. Memory at home: the canonical form is kept by every memory operation, and a read after a write gives what was written there and
nothing else. -/
namespace Sys2Proof.Machine

/-! ### Sorted lists of keys and values -/

/-- A weaker bound. -/
theorem canonFrom_mono {β : Type} [DecidableEq β] (d : β) :
    ∀ (l : List (Nat × β)) {lo hi : Nat}, lo ≤ hi → canonFrom d hi l = true → canonFrom d lo l = true
  | [], _, _, _, _ => rfl
  | (k, v) :: t, lo, hi, hlh, h => by
    simp only [canonFrom, Bool.and_eq_true, decide_eq_true_eq] at h ⊢
    exact ⟨⟨Nat.le_trans hlh h.1.1, h.1.2⟩, h.2⟩

/-- A key below the bound is not listed. -/
theorem assocGet_none {β : Type} [DecidableEq β] (d : β) :
    ∀ (l : List (Nat × β)) {lo k : Nat}, k < lo → canonFrom d lo l = true → assocGet k l = none
  | [], _, _, _, _ => rfl
  | (n, v) :: t, lo, k, hk, h => by
    simp only [canonFrom, Bool.and_eq_true, decide_eq_true_eq] at h
    have hn : ¬ k = n := by omega
    simp only [assocGet, if_neg hn]
    exact assocGet_none d t (Nat.lt_of_lt_of_le hk (Nat.le_trans h.1.1 (Nat.le_succ n))) h.2

/-- Setting a key keeps the form. -/
theorem canonFrom_assocSet {β : Type} [DecidableEq β] (d : β) {k : Nat} {v : β} (hv : v ≠ d) :
    ∀ (l : List (Nat × β)) {lo : Nat}, lo ≤ k → canonFrom d lo l = true → canonFrom d lo (assocSet k v l) = true
  | [], lo, hk, _ => by simp [assocSet, canonFrom, hk, hv]
  | (n, w) :: t, lo, hk, h => by
    simp only [canonFrom, Bool.and_eq_true, decide_eq_true_eq] at h
    simp only [assocSet]
    split
    · rename_i hlt
      simp only [canonFrom, Bool.and_eq_true, decide_eq_true_eq]
      exact ⟨⟨hk, hv⟩, ⟨hlt, h.1.2⟩, h.2⟩
    · split
      · rename_i _ heq
        subst heq
        simp only [canonFrom, Bool.and_eq_true, decide_eq_true_eq]
        exact ⟨⟨hk, hv⟩, h.2⟩
      · rename_i hnl hne
        simp only [canonFrom, Bool.and_eq_true, decide_eq_true_eq]
        exact ⟨h.1, canonFrom_assocSet d hv t (by omega) h.2⟩

/-- Removing a key keeps the form. -/
theorem canonFrom_assocDel {β : Type} [DecidableEq β] (d : β) (k : Nat) :
    ∀ (l : List (Nat × β)) {lo : Nat}, canonFrom d lo l = true → canonFrom d lo (assocDel k l) = true
  | [], _, _ => rfl
  | (n, w) :: t, lo, h => by
    simp only [canonFrom, Bool.and_eq_true, decide_eq_true_eq] at h
    have ih := canonFrom_assocDel d k t h.2
    simp only [assocDel, List.filter_cons] at ih ⊢
    split
    · simp only [canonFrom, Bool.and_eq_true, decide_eq_true_eq]
      exact ⟨h.1, ih⟩
    · exact canonFrom_mono d _ (by omega) ih

/-- A write under a key keeps the form. -/
theorem canonFrom_canonSet {β : Type} [DecidableEq β] (d : β) (k : Nat) (v : β) {l : List (Nat × β)} (h : canonFrom d 0 l = true) :
    canonFrom d 0 (canonSet d k v l) = true := by
  unfold canonSet
  split
  · exact canonFrom_assocDel d k l h
  · rename_i hv
    exact canonFrom_assocSet d hv l (Nat.zero_le k) h

/-- The key that was set holds the value. -/
theorem assocGet_assocSet_self {β : Type} (k : Nat) (v : β) : ∀ l : List (Nat × β), assocGet k (assocSet k v l) = some v
  | [] => by simp [assocSet, assocGet]
  | (n, w) :: t => by
    simp only [assocSet]
    split
    · simp [assocGet]
    · split
      · simp [assocGet]
      · rename_i hne
        simp [assocGet, hne, assocGet_assocSet_self k v t]

/-- Another key is as before. -/
theorem assocGet_assocSet_other {β : Type} {k j : Nat} (v : β) (hj : j ≠ k) :
    ∀ l : List (Nat × β), assocGet j (assocSet k v l) = assocGet j l
  | [] => by simp [assocSet, assocGet, hj]
  | (n, w) :: t => by
    simp only [assocSet]
    split
    · simp [assocGet, hj]
    · split
      · rename_i _ heq
        subst heq
        simp [assocGet, hj]
      · simp only [assocGet]
        rw [assocGet_assocSet_other v hj t]

/-- The key that was removed is not there. -/
theorem assocGet_assocDel_self {β : Type} (k : Nat) : ∀ l : List (Nat × β), assocGet k (assocDel k l) = none
  | [] => rfl
  | (n, w) :: t => by
    have ih := assocGet_assocDel_self k t
    simp only [assocDel, List.filter_cons] at ih ⊢
    split
    · rename_i hne
      simp only [bne_iff_ne, ne_eq] at hne
      have hk : ¬ k = n := fun e => hne e.symm
      simp only [assocGet, if_neg hk]
      exact ih
    · exact ih

/-- Another key is as before. -/
theorem assocGet_assocDel_other {β : Type} {k j : Nat} (hj : j ≠ k) : ∀ l : List (Nat × β), assocGet j (assocDel k l) = assocGet j l
  | [] => rfl
  | (n, w) :: t => by
    have ih := assocGet_assocDel_other hj t
    simp only [assocDel, List.filter_cons] at ih ⊢
    split
    · simp only [assocGet]
      rw [ih]
    · rename_i hne
      simp only [bne_iff_ne, ne_eq, Classical.not_not] at hne
      have hk : ¬ j = n := fun e => hj (e.trans hne)
      simp only [assocGet, if_neg hk]
      exact ih

/-- What a write leaves under its key. -/
@[simp] theorem canonGet_canonSet_self {β : Type} [DecidableEq β] (d : β) (k : Nat) (v : β) (l : List (Nat × β)) :
    canonGet d k (canonSet d k v l) = v := by
  unfold canonGet canonSet
  split
  · rename_i h
    simp [assocGet_assocDel_self, h]
  · simp [assocGet_assocSet_self]

/-- What a write leaves under other keys. -/
theorem canonGet_canonSet_other {β : Type} [DecidableEq β] (d : β) {k j : Nat} (v : β) (hj : j ≠ k) (l : List (Nat × β)) :
    canonGet d j (canonSet d k v l) = canonGet d j l := by
  unfold canonGet canonSet
  split
  · rw [assocGet_assocDel_other hj]
  · rw [assocGet_assocSet_other v hj]

/-! ### Sorted lists of numbers -/

/-- A weaker bound. -/
theorem risingFrom_mono : ∀ (l : List Nat) {lo hi : Nat}, lo ≤ hi → risingFrom hi l = true → risingFrom lo l = true
  | [], _, _, _, _ => rfl
  | n :: t, lo, hi, hl, h => by
    simp only [risingFrom, Bool.and_eq_true, decide_eq_true_eq] at h ⊢
    exact ⟨Nat.le_trans hl h.1, h.2⟩

/-- Insertion keeps the order. -/
theorem risingFrom_insNat (n : Nat) : ∀ (l : List Nat) {lo : Nat}, lo ≤ n → risingFrom lo l = true → risingFrom lo (insNat n l) = true
  | [], lo, hn, _ => by simp [insNat, risingFrom, hn]
  | m :: t, lo, hn, h => by
    simp only [risingFrom, Bool.and_eq_true, decide_eq_true_eq] at h
    simp only [insNat]
    split
    · rename_i hlt
      simp only [risingFrom, Bool.and_eq_true, decide_eq_true_eq]
      exact ⟨hn, hlt, h.2⟩
    · split
      · simp only [risingFrom, Bool.and_eq_true, decide_eq_true_eq]
        exact h
      · rename_i hnl hne
        simp only [risingFrom, Bool.and_eq_true, decide_eq_true_eq]
        exact ⟨h.1, risingFrom_insNat n t (by omega) h.2⟩

/-- Removal keeps the order. -/
theorem risingFrom_delNat (n : Nat) : ∀ (l : List Nat) {lo : Nat}, risingFrom lo l = true → risingFrom lo (delNat n l) = true
  | [], _, _ => rfl
  | m :: t, lo, h => by
    simp only [risingFrom, Bool.and_eq_true, decide_eq_true_eq] at h
    have ih := risingFrom_delNat n t h.2
    simp only [delNat, List.filter_cons] at ih ⊢
    split
    · simp only [risingFrom, Bool.and_eq_true, decide_eq_true_eq]
      exact ⟨h.1, ih⟩
    · exact risingFrom_mono _ (by omega) ih

/-- What insertion puts in. -/
theorem mem_insNat (n m : Nat) : ∀ l : List Nat, m ∈ insNat n l ↔ m = n ∨ m ∈ l
  | [] => by simp [insNat]
  | k :: t => by
    have ih := mem_insNat n m t
    simp only [insNat]
    split
    · simp
    · split
      · rename_i _ h
        subst h
        simp
      · simp only [List.mem_cons, ih]
        exact ⟨fun h => h.elim (fun x => .inr (.inl x)) (fun x => x.elim .inl (fun y => .inr (.inr y))),
          fun h => h.elim (fun x => .inr (.inl x)) (fun x => x.elim .inl (fun y => .inr (.inr y)))⟩

/-- What removal takes out. -/
theorem mem_delNat (n m : Nat) (l : List Nat) : m ∈ delNat n l ↔ m ≠ n ∧ m ∈ l := by
  simp [delNat, List.mem_filter, and_comm]

/-! ### The canonical form of memory -/

/-- The three parts of the form. -/
theorem Memory.wf_iff (s : State) : Memory.wf s = true ↔ canonFrom 0 0 s.mem = true ∧ canonFrom 0 0 s.marks = true ∧ risingFrom 0 s.valid = true := by
  simp [Memory.wf, and_assoc]

/-- States that agree on memory agree on its form. -/
theorem Memory.wf_congr {s t : State} (m : t.mem = s.mem) (k : t.marks = s.marks) (v : t.valid = s.valid) : Memory.wf t = Memory.wf s := by
  simp [Memory.wf, m, k, v]

/-- A byte written. -/
theorem Memory.wf_writeByte {s : State} (pa : Nat) (b : Byte) (h : Memory.wf s = true) : Memory.wf (writeByte s pa b) = true := by
  rw [Memory.wf_iff] at h ⊢
  exact ⟨canonFrom_canonSet _ _ _ h.1, h.2⟩

/-- Bytes written. -/
theorem Memory.wf_writeBytes : ∀ (l : List Byte) {s : State} (pa : Nat), Memory.wf s = true → Memory.wf (writeBytes s pa l) = true
  | [], _, _, h => h
  | b :: t, _, pa, h => Memory.wf_writeBytes t (pa + 1) (Memory.wf_writeByte pa b h)

/-- A postmark written. -/
theorem Memory.wf_writeMark {s : State} (pa : Nat) (m : Mark) (h : Memory.wf s = true) : Memory.wf (writeMark s pa m) = true := by
  unfold writeMark
  split
  · exact h
  · rw [Memory.wf_iff] at h ⊢
    exact ⟨h.1, canonFrom_canonSet _ _ _ h.2.1, h.2.2⟩

/-- A word written. -/
theorem Memory.wf_putWord {s : State} (pa : Nat) (t : TWord) (h : Memory.wf s = true) : Memory.wf (putWord s pa t) = true :=
  Memory.wf_writeMark pa t.mark (Memory.wf_writeBytes _ _ h)

/-- A validity bit written. -/
theorem Memory.wf_setValid {s : State} (pa : Nat) (b : Bool) (h : Memory.wf s = true) : Memory.wf (setValid s pa b) = true := by
  unfold setValid
  split
  · exact h
  · rw [Memory.wf_iff] at h ⊢
    refine ⟨h.1, h.2.1, ?_⟩
    cases b
    · exact risingFrom_delNat _ _ h.2.2
    · exact risingFrom_insNat _ _ (Nat.zero_le _) h.2.2

/-- A write performed at home. -/
theorem Memory.wf_homeWrite {s : State} (pa : Nat) (t : TWord) (h : Memory.wf s = true) : Memory.wf (homeWrite s pa t) = true :=
  Memory.wf_setValid pa true (Memory.wf_putWord pa t h)

/-- A fold of steps that each keep the form keeps it. -/
theorem Memory.wf_foldl {α : Type} (f : State → α → State) (hf : ∀ s a, Memory.wf s = true → Memory.wf (f s a) = true) :
    ∀ (l : List α) {s : State}, Memory.wf s = true → Memory.wf (l.foldl f s) = true
  | [], _, h => h
  | a :: t, _, h => Memory.wf_foldl f hf t (hf _ a h)

/-- A block cleared. -/
theorem Memory.wf_clearBlock {s : State} (pa : Nat) (h : Memory.wf s = true) : Memory.wf (clearBlock s pa) = true :=
  Memory.wf_setValid pa false (Memory.wf_foldl _ (fun _ _ k => Memory.wf_putWord _ _ k) _ h)

/-! ### Reads after writes -/

/-- A byte that was written. -/
@[simp] theorem readByte_writeByte_self (s : State) (pa : Nat) (b : Byte) : readByte (writeByte s pa b) pa = b := by
  simp [readByte, writeByte, canonPa]

/-- A byte elsewhere. -/
theorem readByte_writeByte_other {s : State} {pa a : Nat} (b : Byte) (h : canonPa s a ≠ canonPa s pa) :
    readByte (writeByte s pa b) a = readByte s a :=
  canonGet_canonSet_other memDefault b h s.mem

/-- Writing a byte changes nothing but memory. -/
@[simp] theorem writeByte_mgmt (s : State) (pa : Nat) (b : Byte) : (writeByte s pa b).mgmt = s.mgmt := rfl

/-- Writing bytes leaves the management block. -/
@[simp] theorem writeBytes_mgmt : ∀ (l : List Byte) (s : State) (pa : Nat), (writeBytes s pa l).mgmt = s.mgmt
  | [], _, _ => rfl
  | b :: t, s, pa => (writeBytes_mgmt t (writeByte s pa b) (pa + 1)).trans rfl

/-- An address's canonical form depends on the device number alone. -/
theorem canonPa_congr {s t : State} (h : t.mgmt = s.mgmt) (a : Nat) : canonPa t a = canonPa s a := by simp [canonPa, h]

/-- A byte outside those written. -/
theorem readByte_writeBytes_other : ∀ (l : List Byte) (s : State) (pa a : Nat),
    (∀ i, i < l.length → canonPa s a ≠ canonPa s (pa + i)) → readByte (writeBytes s pa l) a = readByte s a
  | [], _, _, _, _ => rfl
  | b :: t, s, pa, a, h => by
    have h0 : canonPa s a ≠ canonPa s pa := h 0 (by simp)
    have ih := readByte_writeBytes_other t (writeByte s pa b) (pa + 1) a (by
      intro i hi
      rw [canonPa_congr (writeByte_mgmt s pa b), canonPa_congr (writeByte_mgmt s pa b)]
      have := h (i + 1) (by simpa using hi)
      rwa [show pa + 1 + i = pa + (i + 1) by omega])
    rw [show writeBytes s pa (b :: t) = writeBytes (writeByte s pa b) (pa + 1) t from rfl, ih]
    exact readByte_writeByte_other b h0

/-- Postmarks and validity bits are not bytes. -/
@[simp] theorem readByte_writeMark (s : State) (pa : Nat) (m : Mark) (a : Nat) : readByte (writeMark s pa m) a = readByte s a := by
  unfold writeMark
  split <;> rfl
@[simp] theorem readByte_setValid (s : State) (pa : Nat) (b : Bool) (a : Nat) : readByte (setValid s pa b) a = readByte s a := by
  unfold setValid
  split <;> rfl

/-- A validity bit that was written, but for host memory. -/
theorem readValid_setValid_self {s : State} {pa : Nat} (b : Bool) (h : homeOf s pa ≠ .host) : readValid (setValid s pa b) pa = b := by
  unfold setValid
  rw [if_neg h]
  have hc : canonPa { s with valid := if b = true then insNat (canonPa s pa / 64) s.valid else delNat (canonPa s pa / 64) s.valid } pa = canonPa s pa := rfl
  unfold readValid
  rw [hc]
  cases b
  · rw [Bool.eq_false_iff]
    intro hm
    have := (mem_delNat (canonPa s pa / 64) (canonPa s pa / 64) s.valid).1 (by simpa using hm)
    exact this.1 rfl
  · simpa using (mem_insNat (canonPa s pa / 64) (canonPa s pa / 64) s.valid).2 (.inl rfl)

end Sys2Proof.Machine
end

