-- ==== Sys2Proof/Laws/Issue.lean ====
section
/-! SUPPORT. What issue does, once for every instruction of a slot: where nothing keeps it from executing its effect happens, and where it stops
the stop is applied. -/
namespace Sys2Proof.Machine

/-- Every outcome of an instruction of a slot is a next state. -/
theorem issue_next (x : Instr) (own : State → Option Stop) (eff : State → State) (s : State) : ∃ t, issue x own eff s = .next t := by
  unfold issue
  split
  · exact ⟨_, rfl⟩
  · split
    · exact ⟨_, rfl⟩
    · split <;> exact ⟨_, rfl⟩

/-- Where the region ends it ends, since no store waits. -/
theorem regionGate_empty {s : State} (h : s.grp.buf = []) : regionGate s = .ok (endRegion s) := by simp [regionGate, h]

/-- What `clear` says, part by part. -/
theorem clear_parts {x : Instr} {s : State} (h : clear x s = true) :
    s.late = none ∧ (slot s).live = true ∧ illHere s x = false ∧ (endsBefore s x = true → s.grp.buf = []) ∧ flagFull (entered x s) x = false
      ∧ (∀ k ∈ poppedBy (entered x s).grp (vecSrcs x), (qHead (entered x s).grp k).isSome = true)
      ∧ popBad (entered x s).grp (vecSrcs x) = 0 := by
  simp only [clear, ready, Bool.and_eq_true, Bool.not_eq_true', Bool.or_eq_true, List.all_eq_true, beq_iff_eq, List.isEmpty_iff, Option.isNone_iff_eq_none] at h
  obtain ⟨l, ⟨⟨⟨⟨a, b⟩, c⟩, d⟩, e⟩, f⟩ := h
  refine ⟨l, a, b, ?_, d, e, f⟩
  intro hb
  cases c with
  | inl c => rw [hb] at c; cases c
  | inr c => exact c

/-- A slot whose instruction is clear is live. -/
theorem clear_live {x : Instr} {s : State} (h : clear x s = true) : (slot s).live = true := (clear_parts h).2.1

/-- A slot whose instruction is clear issues first, or alone, in its cycle. -/
theorem clear_late {x : Instr} {s : State} (h : clear x s = true) : s.late = none := (clear_parts h).1

/-- A clear instruction passes every check of issue. -/
theorem prep_clear {x : Instr} {s : State} (h : clear x s = true) : prep x s = .ok (entered x s) := by
  obtain ⟨_, _, b, c, d, e, _⟩ := clear_parts h
  have hg : (if endsBefore s x then regionGate s else .ok s) = .ok (entered x s) := by
    unfold entered
    split
    · rename_i hb
      exact regionGate_empty (c hb)
    · rfl
  have he : ((poppedBy (entered x s).grp (vecSrcs x)).any (fun k => (qHead (entered x s).grp k).isNone)) = false := by
    rw [Bool.eq_false_iff]
    intro ha
    obtain ⟨k, hk, hn⟩ := List.any_eq_true.1 ha
    have := e k hk
    rw [Option.isNone_iff_eq_none] at hn
    rw [hn] at this
    cases this
  unfold prep
  rw [if_neg (by simp [b]), hg]
  simp [d, he]

/-- The outcome of a clear instruction that has no stop of its own. -/
theorem issue_clear {x : Instr} {own : State → Option Stop} {eff : State → State} {s : State} (h : clear x s = true)
    (ho : own (entered x s) = none) : issue x own eff s = .next (finish x (entered x s) (eff (entered x s))) := by
  unfold issue
  rw [if_neg (by simp [clear_live h]), prep_clear h]
  simp [ho]

/-- The outcome of a clear instruction whose own act is refused: the stop is applied. -/
theorem issue_own_stop {x : Instr} {own : State → Option Stop} {eff : State → State} {s : State} {e : Stop} (h : clear x s = true)
    (ho : own (entered x s) = some e) : issue x own eff s = .next (applyStop e (entered x s)) := by
  unfold issue
  rw [if_neg (by simp [clear_live h]), prep_clear h]
  simp [ho]

/-- The outcome of a clear instruction given as one act. -/
theorem issueE_clear {x : Instr} {act : State → Except Stop State} {s t : State} (h : clear x s = true) (ha : act (entered x s) = .ok t) :
    issueE x act s = .next (finish x (entered x s) t) := by
  have := issue_clear (own := actStop act) (eff := actDo act) h (by simp [actStop, ha])
  simpa [issueE, actDo, ha] using this

/-- The outcome of a clear instruction whose act stops. -/
theorem issueE_stop {x : Instr} {act : State → Except Stop State} {s : State} {e : Stop} (h : clear x s = true) (ha : act (entered x s) = .error e) :
    issueE x act s = .next (applyStop e (entered x s)) :=
  issue_own_stop h (by simp [actStop, ha])

/-- A word that is an ILL where it stands traps (R50). -/
theorem issue_ill {x : Instr} {own : State → Option Stop} {eff : State → State} {s : State} (hl : (slot s).live = true) (h : illHere s x = true) :
    issue x own eff s = .next (applyStop .ill s) := by
  unfold issue
  rw [if_neg (by simp [hl])]
  simp [prep, h]

/-- A slot that is not live issues nothing. -/
theorem issue_dead {x : Instr} {own : State → Option Stop} {eff : State → State} {s : State} (h : (slot s).live = false) :
    issue x own eff s = .next s := by
  unfold issue
  rw [if_pos (by simp [h])]

/-! ### The first or only issue of a cycle (R123) -/

/-- Its writes are made at once. -/
theorem defer_now {x : Late} {f : State → State} {s : State} (h : s.late = none) : defer x f s = f s := by simp [defer, h]

/-- No writes are left to settle. -/
@[simp] theorem Group.settle_nil (g : Group) : g.settle [] = g := rfl

/-- The next region begins with the group as it stands (R320). -/
theorem startRegion_grp {s : State} (h : s.late = none) : (startRegion s).grp = s.grp.begins := by simp [startRegion, h, Group.begins, modGrp]

/-- An instruction that no region ends before enters as it is. -/
theorem entered_same {x : Instr} {s : State} (h : endsBefore s x = false) : entered x s = s := by simp [entered, h]

/-- An instruction without vector sources pops nothing. -/
theorem popsOf_none {x : Instr} (h : vecSrcs x = []) (b s : State) : popsOf x b s = s := by
  have : poppedBy b.grp [] = [] := by simp [poppedBy]
  simp [popsOf, h, this]

/-- Popping with no queue to pop changes nothing. -/
theorem popAll_none {g : Group} {l : List Nat} (h : poppedBy g l = []) : popAll l g = g := by simp [popAll, h]

/-- The pops of a clear instruction. -/
theorem popsOf_fit {x : Instr} {b : State} (h : popBad b.grp (vecSrcs x) = 0) (s : State) (hp : poppedBy s.grp (vecSrcs x) = poppedBy b.grp (vecSrcs x)) :
    popsOf x b s = modGrp (popAll (vecSrcs x)) s := by
  unfold popsOf
  split
  · rename_i he
    have : popAll (vecSrcs x) s.grp = s.grp := popAll_none (by rw [hp]; simpa using he)
    simp [modGrp, this]
  · simp [h]

/-- What follows the effect of an instruction that ends no region. -/
theorem finish_plain {x : Instr} (h : commits x = false) (b s : State) : finish x b s = bump (countIssue (popsOf x b s)) := by simp [finish, h]

/-! ### The program counter -/

/-- What an instruction that moves on leaves: the slot past it, and everything else but the age order of slots. -/
theorem advance_slot (n : Nat) (s : State) : slot (advance n s) = passed (slot s) n := by
  unfold advance
  by_cases h : ((slot s).urgent || (slot s).yieldsAt) = true
  · simp [h, youngest, youngestOf, passed]
  · simp [h, passed]

/-- The other slot stands. -/
theorem advance_other (n : Nat) (s : State) : other (advance n s) = other s := by
  unfold advance
  by_cases h : ((slot s).urgent || (slot s).yieldsAt) = true
  · simp [h, youngest, youngestOf]
  · simp [h]

/-- The group moves on only in its slot. -/
theorem advance_grp (n : Nat) (s : State) : (advance n s).grp = s.grp.modSlot s.cur (fun x => passed x n) := by
  unfold advance
  by_cases h : ((slot s).urgent || (slot s).yieldsAt) = true
  · simp [h, youngest, youngestOf, passed]
  · simp [h, passed]

/-! ### Frames of the shared operations -/

@[simp] theorem advance_cur (n : Nat) (s : State) : (advance n s).cur = s.cur := by
  unfold advance
  by_cases h : ((slot s).urgent || (slot s).yieldsAt) = true <;> simp [h, youngest, youngestOf]
@[simp] theorem advance_groups (n : Nat) (s : State) : (advance n s).groups = s.groups := by
  unfold advance
  by_cases h : ((slot s).urgent || (slot s).yieldsAt) = true <;> simp [h, youngest, youngestOf]
@[simp] theorem advance_team (n : Nat) (s : State) : (advance n s).team = s.team := by
  unfold advance
  by_cases h : ((slot s).urgent || (slot s).yieldsAt) = true <;> simp [h, youngest, youngestOf]
@[simp] theorem advance_teams (n : Nat) (s : State) : (advance n s).teams = s.teams := by
  unfold advance
  by_cases h : ((slot s).urgent || (slot s).yieldsAt) = true <;> simp [h, youngest, youngestOf]
@[simp] theorem advance_clusters (n : Nat) (s : State) : (advance n s).clusters = s.clusters := by
  unfold advance
  by_cases h : ((slot s).urgent || (slot s).yieldsAt) = true <;> simp [h, youngest, youngestOf]
@[simp] theorem advance_grids (n : Nat) (s : State) : (advance n s).grids = s.grids := by
  unfold advance
  by_cases h : ((slot s).urgent || (slot s).yieldsAt) = true <;> simp [h, youngest, youngestOf]
@[simp] theorem advance_parts (n : Nat) (s : State) : (advance n s).parts = s.parts := by
  unfold advance
  by_cases h : ((slot s).urgent || (slot s).yieldsAt) = true <;> simp [h, youngest, youngestOf]
@[simp] theorem advance_dies (n : Nat) (s : State) : (advance n s).dies = s.dies := by
  unfold advance
  by_cases h : ((slot s).urgent || (slot s).yieldsAt) = true <;> simp [h, youngest, youngestOf]
@[simp] theorem advance_slices (n : Nat) (s : State) : (advance n s).slices = s.slices := by
  unfold advance
  by_cases h : ((slot s).urgent || (slot s).yieldsAt) = true <;> simp [h, youngest, youngestOf]
@[simp] theorem advance_mem (n : Nat) (s : State) : (advance n s).mem = s.mem := by
  unfold advance
  by_cases h : ((slot s).urgent || (slot s).yieldsAt) = true <;> simp [h, youngest, youngestOf]
@[simp] theorem advance_marks (n : Nat) (s : State) : (advance n s).marks = s.marks := by
  unfold advance
  by_cases h : ((slot s).urgent || (slot s).yieldsAt) = true <;> simp [h, youngest, youngestOf]
@[simp] theorem advance_valid (n : Nat) (s : State) : (advance n s).valid = s.valid := by
  unfold advance
  by_cases h : ((slot s).urgent || (slot s).yieldsAt) = true <;> simp [h, youngest, youngestOf]
@[simp] theorem advance_pins (n : Nat) (s : State) : (advance n s).pins = s.pins := by
  unfold advance
  by_cases h : ((slot s).urgent || (slot s).yieldsAt) = true <;> simp [h, youngest, youngestOf]
@[simp] theorem advance_claims (n : Nat) (s : State) : (advance n s).claims = s.claims := by
  unfold advance
  by_cases h : ((slot s).urgent || (slot s).yieldsAt) = true <;> simp [h, youngest, youngestOf]
@[simp] theorem advance_wbs (n : Nat) (s : State) : (advance n s).wbs = s.wbs := by
  unfold advance
  by_cases h : ((slot s).urgent || (slot s).yieldsAt) = true <;> simp [h, youngest, youngestOf]
@[simp] theorem advance_flumes (n : Nat) (s : State) : (advance n s).flumes = s.flumes := by
  unfold advance
  by_cases h : ((slot s).urgent || (slot s).yieldsAt) = true <;> simp [h, youngest, youngestOf]
@[simp] theorem advance_weir (n : Nat) (s : State) : (advance n s).weir = s.weir := by
  unfold advance
  by_cases h : ((slot s).urgent || (slot s).yieldsAt) = true <;> simp [h, youngest, youngestOf]
@[simp] theorem advance_distr (n : Nat) (s : State) : (advance n s).distr = s.distr := by
  unfold advance
  by_cases h : ((slot s).urgent || (slot s).yieldsAt) = true <;> simp [h, youngest, youngestOf]
@[simp] theorem advance_fabric (n : Nat) (s : State) : (advance n s).fabric = s.fabric := by
  unfold advance
  by_cases h : ((slot s).urgent || (slot s).yieldsAt) = true <;> simp [h, youngest, youngestOf]
@[simp] theorem advance_mgmt (n : Nat) (s : State) : (advance n s).mgmt = s.mgmt := by
  unfold advance
  by_cases h : ((slot s).urgent || (slot s).yieldsAt) = true <;> simp [h, youngest, youngestOf]
@[simp] theorem advance_ticket (n : Nat) (s : State) : (advance n s).ticket = s.ticket := by
  unfold advance
  by_cases h : ((slot s).urgent || (slot s).yieldsAt) = true <;> simp [h, youngest, youngestOf]
@[simp] theorem advance_hostOut (n : Nat) (s : State) : (advance n s).hostOut = s.hostOut := by
  unfold advance
  by_cases h : ((slot s).urgent || (slot s).yieldsAt) = true <;> simp [h, youngest, youngestOf]
@[simp] theorem advance_hostHeld (n : Nat) (s : State) : (advance n s).hostHeld = s.hostHeld := by
  unfold advance
  by_cases h : ((slot s).urgent || (slot s).yieldsAt) = true <;> simp [h, youngest, youngestOf]
@[simp] theorem advance_late (n : Nat) (s : State) : (advance n s).late = s.late := by
  unfold advance
  by_cases h : ((slot s).urgent || (slot s).yieldsAt) = true <;> simp [h, youngest, youngestOf]
@[simp] theorem advance_time (n : Nat) (s : State) : (advance n s).time = s.time := by
  unfold advance
  by_cases h : ((slot s).urgent || (slot s).yieldsAt) = true <;> simp [h, youngest, youngestOf]
@[simp] theorem advance_tick (n : Nat) (s : State) : (advance n s).tick = s.tick := by
  unfold advance
  by_cases h : ((slot s).urgent || (slot s).yieldsAt) = true <;> simp [h, youngest, youngestOf]
@[simp] theorem advance_free (n : Nat) (s : State) : (advance n s).free = s.free := by
  unfold advance
  by_cases h : ((slot s).urgent || (slot s).yieldsAt) = true <;> simp [h, youngest, youngestOf]
@[simp] theorem advance_nextId (n : Nat) (s : State) : (advance n s).nextId = s.nextId := by
  unfold advance
  by_cases h : ((slot s).urgent || (slot s).yieldsAt) = true <;> simp [h, youngest, youngestOf]
@[simp] theorem advance_issues (n : Nat) (s : State) : (advance n s).issues = s.issues := by
  unfold advance
  by_cases h : ((slot s).urgent || (slot s).yieldsAt) = true <;> simp [h, youngest, youngestOf]
@[simp] theorem advance_change (n : Nat) (s : State) : (advance n s).change = s.change := by
  unfold advance
  by_cases h : ((slot s).urgent || (slot s).yieldsAt) = true <;> simp [h, youngest, youngestOf]
@[simp] theorem advance_agenda (n : Nat) (s : State) : (advance n s).agenda = s.agenda := by
  unfold advance
  by_cases h : ((slot s).urgent || (slot s).yieldsAt) = true <;> simp [h, youngest, youngestOf]
@[simp] theorem advance_turn (n : Nat) (s : State) : (advance n s).turn = s.turn := by
  unfold advance
  by_cases h : ((slot s).urgent || (slot s).yieldsAt) = true <;> simp [h, youngest, youngestOf]
@[simp] theorem transfer_cur (n : Nat) (s : State) : (transfer n s).cur = s.cur := by
  unfold transfer
  by_cases h : ((slot s).urgent || (slot s).yieldsAt) = true <;> simp [h, youngest, youngestOf]
@[simp] theorem transfer_groups (n : Nat) (s : State) : (transfer n s).groups = s.groups := by
  unfold transfer
  by_cases h : ((slot s).urgent || (slot s).yieldsAt) = true <;> simp [h, youngest, youngestOf]
@[simp] theorem transfer_team (n : Nat) (s : State) : (transfer n s).team = s.team := by
  unfold transfer
  by_cases h : ((slot s).urgent || (slot s).yieldsAt) = true <;> simp [h, youngest, youngestOf]
@[simp] theorem transfer_teams (n : Nat) (s : State) : (transfer n s).teams = s.teams := by
  unfold transfer
  by_cases h : ((slot s).urgent || (slot s).yieldsAt) = true <;> simp [h, youngest, youngestOf]
@[simp] theorem transfer_clusters (n : Nat) (s : State) : (transfer n s).clusters = s.clusters := by
  unfold transfer
  by_cases h : ((slot s).urgent || (slot s).yieldsAt) = true <;> simp [h, youngest, youngestOf]
@[simp] theorem transfer_grids (n : Nat) (s : State) : (transfer n s).grids = s.grids := by
  unfold transfer
  by_cases h : ((slot s).urgent || (slot s).yieldsAt) = true <;> simp [h, youngest, youngestOf]
@[simp] theorem transfer_parts (n : Nat) (s : State) : (transfer n s).parts = s.parts := by
  unfold transfer
  by_cases h : ((slot s).urgent || (slot s).yieldsAt) = true <;> simp [h, youngest, youngestOf]
@[simp] theorem transfer_dies (n : Nat) (s : State) : (transfer n s).dies = s.dies := by
  unfold transfer
  by_cases h : ((slot s).urgent || (slot s).yieldsAt) = true <;> simp [h, youngest, youngestOf]
@[simp] theorem transfer_slices (n : Nat) (s : State) : (transfer n s).slices = s.slices := by
  unfold transfer
  by_cases h : ((slot s).urgent || (slot s).yieldsAt) = true <;> simp [h, youngest, youngestOf]
@[simp] theorem transfer_mem (n : Nat) (s : State) : (transfer n s).mem = s.mem := by
  unfold transfer
  by_cases h : ((slot s).urgent || (slot s).yieldsAt) = true <;> simp [h, youngest, youngestOf]
@[simp] theorem transfer_marks (n : Nat) (s : State) : (transfer n s).marks = s.marks := by
  unfold transfer
  by_cases h : ((slot s).urgent || (slot s).yieldsAt) = true <;> simp [h, youngest, youngestOf]
@[simp] theorem transfer_valid (n : Nat) (s : State) : (transfer n s).valid = s.valid := by
  unfold transfer
  by_cases h : ((slot s).urgent || (slot s).yieldsAt) = true <;> simp [h, youngest, youngestOf]
@[simp] theorem transfer_pins (n : Nat) (s : State) : (transfer n s).pins = s.pins := by
  unfold transfer
  by_cases h : ((slot s).urgent || (slot s).yieldsAt) = true <;> simp [h, youngest, youngestOf]
@[simp] theorem transfer_claims (n : Nat) (s : State) : (transfer n s).claims = s.claims := by
  unfold transfer
  by_cases h : ((slot s).urgent || (slot s).yieldsAt) = true <;> simp [h, youngest, youngestOf]
@[simp] theorem transfer_wbs (n : Nat) (s : State) : (transfer n s).wbs = s.wbs := by
  unfold transfer
  by_cases h : ((slot s).urgent || (slot s).yieldsAt) = true <;> simp [h, youngest, youngestOf]
@[simp] theorem transfer_flumes (n : Nat) (s : State) : (transfer n s).flumes = s.flumes := by
  unfold transfer
  by_cases h : ((slot s).urgent || (slot s).yieldsAt) = true <;> simp [h, youngest, youngestOf]
@[simp] theorem transfer_weir (n : Nat) (s : State) : (transfer n s).weir = s.weir := by
  unfold transfer
  by_cases h : ((slot s).urgent || (slot s).yieldsAt) = true <;> simp [h, youngest, youngestOf]
@[simp] theorem transfer_distr (n : Nat) (s : State) : (transfer n s).distr = s.distr := by
  unfold transfer
  by_cases h : ((slot s).urgent || (slot s).yieldsAt) = true <;> simp [h, youngest, youngestOf]
@[simp] theorem transfer_fabric (n : Nat) (s : State) : (transfer n s).fabric = s.fabric := by
  unfold transfer
  by_cases h : ((slot s).urgent || (slot s).yieldsAt) = true <;> simp [h, youngest, youngestOf]
@[simp] theorem transfer_mgmt (n : Nat) (s : State) : (transfer n s).mgmt = s.mgmt := by
  unfold transfer
  by_cases h : ((slot s).urgent || (slot s).yieldsAt) = true <;> simp [h, youngest, youngestOf]
@[simp] theorem transfer_ticket (n : Nat) (s : State) : (transfer n s).ticket = s.ticket := by
  unfold transfer
  by_cases h : ((slot s).urgent || (slot s).yieldsAt) = true <;> simp [h, youngest, youngestOf]
@[simp] theorem transfer_hostOut (n : Nat) (s : State) : (transfer n s).hostOut = s.hostOut := by
  unfold transfer
  by_cases h : ((slot s).urgent || (slot s).yieldsAt) = true <;> simp [h, youngest, youngestOf]
@[simp] theorem transfer_hostHeld (n : Nat) (s : State) : (transfer n s).hostHeld = s.hostHeld := by
  unfold transfer
  by_cases h : ((slot s).urgent || (slot s).yieldsAt) = true <;> simp [h, youngest, youngestOf]
@[simp] theorem transfer_late (n : Nat) (s : State) : (transfer n s).late = s.late := by
  unfold transfer
  by_cases h : ((slot s).urgent || (slot s).yieldsAt) = true <;> simp [h, youngest, youngestOf]
@[simp] theorem transfer_time (n : Nat) (s : State) : (transfer n s).time = s.time := by
  unfold transfer
  by_cases h : ((slot s).urgent || (slot s).yieldsAt) = true <;> simp [h, youngest, youngestOf]
@[simp] theorem transfer_tick (n : Nat) (s : State) : (transfer n s).tick = s.tick := by
  unfold transfer
  by_cases h : ((slot s).urgent || (slot s).yieldsAt) = true <;> simp [h, youngest, youngestOf]
@[simp] theorem transfer_free (n : Nat) (s : State) : (transfer n s).free = s.free := by
  unfold transfer
  by_cases h : ((slot s).urgent || (slot s).yieldsAt) = true <;> simp [h, youngest, youngestOf]
@[simp] theorem transfer_nextId (n : Nat) (s : State) : (transfer n s).nextId = s.nextId := by
  unfold transfer
  by_cases h : ((slot s).urgent || (slot s).yieldsAt) = true <;> simp [h, youngest, youngestOf]
@[simp] theorem transfer_issues (n : Nat) (s : State) : (transfer n s).issues = s.issues := by
  unfold transfer
  by_cases h : ((slot s).urgent || (slot s).yieldsAt) = true <;> simp [h, youngest, youngestOf]
@[simp] theorem transfer_change (n : Nat) (s : State) : (transfer n s).change = s.change := by
  unfold transfer
  by_cases h : ((slot s).urgent || (slot s).yieldsAt) = true <;> simp [h, youngest, youngestOf]
@[simp] theorem transfer_agenda (n : Nat) (s : State) : (transfer n s).agenda = s.agenda := by
  unfold transfer
  by_cases h : ((slot s).urgent || (slot s).yieldsAt) = true <;> simp [h, youngest, youngestOf]
@[simp] theorem transfer_turn (n : Nat) (s : State) : (transfer n s).turn = s.turn := by
  unfold transfer
  by_cases h : ((slot s).urgent || (slot s).yieldsAt) = true <;> simp [h, youngest, youngestOf]
@[simp] theorem addOp_cur (cf : Nat) (o : Op) (s : State) : (addOp cf o s).cur = s.cur := rfl
@[simp] theorem addOp_groups (cf : Nat) (o : Op) (s : State) : (addOp cf o s).groups = s.groups := rfl
@[simp] theorem addOp_team (cf : Nat) (o : Op) (s : State) : (addOp cf o s).team = s.team := rfl
@[simp] theorem addOp_teams (cf : Nat) (o : Op) (s : State) : (addOp cf o s).teams = s.teams := rfl
@[simp] theorem addOp_clusters (cf : Nat) (o : Op) (s : State) : (addOp cf o s).clusters = s.clusters := rfl
@[simp] theorem addOp_grids (cf : Nat) (o : Op) (s : State) : (addOp cf o s).grids = s.grids := rfl
@[simp] theorem addOp_parts (cf : Nat) (o : Op) (s : State) : (addOp cf o s).parts = s.parts := rfl
@[simp] theorem addOp_cores (cf : Nat) (o : Op) (s : State) : (addOp cf o s).cores = s.cores := rfl
@[simp] theorem addOp_dies (cf : Nat) (o : Op) (s : State) : (addOp cf o s).dies = s.dies := rfl
@[simp] theorem addOp_slices (cf : Nat) (o : Op) (s : State) : (addOp cf o s).slices = s.slices := rfl
@[simp] theorem addOp_mem (cf : Nat) (o : Op) (s : State) : (addOp cf o s).mem = s.mem := rfl
@[simp] theorem addOp_marks (cf : Nat) (o : Op) (s : State) : (addOp cf o s).marks = s.marks := rfl
@[simp] theorem addOp_valid (cf : Nat) (o : Op) (s : State) : (addOp cf o s).valid = s.valid := rfl
@[simp] theorem addOp_pins (cf : Nat) (o : Op) (s : State) : (addOp cf o s).pins = s.pins := rfl
@[simp] theorem addOp_claims (cf : Nat) (o : Op) (s : State) : (addOp cf o s).claims = s.claims := rfl
@[simp] theorem addOp_wbs (cf : Nat) (o : Op) (s : State) : (addOp cf o s).wbs = s.wbs := rfl
@[simp] theorem addOp_flumes (cf : Nat) (o : Op) (s : State) : (addOp cf o s).flumes = s.flumes := rfl
@[simp] theorem addOp_weir (cf : Nat) (o : Op) (s : State) : (addOp cf o s).weir = s.weir := rfl
@[simp] theorem addOp_distr (cf : Nat) (o : Op) (s : State) : (addOp cf o s).distr = s.distr := rfl
@[simp] theorem addOp_fabric (cf : Nat) (o : Op) (s : State) : (addOp cf o s).fabric = s.fabric := rfl
@[simp] theorem addOp_mgmt (cf : Nat) (o : Op) (s : State) : (addOp cf o s).mgmt = s.mgmt := rfl
@[simp] theorem addOp_ticket (cf : Nat) (o : Op) (s : State) : (addOp cf o s).ticket = s.ticket := rfl
@[simp] theorem addOp_hostOut (cf : Nat) (o : Op) (s : State) : (addOp cf o s).hostOut = s.hostOut := rfl
@[simp] theorem addOp_hostHeld (cf : Nat) (o : Op) (s : State) : (addOp cf o s).hostHeld = s.hostHeld := rfl
@[simp] theorem addOp_time (cf : Nat) (o : Op) (s : State) : (addOp cf o s).time = s.time := rfl
@[simp] theorem addOp_late (cf : Nat) (o : Op) (s : State) : (addOp cf o s).late = s.late := rfl
@[simp] theorem addOp_tick (cf : Nat) (o : Op) (s : State) : (addOp cf o s).tick = s.tick := rfl
@[simp] theorem addOp_free (cf : Nat) (o : Op) (s : State) : (addOp cf o s).free = s.free := rfl
@[simp] theorem addOp_change (cf : Nat) (o : Op) (s : State) : (addOp cf o s).change = s.change := rfl
@[simp] theorem addOp_issues (cf : Nat) (o : Op) (s : State) : (addOp cf o s).issues = s.issues := rfl
@[simp] theorem addOp_agenda (cf : Nat) (o : Op) (s : State) : (addOp cf o s).agenda = s.agenda := rfl
@[simp] theorem addOp_turn (cf : Nat) (o : Op) (s : State) : (addOp cf o s).turn = s.turn := rfl

/-- A core made to differ in its age order only. -/
theorem core_youngestOf (c gid : Nat) (b : Bool) (s : State) (k : Nat) :
    { Machine.core (youngestOf c gid b s) k with age := [] } = { Machine.core s k with age := [] } := by
  unfold youngestOf modCore Machine.core vget vmod
  cases hc : s.cores[c]? with
  | none => simp
  | some x =>
    by_cases hk : k = c
    · subst hk
      have hlt : k < 384 := by
        rcases Nat.lt_or_ge k 384 with h | h
        · exact h
        · rw [Vector.getElem?_eq_none h] at hc
          cases hc
      rw [Vector.getElem?_eq_getElem hlt] at hc
      cases hc
      simp [hlt]
    · simp [Vector.getElem?_setIfInBounds_ne (Ne.symm hk)]

/-- Moving on touches a core's age order only. -/
theorem core_advance (n : Nat) (s : State) (k : Nat) :
    { Machine.core (advance n s) k with age := [] } = { Machine.core s k with age := [] } := by
  unfold advance
  by_cases h : ((slot s).urgent || (slot s).yieldsAt) = true
  · simp only [h, if_true, youngest]
    rw [core_youngestOf]
    rfl
  · simp only [h]
    rfl

/-- A transfer touches a core's age order only. -/
theorem core_transfer (n : Nat) (s : State) (k : Nat) :
    { Machine.core (transfer n s) k with age := [] } = { Machine.core s k with age := [] } := by
  unfold transfer
  by_cases h : ((slot s).urgent || (slot s).yieldsAt) = true
  · simp only [h, if_true, youngest]
    rw [core_youngestOf]
    rfl
  · simp only [h]
    rfl

/-- Nothing outside differs from itself. -/
theorem OutsideSame.refl (s : State) : OutsideSame s s :=
  ⟨rfl, rfl, rfl, rfl, rfl, rfl, rfl, fun _ => rfl, rfl, rfl, .refl s, rfl, rfl, rfl, rfl, rfl, rfl, rfl, rfl, rfl, rfl, rfl, rfl, rfl, rfl⟩

/-- The frame of two steps. -/
theorem OutsideSame.trans {s t u : State} (h : OutsideSame s t) (k : OutsideSame t u) : OutsideSame s u :=
  ⟨k.cur.trans h.cur, k.groups.trans h.groups, k.team.trans h.team, k.teams.trans h.teams, k.clusters.trans h.clusters, k.grids.trans h.grids,
   k.parts.trans h.parts, fun c => (k.cores c).trans (h.cores c), k.dies.trans h.dies, k.slices.trans h.slices, h.memory.trans k.memory,
   k.pins.trans h.pins, k.claims.trans h.claims, k.wbs.trans h.wbs, k.flumes.trans h.flumes, k.weir.trans h.weir, k.distr.trans h.distr,
   k.fabric.trans h.fabric, k.mgmt.trans h.mgmt, k.ticket.trans h.ticket, k.hostOut.trans h.hostOut, k.hostHeld.trans h.hostHeld,
   k.time.trans h.time, k.late.trans h.late, k.agenda.trans h.agenda⟩

/-- A change of the issuing group alone. -/
theorem outsideSame_modGrp (f : Group → Group) (s : State) : OutsideSame s (modGrp f s) :=
  ⟨rfl, rfl, rfl, rfl, rfl, rfl, rfl, fun _ => rfl, rfl, rfl, memorySame_of_eq rfl rfl rfl rfl, rfl, rfl, rfl, rfl, rfl, rfl, rfl, rfl, rfl, rfl, rfl, rfl, rfl, rfl⟩

/-- A change of the issuing slot alone. -/
theorem outsideSame_modCur (f : Slot → Slot) (s : State) : OutsideSame s (modCur f s) :=
  ⟨rfl, rfl, rfl, rfl, rfl, rfl, rfl, fun _ => rfl, rfl, rfl, memorySame_of_eq rfl rfl rfl rfl, rfl, rfl, rfl, rfl, rfl, rfl, rfl, rfl, rfl, rfl, rfl, rfl, rfl, rfl⟩

/-- Something changed: nothing but the counter. -/
theorem outsideSame_bump (s : State) : OutsideSame s (bump s) :=
  ⟨rfl, rfl, rfl, rfl, rfl, rfl, rfl, fun _ => rfl, rfl, rfl, memorySame_of_eq rfl rfl rfl rfl, rfl, rfl, rfl, rfl, rfl, rfl, rfl, rfl, rfl, rfl, rfl, rfl, rfl, rfl⟩

/-- One more issue counted: nothing but the counter. -/
theorem outsideSame_countIssue (s : State) : OutsideSame s (countIssue s) :=
  ⟨rfl, rfl, rfl, rfl, rfl, rfl, rfl, fun _ => rfl, rfl, rfl, memorySame_of_eq rfl rfl rfl rfl, rfl, rfl, rfl, rfl, rfl, rfl, rfl, rfl, rfl, rfl, rfl, rfl, rfl, rfl⟩

/-- An operation made outstanding is the group's. -/
theorem outsideSame_addOp (cf : Nat) (o : Op) (s : State) : OutsideSame s (addOp cf o s) :=
  ⟨rfl, rfl, rfl, rfl, rfl, rfl, rfl, fun _ => rfl, rfl, rfl, memorySame_of_eq rfl rfl rfl rfl, rfl, rfl, rfl, rfl, rfl, rfl, rfl, rfl, rfl, rfl, rfl, rfl, rfl, rfl⟩

/-- Moving on changes nothing outside the group but an age order. -/
theorem outsideSame_advance (n : Nat) (s : State) : OutsideSame s (advance n s) :=
  ⟨by simp, by simp, by simp, by simp, by simp, by simp, by simp, core_advance n s, by simp, by simp,
   memorySame_of_eq (by simp) (by simp) (by simp) (by simp), by simp, by simp, by simp, by simp, by simp, by simp, by simp, by simp, by simp, by simp,
   by simp, by simp, by simp, by simp⟩

/-- A transfer changes nothing outside the group but an age order. -/
theorem outsideSame_transfer (n : Nat) (s : State) : OutsideSame s (transfer n s) :=
  ⟨by simp, by simp, by simp, by simp, by simp, by simp, by simp, core_transfer n s, by simp, by simp,
   memorySame_of_eq (by simp) (by simp) (by simp) (by simp), by simp, by simp, by simp, by simp, by simp, by simp, by simp, by simp, by simp, by simp,
   by simp, by simp, by simp, by simp⟩

/-- The pops of an instruction without a mismatch are the group's. -/
theorem outsideSame_finish {x : Instr} {b s : State} (h : popBad b.grp (vecSrcs x) = 0) : OutsideSame s (finish x b s) := by
  have hp : OutsideSame s (popsOf x b s) := by
    unfold popsOf
    split
    · exact .refl s
    · rw [if_pos (by simp [h])]
      exact outsideSame_modGrp _ s
  unfold finish
  refine ((hp.trans ?_).trans (outsideSame_countIssue _)).trans (outsideSame_bump _)
  split
  · exact outsideSame_modGrp _ _
  · exact .refl _

end Sys2Proof.Machine
end

