-- ==== Sys2Proof/Laws/PerInstr.lean ====
section
/-! SUPPORT. The family Parses: an instruction's encoded words parse to it, one lemma per constructor. -/
namespace Sys2Proof.Laws.Parses
open Sys2Proof Sys2Proof.Machine

/-- The words that a well-formed instruction is encoded in parse to that instruction (R29, R32, R38, R65). -/
def Statement (i : Instr) : Prop := ∀ x, encode i = some x → i.wf = true → parse x = some i

/-- A check of a well-formed instruction holds. -/
theorem check_of_wf {i : Instr} (w : i.wf = true) {c : Flaw × Bool} (h : c ∈ i.info.checks) : c.2 = true := List.all_eq_true.1 w c h

/-- VMOV has AM = 0 (R133). -/
theorem bit_vmov {f : Comp} (w : (Instr.vmov f).wf = true) : f.opf.getLsbD 0 = false := by
  have h : opfNone f = true := check_of_wf w (c := (.opcodeField, opfNone f)) (by simp [Instr.info, Info.checks, CompInfo.checks, cRow])
  simp only [opfNone, beq_iff_eq] at h
  simp [h]

/-- VMOV from amax has AM = 1 (R133). -/
theorem bit_vmovAmax {f : Comp} (w : (Instr.vmovAmax f).wf = true) : f.opf.getLsbD 0 = true := by
  have h : (f.opfAt 0 1 == 1 && decide (f.opf.toNat ≤ 7)) = true :=
    check_of_wf w (c := (.opcodeField, f.opfAt 0 1 == 1 && decide (f.opf.toNat ≤ 7))) (by simp [Instr.info, Info.checks, CompInfo.checks, cRow])
  simp only [Bool.and_eq_true, beq_iff_eq, Comp.opfAt, Nat.shiftRight_zero] at h
  simp only [BitVec.getLsbD, Nat.testBit, Nat.shiftRight_zero]
  simp [Nat.one_and_eq_mod_two] at h ⊢
  exact h.1

/-- BARW has P = 0 (R195). -/
theorem bit_barw {f : MemF} (w : (Instr.barw f).wf = true) : f.off8.getLsbD 0 = false := by
  have h : mBarw false f = true := check_of_wf w (c := (.opcodeField, mBarw false f)) (by simp [Instr.info, Info.checks, MemInfo.checks, mRow])
  simp only [mBarw, beq_iff_eq] at h
  simp [h]

/-- BARW.p has P = 1 (R195). -/
theorem bit_barwP {f : MemF} (w : (Instr.barwP f).wf = true) : f.off8.getLsbD 0 = true := by
  have h : mBarw true f = true := check_of_wf w (c := (.opcodeField, mBarw true f)) (by simp [Instr.info, Info.checks, MemInfo.checks, mRow])
  simp only [mBarw, beq_iff_eq] at h
  simp [h]

theorem clauseHeader (h : Header) : Statement (.clauseHeader h) := by
  intro x e _
  cases e
  exact parse_header h
theorem nop (f : Ctl) : Statement (.nop f) := by
  intro x e _
  cases e
  exact parse_ctl (by decide) (by decide) (fun _ => rfl) (fun _ => rfl) rfl
theorem brk (f : Ctl) : Statement (.brk f) := by
  intro x e _
  cases e
  exact parse_ctl (by decide) (by decide) (fun _ => rfl) (fun _ => rfl) rfl
theorem trap (f : Ctl) : Statement (.trap f) := by
  intro x e _
  cases e
  exact parse_ctl (by decide) (by decide) (fun _ => rfl) (fun _ => rfl) rfl
theorem exit (f : Ctl) : Statement (.exit f) := by
  intro x e _
  cases e
  exact parse_ctl (by decide) (by decide) (fun _ => rfl) (fun _ => rfl) rfl
theorem bra (f : Ctl) : Statement (.bra f) := by
  intro x e _
  cases e
  exact parse_ctl (by decide) (by decide) (fun _ => rfl) (fun _ => rfl) rfl
theorem braNz (f : Ctl) : Statement (.braNz f) := by
  intro x e _
  cases e
  exact parse_ctl (by decide) (by decide) (fun _ => rfl) (fun _ => rfl) rfl
theorem braZ (f : Ctl) : Statement (.braZ f) := by
  intro x e _
  cases e
  exact parse_ctl (by decide) (by decide) (fun _ => rfl) (fun _ => rfl) rfl
theorem braEz (f : Ctl) : Statement (.braEz f) := by
  intro x e _
  cases e
  exact parse_ctl (by decide) (by decide) (fun _ => rfl) (fun _ => rfl) rfl
theorem brx (f : Ctl) : Statement (.brx f) := by
  intro x e _
  cases e
  exact parse_ctl (by decide) (by decide) (fun _ => rfl) (fun _ => rfl) rfl
theorem call (f : Ctl) : Statement (.call f) := by
  intro x e _
  cases e
  exact parse_ctl (by decide) (by decide) (fun _ => rfl) (fun _ => rfl) rfl
theorem ret (f : Ctl) : Statement (.ret f) := by
  intro x e _
  cases e
  exact parse_ctl (by decide) (by decide) (fun _ => rfl) (fun _ => rfl) rfl
theorem split (f : Ctl) : Statement (.split f) := by
  intro x e _
  cases e
  exact parse_ctl (by decide) (by decide) (fun _ => rfl) (fun _ => rfl) rfl
theorem join (f : Ctl) : Statement (.join f) := by
  intro x e _
  cases e
  exact parse_ctl (by decide) (by decide) (fun _ => rfl) (fun _ => rfl) rfl
theorem loop (f : Ctl) : Statement (.loop f) := by
  intro x e _
  cases e
  exact parse_ctl (by decide) (by decide) (fun _ => rfl) (fun _ => rfl) rfl
theorem rep (f : Ctl) : Statement (.rep f) := by
  intro x e _
  cases e
  exact parse_ctl (by decide) (by decide) (fun _ => rfl) (fun _ => rfl) rfl
theorem waitf (f : Ctl) : Statement (.waitf f) := by
  intro x e _
  cases e
  exact parse_ctl (by decide) (by decide) (fun _ => rfl) (fun _ => rfl) rfl
theorem yield (f : Ctl) : Statement (.yield f) := by
  intro x e _
  cases e
  exact parse_ctl (by decide) (by decide) (fun _ => rfl) (fun _ => rfl) rfl
theorem sadd (f : Comp) : Statement (.sadd f) := by
  intro x e _
  cases e
  exact parse_comp (by decide) (by decide) rfl
theorem ssub (f : Comp) : Statement (.ssub f) := by
  intro x e _
  cases e
  exact parse_comp (by decide) (by decide) rfl
theorem sand (f : Comp) : Statement (.sand f) := by
  intro x e _
  cases e
  exact parse_comp (by decide) (by decide) rfl
theorem sor (f : Comp) : Statement (.sor f) := by
  intro x e _
  cases e
  exact parse_comp (by decide) (by decide) rfl
theorem sxor (f : Comp) : Statement (.sxor f) := by
  intro x e _
  cases e
  exact parse_comp (by decide) (by decide) rfl
theorem sshl (f : Comp) : Statement (.sshl f) := by
  intro x e _
  cases e
  exact parse_comp (by decide) (by decide) rfl
theorem sshr (f : Comp) : Statement (.sshr f) := by
  intro x e _
  cases e
  exact parse_comp (by decide) (by decide) rfl
theorem ssar (f : Comp) : Statement (.ssar f) := by
  intro x e _
  cases e
  exact parse_comp (by decide) (by decide) rfl
theorem smin (f : Comp) : Statement (.smin f) := by
  intro x e _
  cases e
  exact parse_comp (by decide) (by decide) rfl
theorem smax (f : Comp) : Statement (.smax f) := by
  intro x e _
  cases e
  exact parse_comp (by decide) (by decide) rfl
theorem smul (f : Comp) : Statement (.smul f) := by
  intro x e _
  cases e
  exact parse_comp (by decide) (by decide) rfl
theorem smulh (f : Comp) : Statement (.smulh f) := by
  intro x e _
  cases e
  exact parse_comp (by decide) (by decide) rfl
theorem spopc (f : Comp) : Statement (.spopc f) := by
  intro x e _
  cases e
  exact parse_comp (by decide) (by decide) rfl
theorem sclz (f : Comp) : Statement (.sclz f) := by
  intro x e _
  cases e
  exact parse_comp (by decide) (by decide) rfl
theorem sffs (f : Comp) : Statement (.sffs f) := by
  intro x e _
  cases e
  exact parse_comp (by decide) (by decide) rfl
theorem snot (f : Comp) : Statement (.snot f) := by
  intro x e _
  cases e
  exact parse_comp (by decide) (by decide) rfl
theorem smad (f : Comp) : Statement (.smad f) := by
  intro x e _
  cases e
  exact parse_comp (by decide) (by decide) rfl
theorem sdiv (f : Comp) : Statement (.sdiv f) := by
  intro x e _
  cases e
  exact parse_comp (by decide) (by decide) rfl
theorem srem (f : Comp) : Statement (.srem f) := by
  intro x e _
  cases e
  exact parse_comp (by decide) (by decide) rfl
theorem sbfx (f : Comp) : Statement (.sbfx f) := by
  intro x e _
  cases e
  exact parse_comp (by decide) (by decide) rfl
theorem sbfi (f : Comp) : Statement (.sbfi f) := by
  intro x e _
  cases e
  exact parse_comp (by decide) (by decide) rfl
theorem ssel (f : Comp) : Statement (.ssel f) := by
  intro x e _
  cases e
  exact parse_comp (by decide) (by decide) rfl
theorem scmp (f : Comp) : Statement (.scmp f) := by
  intro x e _
  cases e
  exact parse_comp (by decide) (by decide) rfl
theorem smov (f : Comp) : Statement (.smov f) := by
  intro x e _
  cases e
  exact parse_comp (by decide) (by decide) rfl
theorem smovi (f : Comp) : Statement (.smovi f) := by
  intro x e _
  cases e
  exact parse_comp (by decide) (by decide) rfl
theorem slea (f : Comp) : Statement (.slea f) := by
  intro x e _
  cases e
  exact parse_comp (by decide) (by decide) rfl
theorem sfadd (f : Comp) : Statement (.sfadd f) := by
  intro x e _
  cases e
  exact parse_comp (by decide) (by decide) rfl
theorem sfsub (f : Comp) : Statement (.sfsub f) := by
  intro x e _
  cases e
  exact parse_comp (by decide) (by decide) rfl
theorem sfmul (f : Comp) : Statement (.sfmul f) := by
  intro x e _
  cases e
  exact parse_comp (by decide) (by decide) rfl
theorem sfdiv (f : Comp) : Statement (.sfdiv f) := by
  intro x e _
  cases e
  exact parse_comp (by decide) (by decide) rfl
theorem sfmin (f : Comp) : Statement (.sfmin f) := by
  intro x e _
  cases e
  exact parse_comp (by decide) (by decide) rfl
theorem sfmax (f : Comp) : Statement (.sfmax f) := by
  intro x e _
  cases e
  exact parse_comp (by decide) (by decide) rfl
theorem sffma (f : Comp) : Statement (.sffma f) := by
  intro x e _
  cases e
  exact parse_comp (by decide) (by decide) rfl
theorem sfcmp (f : Comp) : Statement (.sfcmp f) := by
  intro x e _
  cases e
  exact parse_comp (by decide) (by decide) rfl
theorem sfcvt (f : Comp) : Statement (.sfcvt f) := by
  intro x e _
  cases e
  exact parse_comp (by decide) (by decide) rfl
theorem sysr (f : Ctl) : Statement (.sysr f) := by
  intro x e _
  cases e
  exact parse_ctl (by decide) (by decide) (fun _ => rfl) (fun _ => rfl) rfl
theorem sysw (f : Ctl) : Statement (.sysw f) := by
  intro x e _
  cases e
  exact parse_ctl (by decide) (by decide) (fun _ => rfl) (fun _ => rfl) rfl
theorem time (f : Ctl) : Statement (.time f) := by
  intro x e _
  cases e
  exact parse_ctl (by decide) (by decide) (fun _ => rfl) (fun _ => rfl) rfl
theorem idx (f : Ctl) : Statement (.idx f) := by
  intro x e _
  cases e
  exact parse_ctl (by decide) (by decide) (fun _ => rfl) (fun _ => rfl) rfl
theorem launch (f : Ctl) : Statement (.launch f) := by
  intro x e _
  cases e
  exact parse_ctl (by decide) (by decide) (fun _ => rfl) (fun _ => rfl) rfl
theorem icinv (f : Ctl) : Statement (.icinv f) := by
  intro x e _
  cases e
  exact parse_ctl (by decide) (by decide) (fun _ => rfl) (fun _ => rfl) rfl
theorem vadd (f : Comp) : Statement (.vadd f) := by
  intro x e _
  cases e
  exact parse_comp (by decide) (by decide) rfl
theorem vsub (f : Comp) : Statement (.vsub f) := by
  intro x e _
  cases e
  exact parse_comp (by decide) (by decide) rfl
theorem vand (f : Comp) : Statement (.vand f) := by
  intro x e _
  cases e
  exact parse_comp (by decide) (by decide) rfl
theorem vor (f : Comp) : Statement (.vor f) := by
  intro x e _
  cases e
  exact parse_comp (by decide) (by decide) rfl
theorem vxor (f : Comp) : Statement (.vxor f) := by
  intro x e _
  cases e
  exact parse_comp (by decide) (by decide) rfl
theorem vshl (f : Comp) : Statement (.vshl f) := by
  intro x e _
  cases e
  exact parse_comp (by decide) (by decide) rfl
theorem vshr (f : Comp) : Statement (.vshr f) := by
  intro x e _
  cases e
  exact parse_comp (by decide) (by decide) rfl
theorem vsar (f : Comp) : Statement (.vsar f) := by
  intro x e _
  cases e
  exact parse_comp (by decide) (by decide) rfl
theorem vmin (f : Comp) : Statement (.vmin f) := by
  intro x e _
  cases e
  exact parse_comp (by decide) (by decide) rfl
theorem vmax (f : Comp) : Statement (.vmax f) := by
  intro x e _
  cases e
  exact parse_comp (by decide) (by decide) rfl
theorem vmul (f : Comp) : Statement (.vmul f) := by
  intro x e _
  cases e
  exact parse_comp (by decide) (by decide) rfl
theorem vmulh (f : Comp) : Statement (.vmulh f) := by
  intro x e _
  cases e
  exact parse_comp (by decide) (by decide) rfl
theorem vpopc (f : Comp) : Statement (.vpopc f) := by
  intro x e _
  cases e
  exact parse_comp (by decide) (by decide) rfl
theorem vclz (f : Comp) : Statement (.vclz f) := by
  intro x e _
  cases e
  exact parse_comp (by decide) (by decide) rfl
theorem vabs (f : Comp) : Statement (.vabs f) := by
  intro x e _
  cases e
  exact parse_comp (by decide) (by decide) rfl
theorem vnot (f : Comp) : Statement (.vnot f) := by
  intro x e _
  cases e
  exact parse_comp (by decide) (by decide) rfl
theorem vmad (f : Comp) : Statement (.vmad f) := by
  intro x e _
  cases e
  exact parse_comp (by decide) (by decide) rfl
theorem vbfx (f : Comp) : Statement (.vbfx f) := by
  intro x e _
  cases e
  exact parse_comp (by decide) (by decide) rfl
theorem vbfi (f : Comp) : Statement (.vbfi f) := by
  intro x e _
  cases e
  exact parse_comp (by decide) (by decide) rfl
theorem vsel (f : Comp) : Statement (.vsel f) := by
  intro x e _
  cases e
  exact parse_comp (by decide) (by decide) rfl
theorem vcmp (f : Comp) : Statement (.vcmp f) := by
  intro x e _
  cases e
  exact parse_comp (by decide) (by decide) rfl
theorem vmov (f : Comp) : Statement (.vmov f) := by
  intro x e w
  cases e
  exact parse_comp (by decide) (by decide) ((congrArg _ (bit_vmov w)).trans rfl)
theorem vmovAmax (f : Comp) : Statement (.vmovAmax f) := by
  intro x e w
  cases e
  exact parse_comp (by decide) (by decide) ((congrArg _ (bit_vmovAmax w)).trans rfl)
theorem vmovi (f : Comp) : Statement (.vmovi f) := by
  intro x e _
  cases e
  exact parse_comp (by decide) (by decide) rfl
theorem vadds (f : Comp) : Statement (.vadds f) := by
  intro x e _
  cases e
  exact parse_comp (by decide) (by decide) rfl
theorem vsubs (f : Comp) : Statement (.vsubs f) := by
  intro x e _
  cases e
  exact parse_comp (by decide) (by decide) rfl
theorem vfadd (f : Comp) : Statement (.vfadd f) := by
  intro x e _
  cases e
  exact parse_comp (by decide) (by decide) rfl
theorem vfsub (f : Comp) : Statement (.vfsub f) := by
  intro x e _
  cases e
  exact parse_comp (by decide) (by decide) rfl
theorem vfmul (f : Comp) : Statement (.vfmul f) := by
  intro x e _
  cases e
  exact parse_comp (by decide) (by decide) rfl
theorem vfmin (f : Comp) : Statement (.vfmin f) := by
  intro x e _
  cases e
  exact parse_comp (by decide) (by decide) rfl
theorem vfmax (f : Comp) : Statement (.vfmax f) := by
  intro x e _
  cases e
  exact parse_comp (by decide) (by decide) rfl
theorem vfabs (f : Comp) : Statement (.vfabs f) := by
  intro x e _
  cases e
  exact parse_comp (by decide) (by decide) rfl
theorem vfneg (f : Comp) : Statement (.vfneg f) := by
  intro x e _
  cases e
  exact parse_comp (by decide) (by decide) rfl
theorem vfcls (f : Comp) : Statement (.vfcls f) := by
  intro x e _
  cases e
  exact parse_comp (by decide) (by decide) rfl
theorem vffma (f : Comp) : Statement (.vffma f) := by
  intro x e _
  cases e
  exact parse_comp (by decide) (by decide) rfl
theorem vfcmp (f : Comp) : Statement (.vfcmp f) := by
  intro x e _
  cases e
  exact parse_comp (by decide) (by decide) rfl
theorem vfdiv (f : Comp) : Statement (.vfdiv f) := by
  intro x e _
  cases e
  exact parse_comp (by decide) (by decide) rfl
theorem vfrcp (f : Comp) : Statement (.vfrcp f) := by
  intro x e _
  cases e
  exact parse_comp (by decide) (by decide) rfl
theorem vfrsq (f : Comp) : Statement (.vfrsq f) := by
  intro x e _
  cases e
  exact parse_comp (by decide) (by decide) rfl
theorem vfexp2 (f : Comp) : Statement (.vfexp2 f) := by
  intro x e _
  cases e
  exact parse_comp (by decide) (by decide) rfl
theorem vflog2 (f : Comp) : Statement (.vflog2 f) := by
  intro x e _
  cases e
  exact parse_comp (by decide) (by decide) rfl
theorem vfsin (f : Comp) : Statement (.vfsin f) := by
  intro x e _
  cases e
  exact parse_comp (by decide) (by decide) rfl
theorem vfcos (f : Comp) : Statement (.vfcos f) := by
  intro x e _
  cases e
  exact parse_comp (by decide) (by decide) rfl
theorem vfsqrt (f : Comp) : Statement (.vfsqrt f) := by
  intro x e _
  cases e
  exact parse_comp (by decide) (by decide) rfl
theorem vftanh (f : Comp) : Statement (.vftanh f) := by
  intro x e _
  cases e
  exact parse_comp (by decide) (by decide) rfl
theorem vcvt (f : Comp) : Statement (.vcvt f) := by
  intro x e _
  cases e
  exact parse_comp (by decide) (by decide) rfl
theorem vpack (f : Comp) : Statement (.vpack f) := by
  intro x e _
  cases e
  exact parse_comp (by decide) (by decide) rfl
theorem vunpk (f : Comp) : Statement (.vunpk f) := by
  intro x e _
  cases e
  exact parse_comp (by decide) (by decide) rfl
theorem vdoth (f : Comp) : Statement (.vdoth f) := by
  intro x e _
  cases e
  exact parse_comp (by decide) (by decide) rfl
theorem vdotb (f : Comp) : Statement (.vdotb f) := by
  intro x e _
  cases e
  exact parse_comp (by decide) (by decide) rfl
theorem vdotn (f : Comp) : Statement (.vdotn f) := by
  intro x e _
  cases e
  exact parse_comp (by decide) (by decide) rfl
theorem vqadd (f : Comp) : Statement (.vqadd f) := by
  intro x e _
  cases e
  exact parse_comp (by decide) (by decide) rfl
theorem vqsub (f : Comp) : Statement (.vqsub f) := by
  intro x e _
  cases e
  exact parse_comp (by decide) (by decide) rfl
theorem vqmul (f : Comp) : Statement (.vqmul f) := by
  intro x e _
  cases e
  exact parse_comp (by decide) (by decide) rfl
theorem vqdiv (f : Comp) : Statement (.vqdiv f) := by
  intro x e _
  cases e
  exact parse_comp (by decide) (by decide) rfl
theorem vqcmp (f : Comp) : Statement (.vqcmp f) := by
  intro x e _
  cases e
  exact parse_comp (by decide) (by decide) rfl
theorem vqcvt (f : Comp) : Statement (.vqcvt f) := by
  intro x e _
  cases e
  exact parse_comp (by decide) (by decide) rfl
theorem vqrnd (f : Comp) : Statement (.vqrnd f) := by
  intro x e _
  cases e
  exact parse_comp (by decide) (by decide) rfl
theorem vqfma (f : Comp) : Statement (.vqfma f) := by
  intro x e _
  cases e
  exact parse_comp (by decide) (by decide) rfl
theorem vshfl (f : Comp) : Statement (.vshfl f) := by
  intro x e _
  cases e
  exact parse_comp (by decide) (by decide) rfl
theorem vshfi (f : Comp) : Statement (.vshfi f) := by
  intro x e _
  cases e
  exact parse_comp (by decide) (by decide) rfl
theorem vrfal (f : Comp) : Statement (.vrfal f) := by
  intro x e _
  cases e
  exact parse_comp (by decide) (by decide) rfl
theorem vrdln (f : Comp) : Statement (.vrdln f) := by
  intro x e _
  cases e
  exact parse_comp (by decide) (by decide) rfl
theorem vwrln (f : Comp) : Statement (.vwrln f) := by
  intro x e _
  cases e
  exact parse_comp (by decide) (by decide) rfl
theorem vredu (f : Comp) : Statement (.vredu f) := by
  intro x e _
  cases e
  exact parse_comp (by decide) (by decide) rfl
theorem vscan (f : Comp) : Statement (.vscan f) := by
  intro x e _
  cases e
  exact parse_comp (by decide) (by decide) rfl
theorem vmatch (f : Comp) : Statement (.vmatch f) := by
  intro x e _
  cases e
  exact parse_comp (by decide) (by decide) rfl
theorem vredm (f : Comp) : Statement (.vredm f) := by
  intro x e _
  cases e
  exact parse_comp (by decide) (by decide) rfl
theorem ld (f : MemF) : Statement (.ld f) := by
  intro x e _
  cases e
  exact parse_mem (by decide) (by decide) (fun _ => rfl) rfl
theorem st (f : MemF) : Statement (.st f) := by
  intro x e _
  cases e
  exact parse_mem (by decide) (by decide) (fun _ => rfl) rfl
theorem ldu (f : MemF) : Statement (.ldu f) := by
  intro x e _
  cases e
  exact parse_mem (by decide) (by decide) (fun _ => rfl) rfl
theorem stu (f : MemF) : Statement (.stu f) := by
  intro x e _
  cases e
  exact parse_mem (by decide) (by decide) (fun _ => rfl) rfl
theorem lds (f : MemF) : Statement (.lds f) := by
  intro x e _
  cases e
  exact parse_mem (by decide) (by decide) (fun _ => rfl) rfl
theorem sts (f : MemF) : Statement (.sts f) := by
  intro x e _
  cases e
  exact parse_mem (by decide) (by decide) (fun _ => rfl) rfl
theorem ldc (f : MemF) : Statement (.ldc f) := by
  intro x e _
  cases e
  exact parse_mem (by decide) (by decide) (fun _ => rfl) rfl
theorem stc (f : MemF) : Statement (.stc f) := by
  intro x e _
  cases e
  exact parse_mem (by decide) (by decide) (fun _ => rfl) rfl
theorem ldv (f : MemF) : Statement (.ldv f) := by
  intro x e _
  cases e
  exact parse_mem (by decide) (by decide) (fun _ => rfl) rfl
theorem clrv (f : MemF) : Statement (.clrv f) := by
  intro x e _
  cases e
  exact parse_mem (by decide) (by decide) (fun _ => rfl) rfl
theorem pref (f : MemF) : Statement (.pref f) := by
  intro x e _
  cases e
  exact parse_mem (by decide) (by decide) (fun _ => rfl) rfl
theorem cinv (f : MemF) : Statement (.cinv f) := by
  intro x e _
  cases e
  exact parse_mem (by decide) (by decide) (fun _ => rfl) rfl
theorem cwb (f : MemF) : Statement (.cwb f) := by
  intro x e _
  cases e
  exact parse_mem (by decide) (by decide) (fun _ => rfl) rfl
theorem llck (f : MemF) : Statement (.llck f) := by
  intro x e _
  cases e
  exact parse_mem (by decide) (by decide) (fun _ => rfl) rfl
theorem lunl (f : MemF) : Statement (.lunl f) := by
  intro x e _
  cases e
  exact parse_mem (by decide) (by decide) (fun _ => rfl) rfl
theorem presQuery (f : MemF) : Statement (.presQuery f) := by
  intro x e _
  cases e
  exact parse_mem (by decide) (by decide) (fun _ => rfl) rfl
theorem presSet (f : MemF) : Statement (.presSet f) := by
  intro x e _
  cases e
  exact parse_mem (by decide) (by decide) (fun _ => rfl) rfl
theorem presClr (f : MemF) : Statement (.presClr f) := by
  intro x e _
  cases e
  exact parse_mem (by decide) (by decide) (fun _ => rfl) rfl
theorem fence (f : MemF) : Statement (.fence f) := by
  intro x e _
  cases e
  exact parse_mem (by decide) (by decide) (fun _ => rfl) rfl
theorem rdsb (f : MemF) : Statement (.rdsb f) := by
  intro x e _
  cases e
  exact parse_mem (by decide) (by decide) (fun _ => rfl) rfl
theorem rdse (f : MemF) : Statement (.rdse f) := by
  intro x e _
  cases e
  exact parse_mem (by decide) (by decide) (fun _ => rfl) rfl
theorem publ (f : MemF) : Statement (.publ f) := by
  intro x e _
  cases e
  exact parse_mem (by decide) (by decide) (fun _ => rfl) rfl
theorem retq (f : MemF) : Statement (.retq f) := by
  intro x e _
  cases e
  exact parse_mem (by decide) (by decide) (fun _ => rfl) rfl
theorem gpwt (f : MemF) : Statement (.gpwt f) := by
  intro x e _
  cases e
  exact parse_mem (by decide) (by decide) (fun _ => rfl) rfl
theorem gpqy (f : MemF) : Statement (.gpqy f) := by
  intro x e _
  cases e
  exact parse_mem (by decide) (by decide) (fun _ => rfl) rfl
theorem atomAdd (f : MemF) : Statement (.atomAdd f) := by
  intro x e _
  cases e
  exact parse_mem (by decide) (by decide) (fun _ => rfl) rfl
theorem atomMin (f : MemF) : Statement (.atomMin f) := by
  intro x e _
  cases e
  exact parse_mem (by decide) (by decide) (fun _ => rfl) rfl
theorem atomMax (f : MemF) : Statement (.atomMax f) := by
  intro x e _
  cases e
  exact parse_mem (by decide) (by decide) (fun _ => rfl) rfl
theorem atomAnd (f : MemF) : Statement (.atomAnd f) := by
  intro x e _
  cases e
  exact parse_mem (by decide) (by decide) (fun _ => rfl) rfl
theorem atomOr (f : MemF) : Statement (.atomOr f) := by
  intro x e _
  cases e
  exact parse_mem (by decide) (by decide) (fun _ => rfl) rfl
theorem atomXor (f : MemF) : Statement (.atomXor f) := by
  intro x e _
  cases e
  exact parse_mem (by decide) (by decide) (fun _ => rfl) rfl
theorem atomXchg (f : MemF) : Statement (.atomXchg f) := by
  intro x e _
  cases e
  exact parse_mem (by decide) (by decide) (fun _ => rfl) rfl
theorem atomFaddF32 (f : MemF) : Statement (.atomFaddF32 f) := by
  intro x e _
  cases e
  exact parse_mem (by decide) (by decide) (fun _ => rfl) rfl
theorem atomFaddBf16 (f : MemF) : Statement (.atomFaddBf16 f) := by
  intro x e _
  cases e
  exact parse_mem (by decide) (by decide) (fun _ => rfl) rfl
theorem atomQadd (f : MemF) : Statement (.atomQadd f) := by
  intro x e _
  cases e
  exact parse_mem (by decide) (by decide) (fun _ => rfl) rfl
theorem redAdd (f : MemF) : Statement (.redAdd f) := by
  intro x e _
  cases e
  exact parse_mem (by decide) (by decide) (fun _ => rfl) rfl
theorem redMin (f : MemF) : Statement (.redMin f) := by
  intro x e _
  cases e
  exact parse_mem (by decide) (by decide) (fun _ => rfl) rfl
theorem redMax (f : MemF) : Statement (.redMax f) := by
  intro x e _
  cases e
  exact parse_mem (by decide) (by decide) (fun _ => rfl) rfl
theorem redAnd (f : MemF) : Statement (.redAnd f) := by
  intro x e _
  cases e
  exact parse_mem (by decide) (by decide) (fun _ => rfl) rfl
theorem redOr (f : MemF) : Statement (.redOr f) := by
  intro x e _
  cases e
  exact parse_mem (by decide) (by decide) (fun _ => rfl) rfl
theorem redXor (f : MemF) : Statement (.redXor f) := by
  intro x e _
  cases e
  exact parse_mem (by decide) (by decide) (fun _ => rfl) rfl
theorem redXchg (f : MemF) : Statement (.redXchg f) := by
  intro x e _
  cases e
  exact parse_mem (by decide) (by decide) (fun _ => rfl) rfl
theorem redFaddF32 (f : MemF) : Statement (.redFaddF32 f) := by
  intro x e _
  cases e
  exact parse_mem (by decide) (by decide) (fun _ => rfl) rfl
theorem redFaddBf16 (f : MemF) : Statement (.redFaddBf16 f) := by
  intro x e _
  cases e
  exact parse_mem (by decide) (by decide) (fun _ => rfl) rfl
theorem redQadd (f : MemF) : Statement (.redQadd f) := by
  intro x e _
  cases e
  exact parse_mem (by decide) (by decide) (fun _ => rfl) rfl
theorem acas (f : MemF) : Statement (.acas f) := by
  intro x e _
  cases e
  exact parse_mem (by decide) (by decide) (fun _ => rfl) rfl
theorem barv (f : MemF) : Statement (.barv f) := by
  intro x e _
  cases e
  exact parse_mem (by decide) (by decide) (fun _ => rfl) rfl
theorem barw (f : MemF) : Statement (.barw f) := by
  intro x e w
  cases e
  exact parse_mem (by decide) (by decide) (fun _ => rfl) ((congrArg _ (bit_barw w)).trans rfl)
theorem barwP (f : MemF) : Statement (.barwP f) := by
  intro x e w
  cases e
  exact parse_mem (by decide) (by decide) (fun _ => rfl) ((congrArg _ (bit_barwP w)).trans rfl)
theorem bars (f : MemF) : Statement (.bars f) := by
  intro x e _
  cases e
  exact parse_mem (by decide) (by decide) (fun _ => rfl) rfl
theorem sigp (f : MemF) : Statement (.sigp f) := by
  intro x e _
  cases e
  exact parse_mem (by decide) (by decide) (fun _ => rfl) rfl
theorem sigw (f : MemF) : Statement (.sigw f) := by
  intro x e _
  cases e
  exact parse_mem (by decide) (by decide) (fun _ => rfl) rfl
theorem sigwSatisfied (id : Nat) : Statement (.sigwSatisfied id) := by
  intro x h _
  cases h
theorem lease (f : Ctl) : Statement (.lease f) := by
  intro x e _
  cases e
  exact parse_ctl (by decide) (by decide) (fun _ => rfl) (fun _ => rfl) rfl
theorem rels (f : Ctl) : Statement (.rels f) := by
  intro x e _
  cases e
  exact parse_ctl (by decide) (by decide) (fun _ => rfl) (fun _ => rfl) rfl
theorem gang (f : Ctl) : Statement (.gang f) := by
  intro x e _
  cases e
  exact parse_ctl (by decide) (by decide) (fun _ => rfl) (fun _ => rfl) rfl
theorem mma (f : Ctl) : Statement (.mma f) := by
  intro x e _
  cases e
  exact parse_ctl (by decide) (by decide) (fun _ => rfl) (fun _ => rfl) rfl
theorem mzero (f : Ctl) : Statement (.mzero f) := by
  intro x e _
  cases e
  exact parse_ctl (by decide) (by decide) (fun _ => rfl) (fun _ => rfl) rfl
theorem mdrn (f : Ctl) : Statement (.mdrn f) := by
  intro x e _
  cases e
  exact parse_ctl (by decide) (by decide) (fun _ => rfl) (fun _ => rfl) rfl
theorem ldfr (f : Ctl) : Statement (.ldfr f) := by
  intro x e _
  cases e
  exact parse_ctl (by decide) (by decide) (fun _ => rfl) (fun _ => rfl) rfl
theorem mstat (f : Ctl) : Statement (.mstat f) := by
  intro x e _
  cases e
  exact parse_ctl (by decide) (by decide) (fun _ => rfl) (fun _ => rfl) rfl
theorem flcp (f : Ctl) : Statement (.flcp f) := by
  intro x e _
  cases e
  exact parse_ctl (by decide) (by decide) (fun _ => rfl) (fun _ => rfl) rfl
theorem flmc (f : Ctl) : Statement (.flmc f) := by
  intro x e _
  cases e
  exact parse_ctl (by decide) (by decide) (fun _ => rfl) (fun _ => rfl) rfl
theorem flrd (f : Ctl) : Statement (.flrd f) := by
  intro x e _
  cases e
  exact parse_ctl (by decide) (by decide) (fun _ => rfl) (fun _ => rfl) rfl
theorem flwt (f : Ctl) : Statement (.flwt f) := by
  intro x e _
  cases e
  exact parse_ctl (by decide) (by decide) (fun _ => rfl) (fun _ => rfl) rfl
theorem flst (f : Ctl) : Statement (.flst f) := by
  intro x e _
  cases e
  exact parse_ctl (by decide) (by decide) (fun _ => rfl) (fun _ => rfl) rfl
theorem hrst (f : Ctl) : Statement (.hrst f) := by
  intro x e _
  cases e
  exact parse_ctl (by decide) (by decide) (fun _ => rfl) (fun _ => rfl) rfl
theorem hrsp (f : Ctl) : Statement (.hrsp f) := by
  intro x e _
  cases e
  exact parse_ctl (by decide) (by decide) (fun _ => rfl) (fun _ => rfl) rfl
theorem hrqs (f : Ctl) : Statement (.hrqs f) := by
  intro x e _
  cases e
  exact parse_ctl (by decide) (by decide) (fun _ => rfl) (fun _ => rfl) rfl
theorem walkComplete (part : BitVec 4) (page : Nat) : Statement (.walkComplete part page) := by
  intro x h _
  cases h
theorem operationComplete (id : Nat) : Statement (.operationComplete id) := by
  intro x h _
  cases h
theorem memoryOpComplete (id : Nat) : Statement (.memoryOpComplete id) := by
  intro x h _
  cases h
theorem atomicPerform (id : Nat) : Statement (.atomicPerform id) := by
  intro x h _
  cases h
theorem homeWritePerform (die line : Nat) : Statement (.homeWritePerform die line) := by
  intro x h _
  cases h
theorem staleMapRetry (core : Nat) (part : BitVec 4) : Statement (.staleMapRetry core part) := by
  intro x h _
  cases h
theorem trapReport (gid : Nat) : Statement (.trapReport gid) := by
  intro x h _
  cases h
theorem trapHandlerEntry (gid : Nat) : Statement (.trapHandlerEntry gid) := by
  intro x h _
  cases h
theorem groupRetire (gid : Nat) : Statement (.groupRetire gid) := by
  intro x h _
  cases h
theorem gridComplete (grid : Nat) : Statement (.gridComplete grid) := by
  intro x h _
  cases h
theorem regionAbort (gid : Nat) : Statement (.regionAbort gid) := by
  intro x h _
  cases h
theorem preempt (part : BitVec 4) (v : Word) : Statement (.preempt part v) := by
  intro x h _
  cases h
theorem preemptDeferExpire (part : BitVec 4) (v : Word) : Statement (.preemptDeferExpire part v) := by
  intro x h _
  cases h
theorem teamSave (tid : Nat) : Statement (.teamSave tid) := by
  intro x h _
  cases h
theorem resume (part : BitVec 4) (v : Word) : Statement (.resume part v) := by
  intro x h _
  cases h
theorem remove (part : BitVec 4) (v : Word) : Statement (.remove part v) := by
  intro x h _
  cases h
theorem replayPage (part : BitVec 4) (v : Word) : Statement (.replayPage part v) := by
  intro x h _
  cases h
theorem replayToken (part : BitVec 4) (v : Word) : Statement (.replayToken part v) := by
  intro x h _
  cases h
theorem tlbInvalidatePage (part : BitVec 4) (v : Word) : Statement (.tlbInvalidatePage part v) := by
  intro x h _
  cases h
theorem tlbInvalidateAll (part : BitVec 4) (v : Word) : Statement (.tlbInvalidateAll part v) := by
  intro x h _
  cases h
theorem weirAttempt : Statement (.weirAttempt) := by
  intro x h _
  cases h
theorem weirSumDone : Statement (.weirSumDone) := by
  intro x h _
  cases h
theorem weirAdopted (cores : List Nat) : Statement (.weirAdopted cores) := by
  intro x h _
  cases h
theorem weirFree : Statement (.weirFree) := by
  intro x h _
  cases h
theorem weirAppend : Statement (.weirAppend) := by
  intro x h _
  cases h
theorem graceStall : Statement (.graceStall) := by
  intro x h _
  cases h
theorem podAdvance : Statement (.podAdvance) := by
  intro x h _
  cases h
theorem mapChange (part : BitVec 4) (off : Nat) (v : Word) : Statement (.mapChange part off v) := by
  intro x h _
  cases h
theorem mapLineHandover (part : BitVec 4) (line : Nat) : Statement (.mapLineHandover part line) := by
  intro x h _
  cases h
theorem mapChangeComplete (part : BitVec 4) : Statement (.mapChangeComplete part) := by
  intro x h _
  cases h
theorem stackUncorrectable (line : Nat) (words : List Word) : Statement (.stackUncorrectable line words) := by
  intro x h _
  cases h
theorem hostWrite (fn : BitVec 5) (pa : HostAddr) (bytes : List Byte) : Statement (.hostWrite fn pa bytes) := by
  intro x h _
  cases h
theorem hostRead (fn : BitVec 5) (sp : HostSpace) (pa n : Nat) : Statement (.hostRead fn sp pa n) := by
  intro x h _
  cases h
theorem hqdoor (part : BitVec 4) (q : BitVec 6) (v : Word) : Statement (.hqdoor part q v) := by
  intro x h _
  cases h
theorem hqidxHalt (part : BitVec 4) (q : BitVec 6) (v : Word) : Statement (.hqidxHalt part q v) := by
  intro x h _
  cases h
theorem packetTake (part : BitVec 4) (q : BitVec 6) : Statement (.packetTake part q) := by
  intro x h _
  cases h
theorem launchQueueTake (part : BitVec 4) : Statement (.launchQueueTake part) := by
  intro x h _
  cases h
theorem teamStart (field : Nat) : Statement (.teamStart field) := by
  intro x h _
  cases h
theorem clusterStart (grid : Nat) : Statement (.clusterStart grid) := by
  intro x h _
  cases h
theorem tcbSend (grid : Nat) : Statement (.tcbSend grid) := by
  intro x h _
  cases h
theorem stealRequest (field : Nat) : Statement (.stealRequest field) := by
  intro x h _
  cases h
theorem tcbArrival (field : Nat) : Statement (.tcbArrival field) := by
  intro x h _
  cases h
theorem slotUrgent (gid : Nat) (slot : Bool) : Statement (.slotUrgent gid slot) := by
  intro x h _
  cases h
theorem leaseGrant (core : Nat) : Statement (.leaseGrant core) := by
  intro x h _
  cases h
theorem leaseExpire (core : Nat) : Statement (.leaseExpire core) := by
  intro x h _
  cases h
theorem jointMmaStart (tid : Nat) : Statement (.jointMmaStart tid) := by
  intro x h _
  cases h
theorem flumeLineArrival (id place : Nat) : Statement (.flumeLineArrival id place) := by
  intro x h _
  cases h
theorem flumeComplete (id : Nat) : Statement (.flumeComplete id) := by
  intro x h _
  cases h
theorem headraceFetchReturn (gid : Nat) (q : BitVec 2) : Statement (.headraceFetchReturn gid q) := by
  intro x h _
  cases h
theorem numberedFlitReceive (link : Nat) (x : Flit) : Statement (.numberedFlitReceive link x) := by
  intro x h _
  cases h
theorem controlFlitReceive (link : Nat) (x : Flit) : Statement (.controlFlitReceive link x) := by
  intro x h _
  cases h
theorem replayTimeout (link : Nat) : Statement (.replayTimeout link) := by
  intro x h _
  cases h
theorem relayForward (link : Nat) : Statement (.relayForward link) := by
  intro x h _
  cases h
theorem rdl (h : FabHdr) (d : List TWord) : Statement (.rdl h d) := by
  intro x h _
  cases h
theorem rdh (h : FabHdr) (d : List TWord) : Statement (.rdh h d) := by
  intro x h _
  cases h
theorem wrl (h : FabHdr) (d : List TWord) : Statement (.wrl h d) := by
  intro x h _
  cases h
theorem wrs (h : FabHdr) (d : List TWord) : Statement (.wrs h d) := by
  intro x h _
  cases h
theorem atm (h : FabHdr) (d : List TWord) : Statement (.atm h d) := by
  intro x h _
  cases h
theorem fabricRed (h : FabHdr) (d : List TWord) : Statement (.fabricRed h d) := by
  intro x h _
  cases h
theorem clb (h : FabHdr) (d : List TWord) : Statement (.clb h d) := by
  intro x h _
  cases h
theorem vld (h : FabHdr) (d : List TWord) : Statement (.vld h d) := by
  intro x h _
  cases h
theorem wat (h : FabHdr) (d : List TWord) : Statement (.wat h d) := by
  intro x h _
  cases h
theorem clm (h : FabHdr) (d : List TWord) : Statement (.clm h d) := by
  intro x h _
  cases h
theorem rdata (h : FabHdr) (d : List TWord) : Statement (.rdata h d) := by
  intro x h _
  cases h
theorem rdone (h : FabHdr) (d : List TWord) : Statement (.rdone h d) := by
  intro x h _
  cases h
theorem rnack (h : FabHdr) (d : List TWord) : Statement (.rnack h d) := by
  intro x h _
  cases h
theorem adopt (p : Word) : Statement (.adopt p) := by
  intro x h _
  cases h
theorem report (dev : BitVec 4) (p e : Word) (demand : Bool) : Statement (.report dev p e demand) := by
  intro x h _
  cases h
theorem scrub (dev : BitVec 4) (base granules ticket : Nat) : Statement (.scrub dev base granules ticket) := by
  intro x h _
  cases h
theorem scrubDone (dev : BitVec 4) (ticket : Nat) : Statement (.scrubDone dev ticket) := by
  intro x h _
  cases h
theorem linkDownExchange (link : Nat) (seq : BitVec 12) : Statement (.linkDownExchange link seq) := by
  intro x h _
  cases h
theorem channelsLit (link : Nat) (lit : Word) : Statement (.channelsLit link lit) := by
  intro x h _
  cases h
theorem lossOfLight (link : Nat) (rx : Bool) (dark : Word) : Statement (.lossOfLight link rx dark) := by
  intro x h _
  cases h
theorem spareTrained (spare : BitVec 3) : Statement (.spareTrained spare) := by
  intro x h _
  cases h
theorem channelLightReturn (link : Nat) (rx : Bool) (lit : Word) : Statement (.channelLightReturn link rx lit) := by
  intro x h _
  cases h
theorem keyLimit (link : Nat) (c : BitVec 2) : Statement (.keyLimit link c) := by
  intro x h _
  cases h
theorem linkctlRetrain (link : Nat) (v : Word) : Statement (.linkctlRetrain link v) := by
  intro x h _
  cases h
theorem linkctlRotate (link : Nat) (v : Word) : Statement (.linkctlRotate link v) := by
  intro x h _
  cases h
theorem rotationComplete (link : Nat) : Statement (.rotationComplete link) := by
  intro x h _
  cases h
theorem keyloadTransmit (link : Nat) : Statement (.keyloadTransmit link) := by
  intro x h _
  cases h
theorem keyloadReceive (link : Nat) : Statement (.keyloadReceive link) := by
  intro x h _
  cases h
theorem accessTableUpdate (target : Nat) (master slot : Nat) (v : BitVec 128) : Statement (.accessTableUpdate target master slot v) := by
  intro x h _
  cases h
theorem vdmapWrite (vd : BitVec 3) (v : Word) : Statement (.vdmapWrite vd v) := by
  intro x h _
  cases h
theorem attestRequest (fn : BitVec 5) : Statement (.attestRequest fn) := by
  intro x h _
  cases h
theorem mrext (v : Word) : Statement (.mrext v) := by
  intro x h _
  cases h
theorem stepclr (v : Word) : Statement (.stepclr v) := by
  intro x h _
  cases h
theorem deviceReset : Statement (.deviceReset) := by
  intro x h _
  cases h
theorem registerWrite (master off : Nat) (v : RegVal) : Statement (.registerWrite master off v) := by
  intro x h _
  cases h
theorem spillwayFlitReceive (link : Nat) (x : Flit) : Statement (.spillwayFlitReceive link x) := by
  intro x h _
  cases h

end Sys2Proof.Laws.Parses
end

