-- ==== Sys2Proof/Laws/Runs.lean ====
section
/-! SUPPORT. What a clear instruction of a slot leaves: its group after the effect, the pops and the region's end, and nothing changed outside it. -/
namespace Sys2Proof.Machine

/-- An instruction that ends no region, buffers nothing and waits for no flag begins no region either. -/
theorem entered_eq {x : Instr} {s : State} (h : clear x s = true) (hc : commits x = false) (hb : buffers x = false) (hw : waitsFor x = 0) :
    entered x s = s := by
  refine entered_same ?_
  rw [Bool.eq_false_iff]
  intro he
  have e := (clear_parts h).2.2.2.1 he
  simp only [endsBefore, hc, hb, hw, e, storeCounts, Nat.zero_testBit, Bool.or_eq_true, Bool.and_eq_true, List.any_eq_true] at he
  rcases he with ((he | he) | ⟨o, _, he⟩) | he
  · cases he
  · cases he.1
  · cases h3 : o.flag <;> simp [h3] at he
  · simp at he

/-- Beginning a region changes nothing outside the group. -/
theorem outsideSame_entered {x : Instr} {s : State} (h : clear x s = true) : OutsideSame s (entered x s) := by
  unfold entered
  split
  · rename_i he
    simp only [endRegion, (clear_parts h).2.2.2.1 he, List.foldl_nil, startRegion]
    exact (outsideSame_modGrp _ _).trans (outsideSame_modGrp _ _)
  · exact OutsideSame.refl s

/-- Beginning a region changes the region's number and record, and marks buffered stores as merged. -/
theorem entered_grp {x : Instr} {s : State} (h : clear x s = true) : ∃ ops n r, (entered x s).grp = { s.grp with ops := ops, region := n, start := r, buf := s.grp.buf } := by
  unfold entered
  split
  · rename_i he
    have e := (clear_parts h).2.2.2.1 he
    simp only [endRegion, e, List.foldl_nil, startRegion, modGrp]
    exact ⟨_, _, _, rfl⟩
  · exact ⟨_, _, _, rfl⟩

/-- The slot that issues is as before. -/
theorem entered_slot {x : Instr} {s : State} (h : clear x s = true) : slot (entered x s) = slot s := by
  obtain ⟨ops, n, r, e⟩ := entered_grp h
  have c := (outsideSame_entered h).cur
  simp [slot, Group.slot, e, c]

/-- The other slot is as before. -/
theorem entered_other {x : Instr} {s : State} (h : clear x s = true) : other (entered x s) = other s := by
  obtain ⟨ops, n, r, e⟩ := entered_grp h
  have c := (outsideSame_entered h).cur
  simp [other, Group.slot, e, c]

/-- Scalar registers read as before. -/
theorem entered_readS {x : Instr} {s : State} (h : clear x s = true) (r : Nat) : readS (entered x s) r = readS s r := by
  obtain ⟨ops, n, r', e⟩ := entered_grp h
  simp [readS, entered_slot h, entered_other h, e]

/-- The name of the group stands. -/
theorem entered_gid {x : Instr} {s : State} (h : clear x s = true) : (entered x s).grp.gid = s.grp.gid := by
  obtain ⟨ops, n, r, e⟩ := entered_grp h
  simp [e]

/-- What follows an effect changes nothing outside the group. -/
theorem outsideSame_done {x : Instr} {s : State} (h : clear x s = true) (e : State) : OutsideSame e (finish x (entered x s) e) :=
  outsideSame_finish (clear_parts h).2.2.2.2.2.2

/-- Popping one queue changes a vector register and the queues. -/
theorem popOne_gid (g : Group) (k : Nat) : (popOne g k).gid = g.gid := by
  unfold popOne
  split
  · rfl
  · split
    · rfl
    · dsimp only
      split <;> rfl

theorem popAll_gid (l : List Nat) (g : Group) : (popAll l g).gid = g.gid := by
  unfold popAll
  generalize poppedBy g l = m
  induction m generalizing g with
  | nil => rfl
  | cons k m ih => rw [List.foldl_cons, ih, popOne_gid]

/-- The group after a clear instruction whose effect leaves the queues: popped, and at the region's end where it ends one. -/
theorem done_grp {x : Instr} {s : State} (h : clear x s = true) (e : State) (hl : e.late = none) (hq : e.grp.queues = s.grp.queues) (hg : e.grp.gid = s.grp.gid) :
    (finish x (entered x s) e).grp = (popAll (vecSrcs x) e.grp).closes x := by
  obtain ⟨ops, n, r, he⟩ := entered_grp h
  have hp : poppedBy e.grp (vecSrcs x) = poppedBy (entered x s).grp (vecSrcs x) := by simp [poppedBy, qBound, hq, he]
  unfold finish
  rw [popsOf_fit (clear_parts h).2.2.2.2.2.2 e hp]
  simp only [modGrp, popAll_gid, hg, entered_gid h, Group.closes]
  cases commits x <;> simp [bump, countIssue, startRegion, modGrp, Group.begins, hl]

/-- The same for an instruction without vector sources. -/
theorem done_grp_plain {x : Instr} {s : State} (h : clear x s = true) (hv : vecSrcs x = []) (e : State) (hl : e.late = none) (hg : e.grp.gid = s.grp.gid) :
    (finish x (entered x s) e).grp = e.grp.closes x := by
  unfold finish
  rw [popsOf_none hv]
  simp only [hg, entered_gid h, Group.closes]
  cases commits x <;> simp [bump, countIssue, startRegion, modGrp, Group.begins, hl]

/-- An instruction whose issue meets no stop runs, and leaves the group given. -/
theorem yields_of {x : Instr} {s : State} {own : State → Option Stop} {eff : State → State} {g : Group} (h : clear x s = true)
    (hx : exec x s = issue x own eff s) (ho : own (entered x s) = none) (hg : (finish x (entered x s) (eff (entered x s))).grp = g)
    (hf : OutsideSame (entered x s) (eff (entered x s))) : Yields x s g :=
  ⟨_, hx.trans (issue_clear h ho), hg, ((outsideSame_entered h).trans hf).trans (outsideSame_done h _)⟩

/-- The same for an act. -/
theorem yields_ofE {x : Instr} {s t : State} {act : State → Except Stop State} {g : Group} (h : clear x s = true)
    (hx : exec x s = issueE x act s) (ha : act (entered x s) = .ok t) (hg : (finish x (entered x s) t).grp = g)
    (hf : OutsideSame (entered x s) t) : Yields x s g :=
  ⟨_, hx.trans (issueE_clear h ha), hg, ((outsideSame_entered h).trans hf).trans (outsideSame_done h _)⟩

/-- An act that runs from another state, as one that fetched code first. -/
theorem ran_ofE {x : Instr} {s t w : State} {act : State → Except Stop State} {g : Group} (h : clear x s = true)
    (hx : exec x s = issueE x act s) (ha : act (entered x s) = .ok t) (hg : (finish x (entered x s) t).grp = g)
    (hf : OutsideSame w t) : ∃ t, exec x s = .next t ∧ OutsideSame w t ∧ t.grp = g :=
  ⟨_, hx.trans (issueE_clear h ha), hf.trans (outsideSame_done h _), hg⟩

end Sys2Proof.Machine
end

