-- ==== Sys2Proof/Tests/Slice0.lean ====
section
/-! SUPPORT. Checks of the model: words written out from the encoding tables of spec/ and what they decode to, an ill-formed term for each
static check, and for each statement a state and operands that meet its hypotheses, clause by clause. Expected values come from the spec. -/
namespace Sys2Proof.Tests
open Sys2Proof Sys2Proof.Machine
set_option Elab.async false

/-! ### Small states and forms -/

/-- A form with no operand, of 64 bits. -/
def ctl0 : Ctl := { len := .l64, d := 0, a := 0, b := 0, ty := 0, msk := 0, cf := 0, u := false, imm := 0, w1 := 0, w2 := 0 }
/-- A computational form on elements of type 7, 64 bits long. -/
def comp0 : Comp := { len := .l64, d := 3, a := 1, b := 2, ty := 7, msk := 0, cf := 0, u := false, ax := false, bx := false, rm := 0, ow := false,
                      qr := 0, opf := 0, w1 := 0, w2 := 0 }
/-- A memory form on words. -/
def mem0 : MemF := { len := .l64, d := 5, a := 1, b := 0, ty := 7, msk := 0, cf := 1, u := false, sc := 0, rdis := 0, ord := 0, scope := 0, spw := false,
                     nv := false, off8 := 0, w1 := 0, w2 := 0 }

/-- Two megabytes from address 0, mapped to themselves with every right. -/
def tlb0 : Tlb := { base := 0, size := 2 ^ 21, pa := 0, r := true, w := true, x := true, sreq := false }
/-- Partition 0 owns them. -/
def part0 : Partition :=
  { Partition.empty with owned := [(0, 2 ^ 21)], fq := { base := 0x180000 + 4 * 2 ^ 52 + 2 ^ 56, tail := 0, head := 0, lost := 0 }, snapreg := 0x100003, ctxcfg := 3 + 32 * 2 ^ 12, ctxbase := 0x140000, dsreg := 0x1D0003 }
/-- A packet of four teams of two groups: code at 0x4000, trap handler at 0x6000, 12 bytes of arguments at 0x8000, completion at 0x9000 (R391). -/
def packet0 : List Word := [1 + 0x4000, 0x6000, 0x8000, 4 + 2 ^ 32, 1 + (1 + 64) * 2 ^ 32 + 12 * 2 ^ 50, 0, 0, 0x9000]
/-- A grid of it. -/
def grid0 : Grid := Grid.begun 5 0 0 1 (packetOf packet0)
/-- An access-table entry over everything. -/
def all0 : AccEnt := { base := 0, len := 2 ^ 52, rd := true, wr := true, atomic := true, ex := true, rsv := false }
/-- The targets but for the engines of other cores (R439). -/
def targets0 : List Nat := [0, 1, 2, 4, 5] ++ (List.range 16).map (fun k => 3 + 8 * k)
/-- A slot in the middle of a clause. -/
def slot0' : Slot :=
  { Slot.vacant with st := .ready, pc := 0x1008, exec := BitVec.allOnes 32, cl := some { hdr := 0x1000, nins := 6, idx := 0, setA := 0, setB := 1, yld := false } }
/-- A resident group of two. -/
def group0 : Group := { Group.empty with gid := 7, team := 3, cluster := 4, grid := 5, life := .resident, slot0 := slot0' }
/-- Its team. -/
def team0 : Team :=
  { Team.empty with tid := 3, cluster := 4, grid := 5, life := .resident, ngroups := 2, regGran := 1, spadGran := 1, accGran := 1,
                    tiles := List.replicate 8 Tile.zero, bars := Vector.replicate 16 (.fresh 2) }
/-- Its cluster. -/
def cluster0 : Cluster :=
  { cid := 4, part := 0, grid := 5, number := 0, w := 1, h := 1, teams := [3], cb := Vector.replicate 8 (.fresh 2), vdie := 0, pdie := 0, life := .resident,
    ctx := 0, preempt := none, stopping := false, removing := false }
/-- A machine with that group in focus, in partition 0. -/
def mach : State :=
  { State.reset with
    grp := group0, team := team0, clusters := [cluster0], grids := [grid0], nextId := 100, parts := vset State.reset.parts 0 part0,
    cores := vset State.reset.cores 0 { vget State.reset.cores 0 Core.empty with tlb1 := [(0, tlb0)] },
    mgmt := { Mgmt.empty with starts := 1, started := true, tables := targets0.flatMap (fun t => [(t, 0, 0, all0), (t, 16, 0, all0)]) ++ resetTables } }
/-- That machine with a scalar register set. -/
def withS (r : Nat) (v : Word) (s : State) : State := modGrp (fun g => { g with sregs := vset g.sregs r v }) s
/-- Stamped words put at home from an address on. -/
def placed (a : Nat) (ws : List Word) (s : State) : State := (ws.zip (List.range ws.length)).foldl (fun s x => homeWrite s (a + 8 * x.2) (stamped x.1)) s
/-- A translation more in the core's first-level TLB. -/
def withTlb (t : Tlb) (s : State) : State := modCore 0 (fun k => { k with tlb1 := (0, t) :: k.tlb1 }) s
/-- A table at home by which a walk finds the first gigabyte mapped to itself, with every right (R312, R313). -/
def tabled (s : State) : State :=
  let e (n : Nat) : TWord := stamped (BitVec.ofNat 64 n)
  modPart 0 (fun q => { q with pgtbase := 0x1C0000 })
    (homeWrite (homeWrite (homeWrite s 0x1C0000 (e 0x1C1001)) 0x1C1000 (e 0x1C2001)) 0x1C2000 (e 0x1F))
/-- Access tables of the compute partition and of the host that grant an entry's rights everywhere. -/
def granting (e : AccEnt) (s : State) : State := { s with mgmt := { s.mgmt with tables := targets0.flatMap (fun t => [(t, 0, 0, e), (t, 16, 0, e)]) } }
/-- At a clause's last instruction. -/
def atEnd (s : State) : State := modCur (fun x => { x with cl := x.cl.map (fun c => { c with idx := 5 }) }) s
/-- Between clauses. -/
def between (s : State) : State := modCur (fun x => { x with cl := none }) s
/-- A form with one source. -/
def comp1 : Comp := { comp0 with b := 0 }
/-- A form of 96 bits whose operand word names C = 4. -/
def comp3 : Comp := { comp0 with len := .l96, ow := true, w1 := 4 }
/-- A form of 96 bits with the immediate 5. -/
def compI : Comp := { comp0 with len := .l96, b := 0, w1 := 5 }
/-- A memory form whose TY is 0 and that has one address. -/
def mem1 : MemF := { mem0 with ty := 0, sc := 7 }
/-- A memory form without an address. -/
def memN : MemF := { mem0 with ty := 0, sc := 7, a := 0, d := 0 }

/-! ### Words written out from the spec's encodings (R17, R29, R32 to R38, R55 to R65) -/

/-- An extended form's word, bit by bit: LEN at 0, MAJ at 2, SUB at 10, D at 14, A at 20, B at 26, TY at 32, MK at 36, CF at 40, U at 42, and the
form's own fields from 43 on (R29). -/
def word (len maj sub d a b ty mk cf u rest : Nat) : Nat :=
  len + maj * 2 ^ 2 + sub * 2 ^ 10 + d * 2 ^ 14 + a * 2 ^ 20 + b * 2 ^ 26 + ty * 2 ^ 32 + mk * 2 ^ 36 + cf * 2 ^ 40 + u * 2 ^ 42 + rest * 2 ^ 43

/-- R32, R56: VSUB of 3, 1, 2 by u16 with MK 2, AX at bit 43. -/
theorem test_decode_vsub :
    decodeTableWord 64 (word 0 0x20 1 3 1 2 3 2 0 0 1) = some (.vsub { comp0 with ty := 3, msk := 2, ax := true }) := by decide +kernel
/-- R55, R97: SCMP with CC = 3 (le) in OPF, bits 51 and up. -/
theorem test_decode_scmp :
    decodeTableWord 64 (word 0 0x15 0 3 1 2 6 0 0 0 (3 * 2 ^ 8)) = some (.scmp { comp0 with ty := 6, opf := 3 }) := by decide +kernel
/-- R33, R34: SMAD, 96 bits: OW at bit 47, C in the operand word's low bits. -/
theorem test_decode_smad :
    decodeTableWord 96 (word 1 0x11 0 3 1 2 7 0 0 0 (2 ^ 4) + 4 * 2 ^ 64) = some (.smad comp3) := by decide +kernel
/-- R33, R133: VMOVI, 128 bits: the immediate's low word first. -/
theorem test_decode_vmovi :
    decodeTableWord 128 (word 2 0x25 1 3 0 0 7 0 0 0 0 + 0x9ABCDEF0 * 2 ^ 64 + 0x12345678 * 2 ^ 96)
      = some (.vmovi { comp1 with len := .l128, a := 0, w1 := 0x9ABCDEF0, w2 := 0x12345678 }) := by decide +kernel
/-- R55, R100: SFADD of f32 (TY 10) with RM 2 at bits 45 and 46. -/
theorem test_decode_sfadd :
    decodeTableWord 64 (word 0 0x18 0 3 1 2 10 0 0 0 (2 * 2 ^ 2)) = some (.sfadd { comp0 with ty := 10, rm := 2 }) := by decide +kernel
/-- R56, R141: VFTANH is SUB 7 of MAJ 0x2B. -/
theorem test_decode_vftanh :
    decodeTableWord 64 (word 0 0x2B 7 3 1 0 10 0 0 0 0) = some (.vftanh { comp1 with ty := 10 }) := by decide +kernel
/-- R56, R149: VQDIV of q32 on flag A, QR 2 at bits 48 to 50. -/
theorem test_decode_vqdiv :
    decodeTableWord 64 (word 0 0x38 3 3 1 2 10 0 1 0 (2 * 2 ^ 5)) = some (.vqdiv { comp0 with ty := 10, cf := 1, qr := 2 }) := by decide +kernel
/-- R56, R156: VSHFI with KIND 1 in OPF and the lane number 5. -/
theorem test_decode_vshfi :
    decodeTableWord 96 (word 1 0x41 0 3 1 0 7 0 0 0 (1 * 2 ^ 8) + 5 * 2 ^ 64) = some (.vshfi { compI with opf := 1 }) := by decide +kernel
/-- R58, R59, R163: ATOM.MIN with ORD 4 and SCOPE 4: SC at 43, RDIS at 46, ORD at 48, SCOPE at 51, SPW at 54, NV at 55, OFF8 at 56. -/
theorem test_decode_atom :
    decodeTableWord 64 (word 0 0xA0 1 5 1 0 7 0 1 0 (4 * 2 ^ 5 + 4 * 2 ^ 8)) = some (.atomMin { mem0 with ord := 4, scope := 4 }) := by decide +kernel
/-- R58, R195: BARW with P, bit 56, is the parity wait. -/
theorem test_decode_barwP :
    decodeTableWord 64 (word 0 0xA9 0 0 1 0 0 0 1 0 (7 + 1 * 2 ^ 8 + 1 * 2 ^ 13)) = some (.barwP { memN with a := 1, scope := 1, off8 := 1 }) := by
  decide +kernel
/-- R52, R105: BRA.Z with OFF21 = -1. -/
theorem test_decode_bra :
    decodeTableWord 64 (word 0 4 2 0 1 0 0 0 0 0 (2 ^ 21 - 1)) = some (.braZ { ctl0 with a := 1, imm := 0x1FFFFF }) := by decide +kernel
/-- R60, R344: MDRN, a tile of A = 2 to D = 4 by f32, ROW 8, two registers. -/
theorem test_decode_mdrn :
    decodeTableWord 64 (word 0 0xB5 0 4 2 0 10 0 1 0 (8 + 1 * 2 ^ 5)) = some (.mdrn { ctl0 with d := 4, a := 2, ty := 10, cf := 1, imm := 40 }) := by
  decide +kernel
/-- R60, R358: HRST on queue 2 with OFF8 = 1 at bits 56 and up. -/
theorem test_decode_hrst :
    decodeTableWord 64 (word 0 0xC8 0 0 1 0 0 0 0 0 (2 + 1 * 2 ^ 13)) = some (.hrst { ctl0 with a := 1, imm := 2 + 2 ^ 13 }) := by decide +kernel
/-- R44, R55: SYSW of `qmode` from register 1. -/
theorem test_decode_sysw :
    decodeTableWord 64 (word 0 0x1A 0 0 1 0 0 0 0 0 2) = some (.sysw { ctl0 with a := 1, imm := 2 }) := by decide +kernel
/-- R50: an unassigned MAJ, a reserved SUB, and an extension word that no length has. -/
theorem test_decode_reserved :
    decodeTableWord 64 (word 0 0xFF 0 0 0 0 0 0 0 0 0) = none ∧ decodeTableWord 64 (word 0 0x12 2 3 1 2 7 0 1 0 0) = none
      ∧ decodeTableWord 64 (word 0 0 0 1 0 0 0 0 0 0 0) = none := by decide +kernel
/-- R13: too few bytes for the announced length. -/
theorem test_decode_short : (match decode [1, 0, 0, 0, 0, 0, 0, 0] with | .error .short => true | _ => false) = true := by decide +kernel

/-! ### An ill-formed term for each static check (R50) -/

/-- Each check refuses a form that fails it and nothing before it. -/
theorem test_flaws :
    (Instr.smad { comp3 with len := .l64, ow := false, w1 := 0 }).flaw = some .length ∧ (Instr.vadd { comp0 with u := true }).flaw = some .uniform
      ∧ (Instr.sdiv comp0).flaw = some .flag ∧ (Instr.vfadd comp0).flaw = some .type ∧ (Instr.sadd { comp0 with msk := 1 }).flaw = some .laneMask
      ∧ (Instr.vnot comp0).flaw = some .unusedRegister ∧ (Instr.ldfr { ctl0 with d := 1, cf := 1 }).flaw = some .registerRule
      ∧ (Instr.sadd { comp0 with ax := true }).flaw = some .broadcast ∧ (Instr.smad { comp3 with ow := false }).flaw = some .operandWord
      ∧ (Instr.vadd { comp3 with w1 := 4 }).flaw = some .thirdSource := by decide +kernel
theorem test_flaws_more :
    (Instr.vadd { comp3 with w1 := 4 * 2 ^ 9 }).flaw = some .selector ∧ (Instr.vadd { comp0 with rm := 1 }).flaw = some .rounding
      ∧ (Instr.vadd { comp0 with qr := 1 }).flaw = some .rationalMode ∧ (Instr.vadd { comp0 with opf := 1 }).flaw = some .opcodeField
      ∧ (Instr.ld { mem0 with ord := 2 }).flaw = some .order ∧ (Instr.ldu mem0).flaw = some .index ∧ (Instr.lds { mem0 with rdis := 1 }).flaw = some .accessField
      ∧ (Instr.sadd { comp0 with w1 := 1 }).flaw = some .extension
      ∧ (Instr.clauseHeader { nins := 0, wait := 0, setA := 0, setB := 0, yld := false, ser := false, rsv := 0 }).flaw = some .header := by decide +kernel

/-! ### Every instruction of a PC slot executes somewhere: the conditions of its statements are met -/

theorem clear_control :
    (∀ i ∈ [Instr.nop ctl0, .brk ctl0, .trap ctl0, .exit ctl0, .bra ctl0, .braNz ctl0, .braZ ctl0, .braEz ctl0, .brx ctl0, .call ctl0, .ret ctl0,
      .loop { ctl0 with imm := 3 }, .rep ctl0, .waitf { ctl0 with imm := 3 }, .yield ctl0, .sysr ctl0, .sysw ctl0, .time ctl0, .idx ctl0,
      .launch { ctl0 with cf := 1 }, .icinv ctl0], clear i mach = true)
    ∧ ∀ i ∈ [Instr.split ctl0, .join ctl0, .exit ctl0, .bra ctl0], clear i (atEnd mach) = true := by decide +kernel
theorem clear_scalar_ints :
    ∀ p ∈ scalarInts, clear (p.1 comp0) mach = true ∨ clear (p.1 comp1) mach = true ∨ clear (p.1 comp3) mach = true := by decide +kernel
theorem clear_vector_ints :
    ∀ p ∈ vectorInts, clear (p.1 comp0) mach = true ∨ clear (p.1 comp1) mach = true ∨ clear (p.1 comp3) mach = true := by decide +kernel
/-- The uniform form of a dual one (R57). -/
theorem clear_uniform : clear (.vadds { comp0 with u := true }) mach = true := by decide +kernel
theorem clear_other_ints :
    ∀ i ∈ [Instr.sdiv { comp0 with cf := 1 }, .srem { comp0 with cf := 2 }, .sbfx { comp1 with opf := 4 + 7 * 64 }, .sbfi { comp0 with opf := 63 },
      .vbfx { comp1 with opf := 63 * 64 }, .vbfi comp3, .vcmp comp0, .vcmp { comp0 with opf := 8 }, .vcmp { comp0 with opf := 16 + 5 }, .smov comp1,
      .smovi { compI with a := 0 }, .slea { comp0 with ty := 0 }, .vmov comp1, .vmovAmax { comp1 with a := 0, opf := 7 }, .vmovi { compI with a := 0 },
      .vshfl comp0, .vshfi { compI with opf := 4 }, .vrfal comp1, .vrdln { comp0 with bx := true }, .vwrln { comp0 with ax := true, bx := true }],
    clear i mach = true := by decide +kernel
/-- The forms of fixed latency: of two sources, of one, of three, or by a condition. -/
theorem clear_fixed :
    ∀ p ∈ fixedForms, clear (p.1 { comp0 with ty := 10 }) mach = true ∨ clear (p.1 { comp1 with ty := 10 }) mach = true
      ∨ clear (p.1 { comp3 with ty := 10 }) mach = true ∨ clear (p.1 { comp3 with ty := 8 }) mach = true ∨ clear (p.1 { comp3 with ty := 0 }) mach = true
      ∨ clear (p.1 { comp3 with ty := 14 }) mach = true ∨ clear (p.1 { comp1 with ty := 10, opf := 10 }) mach = true
      ∨ clear (p.1 { comp0 with ty := 10, bx := true, d := 4 }) mach = true := by decide +kernel
theorem clear_scalar_floats :
    ∀ p ∈ scalarFloats, ((clear (p.1 { comp0 with ty := 10 }) mach = true ∨ clear (p.1 { comp3 with ty := 10 }) mach = true
      ∨ clear (p.1 { comp1 with ty := 10, opf := 9 }) mach = true)) := by decide +kernel
/-- The machine in rational mode (R64, R392). -/
def rational : State := modGrp (fun g => { g with rmode := true }) mach
theorem clear_rationals :
    (clear (.vfdiv { comp0 with ty := 10, cf := 1 }) mach = true)
    ∧ (∀ p ∈ vectorRationals, (clear (p.1 { comp0 with ty := 10, cf := 1 }) mach = true ∨ clear (p.1 { comp1 with ty := 10, cf := 1 }) mach = true
      ∨ clear (p.1 { comp1 with ty := 10, cf := 1, opf := 2 }) mach = true ∨ clear (p.1 { comp3 with ty := 10, cf := 1 }) mach = true))
    ∧ ∀ p ∈ scalarRationals, (clear (p.1 { comp0 with ty := 11, cf := 1 }) rational = true ∨ clear (p.1 { comp3 with ty := 11, cf := 1 }) rational = true
      ∨ clear (p.1 { comp1 with ty := 11, cf := 1, opf := 11 }) rational = true) := by decide +kernel
theorem clear_memory :
    (∀ p ∈ laneForms, (clear (p.1 mem0) mach = true ∨ clear (p.1 { mem0 with ty := 10 }) mach = true ∨ clear (p.1 { mem0 with ty := 9 }) mach = true
      ∨ clear (p.1 { mem0 with d := 4 }) mach = true))
    ∧ (∀ p ∈ oneForms, (clear (p.1 { mem0 with sc := 7 }) mach = true ∨ clear (p.1 mem1) mach = true
      ∨ clear (p.1 { mem1 with ord := 2, scope := 4 }) mach = true))
    ∧ ∀ i ∈ [Instr.lds mem0, .sts mem0, .ldc { mem0 with scope := 2 }, .stc { mem0 with scope := 2 }, .ldv { mem0 with ty := 0 }, .clrv mem1,
      .pref { mem0 with ty := 0, d := 0 }, .cinv { mem1 with scope := 4 }, .cwb { mem1 with scope := 4 }, .llck mem1, .lunl mem1, .presQuery mem1,
      .presSet mem1, .presClr mem1, .fence { memN with ord := 3, scope := 4 }, .rdsb memN, .rdse memN, .publ { mem1 with ord := 2, scope := 4 },
      .retq { mem1 with d := 4, scope := 4 }, .gpwt { memN with a := 1 }, .gpqy { memN with scope := 4 }, .barv { memN with scope := 1 },
      .barw { memN with a := 1, scope := 1 }, .barwP { memN with a := 1, scope := 1, off8 := 1 }, .bars { memN with a := 1, scope := 1 }],
      clear i mach = true := by decide +kernel
theorem clear_engines :
    ∀ i ∈ [Instr.lease ctl0, .rels ctl0, .gang ctl0, .mma ctl0, .mzero ctl0, .mdrn { ctl0 with ty := 10, cf := 1 }, .ldfr { ctl0 with cf := 1 },
      .mstat ctl0, .flcp ctl0, .flmc ctl0, .flrd ctl0, .flwt { ctl0 with cf := 1 }, .flst { ctl0 with cf := 1 }, .hrst ctl0, .hrsp ctl0,
      .hrqs { ctl0 with cf := 1 }], clear i mach = true := by decide +kernel

/-! ### Witnesses: floats, rationals, registers and operands -/

/-- Did it come to a result? -/
def okE {ε α : Type} : Except ε α → Bool | .ok _ => true | .error _ => false
/-- The state that a step of an instruction leads to. -/
def run (i : Instr) (s : State) : State := match exec i s with | .next t => t | _ => s
/-- The group's last operation. -/
def lastOp (s : State) : Op := (s.grp.ops.getLast?).getD (Op.new .done)
/-- The group changed. -/
def inGrp (f : Group → Group) (s : State) : State := modGrp f s

/-- 1/3 in f32 under each rounding and sign, and the largest magnitude. -/
theorem witness_rounding : ∀ rm < 4, ∀ neg ∈ [true, false], (roundMag (fmtOf 10) rm neg 1 3).1 ≤ (fmtOf 10).maxEnc ∧ (roundMag (fmtOf 10) rm neg (2 ^ 24) 1).1 ≤ (fmtOf 10).maxEnc := by
  decide +kernel
/-- Reductions of no element, of numbers beside a quiet NaN, of a signalling NaN and of quiet NaNs alone; integers of each sign. -/
theorem witness_reductions :
    (let d := decodeF (fmtOf 10)
     (∀ x ∈ [0x3F800000, 0x7FC00000], x < 2 ^ tyWidth 10 ∧ (d x).isSnan = false) ∧ (d 0x3F800000).isNan = false ∧ (d 0x7F800001).isSnan = true
      ∧ (∀ x ∈ [0x7FC00000, 0xFFC00001], (d x).isSnan = false ∧ (d x).isNan = true) ∧ (∀ x ∈ [0xFF, 0x7F, 3], x < 2 ^ tyWidth 0)
      ∧ (reduce 1 0 0 [0xFF, 0x7F, 3]).bits = 0xFF ∧ (reduce 2 1 0 [0xFF, 0x7F, 3]).bits = 0xFF ∧ reduce 2 10 0 [0x3F800000, 0x7FC00000] = ⟨0x3F800000, 0⟩) := by
  decide +kernel
/-- The three results of VFCMP: elements, a mask of all, a mask of any (R137). -/
theorem witness_vfcmp :
    ∀ o ∈ ([0, 8, 16] : List Nat), (let f := { comp0 with ty := 10, opf := BitVec.ofNat 13 o }
      clear (.vfcmp f) mach = true ∧ cmpForm f = o / 8) := by decide +kernel
theorem witness_scalar_modes :
    (match (Instr.sfadd { comp0 with ty := 10 }).info with
      | .comp i f => ! ratScalar mach.grp i f && ratScalar rational.grp i { f with ty := 11 }
      | _ => false) = true := by decide +kernel
/-- Operands of the special functions in f32: two whose reciprocals are exact, an odd and an even half, a power of two, a root (R141, R142). -/
theorem witness_special_operands :
    (let f := fmtOf 10
     f.units 0x40000000 * f.units 0x3F000000 = f.perOne ^ 2 ∧ f.units 0x40400000 = 3 * f.perOne ∧ 2 * f.units 0x3F000000 = 1 * f.perOne
      ∧ f.units 0x3F000000 = 2 ^ 148 ∧ f.units 0x40800000 = 2 ^ 151 ∧ (148 : Nat) < f.bias + f.mb - 1 ∧ (0x40400000 : Nat) ≤ f.maxEnc
      ∧ (roundMag f 0 false f.perOne (f.units 0x40400000)).1 ≤ f.maxEnc) := by decide +kernel
/-- Terms of a sum within 149 places, a zero sum of each sign, and operands of a quotient. -/
theorem witness_sum_terms :
    (∀ t ∈ [FV.fin false 3 (-149), .fin true 5 2], t.within 149) ∧ (∀ t ∈ [FV.fin true 0 0, .fin true 0 3], ∃ e, t = FV.fin true 0 e)
      ∧ (0 : Int) ≤ -149 + (149 : Nat) ∧ (0 : Nat) < 3 := by
  refine ⟨by simp [FV.within], ?_, by decide, by decide⟩
  intro t h; simp at h; rcases h with rfl | rfl <;> exact ⟨_, rfl⟩
/-- Infinities, zeros, NaNs and ordinary values of f32. -/
theorem witness_float_specials :
    decodeF (fmtOf 10) 0x7F800000 = .inf false ∧ decodeF (fmtOf 10) 0xFF800000 = .inf true ∧ (∃ e, decodeF (fmtOf 10) 0 = .fin false 0 e)
      ∧ (∃ e, decodeF (fmtOf 10) 0x80000000 = .fin true 0 e) ∧ (∃ m e, decodeF (fmtOf 10) 0x3F800000 = .fin false m e ∧ m ≠ 0)
      ∧ (decodeF (fmtOf 10) 0x7FC00000).isNan = true ∧ (decodeF (fmtOf 10) 0x7FC00000).isSnan = false ∧ (decodeF (fmtOf 10) 0x7F800001).isSnan = true := by
  refine ⟨by decide +kernel, by decide +kernel, ⟨_, rfl⟩, ⟨_, rfl⟩, ⟨_, _, rfl, by decide⟩, by decide +kernel, by decide +kernel, by decide +kernel⟩
theorem witness_float_order :
    (let f := fmtOf 10
     let x := decodeF f
     (x 0x7F800001).isSnan = true ∧ ((x 0x7FC00000).isNan && (x 0xFFC00000).isNan) = true ∧ (x 0x3F800000).isNan = false
      ∧ cmpFV (x 0x3F800000) (x 0x40000000) < 0 ∧ 0 < cmpFV (x 0x40000000) (x 0x3F800000)) := by decide +kernel
theorem witness_rationals : Nat.gcd (3 : Int).natAbs 7 = 1 ∧ bitlen 3 + bitlen 7 ≤ 26 ∧ Nat.gcd (0 : Int).natAbs 1 = 1 ∧ bitlen 0 + bitlen 1 ≤ 57
    ∧ bitlen (2 ^ 25 - 1) + bitlen 1 ≤ 26 := by decide +kernel
/-- Slot 1 live, and not. -/
theorem witness_register_writes :
    (group0.slot false).live = true ∧ (group0.slot true).live = false
      ∧ ((group0.modSlot true (fun y => { y with st := .ready })).slot (! false)).live = true := by decide +kernel

/-- A stream of n entries of which k have been taken, with one entry in the queue. -/
def queue0 (n k : Nat) : Queue :=
  { walk := { base := 0, ext := [], str := [], esz := 0, swz := 0, fill := false, fty := 0, sks := 0 }, total := n, fetched := k + 1,
    entries := [{ words := List.replicate 32 ⟨9, 0⟩, sreq := 0 }], popped := k, pend := [], stall := none, tmpl := slotTrap slot0' false 0 false 0 0 0 }
/-- A machine with queue 1 bound. -/
def queued (n k : Nat) : State := inGrp (fun g => { g with queues := vset g.queues 1 (some (queue0 n k)) }) mach
theorem witness_operand_sources :
    selOf 4 = some (32, 0) ∧ selOf 23 = some (8, 7)
      ∧ tyFloat 7 = false ∧ vget (queued 4 1).grp.queues 1 none = some (queue0 4 1) ∧ (queue0 4 1).entries.length = 1
      ∧ (queue0 4 1).popped + 1 ≠ (queue0 4 1).total ∧ (queue0 4 3).popped + 1 = (queue0 4 3).total ∧ qBound mach.grp 0 = false
      ∧ qBound (queued 4 1).grp 1 = true := by decide +kernel
/-- A form that pops a queue executes. -/
theorem witness_pop : clear (.vadd { comp0 with a := 61 }) (queued 4 1) = true := by decide +kernel

/-! ### Witnesses: control -/

/-- A header of three instructions that waits for flag 2. -/
def header0 : Header := { nins := 3, wait := 4, setA := 0, setB := 1, yld := false, ser := false, rsv := 0 }
/-- A slot's flag raised. -/
def flagged (s : State) : State := modCur (fun x => { x with flags := vset x.flags 2 1 }) s
/-- An empty mask. -/
def empty (s : State) : State := modCur (fun x => { x with exec := 0 }) s
/-- With an operation outstanding. -/
def busy : State := run (.sdiv { comp0 with cf := 1 }) mach
theorem witness_headers :
    clear (.clauseHeader header0) (between mach) = true ∧ clear (.clauseHeader header0) (between (flagged mach)) = true
      ∧ (slot (flagged mach)).flag 2 ≠ 0 ∧ (∀ k < 12, header0.wait.getLsbD k = true → (slot mach).flag k = 0)
      ∧ clear (.clauseHeader { header0 with ser := true, wait := 0 }) (between busy) = true ∧ busy.grp.ops.any (fun o => o.slot == busy.cur) = true
      ∧ (match pastBody (between mach) 3 with | .ok b => ! b | _ => false) = true ∧ (slot (between mach)).exec ≠ 0
      ∧ clear (.clauseHeader header0) (between (empty mach)) = true
      ∧ (match pastBody (between (empty mach)) 3 with | .ok b => ! b | _ => false) = true
      ∧ okE (scanOver (between (empty mach)) 3 (nextPc 0x1008 8)) = true := by decide +kernel
theorem witness_plain :
    clear (.waitf { ctl0 with imm := 4 }) mach = true ∧ clear (.waitf { ctl0 with imm := 4 }) (flagged mach) = true ∧ (slot (flagged mach)).flag 2 ≠ 0
      ∧ mach.grp.core < 384 := by decide +kernel
/-- Taken and not taken; a target 2 words on, and at a block's end. -/
theorem witness_branches :
    clear (.braNz { ctl0 with a := 1, imm := 2 }) (withS 1 5 mach) = true ∧ readS (withS 1 5 mach) 1 ≠ 0 ∧ readS mach 1 = 0
      ∧ clear (.braEz { ctl0 with imm := 2 }) (empty mach) = true ∧ (slot (empty mach)).exec = 0
      ∧ relTarget 0x1008 2 % 4 = 0 ∧ relTarget 0x1008 2 % 32 ≠ 28 ∧ relTarget 0x1008 5 % 32 = 28 ∧ relTarget 0x1008 (-3) = 0xFFC
      ∧ clear (.bra { ctl0 with imm := 5 }) mach = true ∧ clear (.braZ { ctl0 with len := .l96, w1 := 7 }) mach = true := by decide +kernel
theorem witness_calls :
    badTarget 0x2000 = false ∧ badTarget 0x2001 = true ∧ badTarget 0x201C = true ∧ clear (.brx { ctl0 with a := 1 }) (withS 1 0x2000 mach) = true
      ∧ okE (continuation mach 8) = true ∧ clear (.call { ctl0 with d := 9, imm := 2 }) mach = true := by decide +kernel

/-- A mask in register 1, so that a split takes half of the lanes. -/
def halved : State := atEnd (withS 1 0xFFFF mach)
/-- With slot 1 live as well. -/
def paired (st : SlotSt) (tag : Nat) (s : State) : State :=
  inGrp (fun g => g.modSlot true (fun x => { x with st := st, exec := 0xFF, tag := tag, pc := 0x2000 })) s
theorem witness_splits :
    (let x := Instr.split { ctl0 with a := 1, imm := 5 + 2 * 128 }
     clear x halved = true ∧ (slot halved).flagsZero = true ∧ clear x (atEnd mach) = true ∧ (slot (atEnd mach)).exec &&& 0 = 0
      ∧ clear x (atEnd (withS 1 0xFFFFFFFF mach)) = true ∧ (slot halved).exec &&& ~~~(0xFFFF : BitVec 32) ≠ 0 ∧ badTarget (relTarget 0x1008 2) = false
      ∧ okE (continuation (entered x halved) 8) = true ∧ (other halved).live = false ∧ (other halved).flagsZero = true
      ∧ (other (inGrp (fun g => g.modSlot true (fun y => { y with flags := vset y.flags 0 1 })) halved)).flagsZero = false
      ∧ clear x (paired .ready 9 halved) = true ∧ (other (paired .ready 9 halved)).live = true
      ∧ (paired .ready 9 halved).grp.dvDepth ≠ (paired .ready 9 halved).grp.dvCap
      ∧ clear x (inGrp (fun g => { g with dvDepth := 64 }) (paired .ready 9 halved)) = true
      ∧ (match continuation (entered x (paired .ready 9 halved)) 8 with
          | .ok (c, w) => okE (dvWrite 0 { pc := dvPc c, k := 5, own := false, pend := true, mask := 1, saved := 0 } w)
          | _ => false) = true) := by decide +kernel

/-- A branch flag that does not read zero holds SPLIT and JOIN; so does one of the slot that a fork would take (R23, R112, R113). -/
theorem witness_branch_holds :
    (∀ x ∈ [Instr.split { ctl0 with a := 1, imm := 5 + 2 * 128 }, .join { ctl0 with imm := 5 }], clear x (flagged halved) = true)
      ∧ (slot (flagged halved)).flagsZero = false
      ∧ clear (.split { ctl0 with a := 1, imm := 5 + 2 * 128 })
          (inGrp (fun g => g.modSlot true (fun y => { y with flags := vset y.flags 0 1 })) halved) = true := by decide +kernel
/-- After a split that pushed an entry, at a clause's last instruction again. -/
def pushed : State := modCur (fun x => { x with cl := slot0'.cl.map (fun c => { c with idx := 5 }) }) (run (.split { ctl0 with a := 1, imm := 5 + 2 * 128 }) (paired .ready 9 halved))
/-- A slot back at a clause's last instruction. -/
def back (s : State) : State := modCur (fun x => { x with cl := slot0'.cl.map (fun c => { c with idx := 5 }) }) s
/-- A JOIN of number 5. -/
def join5 : Instr := .join { ctl0 with imm := 5 }
/-- The top of the stack. -/
def top (s : State) : Option DvEntry := match dvRead (s.grp.dvDepth - 1) s with | .ok (e, _) => some e | .error _ => none
theorem witness_joins :
    (let partner := paired (.parkJoin 5 false) 5 (atEnd mach)
     let other' := { pushed with cur := true, grp := pushed.grp.modSlot true (fun x => { x with cl := slot0'.cl.map (fun c => { c with idx := 5 }) }) }
     let second := back (run join5 pushed)
     let mine := back (run (.exit ctl0) pushed)
     clear join5 partner = true ∧ (slot partner).flagsZero = true ∧ (other partner).live = true ∧ (other partner).atJoin 5 = true ∧ (other partner).tag = 5
      ∧ clear join5 (paired .ready 5 (atEnd mach)) = true ∧ clear join5 (atEnd mach) = true ∧ mach.grp.dvDepth = 0
      ∧ clear join5 pushed = true ∧ pushed.grp.dvDepth = 1 ∧ (top pushed).map (fun e => (e.k, e.pend, dvOwner pushed e)) = some (5, true, false)
      ∧ clear (.join { ctl0 with imm := 6 }) pushed = true ∧ clear join5 other' = true ∧ (other').cur = true
      ∧ okE (continuation (entered join5 pushed) 8) = true
      ∧ clear join5 second = true ∧ (top second).map (fun e => (e.k, e.pend, e.pc == selfMark, e.saved)) = some (5, false, false, 0xFFFF)
      ∧ clear join5 mine = true ∧ (top mine).map (fun e => (e.k, e.pend, e.pc == selfMark)) = some (5, false, true)) := by decide +kernel
/-- With an entry of slot 0 on the stack whose PC lies at a block's end. -/
def misdirected : State :=
  match dvWrite 0 { pc := dvPc 0x201C, k := 5, own := false, pend := true, mask := 1, saved := 0 } (paired .ready 9 (atEnd mach)) with
  | .ok z => inGrp (fun g => { g with dvDepth := 1 }) z
  | .error _ => mach
theorem witness_bad_entries :
    (let s := misdirected
     let both := { s with cur := true, grp := (s.grp.modSlot true (fun x => { x with tag := 5, cl := slot0'.cl.map (fun c => { c with idx := 5 }) })).modSlot false (fun x => { x with st := .parkJoin 5 true, tag := 4 }) }
     clear join5 s = true ∧ (slot s).flagsZero = true ∧ clear (.exit ctl0) s = true ∧ s.grp.dvDepth = 1
      ∧ (top s).map (fun e => (e.k, e.pend, dvOwner s e == s.cur, badTarget (pcOfDv e.pc))) = some (5, true, true, true)
      ∧ okE (continuation (entered join5 s) 8) = true
      ∧ clear join5 both = true ∧ (slot both).flagsZero = true ∧ (slot both).tag = 5 ∧ (other both).atJoin 5 = true ∧ (other both).tag ≠ 5
      ∧ (top both).map (fun e => dvOwner both e == both.cur) = some false) := by decide +kernel
theorem witness_exits :
    (let x := Instr.exit ctl0
     let second := back (run join5 pushed)
     clear x (paired .ready 9 (atEnd mach)) = true ∧ (other (paired .ready 9 mach)).live = true ∧ clear x (atEnd mach) = true
      ∧ (other mach).live = false ∧ mach.grp.inHandler = false ∧ clear x pushed = true
      ∧ (top pushed).map (fun e => (e.pend, dvOwner pushed e)) = some (true, pushed.cur)
      ∧ clear x second = true ∧ (top second).map (fun e => (e.pend, e.saved, dvOwner second e)) = some (false, 0xFFFF, second.cur)) := by decide +kernel
/-- The other live slot's entry on top; an own one without lanes, the last and above another. -/
theorem witness_exits_more :
    (let x := Instr.exit ctl0
     let e (own : Bool) : DvEntry := { pc := dvPc 0x2000, k := 5, own := own, pend := false, mask := 1, saved := 0 }
     let full (n : Nat) (own : Bool) : State :=
       match dvWrite 0 { e own with pend := true } (paired .ready 9 (atEnd mach)) with
       | .ok y => (match dvWrite (n - 1) (e own) y with
         | .ok z => inGrp (fun g => { g with dvDepth := n }) z
         | .error _ => mach)
       | .error _ => mach
     (clear x (full 1 true) = true ∧ (other (full 1 true)).live = true ∧ (top (full 1 true)).map (fun e => dvOwner (full 1 true) e) = some true
      ∧ (full 1 true).cur = false)
     ∧ (clear x (full 1 false) = true ∧ (full 1 false).grp.dvDepth = 1 ∧ (other (full 1 false)).live = true
      ∧ (top (full 1 false)).map (fun e => (e.pend, e.saved, dvOwner (full 1 false) e)) = some (false, 0, false))
     ∧ (clear x (full 2 false) = true ∧ (top (full 2 false)).map (fun e => (e.pend, e.saved, dvOwner (full 2 false) e)) = some (false, 0, false)
      ∧ (match exitScan 255 (setDepth 1 (entered x (full 2 false))) with | .ok r => r.grp.gid == 7 && r.grp.dvDepth == 1 | _ => false) = true)) := by
  decide +kernel
/-- A loop that its clause's end takes up, and one of no iteration. -/
theorem witness_loops_begun :
    (let l : Loop := { body := 0, len := 8, count := 3, iter := 0, run := false, pin := .want }
     { slot0' with loop := some l }.loop = some l ∧ l.run = false ∧ l.count ≠ 0 ∧ { l with count := 0 }.count = 0) := by decide +kernel
theorem witness_loops :
    (let l : Loop := { body := 0x1020, len := 8, count := 3, iter := 1, run := true, pin := .want }
     let reps := placed 0x1010 [BitVec.ofNat 64 (word 0 0x20 0 3 1 2 7 0 0 0 0)] mach
     let u := (fetchWords reps 0x1010)
     ({ slot0' with loop := some l, pc := l.endPc }.pc = l.endPc) ∧ l.iter + 1 < l.count ∧ clear (.rep { ctl0 with imm := 3 + 64 }) reps = true
      ∧ (slot reps).atLast = false ∧ nextPc 0x1008 8 = 0x1010
      ∧ (match u with
          | .ok (ws, _, _) => ! isControl ws && (match parse ws with
            | some i => ! strideOver 4 1 0 0 0 i ws && strideOver 64 7 0 0 0 i ws
            | none => false)
          | _ => false) = true) := by decide +kernel
theorem witness_rep_ill :
    (let s := placed 0x1010 [BitVec.ofNat 64 (word 0 0x08 0 0 1 2 7 0 0 0 0)] mach
     clear (.rep ctl0) (atEnd mach) = true ∧ (slot (atEnd mach)).atLast = true ∧ clear (.rep ctl0) s = true ∧ (slot s).atLast = false
      ∧ (match fetchWords s 0x1010 with | .ok (ws, _, _) => isControl ws | _ => false) = true) := by decide +kernel
theorem witness_system :
    blockReadable mach = true ∧ blockReadable State.reset = false ∧ clear (.sysr { ctl0 with imm := 0x2FF }) mach = true
      ∧ clear (.sysr { ctl0 with imm := 0x100 }) { mach with mgmt := Mgmt.empty } = true ∧ blockReadable { mach with mgmt := Mgmt.empty } = false
      ∧ mach.grp.dvDepth < 256 ∧ mach.grp.dvCap < 256 ∧ mach.grp.slot0.tag < 128 ∧ mach.grp.slot1.tag < 128 ∧ mach.grp.pgtok < 2 ^ 32
      ∧ (∀ n ∈ ([0, 1, 2, 0x10, 0x11, 0x20] : List Nat), clear (.sysw { ctl0 with a := 1, imm := BitVec.ofNat 21 n }) mach = true)
      ∧ gangValid 0 2 = true ∧ gangValid 0x1F 2 = false ∧ mach.team.latch.arrived = [] ∧ (other mach).st = .dead := by decide +kernel
theorem witness_indices :
    (gridOf mach mach.grp.grid).isSome = true ∧ ∀ n < 14, clear (.idx { ctl0 with imm := BitVec.ofNat 21 n }) mach = true := by decide +kernel
/-- A packet at 0x3000 with LAUNCH's address in register 1. -/
def launching (ws : List Word) : State := withS 1 0x3000 (placed 0x3000 ws mach)
theorem witness_launch :
    (let x := Instr.launch { ctl0 with a := 1, cf := 1, d := 2 }
     let s := tabled (launching packet0)
     let u := entered x s
     let me := launchReader 7 false
     clear x s = true ∧ canonical 0x3000 = true ∧ canonical (2 ^ 57) = false ∧ clear x (withS 1 (2 ^ 57) mach) = true ∧ clear x (withS 1 0x3008 mach) = true
      ∧ (match xlate u (some 0) 0 0x3000 64 needLoad with | .ok pa _ => pa == 0x3000 | _ => false) = true ∧ (releaseStop u 4).isNone = true
      ∧ distNo u 0 me 0x3000 = false ∧ lineHeld u 0 (lineNo u 0x3000) = false ∧ distHere u 0 me 0x3000 = true
      ∧ (List.range 8).map (fun i => (distWord (releaseNow 4 u) 0 me (0x3000 + 8 * i)).data) = packet0) := by decide +kernel
theorem witness_launch_runs :
    (let x := Instr.launch { ctl0 with a := 1, cf := 1, d := 2 }
     let w := accept (entered x (tabled (launching packet0))) 0x3000
     let k := packetOf packet0
     let me := launchReader 7 false
     packetValid w 0 packet0 = true ∧ packetRefused w 0 me k = false ∧ firstMiss w 0 (argPages k) = none ∧ argFills w 0 me k = []
      ∧ freeSnap w 0 = some 0 ∧ (part w 0).launchQ.length < 256 ∧ (distPa w 0 (snapVa w 0 0)).isSome = true ∧ argsHeld w 0 0 k = false
      ∧ packetValid w 0 (packet0.set 3 0) = false ∧ clear x (tabled (launching (packet0.set 3 0))) = true) := by decide +kernel
theorem witness_launch_refused :
    (let x := Instr.launch { ctl0 with a := 1, cf := 1, d := 2 }
     let s := tabled (launching packet0)
     let me := launchReader 7 false
     let no : State := granting { all0 with ex := false } s
     let never : State := granting { all0 with rd := false } s
     let away : State := modPart 0 (fun q => { q with argNo := [(me, lineNo s 0x3000, 1)] }) s
     let used : State := modPart 0 (fun q => { q with snapsUsed := [0, 1, 2, 3] }) s
     let full : State := modPart 0 (fun q => { q with launchQ := List.replicate 256 { pkt := packetOf packet0, pri := 0, snap := 0, seq := 0, stall := none } }) s
     clear x no = true ∧ packetValid (entered x no) 0 packet0 = true ∧ packetRefused (entered x no) 0 me (packetOf packet0) = true
      ∧ clear x never = true ∧ (match xlate (entered x never) (some 0) 0 0x3000 64 needLoad with | .refused => true | _ => false) = true
      ∧ clear x away = true ∧ distNo (entered x away) 0 me 0x3000 = true
      ∧ clear x used = true ∧ freeSnap (entered x used) 0 = none ∧ clear x full = true ∧ 256 ≤ (part (entered x full) 0).launchQ.length
      ∧ freeSnap (entered x full) 0 = some 0) := by decide +kernel
theorem witness_icinv :
    clear (.icinv { ctl0 with a := 1, imm := 0x1FF }) (withS 1 0x4000 mach) = true ∧ clear (.icinv { ctl0 with a := 1 }) (withS 1 (2 ^ 57) mach) = true := by
  decide +kernel

/-! ### Witnesses: words, steps, traps and memory -/

theorem witness_round_trip :
    (Instr.vadd comp0).wf = true ∧ (encode (.vadd comp0)).isSome = true ∧ (Instr.smad comp3).wf = true ∧ (Instr.atomMin { mem0 with ord := 4, scope := 4 }).wf = true
      ∧ okE (decode (encodeBytes (.vadd comp0) ++ [1, 2])) = true := by decide +kernel
/-- The machine with a header's bytes where a slot between clauses fetches. -/
def fetching : State := between (placed 0x1008 [packHeader header0] mach)
theorem witness_step :
    (let s := fetching
     s.agenda = [] ∧ s.turn = false ∧ pick { s with time := 1, tick := 1 } = some (7, false)
      ∧ (let p := picked (7, false) s
         (slot p).reenter = false ∧ (slot p).loop = none ∧ (slot p).rep = none ∧ (slot p).cl = none
          ∧ (match fetchFrom p (slot p).pc with
              | .ok (bs, t) => decide ((slot p).pc % 32 + lenBytes (bs.getD 0 0) ≤ 32) && (comparator t (slot p).pc).isNone
                  && (match decode bs with | .ok (i, _) => i == .clauseHeader header0 | _ => false)
              | _ => false) = true)
      ∧ partner (7, false) { s with time := 1, tick := 1 } = none ∧ badTransfer (.clauseHeader header0) s = false) := by decide +kernel
/-- Both slots of the group at a header. -/
def fetching2 : State := paired .ready 9 (placed 0x2000 [packHeader header0] fetching)
theorem witness_two_slots :
    (let s := { fetching2 with time := 1, tick := 1 }
     let x := (match pick s with | some x => x | none => (0, false))
     fetching2.agenda = [] ∧ fetching2.turn = false ∧ x.1 = 7 ∧ partner x s = some (7, ! x.2)
      ∧ (match issueBoth x (7, ! x.2) s with | .next t => t.issues == s.issues + 2 | _ => false) = true) := by decide +kernel
/-- An issue whose writes wait for the end of the cycle (R123). -/
theorem witness_late : (let s : State := { mach with late := some [] }
    s.late = some [] ∧ ready (.sadd comp0) s = true) := by decide +kernel
theorem witness_fetch :
    pinnedBytes (slot mach) 0x4000 = none ∧ icacheGet mach 0 0 (va57 0x4000 / 32) = none ∧ canonical 0x4000 = true
      ∧ xlate mach (some 0) 0 (va57 0x4000 / 32 * 32) 32 needFetch = .ok 0x4000 false ∧ homeOf mach 0x4000 = .localMem := by decide +kernel
/-- A step from a state with canonical memory, by an input that is due. -/
theorem witness_canonical : Memory.wf (placed 0x8000 [1, 2] mach) = true ∧ ∃ t, Steps { placed 0x8000 [1, 2] mach with agenda := [.nop ctl0] } t :=
  ⟨by decide +kernel, _, rfl⟩
theorem witness_illegal : illHere (between mach) (.nop ctl0) = true ∧ (slot (between mach)).live = true ∧ illHere mach (.vadd { comp0 with ty := 8 }) = true := by
  decide +kernel
theorem witness_traps :
    clear (.brk { ctl0 with imm := 0x1FFFFF }) mach = true ∧ clear (.trap ctl0) mach = true ∧ mach.grp.life = .resident ∧ mach.grp.trap = none
      ∧ mach.grp.stopped = false ∧ mach.late = none ∧ mach.grp.inHandler = false ∧ mach.grp.buf = [] ∧ mach.grp.drained = true ∧ mach.team.tid = mach.grp.team
      ∧ memberOf mach.team mach.grp.index = none ∧ ctxMapped mach 0 0 (imageVa mach mach.grp) 0x5000 = true ∧ handlerOf mach mach.grp = 0x6000 := by
  decide +kernel

/-- What `Reaches` asks, as a check. -/
def reaches (s : State) (vas : List (Nat × Nat)) (size : Nat) (nd : Need) : Bool :=
  vas.all (fun v => canonical v.2 && v.2 % size == 0 && (match xlate s (some s.grp.core) s.grp.part v.2 size nd with | .ok _ _ => true | _ => false))
/-- The accesses of addresses that pass it. -/
def accsOf (s : State) (vas : List (Nat × Nat)) (size : Nat) (nd : Need) : List LaneAcc :=
  vas.map (fun v => match xlate s (some s.grp.core) s.grp.part v.2 size nd with
    | .ok pa q => { lane := v.1, va := v.2, pa := canonPa s pa, sreq := q }
    | _ => { lane := v.1, va := v.2, pa := 0, sreq := false })
theorem reaches_accs {s : State} {vas : List (Nat × Nat)} {size : Nat} {nd : Need} (h : reaches s vas size nd = true) :
    Reaches s vas size nd (accsOf s vas size nd) := by
  simp only [reaches, List.all_eq_true, Bool.and_eq_true, beq_iff_eq] at h
  refine ⟨?_, ?_⟩
  · simp only [accsOf, List.map_map]
    conv => rhs; rw [← List.map_id vas]
    apply List.map_congr_left
    intro v _
    simp only [Function.comp_apply, id]
    split <;> rfl
  · intro a ha
    obtain ⟨v, hv, rfl⟩ := List.mem_map.1 ha
    obtain ⟨⟨h1, h2⟩, h3⟩ := h v hv
    cases hx : xlate s (some s.grp.core) s.grp.part v.2 size nd with
    | miss p => simp [hx] at h3
    | refused => simp [hx] at h3
    | ok pa q => exact ⟨h1, h2, pa, hx, rfl⟩

/-- Memory operands at an address in register 1. -/
def aimed (va : Word) : State := withS 1 va mach
/-- A page without rights at 0x200000. -/
def guarded : State := withTlb { tlb0 with base := 0x200000, pa := 0x100000, r := false, w := false } (aimed 0x200000)
theorem witness_lane_checks :
    (∀ s ∈ [aimed (2 ^ 57), aimed 0x10001, aimed 0x400000, guarded], clear (.ld mem0) s = true)
      ∧ (laneVas (aimed (2 ^ 57)) (.ld mem0) mem0).any (fun v => ! canonical v.2) = true
      ∧ (laneVas (aimed 0x10001) (.ld mem0) mem0).all (fun v => canonical v.2 && v.2 % 8 != 0) = true
      ∧ (laneVas (aimed 0x400000) (.ld mem0) mem0).all (fun v => canonical v.2 && v.2 % 8 == 0 && (lookup (aimed 0x400000) (some 0) 0 v.2).isNone) = true
      ∧ (laneVas guarded (.ld mem0) mem0).all (fun v => canonical v.2 && v.2 % 8 == 0 && (lookup guarded (some 0) 0 v.2).isSome && refusedAt guarded 8 needLoad v.2) = true := by
  decide +kernel
theorem witness_one_checks :
    (∀ s ∈ [aimed (2 ^ 57), aimed 0x10001, aimed 0x400000, guarded], clear (.ldu { mem0 with sc := 7 }) s = true)
      ∧ baseVa (aimed 0x10001) mem0 = 0x10001 ∧ lookup (aimed 0x400000) (some 0) 0 0x400000 = none ∧ refusedAt guarded 8 needLoad 0x200000 = true := by decide +kernel
/-- A load of lanes 0 and 1, of which one word carries a wrong postmark. -/
def gather0 (nv : Bool) : Gather :=
  { d := 3, scalar := false, ty := 7, nv := nv, valid := false, acq := none, rdis := 0, tmpl := slotTrap slot0' false 0 true 0 0 0,
    accs := [{ lane := 0, va := 0, pa := 0, sreq := false }, { lane := 31, va := 8, pa := 8, sreq := false }],
    got := [(0, stamped 5), (8, stampedBad 6)], mine := [], no := [] }
theorem witness_gather :
    ((gather0 false).accs.map LaneAcc.lane).Nodup ∧ (loadDone (gather0 false) (Op.new .done)).trap.isSome = true
      ∧ (loadDone (gather0 true) (Op.new .done)).trap = none ∧ mismatch false ((gather0 false).word { lane := 31, va := 8, pa := 8, sreq := false }) = true := by
  decide +kernel
/-- A page of a peer at 0x600000. -/
def peered : State :=
  withTlb { tlb0 with base := 0x600000, pa := 0x110000000000 } (aimed 0x600000)
theorem witness_loads :
    (let s := aimed 0x10000
     let vas := laneVas s (.ld mem0) mem0
     let accs := accsOf s vas 8 needLoad
     vas.length = 32 ∧ reaches s vas 8 needLoad = true ∧ memHold s (inWords (accs.map LaneAcc.pa)) = none ∧ recallHold s (accs.map LaneAcc.pa) = none
      ∧ claimHold s (accs.map LaneAcc.pa) = none ∧ clear (.ld { mem0 with ord := 5, scope := 4 }) s = true
      ∧ (gatherOf mem0 false false s accs (readWords 0 0 none (wordsOf accs) s).1 []).missing = []
      ∧ (gatherOf mem0 false false s accs (readWords 0 0 (some 4) (wordsOf accs) s).1 []).missing = []) := by decide +kernel
theorem witness_peer_loads :
    (let s := peered
     let vas := laneVas s (.ld mem0) mem0
     let accs := accsOf s vas 8 needLoad
     clear (.ld mem0) s = true ∧ reaches s vas 8 needLoad = true ∧ memHold s (inWords (accs.map LaneAcc.pa)) = none ∧ recallHold s (accs.map LaneAcc.pa) = none
      ∧ (gatherOf mem0 false false s accs (readWords 0 0 none (wordsOf accs) s).1 []).missing ≠ []) := by decide +kernel
theorem witness_stores :
    (let s := aimed 0x10000
     let f := { mem0 with ord := 2, scope := 4 }
     let vas := laneVas s (.st mem0) mem0
     let accs := accsOf s vas 8 needStore
     clear (.st mem0) s = true ∧ clear (.st f) s = true ∧ reaches s vas 8 needStore = true ∧ reaches (entered (.st f) s) vas 8 needStore = true
      ∧ memHold s (inWords (accs.map LaneAcc.pa)) = none ∧ (releaseStop (entered (.st f) s) 4).isNone = true
      ∧ (∀ a ∈ accs, wordHere (entered (.st f) s) 0 a.pa = true ∧ lineHeld (entered (.st f) s) 0 (lineNo s a.pa) = false)
      ∧ storesRefused (entered (.st f) s) accs = []
      ∧ clear (.st { mem0 with spw := true }) peered = true ∧ reaches peered (laneVas peered (.st mem0) mem0) 8 needStore = true
      ∧ (accsOf peered (laneVas peered (.st mem0) mem0) 8 needStore).all (fun a => (peerLine peered (lineNo peered a.pa)).isSome) = true) := by decide +kernel
theorem witness_cached :
    (Machine.core mach 0).l1 = [] ∧ (∀ x ∈ (Machine.core (cacheWrite 0 0x8000 0 0 (stamped 5) mach) 0).l1, x.words.length = 16)
      ∧ (Machine.core (cacheWrite 0 0x8000 0 0 (stamped 5) mach) 0).l1 ≠ [] ∧ peerLine mach (lineNo mach 0x8000) = none ∧ (die mach 0).lines = [] := by decide +kernel
/-- Lines 3 and 4 of the scratchpad absent. -/
def holed : State := { aimed 0x180 with team := { team0 with absent := [3, 4] } }
theorem witness_scratchpads :
    clear (.lds mem0) (aimed 0x181) = true ∧ clear (.lds mem0) (aimed 0x8000) = true ∧ clear (.lds mem0) holed = true ∧ clear (.lds mem0) (aimed 0x7FF8) = true
      ∧ (laneVas (aimed 0x181) (.lds mem0) mem0).all (fun v => v.2 % 8 != 0) = true
      ∧ (laneVas (aimed 0x8000) (.lds mem0) mem0).all (fun v => v.2 % 8 == 0 && ! (padOf (aimed 0x8000) false v).any (fun q => decide (q.2 + 8 ≤ 32768 * q.1.spadGran))) = true
      ∧ ((laneVas holed (.lds mem0) mem0).filterMap (padOf holed false)).all (fun q => q.1.absent.contains (q.2 / 128)) = true
      ∧ okE (padCheck (aimed 0x7FF8) false (laneVas (aimed 0x7FF8) (.lds mem0) mem0) 8) = true ∧ acquirePending (aimed 0x7FF8) = false
      ∧ okE (padCheck (aimed 0x7FF8) true (laneVas (aimed 0x7FF8) (.ldc { mem0 with scope := 2 }) mem0) 8) = true
      ∧ clear (.stc { mem0 with scope := 2, ord := 2 }) (aimed 0x7FF8) = true ∧ (releaseStop (entered (.stc { mem0 with scope := 2, ord := 2 }) (aimed 0x7FF8)) 2).isNone = true := by
  decide +kernel
/-- A cluster team's lane that is not canonical (R177). -/
theorem witness_far_lane :
    (let s := aimed (2 ^ 57)
     let x := Instr.ldc { mem0 with scope := 2 }
     clear x s = true ∧ (laneVas s x { mem0 with scope := 2 }).any (fun v => ! canonical v.2) = true) := by decide +kernel
/-- A range of n bytes, or granules, from 0x10000 on. -/
def ranged (n : Word) : State := withS 5 n (aimed 0x10000)
theorem witness_validity :
    (let s := aimed 0x10000
     let f := { mem0 with ty := 0 }
     let vas := (laneVas s (.ldv f) f).map (fun v => (v.1, v.2 / 64 * 64))
     clear (.ldv f) s = true ∧ reaches s vas 64 needLoad = true ∧ acquirePending s = false ∧ (accsOf s vas 64 needLoad).all (fun a => homeOf s (a.pa / 4096 * 4096) == .localMem) = true
      ∧ (∀ n ∈ ([1, 2 ^ 32 + 64, 128] : List Nat), clear (.clrv mem1) (ranged (BitVec.ofNat 64 n)) = true)
      ∧ (match rangeCheck (ranged 128) 0x10000 128 64 needStore 6 with
          | .ok ps => (memHold (ranged 128) (inPieces ps)).isNone && (claimHold (ranged 128) (blocksOf ps)).isNone && (blocksOf ps).length == 2
              && (blocksOf ps).all (fun b => homeOf (ranged 128) b == .localMem)
          | _ => false) = true
      ∧ homeOf s 0x10000 = .localMem) := by decide +kernel
theorem witness_cache_control :
    (let s := aimed 0x10000
     let u := entered (.cinv { mem1 with scope := 4 }) (ranged 300)
     clear (.pref { mem0 with ty := 0, d := 2, rdis := 3 }) s = true ∧ memHold s (fun _ => false) = none ∧ recallHold s [0x10000] = none
      ∧ clear (.cinv { mem1 with scope := 4 }) (ranged 300) = true ∧ clear (.cwb { mem1 with scope := 2 }) (ranged 300) = true
      ∧ clear (.cinv { mem1 with scope := 4 }) (ranged (2 ^ 32 + 1)) = true
      ∧ (match rangeCheck u 0x10000 300 64 needCache 6 with
          | .ok ps => (memHold u (fun _ => false)).isNone && (linesOf u ps).length == 3 && (linesOf u ps).all (fun l => ! claimed u l)
          | _ => false) = true) := by decide +kernel
theorem witness_pref : ∀ va ∈ [0x8000, 0x1FFFFF], canonical va = true → (lookup mach (some mach.grp.core) mach.grp.part va).isSome = true := by decide +kernel
/-- With a quota of q granules. -/
def quota (q : Nat) (s : State) : State := modPart 0 (fun x => { x with llcquota := q }) s
/-- A page of a peer, and one that maps to no memory. -/
def far (pa : Nat) : State := quota 2 (withS 5 1 (withTlb { tlb0 with base := 0x600000, pa := pa } { aimed 0x600000 with mgmt := { mach.mgmt with podSize := 2 } }))
/-- The granules of a range, by whether each is granted, is somewhere, and is at home here. -/
def granuleKinds (s : State) : List (Bool × Bool × Bool) :=
  match granules s 0x600000 1 with
  | .ok gs => gs.map (fun g => (g.2, physOk s g.1, homeOf s g.1 == .localMem))
  | .error _ => []
theorem witness_llck_far :
    (∀ i ∈ [Instr.llck mem1, .lunl mem1], ∀ pa ∈ [0x110000000000, 0x2000000], clear i (far pa) = true ∧ acquirePending (entered i (far pa)) = false)
      ∧ granuleKinds (far 0x110000000000) = [(true, true, false)] ∧ (granuleKinds (far 0x2000000)).any (fun g => ! g.2.1) = true := by decide +kernel
theorem witness_llck :
    (let u := fun s => entered (.llck mem1) s
     clear (.llck mem1) (ranged (2 ^ 32)) = true ∧ clear (.llck mem1) (quota 2 (ranged 2)) = true ∧ clear (.llck mem1) (ranged 0) = true
      ∧ (match granules (u (quota 2 (ranged 2))) 0x10000 2 with
          | .ok gs => gs.all (fun g => g.2) && gs.length == 2
          | _ => false) = true
      ∧ (part (u (quota 2 (ranged 2))) 0).llcquota = 2 ∧ (part (u (ranged 2)) 0).llcquota = 0 ∧ clear (.llck mem1) (ranged 2) = true
      ∧ okE (granules (u (ranged 0)) 0x10000 0) = true ∧ acquirePending (u (ranged 2)) = false
      ∧ (let no : State := { ranged 2 with mgmt := { mach.mgmt with tables := [(0, 0, 0, { all0 with atomic := false })] } }
         clear (.llck mem1) no = true ∧ clear (.lunl mem1) no = true
          ∧ (match granules (u no) 0x10000 2 with | .ok gs => gs.any (fun g => ! g.2) | _ => false) = true)
      ∧ clear (.lunl mem1) (ranged 2) = true ∧ okE (granules (entered (.lunl mem1) (ranged 2)) 0x10000 2) = true) := by decide +kernel
theorem witness_pres :
    (∀ s ∈ [aimed 0x6000, aimed 0x6001, aimed 0x8000], clear (.presQuery mem1) s = true ∧ clear (.presSet mem1) s = true ∧ clear (.presClr mem1) s = true)
      ∧ baseVa (aimed 0x6000) mem1 % 8192 = 0 ∧ baseVa (aimed 0x6000) mem1 < 32768 * team0.spadGran ∧ acquirePending (aimed 0x6000) = false
      ∧ baseVa (aimed 0x6001) mem1 % 8192 ≠ 0 ∧ 32768 * team0.spadGran ≤ baseVa (aimed 0x8000) mem1 := by decide +kernel

/-! ### Witnesses: order, atomics, barriers, signals and publication -/

/-- The first access of one address. -/
def one (s : State) (va : Nat) (nd : Need) : List LaneAcc := accsOf s [(0, va)] 8 nd
theorem witness_fences :
    (∀ f ∈ [{ memN with ord := 1, scope := 1 }, { memN with ord := 2, scope := 5 }, { memN with ord := 3, scope := 4 }, { memN with ord := 4, scope := 6 }],
      clear (.fence f) mach = true ∧ flumeClaiming (entered (.fence f) mach) = false ∧ (releaseStop (entered (.fence f) mach) f.scope.toNat).isNone = true
        ∧ (entered (.fence f) mach).grp.ops = [] ∧ scPending (entered (.fence f) mach) = false) := by decide +kernel
/-- With a store of the group outstanding; with a load of the slot that a peer has not answered; with a seq-cst atomic not performed; with a dirty word. -/
def writing : State := run (.redAdd mem0) (aimed 0x10000)
def loading : State := run (.ld mem0) peered
def ordering : State := run (.atomAdd { mem0 with ord := 4, scope := 4 }) (aimed 0x10000)
def dirtyL1 (pa : Nat) : State := cacheWrite 0 pa 0 0 (stamped 5) mach
theorem witness_fence_holds :
    (let x (k sc : Nat) : Instr := .fence { memN with ord := BitVec.ofNat 3 k, scope := BitVec.ofNat 3 sc }
     clear (x 3 4) writing = true ∧ (slot (entered (x 3 4) writing)).flushed = false ∧ (entered (x 3 4) writing).grp.ops.any (fun o => o.isWrite) = true
      ∧ releaseStop (entered (x 3 4) writing) 4 = some .hold ∧ flumeClaiming (entered (x 3 4) writing) = false
      ∧ clear (x 2 5) (dirtyL1 0x110000000000) = true ∧ flumeClaiming (entered (x 2 5) (dirtyL1 0x110000000000)) = false
      ∧ releaseStop (entered (x 2 5) (dirtyL1 0x110000000000)) 5 = some (.flush 5)
      ∧ clear (x 1 4) loading = true ∧ flumeClaiming (entered (x 1 4) loading) = false ∧ (entered (x 1 4) loading).grp.ops.any (fun o => o.slot == false && o.isLoad) = true
      ∧ clear (x 4 4) ordering = true ∧ flumeClaiming (entered (x 4 4) ordering) = false ∧ scPending (entered (x 4 4) ordering) = true) := by decide +kernel
/-- Caches that hold a line once, of local memory, with a dirty word; nothing held. -/
theorem witness_order_actions :
    (let s := dirtyL1 0x8000
     s.grp.core < 384 ∧ (slot s).flushed = false ∧ ((Machine.core s 0).l1.map CLine.line).Nodup ∧ ((die s (dieOf 0)).lines.map CLine.line).Nodup
      ∧ (Machine.core s 0).l1.length = 1 ∧ (∀ x ∈ (Machine.core s 0).l1, x.words.length = 16 ∧ (∀ w ∈ x.words, w.dirty = true → w.valid = true)
          ∧ lineNo s (x.line * 128) = x.line ∧ homeOf s (x.line * 128) = .localMem)
      ∧ heldIn (Machine.core s 0).l1 0x100 0 = some (true, stamped 5)
      ∧ s.claims = [] ∧ Memory.wf s = true) := by decide +kernel
theorem no_change (p : Nat) : (part (dirtyL1 0x8000) p).change = none := by
  by_cases h : p < 16
  · exact (by decide +kernel : ∀ p < 16, (part (dirtyL1 0x8000) p).change = none) p h
  · have : part (dirtyL1 0x8000) p = Partition.empty := by rw [part, vget, Vector.getElem?_eq_none (by omega)]; rfl
    rw [this]; rfl
theorem witness_not_held (r l : Nat) : lineHeld (dirtyL1 0x8000) r l = false := by
  have c : (dirtyL1 0x8000).claims = [] := by decide +kernel
  have w : (dirtyL1 0x8000).wbs = [] := by decide +kernel
  have f : (dirtyL1 0x8000).flumes = [] := by decide +kernel
  simp only [lineHeld, claimed, backWaits, mapHeld, c, w, f, no_change, List.any_nil, Bool.or_false, Bool.false_or]
  split <;> rfl
theorem witness_atomics_issue :
    (∀ f ∈ [mem0, { mem0 with ord := 3, scope := 4 }, { mem0 with ord := 4, scope := 4 }],
      let s := aimed 0x10000
      let u := entered (.atomAdd f) s
      clear (.atomAdd f) s = true ∧ reaches u (laneVas u (.atomAdd f) f) 8 needAtomic = true ∧ (atomStop u f true).isNone = true
        ∧ (accsOf u (laneVas u (.atomAdd f) f) 8 needAtomic).all (fun a => (peerLine u (lineNo u a.pa)).isNone) = true)
    ∧ (let f := { mem1 with ord := 2, scope := 5 }
       let s := aimed 0x10000
       let u := entered (.sigp f) s
       clear (.sigp f) s = true ∧ baseVa u f = 0x10000 ∧ reaches u [(0, 0x10000)] 8 needAtomic = true ∧ (atomStop u f false).isNone = true
        ∧ (one u 0x10000 needAtomic).length = 1 ∧ peerLine u (lineNo u 0x10000) = none)
    ∧ (let u := entered (.sigp mem1) peered
       clear (.sigp mem1) peered = true ∧ reaches u [(0, 0x600000)] 8 needAtomic = true ∧ (peerLine u (lineNo u 0x110000000000)).isSome = true) := by
  decide +kernel
theorem witness_atomic_results :
    mismatch false (stamped 5) = false ∧ mismatch false (stampedBad 5) = true ∧ (5 : Nat) < 8 ∧ 1 < 64 / tyWidth 5 ∧ 7 < 64 / tyWidth 0 := by decide +kernel
/-- With an atomic of one lane outstanding on the word at 0x10000; with one of 32. -/
def oneAtom (ret : Bool) : State := run (if ret then .atomAdd mem0 else .redAdd mem0) (modCur (fun x => { x with exec := 4 }) (aimed 0x10000))
def manyAtoms : State := run (.atomAdd mem0) (aimed 0x10000)
theorem witness_atomics_perform :
    (∀ s ∈ [oneAtom true, oneAtom false], s.grp.op (lastOp s).id = some (lastOp s) ∧ atomReady s s.grp (lastOp s) = true
        ∧ (match (lastOp s).kind with | .atomic a => a.reqs.length == 1 | _ => false) = true)
      ∧ atomReady manyAtoms manyAtoms.grp (lastOp manyAtoms) = true ∧ manyAtoms.grp.op (lastOp manyAtoms).id = some (lastOp manyAtoms)
      ∧ (match (lastOp manyAtoms).kind with | .atomic a => a.reqs.length == 32 | _ => false) = true := by decide +kernel
theorem witness_barriers :
    (let f := { memN with ord := 2, scope := 1 }
     let g := { memN with ord := 2, scope := 2 }
     clear (.barv f) mach = true ∧ (releaseStop (entered (.barv f) mach) 1).isNone = true ∧ acquirePending (entered (.barv f) mach) = false
      ∧ clear (.barv g) mach = true ∧ (releaseStop (entered (.barv g) mach) 2).isNone = true ∧ clear (.barv { memN with scope := 1 }) mach = true)
      ∧ (let f := { memN with a := 1, scope := 1 }
         let x := Instr.barw f
         clear x (withS 1 (2 ^ 21) mach) = true ∧ clear x (withS 1 (2 ^ 20) mach) = true
          ∧ clear (.barw { f with scope := 2 }) (withS 1 (2 ^ 20 + 8 * 2 ^ 16) mach) = true ∧ clear (.barw { f with scope := 2 }) (withS 1 (2 ^ 20 + 7 * 2 ^ 16) mach) = true
          ∧ clear x (withS 1 (15 * 2 ^ 16) mach) = true ∧ acquirePending mach = false ∧ waitsFull mach = false
          ∧ phaseLate (barGet mach false 15) 0 = false ∧ phaseLate (barGet mach false 15) 0xFFFE = true
          ∧ clear x (withS 1 0xFFFE mach) = true ∧ clear (.barwP { f with off8 := 1 }) (withS 1 1 mach) = true)
      ∧ (let x := fun k => Instr.bars { memN with a := 1, scope := k }
         clear (x 1) mach = true ∧ clear (x 1) (withS 1 3 mach) = true ∧ liveGroups mach false = 1 ∧ clear (x 1) (withS 1 1 mach) = true
          ∧ liveGroups mach true = 1 ∧ clear (x 2) (withS 1 1 mach) = true) := by decide +kernel
/-- With a wait outstanding on the word at 0x10000. -/
def waiting : State := run (.sigw mem1) (aimed 0x10000)
theorem witness_signal_waits :
    (let s := aimed 0x10000
     clear (.sigw mem1) s = true ∧ baseVa s mem1 = 0x10000 ∧ reaches s [(0, 0x10000)] 8 needWatch = true ∧ (memHold s (inWords [0x10000])).isNone = true ∧ waitsFull s = false
      ∧ peerLine s (lineNo s 0x10000) = none)
      ∧ waiting.grp.op (lastOp waiting).id = some (lastOp waiting)
      ∧ (match (lastOp waiting).kind with
          | .sigw w => w.pa == some 0x10000 && w.acq == 0 && w.stall.isNone && ! claimed waiting (lineNo waiting 0x10000) && sigHolds w.cnd (homeWord waiting 0x10000).data w.cmp
          | _ => false) = true := by decide +kernel
/-- A watch whose condition has not held yet, and one that has kept the value that met it. -/
theorem witness_watches :
    (let w : Watch := { key := 7, word := 0x2000, cnd := 0, cmp := 5, met := none }
     let s (m : Option TWord) : State := { mach with watches := [{ w with met := m }] }
     (∀ m ∈ [none, some (stamped 5)], (s m).watches.find? (fun y => y.key == w.key) = some { w with met := m })
      ∧ w.word = canonPa mach 0x10000 / 8 ∧ sigHolds w.cnd (5 : Word) w.cmp = true ∧ sigHolds w.cnd (6 : Word) w.cmp = false)
      ∧ waiting.watches.length = 1 ∧ lineHeld waiting 0 (lineNo waiting 0x10000) = false := by decide +kernel
/-- In d reader sections. -/
def reading (d : Nat) : State := inGrp (fun g => { g with rdDepth := d }) mach
theorem witness_sections :
    (∀ d ∈ [0, 1, 254, 255], clear (.rdsb memN) (reading d) = true ∧ clear (.rdse memN) (reading d) = true ∧ (reading d).grp.ops = []) := by decide +kernel
theorem witness_publ :
    (let f := { mem1 with ord := 2, scope := 4 }
     let s := aimed 0x10000
     let u := entered (.publ f) s
     clear (.publ f) s = true ∧ reaches u [(0, baseVa u f)] 8 needStore = true ∧ (memHold u (inWords [0x10000])).isNone = true ∧ (releaseStop u 4).isNone = true
      ∧ (claimHold u [0x10000]).isNone = true ∧ peerLine u (lineNo u 0x10000) = none ∧ (one u 0x10000 needStore).map LaneAcc.pa = [0x10000]) := by
  decide +kernel
/-- A retirement of one granule at 0x10000 into pool 0, whose ring holds 2^log entries, with a signal. -/
def retiring (log : Nat) (v sig va : Word) : State :=
  withS 4 v (withS 5 sig (modPart 0 (fun q => { q with pools := vset q.pools 1 (BitVec.ofNat 64 log) }) (aimed va)))
theorem witness_retq :
    (let f := { mem1 with d := 4, scope := 4 }
     let x := Instr.retq f
     let bad : State := { retiring 4 1 0 0x10000 with mgmt := { mach.mgmt with tables := [(0, 0, 0, { all0 with atomic := false })] } }
     let entry : Retire := { ticket := 1, tag := 0, pod := false, base := 0x20000, ngran := 1, pool := 0, sig := none, part := 0 }
     let full : State := { retiring 4 1 0x8000 0x10000 with weir := { mach.weir with queue := List.replicate 8192 entry } }
     clear x (retiring 4 1 0 (2 ^ 57)) = true ∧ clear x (retiring 4 1 0 0x10001) = true ∧ clear x (retiring 3 1 0 0x10000) = true
      ∧ clear x (retiring 4 0 0 0x10000) = true ∧ clear x (retiring 4 1 4 0x10000) = true ∧ clear x (retiring 4 (1 + 64 * 2 ^ 32) 0 0x10000) = true
      ∧ clear (.retq { f with scope := 5 }) (retiring 4 1 0 0x10000) = true ∧ mach.weir.poden = false
      ∧ clear x (retiring 4 1 0x8000 0x10000) = true ∧ acquirePending (retiring 4 1 0x8000 0x10000) = false
      ∧ (match granules (retiring 4 1 0x8000 0x10000) 0x10000 1, retqSignal (retiring 4 1 0x8000 0x10000) 0x8000 with
          | .ok gs, .ok sg => gs.all (fun g => g.2 && ownerOf (retiring 4 1 0x8000 0x10000) g.1 == some 0) && sg == some (0x8000, true)
          | _, _ => false) = true
      ∧ clear x bad = true ∧ (match granules bad 0x10000 1 with | .ok gs => gs.any (fun g => ! g.2) | _ => false) = true
      ∧ clear x full = true ∧ 8192 ≤ full.weir.queue.length) := by decide +kernel
theorem witness_grace_waits :
    (let w : State := withS 1 (5 * 2 ^ 16) { mach with weir := { mach.weir with lastTicket := 5, podroot := 1 } }
     clear (.gpwt { memN with a := 1 }) mach = true ∧ clear (.gpwt { memN with a := 1 }) w = true ∧ clear (.gpwt { memN with a := 1 }) (withS 1 (6 * 2 ^ 16) w) = true
      ∧ waitsFull w = false ∧ acquirePending w = false ∧ clear (.gpqy { memN with scope := 4 }) w = true ∧ clear (.gpqy { memN with scope := 5 }) w = true
      ∧ clear (.gpqy { memN with scope := 5 }) mach = true ∧ mach.weir.podroot = mach.mgmt.device ∧ w.weir.podroot ≠ w.mgmt.device ∧ w.weir.poden = false
      ∧ clear (.gpqy { memN with scope := 5 }) { w with weir := { w.weir with poden := true } } = true) := by decide +kernel

/-- An entry of the pod's epoch; the epoch asked of another device, before this one has reported an E two past its e_d and after. -/
theorem witness_pod_epoch :
    (let x := Instr.retq { mem1 with d := 4, scope := 5 }
     let s : State := { retiring 4 1 0x8000 0x10000 with weir := { mach.weir with poden := true } }
     let q (e : Nat) : State := { mach with weir := { mach.weir with poden := true, podroot := 1, ed := some 3, lastE := e } }
     clear x s = true ∧ podWhole s = true ∧ s.weir.queue.length < 8192
      ∧ (match granules s 0x10000 1, retqSignal s 0x8000 with
          | .ok gs, .ok sg => gs.all (fun g => g.2 && ownerOf s g.1 == some 0) && sg == some (0x8000, true)
          | _, _ => false) = true
      ∧ (∀ e ∈ ([4, 5] : List Nat), clear (.gpqy { memN with scope := 5 }) (q e) = true ∧ flumeClaiming (q e) = false ∧ (q e).weir.podroot ≠ (q e).mgmt.device)
      ∧ (q 4).weir.lastE < 3 + 2 ∧ 3 + 2 ≤ (q 5).weir.lastE) := by decide +kernel

/-! ### Witnesses: the matrix engine -/

/-- Groups 0 and 1 as the two members of a gang of one row and one column. -/
def gangWord : Word := 2 ^ 36 + 1 + 8 + 1 * 2 ^ 11
/-- A team with a lease of n joint MMAs. -/
def leased (n : Nat) (s : State) : State := { modCore 0 (fun k => { k with holder := some 3 }) s with team := { s.team with lheld := true, lcnt := n, gang := gangWord } }
/-- Another team waits for the engine. -/
def contended (s : State) : State := modCore 0 (fun k => { k with leaseQ := [9] }) s
theorem witness_leases :
    (∀ s ∈ [mach, leased 2 mach, contended (leased 2 mach)], clear (.lease { ctl0 with imm := 1023 }) s = true ∧ acquirePending s = false ∧ clear (.rels ctl0) s = true)
      ∧ mach.team.lheld = false ∧ (leased 2 mach).team.lheld = true ∧ (∀ y ∈ (Machine.core (leased 2 mach) 0).leaseQ, y = (leased 2 mach).team.tid)
      ∧ (∃ y ∈ (Machine.core (contended (leased 2 mach)) 0).leaseQ, y ≠ 3) ∧ (Machine.core mach 0).holder = none ∧ (Machine.core mach 0).leaseQ = [] := by
  decide +kernel
theorem witness_grants :
    (let s := modCore 383 (fun k => { k with leaseQ := [3] }) mach
     (Machine.core s 383).leaseQ.head? = some 3 ∧ (Machine.core s 383).holder = none)
    ∧ (let s := contended (leased 0 mach)
       (Machine.core s 0).holder = some 3 ∧ (teamOf s 3).map Team.lcnt = some 0 ∧ ∃ z ∈ (Machine.core s 0).leaseQ, z ≠ 3) := by decide +kernel
theorem witness_no_claiming : flumeClaiming mach = false ∧ flumeClaiming (retiring 4 1 0x8000 0x10000) = false := by decide +kernel
/-- With the first member, of slot 1, at the latch under a tag. -/
def latched (tag : Nat) (s : State) : State :=
  { s with grp := { s.grp with slot1 := { slot0' with st := .parkGang } }, team := { s.team with latch := { tag := tag, d := 0, sb := 0, arrived := [{ arrival { ctl0 with d := 0 } 1 s with slot := true, tmpl := slotTrap slot0' true 0 false 0 0 0 }], broken := false } } }
theorem witness_sysw_wakes :
    (let s := paired (.parkJoin 5 false) 9 mach
     let r := withS 1 3 (paired (.parkJoin 5 true) 9 mach)
     clear (.sysw { ctl0 with a := 1, imm := 0x20 }) s = true ∧ (other s).st = .parkJoin 5 false
      ∧ clear (.sysw { ctl0 with a := 1, imm := 0x20 }) r = true ∧ (other r).st = .parkJoin 5 true ∧ min 3 r.grp.dvCap ≠ r.grp.dvDepth
      ∧ clear (.sysw { ctl0 with imm := 0x10 }) (latched 7 mach) = true ∧ gangValid (readS (latched 7 mach) 0) 2 = true
      ∧ (latched 7 mach).team.latch.arrived ≠ []) := by decide +kernel
theorem witness_mma :
    (let f := { ctl0 with b := 1, imm := 7 }
     let x := Instr.mma f
     let s := leased 2 mach
     clear x mach = true ∧ memberOf mach.team 0 = none ∧ clear x s = true ∧ memberOf s.team 0 = some 0
      ∧ clear (.mma { f with d := 8 }) s = true ∧ clear (.mma { f with d := 7 }) s = true ∧ s.team.accGran = 1
      ∧ clear x { s with team := { s.team with latch := { s.team.latch with broken := true } } } = true
      ∧ clear x { s with team := { s.team with lheld := false } } = true
      ∧ clear x (latched 6 s) = true ∧ (latched 6 s).team.latch.tag ≠ 7 ∧ clear x (latched 7 s) = true ∧ (latched 7 s).team.latch.sb = readS s 1
      ∧ (∀ a ∈ (latched 7 s).team.latch.arrived, a.member ≠ 0) ∧ s.team.latch.arrived = [] ∧ inJoint (latched 7 s) = false
      ∧ (let t : State := { latched 7 s with team := { (latched 7 s).team with latch := { (latched 7 s).team.latch with arrived := [arrival { ctl0 with d := 0 } 0 s] } } }
         clear x t = true ∧ inJoint t = false ∧ ∃ a ∈ t.team.latch.arrived, a.member = 0)) := by decide +kernel
theorem witness_gang :
    clear (.gang ctl0) mach = true ∧ gangValid (readS mach 0) mach.team.ngroups = true ∧ mach.team.latch.arrived = []
      ∧ clear (.gang ctl0) (withS 0 0x1F mach) = true ∧ gangValid (readS (withS 0 0x1F mach) 0) mach.team.ngroups = false := by decide +kernel
/-- A gang set anew while a member waits at the latch. -/
theorem witness_gang_again :
    clear (.gang ctl0) (latched 7 (leased 2 mach)) = true ∧ gangValid (readS (latched 7 (leased 2 mach)) 0) 2 = true ∧ gangValid gangWord 2 = true
      ∧ (latched 7 (leased 2 mach)).team.latch.arrived ≠ [] := by decide +kernel
/-- The second member has arrived: a joint MMA is queued (R339). -/
theorem test_mma_queues : (run (.mma { ctl0 with b := 1, imm := 7 }) (latched 7 (leased 2 mach))).team.joints.length = 1 := by decide +kernel
/-- A joint MMA of both slots of the group, which are held at it, with a format block at an offset. -/
def joined (sb : Nat) : State :=
  let held : Slot := { slot0' with st := .held }
  let frag (b : Bool) : Frag :=
    { member := if b then 1 else 0, gid := 7, slot := b, flag := none, bad := 0, tmpl := slotTrap slot0' b 0 false 0 0 0, op := 0, regs := List.replicate 4 (splat 0) }
  { mach with
    grp := { group0 with slot0 := held, slot1 := held },
    team := { team0 with lheld := true, lcnt := 2, gang := gangWord, joints := [{ no := 60, d := 0, sb := sb, gang := gangWord, frags := [frag false, frag true] }] } }
theorem witness_joint_ready : ∀ sb ∈ [0, 1], (jointReady (joined sb) (joined sb).team).isSome = true ∧ (joined sb).team.tid = 3 := by decide +kernel
theorem witness_joint :
    (match (joined 0).team.joints, (joined 1).team.joints with
      | [x], [y] => (jointTrap (joined 0).team x).isNone && jointTrap (joined 1).team y == some 1 | _, _ => false) = true := by decide +kernel
theorem witness_joint_held : clear (.mma { ctl0 with b := 1, imm := 7 }) (joined 0) = true ∧ inJoint (joined 0) = true := by decide +kernel
theorem witness_accumulate : (9 : Nat) ≠ 10 ∧ (9 : Nat) ≠ 4 ∧ (9 : Nat) ≠ 5 ∧ pairWidth 9 8 = 16 := by decide
theorem witness_tiles :
    (let z := fun d n => Instr.mzero { ctl0 with d := d, imm := n }
     clear (z 0 7) mach = true ∧ clear (z 1 7) mach = true ∧ tilesBusy mach (List.range 8) = false
      ∧ clear (.mdrn { ctl0 with a := 7, ty := 10, cf := 1 }) mach = true ∧ clear (.mdrn { ctl0 with a := 8, ty := 10, cf := 1 }) mach = true
      ∧ clear (.mstat { ctl0 with imm := 1 }) mach = true) := by decide +kernel

/-- A tile without a chain under a joint MMA, and drains: of a scale outside the scratchpad, and inside it. -/
theorem witness_chains :
    (let t := { (joined 0).team with tiles := ((joined 0).team.tiles.set 0 ⟨[], none⟩) }
     (match t.joints with | [x] => jointTrap t x == some 0x0B | _ => false) = true)
    ∧ (let ch (saa : Nat) : Chain := ⟨true, saa, 0xFFFFFFFF, 1, 1, 0, 0⟩
       let st (saa : Nat) : Team := { team0 with tiles := team0.tiles.set 7 { Tile.zero with chain := some (ch saa) } }
       let o := (run (.mdrn { ctl0 with a := 7, ty := 10, cf := 1 }) mach)
       (match (o.grp.ops.getLast?).map Op.kind with | some (.mdrn _ tile _ _ ty _ _ _ _ _) => tile == 7 && ty == 10 | _ => false) = true
        ∧ (st 32768).tiles[7]?.isSome = true ∧ (st 32768).spadSize < 32768 + 4 ∧ (st 32764).tiles[7]?.isSome = true ∧ 32764 + 4 ≤ (st 32764).spadSize) := by
  decide +kernel

/-! ### Witnesses: the Flume, the headrace and LDFR -/

/-- The words of a walk record: BASE, five extents, five strides, ESZ (R347). -/
def walkWords (base : Nat) (ext : List Nat) (str : List Nat) (esz : Nat) : List Word :=
  let n := base + ((ext.zip (List.range 5)).map (fun x => x.1 * 2 ^ (64 + 32 * x.2))).sum + ((str.zip (List.range 5)).map (fun x => x.1 * 2 ^ (224 + 40 * x.2))).sum + esz * 2 ^ 424
  (List.range 8).map (fun i => BitVec.ofNat 64 (n >>> (64 * i)))
/-- The team's scratchpad with stamped words from an offset on. -/
def padded (off : Nat) (ws : List Word) (s : State) : State :=
  { s with team := (ws.zip (List.range ws.length)).foldl (fun t x => t.setWord (off / 8 + x.2) (stamped x.1)) s.team }
/-- A fragment of bytes that lies at 0x1000, with a pitch of 32 bytes. -/
def fragment (ws : List Word) (s : State) : State := withS 1 0x40 (padded 0x40 ws s)
theorem witness_ldfr :
    (let x := Instr.ldfr { ctl0 with d := 4, a := 1, b := 2, cf := 1 }
     let ws := walkWords 0x1000 [32, 32, 1, 1, 1] [1, 32, 0, 0, 0] 1
     let far := walkWords 0x7FF0 [32, 32, 1, 1, 1] [1, 32, 0, 0, 0] 1
     let none' := walkWords 0x1000 [0, 32, 1, 1, 1] [1, 32, 0, 0, 0] 1
     let s := fragment ws mach
     clear x (withS 1 0x41 mach) = true ∧ clear x (withS 1 0x7FE0 mach) = true ∧ 0x7FE0 % 32 = 0 ∧ clear x (withS 1 0x7FC0 mach) = true
      ∧ clear x (withS 1 0x8000 mach) = true ∧ clear x (withS 1 0x180 holed) = true ∧ 3 ∈ holed.team.absent
      ∧ clear x s = true ∧ acquirePending s = false ∧ (walkOf ((ldfrRecord 0x40 s).map TWord.data)).esz = 1 ∧ (ldfrRecord 0x40 s).all (fun r => ! mismatch false r) = true ∧ s.team.absent = []
      ∧ walkValid ((ldfrRecord 0x40 s).map TWord.data) true = true ∧ ldfrInside (walkOf ((ldfrRecord 0x40 s).map TWord.data)) 32768 0 0 = true
      ∧ ldfrInside (walkOf ((ldfrRecord 0x40 (fragment far mach)).map TWord.data)) 32768 0 0 = false
      ∧ walkValid ((ldfrRecord 0x40 (fragment none' mach)).map TWord.data) true = false ∧ (walkOf ((ldfrRecord 0x40 (fragment none' mach)).map TWord.data)).esz = 1) := by decide +kernel
/-- A walk record one of whose words has a wrong postmark (R349). -/
theorem witness_ldfr_record :
    (let s : State := { withS 1 0x40 mach with team := team0.setWord 8 (stampedBad 0) }
     clear (.ldfr { ctl0 with d := 4, a := 1, b := 2, cf := 1 }) s = true ∧ acquirePending s = false ∧ ∃ r ∈ ldfrRecord 0x40 s, mismatch false r = true) := by decide +kernel
/-- Two lines from 0x1000 of the scratchpad to 0x2000 of it, as a CCB at 0x10000. -/
def ccbWords : List Word :=
  walkWords 0x1000 [32, 1, 1, 1, 1] [1, 0, 0, 0, 0] 4 ++ walkWords 0x2000 [32, 1, 1, 1, 1] [1, 0, 0, 0, 0] 4
    ++ [0, 0, 0x0001002000000000, 0x0000000100010001, 3, 0] ++ List.replicate 10 0
/-- With FLCP issued on that CCB. -/
def copying : State := run (.flcp { ctl0 with a := 1 }) (placed 0x10000 ccbWords (aimed 0x10000))
/-- The engine has read the CCB; then the second line's place has been claimed; then both lines are written. -/
def copying1 : State := match copying.flumes with | f :: _ => run (.flumeLineArrival f.id 0) copying | [] => copying
def copying2 : State := match copying.flumes with | f :: _ => run (.flumeLineArrival f.id 0) copying1 | [] => copying
def copying3 : State := match copying.flumes with | f :: _ => run (.flumeLineArrival f.id 0) copying2 | [] => copying
theorem witness_flume_forms :
    (let s := aimed 0x10000
     (∀ i ∈ [Instr.flcp { ctl0 with a := 1 }, .flmc { ctl0 with a := 1 }, .flrd { ctl0 with a := 1 }], clear i (aimed (2 ^ 57)) = true ∧ clear i (aimed 0x10020) = true
        ∧ clear i s = true ∧ clear i copying1 = true ∧ (entered i s).flumes = [] ∧ acquirePending (entered i copying1) = false
        ∧ engineVa { ctl0 with a := 1 } (entered i s) = 0x10000 ∧ okE (rangeCheck (entered i s) 0x10000 256 64 needCcb 4) = true)
      ∧ (copying1.flumes.map (fun y => (y.ccbVa, y.partn, y.core))) = [(0x10000, 0, 0)]
      ∧ clear (.flwt { ctl0 with a := 1, cf := 1 }) s = true ∧ clear (.flst { ctl0 with a := 1, d := 2, cf := 1 }) s = true
      ∧ clear (.flst { ctl0 with a := 1, d := 2, cf := 1 }) copying1 = true ∧ flumeOn copying1 0x10000 = true ∧ flumeOn s 0x10000 = false
      ∧ acquirePending copying1 = false ∧ okE (rangeCheck s 0x10000 256 64 needLoad 4) = true
      ∧ (match xlate s (some 0) 0 0x100B0 8 needLoad with | .ok pa _ => pa == 0x100B0 | _ => false) = true ∧ lineHeld s 0 (lineNo s 0x100B0) = false
      ∧ lineHeld copying1 0 (lineNo s 0x100B0) = false ∧ flumeUnwritten copying1 0x10000 = true ∧ flumeUnwritten s 0x10000 = false ∧ peerLine s (lineNo s 0x100B0) = none) := by decide +kernel
/-- A stream of words at 0x12000 whose record is at 0x10000. -/
def streamWords : List Word := walkWords 0x12000 [64, 1, 1, 1, 1] [1, 0, 0, 0, 0] 4
def streaming : State := run (.hrst { ctl0 with a := 1, imm := 2, cf := 1 }) (placed 0x10000 streamWords (aimed 0x10000))
theorem witness_headrace_forms :
    (let x := Instr.hrst { ctl0 with a := 1, imm := 1 }
     let s := aimed 0x10000
     let u := entered x s
     clear x (queued 4 1) = true ∧ qBound (entered x (queued 4 1)).grp 1 = true ∧ clear x s = true ∧ qBound u.grp 1 = false ∧ engineVa { ctl0 with a := 1, imm := 1 } u = 0x10000
      ∧ (match rangeCheck u 0x10000 64 64 needLoad 5 with | .ok ((pa, _) :: _) => pa == 0x10000 && ! lineHeld u 0 (lineNo u pa) && (peerLine u (lineNo u pa)).isNone | _ => false) = true
      ∧ acquirePending u = false ∧ hrstPending u 1 = false ∧ hrstPending streaming 2 = true
      ∧ (∀ t ∈ [mach, queued 4 1, queued 4 0], clear (.hrsp { ctl0 with imm := 1 }) t = true ∧ clear (.hrqs { ctl0 with d := 2, imm := 1, cf := 1 }) t = true
          ∧ acquirePending (entered (.hrsp { ctl0 with imm := 1 }) t) = false ∧ hrstPending (entered (.hrsp { ctl0 with imm := 1 }) t) 1 = false)
      ∧ (queue0 4 1).popped ≠ 0 ∧ (queue0 4 0).popped = 0 ∧ (queue0 4 1).entries.length < 16) := by decide +kernel
/-- After HRST has completed; and with its source's rights refused. -/
def bound : State := run (.memoryOpComplete (lastOp streaming).id) streaming
def unreadable (s : State) : State := modCore 0 (fun k => { k with tlb1 := [(0, { tlb0 with r := false })] }) s
theorem witness_fetches :
    (groupOf bound 7 = some bound.grp) ∧ (match vget bound.grp.queues 2 none with
      | some y => y.stall.isNone && y.total == 2 && y.fetched == 0 && decide (y.fetched < y.popped + 8)
          && (match engineReads needLoad 0 0 0 (y.walk.entryWords y.fetched) y.pend bound with | (got, .done, _) => gotAll got && got.length == 32 | _ => false)
          && (match engineReads needLoad 0 0 0 (y.walk.entryWords y.fetched) y.pend (unreadable bound) with | (_, .refused, _) => true | _ => false)
      | none => false) = true := by decide +kernel
theorem witness_flume_work :
    (match copying.flumes with
      | [f] => (copying.flumes.find? (fun y => y.id == f.id)) == some f && f.stall.isNone && f.ph == .fetch && (f.before copying).isEmpty
          && (match engineReads (needCcb.byFlume f.core) f.core f.partn (2 * f.id) ((List.range 32).map (fun i => f.ccbVa + 8 * i)) f.words copying with | (ws, .done, _) => gotAll ws | _ => false)
      | _ => false) = true
    ∧ (match copying1.flumes with
      | [f] => (copying1.flumes.find? (fun y => y.id == f.id)) == some f && f.stall.isNone && f.ph == .copy && f.kind == .copy && f.got.isEmpty
          && (match f.ccb, f.lines with
              | some c, l :: _ => c.srcSp && ! c.sigen && f.lines.length == 2 && f.lines.all (fun y => y.granted) && l.own.isNone
                  && (match targetTeam copying1 f.tid l.place with | some t => ! t.saved && teamOf copying1 t.tid == some t | none => false)
              | _, _ => false)
      | _ => false) = true
    ∧ (match copying3.flumes with
      | [f] => (copying3.flumes.find? (fun y => y.id == f.id)) == some f && f.tags.isEmpty && f.stall.isNone && f.ph == .copy && f.lines.isEmpty && ! recordWaits copying3 f
          && (match f.words[22]?, f.words[23]? with
              | some a, some b => (peerLine copying3 (lineNo copying3 a.pa)).isNone && (peerLine copying3 (lineNo copying3 b.pa)).isNone | _, _ => false)
          && copying3.claims.isEmpty && (groupOf copying3 f.gid).isSome
          && (match (groupOf copying3 f.gid).bind (fun g => g.op f.op) with | some o => (match o.kind with | .flwt _ => false | _ => true) | none => false)
      | _ => false) = true := by decide +kernel
/-- A word of the CCB with a wrong postmark. -/
theorem witness_flume_mismatch :
    (let s : State := homeWrite copying 0x10040 (stampedBad 0x2000)
     match s.flumes with
      | [f] => (match engineReads (needCcb.byFlume f.core) f.core f.partn (2 * f.id) ((List.range 32).map (fun i => f.ccbVa + 8 * i)) f.words s with
          | (ws, .done, _) => gotAll ws && (ws.zip (List.range 32)).any (fun w => w.2 != 22 && mismatch w.1.sreq (w.1.w.getD ⟨0, 0⟩)) | _ => false)
      | _ => false) = true := by decide +kernel

/-! ### Witnesses: completions and the life of groups -/

/-- With one operation outstanding. -/
def withOp (o : Op) (s : State) : State := inGrp (fun g => { g with ops := [{ o with id := 50, flag := some 2 }], slot0 := { g.slot0 with flags := vset g.slot0.flags 2 1 } }) s
/-- A completion trap. -/
def trap0 : TrapInfo := slotTrap slot0' false 6 true 1 0 0
/-- An operation of a kind. -/
def opOf (k : OpKind) : Op := { Op.new k with isLoad := true }
/-- Does the state hold that operation and may it complete quietly? -/
def quietly (s : State) (p : OpKind → Bool) : Bool :=
  match findOp s 50 with
  | some (g, o) => decide (groupOf s g.gid = some g) && g.life != .draining && ! o.void && o.trap.isNone && o.ms == 0 && p o.kind
  | none => false
theorem witness_done :
    (∀ o ∈ [Op.new .done, opOf .done, { Op.new .done with isWrite := true }], quietly (withOp o mach) (fun k => decide (k = .done)) = true)
      ∧ (match findOp (withOp { Op.new .done with trap := some trap0 } mach) 50 with
          | some (g, o) => decide (groupOf mach g.gid ≠ none) && g.life == .resident && ! o.void && o.trap.isSome && o.ms == 0 | none => false) = true
      ∧ (match findOp (withOp (Op.new .done) (inGrp (fun g => { g with life := .draining }) mach)) 50 with
          | some (g, o) => g.life == .draining && o.ms == 0 && decide (o.kind = .done) | none => false) = true := by decide +kernel
/-- A drain, an HRST and presence bits outstanding. -/
def draining : State := run (.mdrn { ctl0 with a := 7, ty := 10, cf := 1 }) mach
theorem witness_drains :
    (match findOp draining (lastOp draining).id with
      | some (g, o) => mdrnReady draining g o && (teamOf draining g.team).isSome && (match o.kind with | .mdrn _ _ _ _ _ _ _ _ _ _ => true | _ => false)
      | none => false) = true := by decide +kernel
theorem witness_waits :
    quietly (withOp (opOf (.barw false 15 0xFFFF false 0 1)) mach) (fun k => decide (k = .barw false 15 0xFFFF false 0 1)) = true
      ∧ phaseDone (vget team0.bars 15 (.fresh 0)) 0xFFFF = true ∧ (vget team0.bars 15 (.fresh 0)).lastc % 2 = 1
      ∧ quietly (withOp (opOf (.barw true 7 1 true 0 2)) mach) (fun k => decide (k = .barw true 7 1 true 0 2)) = true
      ∧ (clusterOf mach 4).map (fun c => (vget c.cb 7 (.fresh 0)).lastc % 2) = some 1
      ∧ quietly (withOp (opOf (.gpwt 3 2)) { mach with weir := { mach.weir with freed := [(3, 9)] } }) (fun k => decide (k = .gpwt 3 2)) = true
      ∧ quietly (withOp (opOf (.peer [5] trap0)) mach) (fun k => decide (k = .peer [5] trap0)) = true ∧ mach.fabric.reqs = []
      ∧ quietly (withOp (opOf (.pres 3 64 5 true)) mach) (fun k => decide (k = .pres 3 64 5 true)) = true := by decide +kernel
theorem witness_binding :
    (let ok := fun (s : State) (good : Bool) => match findOp s (lastOp s).id with
      | some (g, o) => decide (groupOf s g.gid = some g) && (match o.kind with
          | .hrst h _ => h.missing.isEmpty && h.no.isEmpty
              && (let ws := h.accs.map (fun a => ((assocGet a.pa h.got).getD ⟨0, 0⟩).data)
                  (walkValid ws false && (walkOf ws).ext.getD 4 0 == 1) == good)
          | _ => false)
      | none => false
     ok streaming true = true ∧ ok (run (.hrst { ctl0 with a := 1, imm := 2 }) (aimed 0x10000)) false = true) := by decide +kernel
/-- A dirty line in the die cache. -/
def dirtied : State := releaseAction 0 2 (cacheWrite 0 0x8000 0 0 (stamped 5) mach)
theorem witness_home_write :
    (match findLine (die dirtied 0).lines 0x100 with | some x => x.isDirty && ! claimed dirtied 0x100 | none => false) = true
      ∧ homeOf dirtied (0x100 * 128) = .localMem := by decide +kernel
/-- A table that maps 0x400000 by a leaf of 2 MiB, under a walk (R312). -/
def walking (va : Nat) : State :=
  modPart 0 (fun q => { q with pgtbase := 0x30000, walks := [{ page := va / 4096, core := 0, waiters := [{ gid := 7, slot := false, acc := 0, va := va, lanes := 1 }], held := [] }] })
    (placed 0x30000 [0x31001] (placed 0x31000 [0x32001] (placed 0x32000 [0x33001] (placed 0x33010 [0x1F] (modCur (fun x => { x with st := .held }) mach)))))
theorem witness_walks :
    (walkPage (walking 0x400000) 0 0x400000).isSome = true ∧ lookup (walking 0x400000) (some 0) 0 0x400000 = none ∧ walkPage (walking 0x600000) 0 0x600000 = none
      ∧ (match (part (walking 0x600000) 0).walks with
          | [r] => r.held.isEmpty && r.page == 0x600 && (match r.waiters with
              | [w] => (match groupOf (walking 0x600000) w.gid with
                  | some g => g.life == .resident && ! g.stopped && g.trap.isNone && (g.slot w.slot).st == .held | none => false)
              | _ => false) && (Machine.core (walking 0x600000) r.core).waits.isEmpty
          | _ => false) = true
      ∧ walkHeld (walking 0x400000) 0 0x400000 = false ∧ walkHeld (walking 0x600000) 0 0x600000 = false ∧ faultRoom (walking 0x600000) 0 = true := by decide +kernel
/-- Parked under a token since time 0, long after. -/
def parked : State := { modCur (fun x => { x with st := .parkTrans 6 0 }) mach with time := 2 ^ 40 }
theorem witness_life :
    (mach.grp.slot false).st = .ready
      ∧ (let s := inGrp (fun g => { g with heldTraps := [trap0] }) mach
         groupOf s 7 = some s.grp ∧ s.grp.life = .resident ∧ s.grp.trap = none ∧ s.grp.stopped = false)
      ∧ (let s := inGrp (fun g => { g with trap := some trap0 }) mach
         s.grp.life = .resident ∧ s.grp.stopped = false ∧ s.grp.inHandler = false ∧ s.grp.buf = [] ∧ s.grp.drained = true
          ∧ s.late = none ∧ ctxMapped s s.grp.core s.grp.part (imageVa s s.grp) 0x5000 = true ∧ handlerOf s s.grp ≠ 0 ∧ s.team.tid = s.grp.team)
      ∧ (let s := inGrp (fun g => { g with life := .draining }) mach
         groupOf s 7 = some s.grp ∧ s.grp.ops = [])
      ∧ groupOf parked 7 = some parked.grp ∧ parkedLong parked parked.grp = some 6 ∧ parked.grp.aborting = false ∧ parked.grp.start.s0.live = false
      ∧ faultRoom parked 0 = true ∧ (mach.grp.begins).start.s0.live = true
      ∧ (mach.grp.slot false).waited < 96 ∧ ((mach.grp.modSlot false (fun x => { x with waited := 96 })).slot false).waited = 96 := by decide +kernel
/-- The grid with every team retired and its release made; with no signal. -/
def ended (compl : Nat) : State :=
  modGrid 5 (fun x => { x with retired := 4, released := true, pkt := { x.pkt with compl := compl } }) (tabled mach)
theorem witness_grids :
    (∀ c ∈ [0, 0x9000], (match gridOf (ended c) 5 with | some x => x.id == 5 && decide (x.pkt.teams ≤ x.retired) && x.stall.isNone && ! x.posted && x.released && x.pkt.compl == c | none => false) = true)
      ∧ writesOut (ended 0) = false ∧ (ended 0x9000).wbs = [] ∧ lineHeld (ended 0x9000) 386 (lineNo (ended 0x9000) 0x9000) = false
      ∧ (match xlate (ended 0x9000) none 0 0x9000 8 needAtomic with | .ok pa q => pa == 0x9000 && ! mismatch q (homeWord (ended 0x9000) pa) | _ => false) = true
      ∧ peerLine (ended 0x9000) (lineNo (ended 0x9000) 0x9000) = none := by decide +kernel

/-- A grid's signal that the tables refuse; a line of a die that nothing holds. -/
theorem witness_signal_refused :
    (let s := granting { all0 with atomic := false } (ended 0x9000)
     (match gridOf s 5 with | some x => x.id == 5 && decide (x.pkt.teams ≤ x.retired) && x.stall.isNone && ! x.posted && x.released && x.pkt.compl == 0x9000 | none => false) = true
      ∧ writesOut s = false ∧ s.wbs = [] ∧ (match xlate s none 0 0x9000 8 needAtomic with | .refused => true | _ => false) = true)
      ∧ lineHeld dirtied (48 * 0) 0x100 = false := by decide +kernel

/-! ### Witnesses: pre-emption, resumption, replays, invalidations -/

/-- The value that names the cluster, with GO (R445). -/
def named : Word := 2 ^ 63
/-- A barrier with one arrival. -/
def partly (s : State) : State := { s with team := { s.team with bars := vset s.team.bars 0 { count := 2, arr := 1, lastc := 0, next := none } } }
/-- The cluster under a pre-emption since time 0; stopping; saved. -/
def preempting (s : State) : State := modCluster 4 (fun c => { c with preempt := some 0 }) s
def stopping (s : State) : State := modCluster 4 (fun c => { c with stopping := true }) (preempting s)
def saved (s : State) : State :=
  { modCluster 4 (fun c => { c with life := .suspended }) (inGrp (fun g => { g with life := .suspended }) s) with team := { team0 with life := .suspended } }
theorem witness_preempt :
    (part mach 0).preempt.getLsbD 63 = false ∧ namedCluster mach 0 (2 ^ 63 + 6) = none
      ∧ (∀ s ∈ [mach, partly mach], (match namedCluster s 0 named with | some c => c.life == .resident && c.preempt.isNone && c.cid == 4 | none => false) = true)
      ∧ partlyArrived mach cluster0 = false ∧ partlyArrived (partly mach) cluster0 = true
      ∧ (part (modPart 0 (fun q => { q with preempt := named }) mach) 0).preempt.getLsbD 63 = true
      ∧ (∀ s ∈ [preempting mach, preempting (partly mach), { preempting (partly mach) with time := 10 ^ 7 }],
          (match namedCluster s 0 named with | some c => c.preempt == some 0 && ! c.stopping | none => false) = true)
      ∧ 1000 * (part mach 0).plim ≤ 10 ^ 7 ∧ 0 < 1000 * (part mach 0).plim := by decide +kernel
theorem witness_saves :
    (∀ s ∈ [stopping mach, { stopping mach with team := { team0 with released := true } }],
      (teamOf s 3).isSome = true ∧ (clusterOf s 4).map Cluster.stopping = some true ∧ s.team.life = .resident
        ∧ (∀ g ∈ savedGroups s s.team, g.buf = [] ∧ g.ops = [] ∧ moveHeld s g = false) ∧ (∀ g ∈ groupsOfTeam s 3, g.life ≠ .draining)
        ∧ dirtyHeld s 0 4 = false ∧ writesOut s = false ∧ s.wbs = [] ∧ imageMapped s s.team = true) := by decide +kernel
/-- Every team of a stopping cluster has been saved. -/
theorem witness_saved :
    (let s : State := { stopping mach with team := { team0 with life := .suspended, saved := true } }
     (teamOf s 3).isSome = true ∧ (clusterOf s 4).map Cluster.stopping = some true ∧ faultRoom s 0 = true ∧ (∀ y ∈ liveTeams s cluster0, y.saved = true)
      ∧ (liveTeams s cluster0).length = 1) := by decide +kernel
theorem witness_resumes :
    (let u := modPart 0 (fun q => { q with resume := named }) (saved mach)
     let far := { u with mgmt := { u.mgmt with vdmap := Vector.replicate 8 0, steps := (List.range 8).map (fun d => (4, d, .failed)) } }
     (part (saved mach) 0).resume.getLsbD 63 = false ∧ named &&& 0x800007FFFFFFFFFF = named
      ∧ (match namedCluster u 0 named with
          | some c => ! c.stopping && ! c.removing && c.life == .suspended && (groupsOfCluster u c.cid).all (fun g => ! moveHeld u g) && (liveTeams u c).all (imageMapped u)
              && (resumeRect u c).isSome && (resumeRect far c).isNone && faultRoom u 0 && faultRoom far 0
          | none => false) = true
      ∧ (part (saved mach) 0).remove.getLsbD 63 = false
      ∧ (∀ s ∈ [mach, saved mach], (namedCluster (modPart 0 (fun q => { q with remove := named }) s) 0 named).isSome = true)
      ∧ (namedCluster far 0 named).isSome = true) := by decide +kernel
/-- A wait page of the core, and a slot parked under its token. -/
def missing : State := modCore 383 (fun k => { k with waits := [{ part := 0, page := 2 ^ 45 - 1, token := 9, since := 0, acc := 0, va := 0 }] }) parked
theorem witness_replays :
    (part missing 0).walks = [] ∧ (Machine.core missing 383).waits.length = 1 ∧ (part missing 0).tlbBusy = false
      ∧ (part (modPart 0 (fun q => { q with tlbBusy := true }) missing) 0).tlbBusy = true
      ∧ ((2 : Word) ^ 57).extractLsb' 57 7 ≠ 0 ∧ (2 : Word).extractLsb' 1 11 ≠ 0 := by decide +kernel

/-- A load under a translation that an invalidation drops, and the invalidation while it is out and after it. -/
theorem witness_invalidation :
    (let s := run (.ld mem0) peered
     let busy (i : List InvItem) := modPart 0 (fun q => { q with tlbBusy := true, tlbOut := i }) s
     (match (lastOp s).kind with | .gather g => g.accs.any (fun a => pageOf a.va == 0x600) | _ => false) = true
      ∧ (lastOp s) ∈ s.grp.ops ∧ s.grp.part = 0 ∧ s.grp ∈ allGroups s
      ∧ (part (busy [.op (lastOp s).id]) 0).tlbBusy = true ∧ (InvItem.op (lastOp s).id).out (busy [.op (lastOp s).id]) = true
      ∧ (InvItem.op 9999).out (busy [.op 9999]) = false ∧ (part (busy [.op 9999]) 0).tlbHeld = []) := by decide +kernel

/-! ### Witnesses: the Weir and the pod's reader tree -/

/-- An entry of the retire queue: one granule at 0x10000 into pool 0. -/
def entry0 : Retire := { ticket := 1, tag := 0, pod := false, base := 0x10000, ngran := 1, pool := 0, sig := none, part := 0 }
/-- The Weir changed. -/
def weirOf (f : Weir → Weir) : State := { mach with weir := f mach.weir }
/-- Long after. -/
def later (s : State) : State := { s with time := 2 ^ 40 }
/-- Pool 0 with a ring of 2^log entries. -/
def pooled (log : Nat) (s : State) : State := modPart 0 (fun q => { q with pools := vset q.pools 1 (BitVec.ofNat 64 log) }) s
theorem witness_weir_attempt :
    (let s := later (weirOf (fun w => { w with queue := [entry0] }))
     s.weir.st = .idle ∧ tickSince s s.weir.lastAttempt = true ∧ retireWaits s.weir = true ∧ stallDue s = true) := by decide +kernel
/-- Every core of a machine whose cores are as at reset. -/
theorem core_empty {s : State} (h : s.cores = Vector.replicate 384 .empty) (c : Nat) : Machine.core s c = .empty := by
  unfold Machine.core vget
  rw [h, Vector.getElem?_replicate]
  split <;> rfl
/-- The counts of parity 1 of every core. -/
def counts1 (s : State) : List Nat := (List.range 384).map (fun c => (Machine.core s c).c1)
theorem witness_weir_sum :
    (let s : State := { State.reset with weir := { State.reset.weir with st := .summing 1 } }
     s.weir.st = .summing 1 ∧ s.weir.poden = false ∧ s.weir.u1 = 0 ∧ (counts1 s).sum = 0 ∧ { s.weir with u1 := 1 }.st = .summing 1) := by
  refine ⟨rfl, rfl, rfl, ?_, rfl⟩
  unfold counts1
  simp only [core_empty (s := { State.reset with weir := { State.reset.weir with st := .summing 1 } }) rfl, Core.empty]
  decide +kernel
theorem witness_weir_adopt :
    (weirOf (fun w => { w with st := .adopting })).weir.st = .adopting ∧ (∀ c < 384, c ∈ List.range 384 ∨ (Machine.core mach c).known = mach.weir.e) :=
  ⟨rfl, fun _ h => .inl (List.mem_range.2 h)⟩
theorem witness_weir_free :
    (let s := tabled (weirOf (fun w => { w with e := 2, queue := [entry0] }))
     s.weir.freeing = .idle ∧ entry0.tag + 2 ≤ s.weir.e ∧ (entryLines s entry0).length = 32 ∧ ∀ l ∈ entryLines s entry0, claimed s l = false)
    ∧ appendOpen (pooled 4 mach) 0 0 = true ∧ poolOpen mach 0 0 = false ∧ entry0.sig = none ∧ entry0.pod = false := by decide +kernel
/-- A wait for room in a pool, for an epoch, and for the pod's epoch. -/
theorem witness_grace_stall :
    (let s := later (weirOf (fun w => { w with freeing := .appending [(0, 1)], queue := [entry0] }))
     poolBlocked s = true ∧ s.weir.poolFrom + 1000 * s.weir.gstall ≤ s.time)
    ∧ (let s := later (weirOf (fun w => { w with queue := [entry0] }))
       poolBlocked s = false ∧ retireWaits s.weir = true ∧ s.weir.graceFrom + 1000 * s.weir.gstall ≤ s.time)
    ∧ (let s := later (weirOf (fun w => { w with graceFrom := 2 ^ 40, queue := [{ entry0 with pod := true }] }))
       poolBlocked s = false ∧ ¬ s.weir.graceFrom + 1000 * s.weir.gstall ≤ s.time ∧ ownDemand s.weir = true ∧ s.weir.podFrom + 1000 * s.weir.gstall ≤ s.time)
    ∧ poolBlocked mach = false ∧ retireWaits mach.weir = false := by decide +kernel
/-- In a pod of two devices whose root is r. -/
def podded (r : Nat) : State :=
  later { weirOf (fun w => { w with poden := true, podroot := r, podDemand := true, reports := [(0, 0, 0, 2, true), (1, 0, 0, 2, false)] }) with
          mgmt := { mach.mgmt with podSize := 2 } }
theorem witness_pod :
    podDue (podded 0) = true ∧ (podded 1).weir.podroot ≠ (podded 1).mgmt.device ∧ (podded 0).weir.podroot = (podded 0).mgmt.device
      ∧ (podded 1).weir.poden = true ∧ (∀ r ∈ (podded 0).weir.reports, r.1 ≠ 2 ∨ r.2.1 ≠ 0) := by decide +kernel

/-- A zero sum at the pod's root and at another device. -/
def summed (r : Nat) : State := { State.reset with weir := { State.reset.weir with st := .summing 1, poden := true, podroot := r } }
theorem witness_weir_sum_pod (r : Nat) :
    (summed r).weir.st = .summing 1 ∧ (summed r).weir.poden = true ∧ (summed r).weir.podroot = r ∧ (summed r).weir.u1 = 0 ∧ (counts1 (summed r)).sum = 0
      ∧ (summed r).mgmt.device = 0 := by
  refine ⟨rfl, rfl, rfl, rfl, ?_, rfl⟩
  unfold counts1
  simp only [core_empty (s := summed r) rfl, Core.empty]
  decide +kernel
/-- Pool 0 here, and at peer 1. -/
theorem witness_append :
    (let far := modPart 0 (fun q => { q with pools := vset q.pools 0 0x110000000000 }) (pooled 4 mach)
     peerLine (pooled 4 mach) (lineNo (pooled 4 mach) (poolPlace (pooled 4 mach) 0 0)) = none
      ∧ appendOpen far 0 0 = true ∧ (peerLine far (lineNo far (poolPlace far 0 0))).isSome = true) := by decide +kernel
theorem witness_free_lines :
    (let s := tabled (weirOf (fun w => { w with e := 2, queue := [entry0] }))
     ∀ l ∈ entryLines s entry0, lineHeld s 386 l = false) := by decide +kernel

/-! ### Witnesses: from packets to teams -/

/-- A packet in host queue k of partition 0, a ring of 16 at 0x20000, of priority 2. -/
def queuedPacket (k : Nat) (ws : List Word) : State :=
  modHq 0 k (fun h => { h with base := 0x20000 + 4 * 2 ^ 52 + 2 * 2 ^ 56 + 2 ^ 58, wrx := 1 }) (placed 0x20000 ws (tabled mach))
theorem witness_packets :
    (∀ ws ∈ [packet0, packet0.set 3 0], queueOpen (hostQueue (queuedPacket 63 ws) 0 63) = true ∧ headPacket (queuedPacket 63 ws) (hostQueue (queuedPacket 63 ws) 0 63) = ws)
      ∧ (let s := queuedPacket 63 packet0
         let k := packetOf packet0
         packetValid s 0 (packet0.set 3 0) = false ∧ packetValid s 0 packet0 = true ∧ headHeld s 0 (hostQueue s 0 63) = false ∧ packetRefused s 0 63 k = false ∧ packetDep s 0 63 k = .ok ∧ freeSnap s 0 = some 0
          ∧ firstMiss s 0 (snapVa s 0 0 :: argPages k) = none ∧ argFills s 0 63 k = [] ∧ argsHeld s 0 0 k = false ∧ headWork s 0 63 = none ∧ (takeTurn s 0).map (fun x => (x.1, x.2.1)) = some (2, 63)
          ∧ (let no : State := granting { all0 with ex := false } s
             packetValid no 0 packet0 = true ∧ packetRefused no 0 63 k = true ∧ (headWork no 0 63).isSome = true)
          ∧ (let ws := packet0.set 5 (0x9000 + 127 * 2 ^ 57)
             packetValid s 0 ws = true ∧ packetRefused s 0 63 (packetOf ws) = false ∧ packetDep s 0 63 (packetOf ws) = .wait)) := by decide +kernel
/-- A packet that the tables let the distributor neither read nor answer with a snapshot; a doorbell that the block's table passes, and one it does not. -/
theorem witness_refused_head :
    (let s := queuedPacket 63 packet0
     let never := granting { all0 with rd := false } s
     let unwritten := granting { all0 with wr := false } s
     let entry := { mach with mgmt := { mach.mgmt with tables := (1, 17, 0, all0) :: mach.mgmt.tables } }
     tablesOk s 0 needDist (headAddr (hostQueue s 0 63)) 64 = true ∧ snapRefused s 0 0 = false
      ∧ queueOpen (hostQueue never 0 63) = true ∧ headHeld never 0 (hostQueue never 0 63) = false
      ∧ tablesOk never 0 needDist (headAddr (hostQueue never 0 63)) 64 = false
      ∧ tablesOk unwritten 0 needDist (headAddr (hostQueue unwritten 0 63)) 64 = true ∧ packetValid unwritten 0 packet0 = true
      ∧ freeSnap unwritten 0 = some 0 ∧ snapRefused unwritten 0 0 = true
      ∧ hostWaits entry 1 = false ∧ blockOk entry 17 needStore 0x108010 8 = true ∧ hostWaits mach 1 = false ∧ blockOk mach 17 needStore 0x108010 8 = false) := by
  decide +kernel
/-- An entry in the launch queue. -/
def launched : State := modPart 0 (fun q => { q with launchQ := [{ pkt := packetOf packet0, pri := 3, snap := 2, seq := 60, stall := none }] }) mach
theorem witness_launch_queue :
    (launchHead launched 0 3).isSome = true ∧ ownerOfOp launched 60 = none ∧ packetDep launched 0 67 (packetOf packet0) = .ok ∧ launchDue launched 0 = none
      ∧ (takeTurn launched 0).map (fun x => (x.1, x.2.1)) = some (3, 64) := by decide +kernel
/-- TCBs of the grid queued at a field. -/
def tcbs (f n : Nat) : State := { mach with distr := { mach.distr with fields := vset mach.distr.fields f ((List.range n).map (fun t => { grid := 5, t := t, pri := 1 })) } }
/-- A grid of clusters of two teams. -/
def wide : State := modGrid 5 (fun g => { g with pkt := { g.pkt with w := 2 } }) mach
theorem witness_starts :
    (fieldStart (tcbs 95 2) 95).isSome = true ∧ partRoom (tcbs 95 2) grid0 1 = some 1 ∨ (fieldStart (tcbs 95 2) 95).isSome = true ∧ partRoom (tcbs 95 2) grid0 1 ≠ none := by
  decide +kernel
theorem witness_clusters :
    (match gridOf wide 5 with | some g => g.id == 5 && (clusterPlace wide g).isSome | none => false) = true
      ∧ gridOf mach 5 = some grid0 ∧ (tcbField mach grid0).isSome = true ∧ grid0.pkt.w * grid0.pkt.h = 1 ∧ grid0.sent < grid0.pkt.teams ∧ grid0.sent < grid0.frontier + 16
      ∧ mayAsk (tcbs 0 2) 95 = true ∧ busiest (tcbs 0 2) 95 = some 0 ∧ donation (tcbs 0 2) 0 ≠ [] := by decide +kernel

/-- A donor all of whose TCBs could start where they are; TCBs on their way to a field without room. -/
theorem witness_no_donation :
    mayAsk (tcbs 0 1) 95 = true ∧ busiest (tcbs 0 1) 95 = some 0 ∧ donation (tcbs 0 1) 0 = []
      ∧ (fieldQ (tcbs 0 31) 0).length + 2 = 33 ∧ (fieldQ (tcbs 0 30) 0).length + 2 = 32 := by decide +kernel
/-- A doorbell behind a write of its function that waits (R387). -/
theorem witness_door_waits : hostWaits { mach with hostHeld := [.write 1 false 0x8000 [1]] } (0 + 1) = true ∧ hostWaits mach 1 = false := by decide +kernel

/-! ### Witnesses: maps, the host port, the management block -/

/-- A change of the slice list begun. -/
def changing : State := run (.mapChange 0 0x100 5) mach
/-- The change of that map, and after the slices have gone through their lines. -/
def changed (l : Option (List Nat)) : State := modPart 0 (fun q => { q with stale := [385], change := q.change.map (fun c => { c with left := l }) }) changing
/-- A line whose slice the change moves. -/
def movedLine : Nat := ((List.range 512).find? (fun l => waitsHandover changing 0 l)).getD 0
theorem witness_map_holds :
    (∀ l ∈ [none, some [], some [movedLine]], (match (part (changed l) 0).change with
      | some c => (decide (c.oldSlice (movedLine * 128) ≠ newSlice (part (changed l) 0) (movedLine * 128)) && c.over movedLine == (l == some [])
          && mapHeld (changed l) 385 movedLine == (l == some []) && mapHeld (changed l) 0 movedLine != (l == some []) && ownerOf (changed l) (movedLine * 128) == some 0)
      | none => false) = true)
    ∧ (part (changed (some [])) 0).change.map MapChange.held = some [] ∧ faultRoom (changed (some [])) 0 = true := by decide +kernel
theorem witness_maps :
    (part mach 0).change = none ∧ (match (part changing 0).change with | some c => c.held.isEmpty | none => false) = true ∧ changing.claims = [] ∧ changing.pins = []
      ∧ (List.range 512).any (fun l => waitsHandover changing 0 l) = true ∧ homeOf mach (5 * 128) = .localMem := by decide +kernel
/-- With an entry more in the access tables. -/
def tables (l : List (Nat × Nat × Nat × AccEnt)) (s : State) : State := { s with mgmt := { s.mgmt with tables := l ++ s.mgmt.tables } }
theorem witness_host_port :
    mach.hostHeld = [] ∧ hostWaits mach 0 = false ∧ hostOwn 0x8000 3 = false ∧ hostOwn (2 ^ 51) 3 = true
      ∧ hostTakes mach 0 false 0x8000 3 needStore = some [(0x8000, 3)] ∧ hostTakes mach 1 false 0x8000 3 needStore = none
      ∧ hostTakes mach 0 false 0x1FFFFF 2 needStore = none ∧ hostStops mach (.write 0 false 0x8000 [1, 2, 3]) = false
      ∧ (let s : State := { mach with claims := [(0x100, 4)] }
         hostStops s (.write 0 false 0x8000 [1, 2, 3]) = true ∧ hostTakes s 0 false 0x8000 3 needStore = some [(0x8000, 3)] ∧ hostWaits s 0 = false)
      ∧ (let s : State := { mach with hostHeld := [.write 0 false 0x8000 [1]] }
         hostWaits s 0 = true ∧ hostWaits s 1 = false)
      ∧ (let s := tables (targets0.map (fun t => (t, 17, 0, all0))) mach
         hostTakes s 1 true 0x1FFFFD 3 needStore = some [(0x1FFFFD, 3)] ∧ hostTakes s 1 true 0x1FFFFE 3 needStore = none ∧ hostStops s (.write 1 true 0x8000 [1]) = false)
      ∧ hostTakes mach 0 false 0x8000 3 needLoad ≠ none ∧ hostStops mach (.read 0 .memory 0x8000 3) = false ∧ hostTakes mach 2 false 0x8000 3 needLoad = none
      ∧ regRead mach 16 0x100008 = some 0 ∧ regRead mach 16 0x100004 = none := by decide +kernel
theorem test_bar2_pieces : piecesIn [(0x1000, 8), (0x4000, 8)] 6 4 = some [(0x1006, 2), (0x4000, 2)] ∧ piecesIn [(0x1000, 8), (0x4000, 8)] 14 4 = none := by decide +kernel
theorem witness_management :
    checkedOut mach 0 = false ∧ dirtyFor mach 0 = false ∧ checkedOut (run (.redAdd mem0) (aimed 0x10000)) 0 = true ∧ dirtyFor (run (.redAdd mem0) (aimed 0x10000)) 0 = false
      ∧ Machine.reaches 17 0x108010 = true ∧ Machine.reaches 18 0x108010 = false ∧ blockOk mach 16 needStore 0x100008 8 = true ∧ blockOk mach 49 needStore 0x1FFFF8 8 = true
      ∧ blockOk (tables [(1, 17, 0, all0)] mach) 17 needStore 0x108010 8 = true ∧ blockOk mach 17 needStore 0x108010 8 = false
      ∧ hostWaits { mach with hostHeld := [.reg 17 0x108010 8 1] } (17 - 16) = true := by decide +kernel
/-- After a start that stopped (R451). -/
def stoppedStart : State := { State.reset with mgmt := { Mgmt.empty with starts := 1, steps := [(3, 2, .altFailed)] } }
theorem test_stopped_start : blockOk stoppedStart 16 needLoad 0x1000 8 = true ∧ blockOk stoppedStart 17 needLoad 0x108800 8 = false
    ∧ hostTakes stoppedStart 0 false 0x8000 3 needStore = none ∧ stepRun (recordFor stoppedStart 3 2) false true = .stop := by decide +kernel
/-- A request for a report that has no buffer; one with a buffer of 16 bytes in local memory (R445). -/
def attesting (dst size : Nat) (s : State) : State :=
  modMgmt (fun m => { m with mailbox := vset (vset (vset m.mailbox 4 (BitVec.ofNat 64 dst)) 5 (BitVec.ofNat 64 size)) 6 1 }) s
theorem witness_attestation :
    ∀ s ∈ [attesting 0 0 mach, attesting 0x8000 16 mach], (vget (mailboxOf s 0) 6 0).getLsbD 0 = true ∧ s.mgmt.attestQ = [] ∧ s.mgmt.attestOut = none
      ∧ ∀ x ∈ attestPlaces s 0, lineHeld s 386 (lineNo s x.1) = false ∧ peerLine s (x.1 / 128) = none := by decide +kernel

/-! ### Witnesses: requests of peers and answers -/

/-- A request of device 1 to this device's line 0x100. -/
def hdr0 (op : BitVec 4) (mask : BitVec 16) : FabHdr :=
  { op := op, sdev := 1, ddev := 0, rly := false, score := 2, tag := 3, laddr := 0x100, wmask := mask, cut := 5, cv := false, rsv := 0 }
/-- The machine with entries for device 1's requests. -/
def serving : State := tables (targets0.map (fun t => (t, 34, 0, all0))) mach
/-- n data words of zero. -/
def wordsOf0 (n : Nat) : List TWord := List.replicate n ⟨0, 0⟩
/-- The requests with a data part that fits each. -/
def requests : List (FabHdr × List TWord) :=
  [(hdr0 0 0, []), (hdr0 1 0, []), (hdr0 2 0xFFFF, wordsOf0 16), (hdr0 4 (6 * 256), wordsOf0 8), (hdr0 5 (6 * 256), wordsOf0 8), (hdr0 6 3, []), (hdr0 7 0, []),
    (hdr0 8 (3 * 16 + 6 * 256), wordsOf0 8), (hdr0 9 0, [])]
theorem witness_requests :
    serving.fabric.held = []
      ∧ (∀ x ∈ requests, x.1.cv = false ∧ refusal serving x.1 x.2 = none ∧ mustHold serving x.1 x.2 = false ∧ x.1.ord ≠ 4 ∧ refusal mach x.1 x.2 = some 1
          ∧ refusal serving { x.1 with rsv := 1 } x.2 = some 2)
      ∧ (let s : State := { serving with claims := [(0x100, 4)] }
         mustHold s (hdr0 2 0xFFFF) (wordsOf0 16) = true ∧ refusal s (hdr0 2 0xFFFF) (wordsOf0 16) = none)
      ∧ homeOf serving (hdr0 0 0).pa = .localMem ∧ serving.wbs = [] := by decide +kernel
/-- A sequentially consistent ATM, in its turn, before it and past it (R432). -/
theorem witness_sequence :
    (let h := hdr0 4 (6 * 256 + 4 * 4096)
     let past : State := modFabric (fun f => { f with inSeq := [(seqKey h, 1)] }) serving
     h.ord = 4 ∧ refusal serving h (wordsOf0 8) = none ∧ seqNext serving h = seqOf (wordsOf0 8) ∧ mustHold serving h (wordsOf0 8) = false
      ∧ (let d := (wordsOf0 8).set 3 ⟨1, 0⟩
         refusal serving h d = none ∧ mustHold serving h d = true)
      ∧ refusal past h (wordsOf0 8) = none ∧ mustHold past h (wordsOf0 8) = false ∧ seqOf (wordsOf0 8) < seqNext past h) := by decide +kernel
/-- A spillway write kept here. -/
def spilled (cuts : List (Nat × Nat)) (s : State) : State := modFabric (fun f => { f with spill := [(3, [(hdr0 3 1, wordsOf0 16)])], cuts := cuts }) s
theorem witness_spillway :
    lineHeld serving 385 0x100 = false ∧ lineHeld { serving with claims := [(0x100, 4)] } 385 0x100 = true
      ∧ cutBehind (spilled [(514, 6)] serving) (hdr0 3 1) = true ∧ cutBehind (spilled [(514, 5)] serving) (hdr0 3 1) = false
      ∧ cutBehind (spilled [] serving) (hdr0 3 1) = false ∧ (hdr0 3 1).cv = false
      ∧ refusal (spilled [] serving) (hdr0 3 1) (wordsOf0 16) = none ∧ refusal (spilled [] mach) (hdr0 3 1) (wordsOf0 16) ≠ none
      ∧ mismatch false (dataWord [stampedBad 5] 0) = true ∧ mismatch false (dataWord [stamped 5] 0) = false ∧ (1 : Nat).testBit 0 = true := by decide +kernel
/-- With a load of a peer's line outstanding. -/
def asking : State := run (.ld mem0) peered
/-- The answer's header to the first request. -/
def answer0 (mask : BitVec 16) : FabHdr := { hdr0 0 mask with sdev := 1, tag := BitVec.ofNat 10 (((asking.fabric.reqs.head?).map Req.tag).getD 0) }
/-- That request as one of opcode op of device 1, with room for a fault record or without. -/
def asked (op : BitVec 4) (room : Bool) : State :=
  modPart 0 (fun q => if room then q else { q with fq := { q.fq with base := 0 } })
    (modFabric (fun f => { f with reqs := f.reqs.map (fun r => { r with sent := true, dev := 1, hdr := { r.hdr with op := op } }) }) asking)
/-- Is the answer of that opcode and status one that the state waits for; does it bring data; is it kept? -/
def answers (op mask : Nat) (s : State) : Option (Bool × Bool) :=
  (answerTo s ((answer0 (BitVec.ofNat 16 mask)).as op)).map (fun r => (wantsData r, answerHeld s ((answer0 (BitVec.ofNat 16 mask)).as op)))
theorem witness_answers :
    (∀ m ∈ [1, 2, 3], answers 12 m (asked 0 true) = some (true, false)) ∧ answers 10 0 (asked 0 true) = some (true, false) ∧ answers 11 0 (asked 2 true) = some (false, false)
      ∧ answers 11 64 (asked 5 true) = some (false, false) ∧ answers 11 64 (asked 5 false) = some (false, true) := by decide +kernel

/-- A request given up, and a request behind another one to its line (R381, R414). -/
theorem witness_resend :
    (let gone := modFabric (fun f => { f with reqs := f.reqs.map (fun r => { r with purpose := .dropped }) }) (asked 0 true)
     (answerTo gone ((answer0 3).as 12)).map Req.purpose = some .dropped ∧ (answer0 3).wmask.toNat % 16 = 3
      ∧ ((asked 0 true).fabric.reqs.all (fun r => decide (r.purpose ≠ .dropped))) = true
      ∧ (match asking.fabric.reqs.head? with
          | some r => (reqsBefore (modFabric (fun f => { f with reqs := { r with tag := 1023 } :: f.reqs }) asking) r).any r.sameLine
          | none => false) = true) := by decide +kernel

/-! ### Witnesses: links -/

/-- Link k up and lit, with a key in each direction. -/
def linked (k : Nat) : State :=
  modLink k (fun l => { l with up := true, txLit := BitVec.allOnes 64, rxLit := BitVec.allOnes 64, txSeen := BitVec.allOnes 64, txKeys := ⟨some 8, none⟩, rxKeys := ⟨some 7, none⟩ }) serving
/-- A flit of a class with number n and nothing in it. -/
def bare (cls n : Nat) : Flit := sealFlit (ctlPart n 0 false cls false [] 0 []) (zeros 624)
theorem witness_numbered (n : Nat) (hn : n < 2) :
    (link (linked 14) 14).up = true ∧ expected (link (linked 14) 14) (bare 0 n) = 0
      ∧ flitWhole (bare 0 n) = true ∧ (bare 0 n).ctl.extractLsb' 25 2 = 0 ∧ ((bare 0 n).ctl.extractLsb' 0 12).toNat = n
      ∧ (bare 0 n).ctl.getLsbD 24 = false ∧ (link (linked 14) 14).rxKeys.get false = some 7 := by
  have h : ctlPart n 0 false 0 false [] 0 [] < 2 ^ 96 := by simp only [ctlPart, b2n, List.zip_nil_left, List.foldl_nil]; simp; omega
  refine ⟨by decide +kernel, ?_, ?_, ?_, ?_, ?_, by decide +kernel⟩
  · rw [expected, if_neg (by decide +kernel)]; decide +kernel
  · rw [bare, flitWhole_seal h]; rcases (by omega : n = 0 ∨ n = 1) with rfl | rfl <;> decide
  · rw [bare, seal_extract h _ (by decide)]; rcases (by omega : n = 0 ∨ n = 1) with rfl | rfl <;> decide
  · rw [bare, seal_extract h _ (by decide)]; rcases (by omega : n = 0 ∨ n = 1) with rfl | rfl <;> decide
  · rw [bare, seal_bit h _ (by decide)]; rcases (by omega : n = 0 ∨ n = 1) with rfl | rfl <;> decide
/-- The clear bytes of a GMAC flit without an entry, and with one whose reserved field is not zero (R429). -/
def gmacPlain (bad : Bool) : List Byte := if bad then [0, 0, 1] ++ zeros 621 else zeros 624
/-- It sealed under the receive key. -/
def gmacFlit (bad : Bool) : Flit := sealFlit (ctlPart 5 0 false 2 false [] 0 []) (crypt 7 (ivOf 2 false 5) (gmacPlain bad))
theorem witness_control (bad : Bool) :
    flitWhole (gmacFlit bad) = true ∧ (gmacFlit bad).ctl.extractLsb' 25 2 = 2 ∧ (link (linked 0) 0).rxKeys.get ((gmacFlit bad).ctl.getLsbD 24) = some 7
      ∧ (let esn := nearestEsn (vget (link (linked 0) 0).rxEsn 2 0) ((gmacFlit bad).ctl.extractLsb' 0 12).toNat
         (gmacEntries (crypt 7 (ivOf 2 ((gmacFlit bad).ctl.getLsbD 24) esn) (padTo 624 (gmacFlit bad).body))).any gmacBad = bad) := by
  have h : ctlPart 5 0 false 2 false [] 0 [] < 2 ^ 96 := by decide
  have hb : (gmacFlit bad).ctl.getLsbD 24 = false := by rw [gmacFlit, seal_bit h _ (by decide)]; decide
  have hn : (gmacFlit bad).ctl.extractLsb' 0 12 = 5 := by rw [gmacFlit, seal_extract h _ (by decide)]; decide
  have he : nearestEsn (vget (link (linked 0) 0).rxEsn 2 0) 5 = 5 := by decide +kernel
  refine ⟨by rw [gmacFlit, flitWhole_seal h]; decide, ?_, ?_, ?_⟩
  · rw [gmacFlit, seal_extract h _ (by decide)]; decide
  · rw [hb]; decide +kernel
  · rw [hn, hb]
    show (gmacEntries (crypt 7 (ivOf 2 false (nearestEsn _ 5)) _)).any gmacBad = bad
    rw [he, gmacFlit, opened _ _ _ (by cases bad <;> decide +kernel)]
    cases bad <;> decide +kernel
/-- A spillway write in a flit, sealed under the receive key. -/
def spillPlain : List Byte × List Nat := flitBody [(hdr0 3 1, wordsOf0 16)]
def spillFlit : Flit := sealFlit (ctlPart 5 0 false 1 false spillPlain.2 0 []) (crypt 7 (ivOf 1 false 5) (padTo 624 spillPlain.1))
theorem witness_spill_flit :
    flitWhole spillFlit = true ∧ spillFlit.ctl.extractLsb' 25 2 = 1 ∧ (link (linked 0) 0).rxKeys.get (spillFlit.ctl.getLsbD 24) = some 7
      ∧ (let esn := nearestEsn (vget (link (linked 0) 0).rxEsn 1 0) (spillFlit.ctl.extractLsb' 0 12).toNat
         let items := flitItems (linked 0) (segKinds spillFlit) (crypt 7 (ivOf 1 (spillFlit.ctl.getLsbD 24) esn) (padTo 624 spillFlit.body))
         items = [.msg (hdr0 3 1) (wordsOf0 16)] ∧ spillValid items = true ∧ ∀ i ∈ items, i.dest = (linked 0).mgmt.device) := by
  have h : ctlPart 5 0 false 1 false spillPlain.2 0 [] < 2 ^ 96 := by decide +kernel
  have hb : spillFlit.ctl.getLsbD 24 = false := by rw [spillFlit, seal_bit h _ (by decide)]; decide +kernel
  have hn : spillFlit.ctl.extractLsb' 0 12 = 5 := by rw [spillFlit, seal_extract h _ (by decide)]; decide +kernel
  have he : nearestEsn (vget (link (linked 0) 0).rxEsn 1 0) 5 = 5 := by decide +kernel
  have hi : flitItems (linked 0) (segKinds spillFlit) (crypt 7 (ivOf 1 false 5) (padTo 624 spillFlit.body)) = [.msg (hdr0 3 1) (wordsOf0 16)] := by
    rw [spillFlit, segKinds_seal h, opened _ _ _ (padTo_length 624 _)]; decide +kernel
  refine ⟨?_, ?_, ?_, ?_⟩
  · rw [spillFlit, flitWhole_seal h]; decide +kernel
  · rw [spillFlit, seal_extract h _ (by decide)]; decide +kernel
  · rw [hb]; decide +kernel
  · rw [hn, hb]
    show flitItems _ _ (crypt 7 (ivOf 1 false (nearestEsn _ 5)) _) = _ ∧ spillValid (flitItems _ _ (crypt 7 (ivOf 1 false (nearestEsn _ 5)) _)) = true
      ∧ ∀ i ∈ flitItems _ _ (crypt 7 (ivOf 1 false (nearestEsn _ 5)) _), i.dest = _
    rw [he, hi]
    decide +kernel
/-- Of two spillway writes of a core's instruction the one behind the cut is dropped (R280). -/
theorem witness_spill_arrival :
    cutBehind (spilled [(514, 6)] serving) (hdr0 3 1) = true ∧ cutBehind (spilled [] serving) (hdr0 3 1) = false
      ∧ (spillArrive [(hdr0 3 1, wordsOf0 16), (hdr0 3 2, wordsOf0 16)] (spilled [] serving)).1.length = 2 := by decide +kernel
/-- A flit with a segment of kind 6 (R418). -/
theorem witness_torn_flit : flitWhole (sealFlit (ctlPart 5 0 false 2 false [6] 0 []) (zeros 624)) = false := by
  rw [flitWhole_seal (by decide)]; decide
/-- With a flit kept since time 0, after n replays; with an item on its way through. -/
def keeping (n : Nat) : State := { modLink 3 (fun l => { l with kept := [⟨0, bare 0 0, []⟩], replays := n }) (linked 3) with time := 2000 }
def relaying (op : BitVec 4) (rly : Bool) : State := modLink 3 (fun l => { l with relayQ := [[.msg { hdr0 op 0 with ddev := 5, rly := rly } []]] }) (linked 4)
theorem witness_replay :
    (∀ n ∈ [0, 7, 8], (link (keeping n) 3).sends = true ∧ (link (keeping n) 3).kept.isEmpty = false ∧ (link (keeping n) 3).ackSeen + 2000 ≤ (keeping n).time)
      ∧ (link (linked 14) 14).up = true := by decide +kernel
theorem witness_relay :
    (∀ x ∈ [(0, true), (0, false), (10, true), (3, false), (3, true)], (link (relaying (BitVec.ofNat 4 x.1) x.2) 3).relayQ ≠ [])
      ∧ linkTo (relaying 0 false) 5 = 4 ∧ (link (relaying 0 false) 4).up = true ∧ queueFlits (link (relaying 3 false) 4) ≤ 32 ∧ (link mach 3).up = false
      ∧ (link (linked 14) 14).undone = [] := by decide +kernel
theorem witness_light :
    (link (linked 14) 14).txLit &&& 1 ≠ 0 ∧ litCount ((link (linked 14) 14).txLit &&& ~~~ 1) = 63 ∧ litCount ((link (linked 14) 14).txLit &&& ~~~ 0xFFFFFFFFFFFF8000) < 16
      ∧ (∀ i ∈ [0, 7], let s : State := modFabric (fun f => { f with spares := vset f.spares i 14 }) (modLink 14 (fun l => { l with sparing := [(i, i, 5)] }) (linked 14))
          vget s.fabric.spares i 15 = 14 ∧ (link s 14).sparing.find? (fun x => x.2.1 == i) = some (i, i, 5) ∧ (link s 14).spf.testBit i = false ∧ (link s 14).up = true) := by
  decide +kernel
theorem witness_keys :
    (link (linked 14) 14).keyHold = false ∧ (link (linked 14) 14).rot = false ∧ (link (linked 14) 14).rxRot = false ∧ (link (linked 14) 14).flipAt = none
      ∧ (∀ c ∈ [0, 2], let l := link (modLink 14 (fun l => { l with txEsn := vset l.txEsn c (2 ^ 47) }) (linked 14)) 14
         2 ^ 47 ≤ vget l.txEsn c 0 - vget l.keyFrom c 0 ∧ l.keyHold = false ∧ phaseAt l (vget l.txEsn 0 0) = l.txKph)
      ∧ (let s := modLink 14 (fun l => { l with rot := true, rxRot := true }) (linked 14)
         (link s 14).rot = true ∧ txRotated (link s 14) = true) := by decide +kernel
theorem witness_training :
    peerOf { linked 14 with mgmt := { mach.mgmt with podSize := 16 } } 14 < 16 ∧ (linked 14).mgmt.podSize ≤ peerOf (linked 14) 14
      ∧ (link (modLink 14 (fun l => { l with training := true }) mach) 14).training = true := by decide +kernel
/-- A link that its peer has reported down before and one that has not heard; a report to take up at a link that is up, and at one that owes its own. -/
theorem witness_link_down :
    (let heard := modLink 3 (fun l => { l with heard := some 5 }) (linked 3)
     let owes := modLink 3 (fun l => { l with up := false, owed := true, undone := [(7, [])] }) (linked 3)
     (link (linked 3) 3).up = true ∧ (link (linked 3) 3).heard = none ∧ (link (linked 3) 3).owed = false
      ∧ (link heard 3).up = true ∧ (link heard 3).heard ≠ none ∧ (link owes 3).up = false ∧ (link owes 3).owed = true) := by decide +kernel
/-- Items that a lost link leaves: one of a line of ours, whose path is chosen or kept, and one of a peer's (R414). -/
theorem witness_reroute :
    (let own : FabItem := .msg { hdr0 0 0 with sdev := 0, ddev := 1 } []
     own.ownLine serving = some (1, 0x100) ∧ (FabItem.msg (hdr0 10 0) []).ownLine serving = none
      ∧ ([] : List ((Nat × Nat) × Nat)).lookup (1, 0x100) = none ∧ [((1, 0x100), 3)].lookup (1, 0x100) = some 3) := by decide +kernel
/-- A direction about to restripe; flits that are due, of each class (R424, R428). -/
theorem witness_stripes :
    (let l : Link := { (link (linked 3) 3) with restripeAt := some (32, 3, 0) }
     let rx := modLink 3 (fun l => { l with rxNew := some (9, 3, 1) }) (linked 3)
     let kept := modLink 3 (fun l => { l with kept := [⟨9, bare 0 0, []⟩] }) rx
     l.restripeAt = some (32, 3, 0) ∧ (link rx 3).rxNew = some (9, 3, 1) ∧ (link rx 3).kept.isEmpty = true ∧ (link kept 3).kept.map Kept.esn = [9]) := by
  decide +kernel
theorem witness_sends :
    (let l := link (linked 3) 3
     canOther { l with gmacDue := 24 } = true ∧ 24 ≤ ({ l with gmacDue := 24 } : Link).gmacDue + ({ l with gmacDue := 24 } : Link).spillTags.length
      ∧ canSpill { l with spillWait := [[(hdr0 3 1, wordsOf0 16)]] } = true ∧ l.gmacDue + l.spillTags.length < 24
      ∧ canSpill { l with waiting := [(0, .msg (hdr0 10 0) [])], credits := 1 } = false
      ∧ canSend { l with waiting := [(0, .msg (hdr0 10 0) [])], credits := 1 } = true) := by decide +kernel
/-- Beat 0 of a flit goes to the first lit channel: the lowest wavelength, and in it the lowest fibre (R420). -/
theorem test_lit_channels : litChannels 0x0001000200010006 = [16, 48, 1, 33, 2] := by decide +kernel

end Sys2Proof.Tests
end

/-! PROOF. A well-formed instruction is read back from its bytes: bytes as one number, that number as words, the words as the instruction. -/
namespace Sys2Proof.Proofs.EncodeDecode

/-! ### Bytes as one number (R9) -/

@[simp] theorem length_leBytes (n v : Nat) : (leBytes n v).length = n := by
  induction n generalizing v with
  | zero => rfl
  | succ n ih => simp [leBytes, ih]

/-- n bytes keep a number below 256^n. -/
theorem leNat_leBytes {n v : Nat} (h : v < 256 ^ n) : leNat (leBytes n v) = v := by
  induction n generalizing v with
  | zero =>
    have : v = 0 := by omega
    rw [this, leBytes, leNat]
  | succ n ih =>
    have hq : v / 256 < 256 ^ n := Nat.div_lt_of_lt_mul (by rwa [Nat.pow_succ'] at h)
    rw [leBytes, leNat, ih hq, BitVec.toNat_ofNat]
    exact Nat.mod_add_div v 256

/-! ### One number as words (R13) -/

/-- The words that the decoder takes from a number. -/
def wordsOf (v : Nat) : Words := ⟨BitVec.ofNat 64 v, BitVec.ofNat 32 (v / 2 ^ 64), BitVec.ofNat 32 (v / 2 ^ 96)⟩

theorem wordsOf_toNat (x : Words) : wordsOf x.toNat = x := by
  obtain ⟨w0, w1, w2⟩ := x
  have h0 := w0.isLt
  have h1 := w1.isLt
  simp only [wordsOf, Words.toNat, Words.mk.injEq]
  refine ⟨?_, ?_, ?_⟩ <;> apply BitVec.eq_of_toNat_eq <;> rw [BitVec.toNat_ofNat] <;> omega

/-- The first byte announces the length (R13). -/
theorem lenBytes_first {i : Instr} {x : Words} (e : encode i = some x) : lenBytes (BitVec.ofNat 8 x.toNat) = i.size := by
  have hb : (BitVec.ofNat 8 x.toNat).extractLsb' 0 2 = x.w0.extractLsb' 0 2 := by
    apply BitVec.eq_of_toNat_eq
    simp only [Words.toNat, BitVec.extractLsb'_toNat, BitVec.toNat_ofNat, Nat.shiftRight_zero]
    omega
  unfold lenBytes
  rw [hb]
  unfold encode at e
  unfold Instr.size
  cases h : i.info <;> simp only [h, reduceCtorEq, Option.some.injEq] at e ⊢ <;> subst e
  case header => rw [packHeader_code]; rfl
  all_goals simp only [packW0_len, lenOf_code]

/-- An announced length is 8, 12 or 16 bytes (R13). -/
theorem lenBytes_eq (b : Byte) : lenBytes b = 8 ∨ lenBytes b = 12 ∨ lenBytes b = 16 := by
  unfold lenBytes
  split
  next l _ => cases l <;> simp [Len.words]
  next => exact .inl rfl

/-- The same for an encoded instruction's size. -/
theorem size_eq {i : Instr} {x : Words} (e : encode i = some x) : i.size = 8 ∨ i.size = 12 ∨ i.size = 16 :=
  lenBytes_first e ▸ lenBytes_eq _

/-! ### Extension words that an instruction does not have (R50) -/

/-- What the extension checks of the three formats share: a word past the length is zero. -/
theorem spare_zero {l : Len} {w1 w2 : BitVec 32} (h1 : (l != .l64 || w1 == 0) = true) (h2 : (l == .l128 || w2 == 0) = true) :
    (4 * l.words < 12 → w1 = 0) ∧ (4 * l.words < 16 → w2 = 0) := by
  cases l <;> simp_all [Len.words]

/-- A well-formed instruction's extension words past its length are zero (R50). -/
theorem spare_zero_of_wf {i : Instr} {x : Words} (e : encode i = some x) (w : i.wf = true) : (i.size < 12 → x.w1 = 0) ∧ (i.size < 16 → x.w2 = 0) := by
  have hc {c : Flaw × Bool} (h : c ∈ i.info.checks) : c.2 = true := Laws.Parses.check_of_wf w h
  unfold encode at e
  unfold Instr.size
  cases h : i.info <;> simp only [h, reduceCtorEq, Option.some.injEq, Info.checks] at e hc ⊢ <;> subst e
  case header => exact ⟨fun _ => rfl, fun _ => rfl⟩
  case ctl r f =>
    have ext := hc (c := (.extension, (f.len != .l64 || f.w1 == 0) && (f.len == .l128 || f.w2 == 0))) (by simp [CtlInfo.checks])
    obtain ⟨h1, h2⟩ := Bool.and_eq_true_iff.1 ext
    exact spare_zero h1 h2
  case comp r f =>
    have ext := hc (c := (.extension, (f.len != .l64 || f.w1 == 0) && (f.len == .l128 || f.w2 == 0) && (r.shape.immB f || f.len != .l128 || f.w2 == 0)))
      (by simp [CompInfo.checks])
    simp only [Bool.and_eq_true] at ext
    obtain ⟨⟨h1, h2⟩, _⟩ := ext
    exact spare_zero h1 h2
  case mem r f =>
    have ext := hc (c := (.extension, (f.len != .l64 || f.w1 == 0) && f.w2 == 0 && (f.len == .l64 || f.off8 == 0))) (by simp [MemInfo.checks])
    simp only [Bool.and_eq_true] at ext
    obtain ⟨⟨h1, h2⟩, _⟩ := ext
    exact spare_zero h1 (Bool.or_eq_true_iff.2 (.inr h2))

/-- An instruction's words as one number fill no more than its bytes. -/
theorem toNat_lt_size {i : Instr} {x : Words} (e : encode i = some x) (w : i.wf = true) : x.toNat < 256 ^ i.size := by
  obtain ⟨h1, h2⟩ := spare_zero_of_wf e w
  have b0 := x.w0.isLt
  have b1 := x.w1.isLt
  have b2 := x.w2.isLt
  unfold Words.toNat
  rcases size_eq e with hs | hs | hs <;> rw [hs] at h1 h2 ⊢
  · simp only [h1 (by decide), h2 (by decide), BitVec.ofNat_eq_ofNat, BitVec.toNat_ofNat]
    omega
  · simp only [h2 (by decide), BitVec.ofNat_eq_ofNat, BitVec.toNat_ofNat]
    omega
  · omega

/-! ### The decoder -/

/-- An instruction that passes every check has no flaw (R50). -/
theorem flaw_of_wf {i : Instr} (w : i.wf = true) : i.flaw = none := by
  simp only [Instr.flaw, Option.map_eq_none_iff, List.find?_eq_none, Bool.not_eq_true', Bool.not_eq_false]
  exact fun _ h => Laws.Parses.check_of_wf w h

/-- Bytes of the announced length decode to what their words decode to, and what follows is left. -/
theorem decode_append {b : Byte} {t rest : List Byte} {i : Instr} (hn : lenBytes b = (b :: t).length)
    (h : decodeWords (wordsOf (leNat (b :: t))) = .ok i) : decode ((b :: t) ++ rest) = .ok (i, rest) := by
  unfold wordsOf at h
  simp only [decode, List.cons_append, hn]
  rw [if_neg (by simp), ← List.cons_append, List.take_left, List.drop_left, h]

open Laws.Parses in
/-- The words of every well-formed instruction parse to it (R29, R32, R38, R65): each by its own law; a step of another agent has no words. -/
theorem parse_encode (i : Instr) : Statement i := by
  cases i with
  | clauseHeader h => exact clauseHeader h | nop f => exact nop f | brk f => exact brk f | trap f => exact trap f | exit f => exact exit f
  | bra f => exact bra f | braNz f => exact braNz f | braZ f => exact braZ f | braEz f => exact braEz f | brx f => exact brx f
  | call f => exact call f | ret f => exact ret f | split f => exact split f | join f => exact join f | loop f => exact loop f | rep f => exact rep f
  | waitf f => exact waitf f | yield f => exact yield f | sadd f => exact sadd f | ssub f => exact ssub f | sand f => exact sand f
  | sor f => exact sor f | sxor f => exact sxor f | sshl f => exact sshl f | sshr f => exact sshr f | ssar f => exact ssar f | smin f => exact smin f
  | smax f => exact smax f | smul f => exact smul f | smulh f => exact smulh f | spopc f => exact spopc f | sclz f => exact sclz f
  | sffs f => exact sffs f | snot f => exact snot f | smad f => exact smad f | sdiv f => exact sdiv f | srem f => exact srem f
  | sbfx f => exact sbfx f | sbfi f => exact sbfi f | ssel f => exact ssel f | scmp f => exact scmp f | smov f => exact smov f
  | smovi f => exact smovi f | slea f => exact slea f | sfadd f => exact sfadd f | sfsub f => exact sfsub f | sfmul f => exact sfmul f
  | sfdiv f => exact sfdiv f | sfmin f => exact sfmin f | sfmax f => exact sfmax f | sffma f => exact sffma f | sfcmp f => exact sfcmp f
  | sfcvt f => exact sfcvt f | sysr f => exact sysr f | sysw f => exact sysw f | time f => exact time f | idx f => exact idx f
  | launch f => exact launch f | icinv f => exact icinv f | vadd f => exact vadd f | vsub f => exact vsub f | vand f => exact vand f
  | vor f => exact vor f | vxor f => exact vxor f | vshl f => exact vshl f | vshr f => exact vshr f | vsar f => exact vsar f | vmin f => exact vmin f
  | vmax f => exact vmax f | vmul f => exact vmul f | vmulh f => exact vmulh f | vpopc f => exact vpopc f | vclz f => exact vclz f
  | vabs f => exact vabs f | vnot f => exact vnot f | vmad f => exact vmad f | vbfx f => exact vbfx f | vbfi f => exact vbfi f
  | vsel f => exact vsel f | vcmp f => exact vcmp f | vmov f => exact vmov f | vmovAmax f => exact vmovAmax f | vmovi f => exact vmovi f
  | vadds f => exact vadds f | vsubs f => exact vsubs f | vfadd f => exact vfadd f | vfsub f => exact vfsub f | vfmul f => exact vfmul f
  | vfmin f => exact vfmin f | vfmax f => exact vfmax f | vfabs f => exact vfabs f | vfneg f => exact vfneg f | vfcls f => exact vfcls f
  | vffma f => exact vffma f | vfcmp f => exact vfcmp f | vfdiv f => exact vfdiv f | vfrcp f => exact vfrcp f | vfrsq f => exact vfrsq f
  | vfexp2 f => exact vfexp2 f | vflog2 f => exact vflog2 f | vfsin f => exact vfsin f | vfcos f => exact vfcos f | vfsqrt f => exact vfsqrt f
  | vftanh f => exact vftanh f | vcvt f => exact vcvt f | vpack f => exact vpack f | vunpk f => exact vunpk f | vdoth f => exact vdoth f
  | vdotb f => exact vdotb f | vdotn f => exact vdotn f | vqadd f => exact vqadd f | vqsub f => exact vqsub f | vqmul f => exact vqmul f
  | vqdiv f => exact vqdiv f | vqcmp f => exact vqcmp f | vqcvt f => exact vqcvt f | vqrnd f => exact vqrnd f | vqfma f => exact vqfma f
  | vshfl f => exact vshfl f | vshfi f => exact vshfi f | vrfal f => exact vrfal f | vrdln f => exact vrdln f | vwrln f => exact vwrln f
  | vredu f => exact vredu f | vscan f => exact vscan f | vmatch f => exact vmatch f | vredm f => exact vredm f | ld f => exact ld f
  | st f => exact st f | ldu f => exact ldu f | stu f => exact stu f | lds f => exact lds f | sts f => exact sts f | ldc f => exact ldc f
  | stc f => exact stc f | ldv f => exact ldv f | clrv f => exact clrv f | pref f => exact pref f | cinv f => exact cinv f | cwb f => exact cwb f
  | llck f => exact llck f | lunl f => exact lunl f | presQuery f => exact presQuery f | presSet f => exact presSet f | presClr f => exact presClr f
  | fence f => exact fence f | rdsb f => exact rdsb f | rdse f => exact rdse f | publ f => exact publ f | retq f => exact retq f
  | gpwt f => exact gpwt f | gpqy f => exact gpqy f | atomAdd f => exact atomAdd f | atomMin f => exact atomMin f | atomMax f => exact atomMax f
  | atomAnd f => exact atomAnd f | atomOr f => exact atomOr f | atomXor f => exact atomXor f | atomXchg f => exact atomXchg f
  | atomFaddF32 f => exact atomFaddF32 f | atomFaddBf16 f => exact atomFaddBf16 f | atomQadd f => exact atomQadd f | redAdd f => exact redAdd f
  | redMin f => exact redMin f | redMax f => exact redMax f | redAnd f => exact redAnd f | redOr f => exact redOr f | redXor f => exact redXor f
  | redXchg f => exact redXchg f | redFaddF32 f => exact redFaddF32 f | redFaddBf16 f => exact redFaddBf16 f | redQadd f => exact redQadd f
  | acas f => exact acas f | barv f => exact barv f | barw f => exact barw f | barwP f => exact barwP f | bars f => exact bars f
  | sigp f => exact sigp f | sigw f => exact sigw f | lease f => exact lease f | rels f => exact rels f | gang f => exact gang f
  | mma f => exact mma f | mzero f => exact mzero f | mdrn f => exact mdrn f | ldfr f => exact ldfr f | mstat f => exact mstat f
  | flcp f => exact flcp f | flmc f => exact flmc f | flrd f => exact flrd f | flwt f => exact flwt f | flst f => exact flst f
  | hrst f => exact hrst f | hrsp f => exact hrsp f | hrqs f => exact hrqs f
  | _ => exact fun _ e _ => nomatch e

/-- The words of a well-formed instruction decode to it. -/
theorem decodeWords_encode {i : Instr} {x : Words} (e : encode i = some x) (w : i.wf = true) : decodeWords x = .ok i := by
  simp only [decodeWords, parse_encode i x e w, flaw_of_wf w]

/-- The bytes of a well-formed instruction decode to it, and what follows is left. -/
theorem decode_encodeBytes {i : Instr} {x : Words} (rest : List Byte) (e : encode i = some x) (w : i.wf = true) :
    decode (encodeBytes i ++ rest) = .ok (i, rest) := by
  have hd : decodeWords (wordsOf (leNat (leBytes i.size x.toNat))) = .ok i := by
    rw [leNat_leBytes (toNat_lt_size e w), wordsOf_toNat, decodeWords_encode e w]
  have hl : (leBytes i.size x.toNat).length = i.size := length_leBytes _ _
  have hb := lenBytes_first e
  simp only [encodeBytes, e]
  cases hs : i.size with
  | zero => rcases size_eq e with h | h | h <;> omega
  | succ n =>
    rw [hs] at hd hl hb
    exact decode_append (hb.trans hl.symm) hd

/-- Settles O30: the bytes are the words' number, which loses no word that the instruction has, and the words parse by the law of each constructor. -/
theorem encodeThenDecode : Obligations.EncodeThenDecode := by
  unfold Obligations.EncodeThenDecode
  intro i rest w he
  obtain ⟨x, e⟩ := Option.isSome_iff_exists.1 he
  exact ⟨decode_encodeBytes rest e w, by simp [encodeBytes, e]⟩

end Sys2Proof.Proofs.EncodeDecode

/-! PROOF. Bytes that decode are the bytes of what they decode to: fields put together again, the row of a parsed form, words as one number. -/
namespace Sys2Proof.Proofs.DecodeEncode
open Sys2Proof.Machine hiding wordsOf
open Sys2Proof.Proofs.EncodeDecode

/-! ### Fields put together again -/

/-- Two adjacent fields are one. -/
theorem adjacent_fields {n a b s t : Nat} (w : BitVec n) (h : s + a = t) :
    w.extractLsb' t b ++ w.extractLsb' s a = w.extractLsb' s (b + a) := by
  subst h
  exact BitVec.extractLsb'_append_extractLsb'_eq_extractLsb' rfl

/-- A bit is a field of one. -/
theorem ofBool_getLsbD {n : Nat} (w : BitVec n) (k : Nat) : BitVec.ofBool (w.getLsbD k) = w.extractLsb' k 1 := by
  apply BitVec.eq_of_getLsbD_eq
  intro i hi
  have : i = 0 := by omega
  subst this
  cases h : w.getLsbD k <;> simp [h]

/-- W0 is its fields (R29). -/
theorem packW0_fields (w : BitVec 64) :
    packW0 (w.extractLsb' 0 2) (w.extractLsb' 2 8) (w.extractLsb' 10 4) (w.extractLsb' 14 6) (w.extractLsb' 20 6) (w.extractLsb' 26 6)
      (w.extractLsb' 32 4) (w.extractLsb' 36 4) (w.extractLsb' 40 2) (w.getLsbD 42) (w.extractLsb' 43 21) = w := by
  simp only [packW0, ofBool_getLsbD, adjacent_fields]
  exact field_all w

/-- W0 [63:43] of a computational instruction is its fields (R32). -/
theorem packComp_unpackComp (l : Len) (x : Words) : packComp (unpackComp l x) = x.w0.extractLsb' 43 21 := by
  simp only [packComp, unpackComp, ofBool_getLsbD, adjacent_fields]

/-- W0 [63:43] of a memory instruction is its fields (R38). -/
theorem packMem_unpackMem (l : Len) (x : Words) : packMem (unpackMem l x) = x.w0.extractLsb' 43 21 := by
  simp only [packMem, unpackMem, ofBool_getLsbD, adjacent_fields]

/-- A header is its fields (R17). -/
theorem packHeader_unpackHeader {w : BitVec 64} (h : w.extractLsb' 0 2 = 3) : packHeader (unpackHeader w) = w := by
  simp only [packHeader, unpackHeader, ofBool_getLsbD, ← h, adjacent_fields]
  exact field_all w

/-- A length is the length of its code alone. -/
theorem code_of_lenOf {c : BitVec 2} {l : Len} (h : lenOf c = some l) : l.code = c := by
  revert c l
  decide

/-- A code without a length is a header's. -/
theorem code_of_lenOf_none {c : BitVec 2} (h : lenOf c = none) : c = 3 := by
  revert c
  decide

/-! ### The row of a parsed form (R55, R56, R58 to R61) -/

/-- A form of one number alone is the only entry of a list. -/
theorem only_entry {α : Type} (k : Nat) (c : α) : (if k = 0 then some c else none) = [c][k]? := by
  cases k <;> rfl

/-- The computational form of MAJ and SUB stands in that row. -/
theorem compOf_row {maj sub : Nat} {am : Bool} {c : Comp → Instr} (h : compOf maj sub am = some c) (f : Comp) :
    ∃ r, (c f).info = .comp r f ∧ r.maj = maj ∧ r.sub = sub := by
  simp only [compOf, only_entry] at h
  cases am
  all_goals
    split at h
    case h_36 => cases h
    all_goals
      obtain ⟨hk, rfl⟩ := List.getElem?_eq_some_iff.1 h
      simp only [List.length_cons, List.length_nil] at hk
      interval_cases sub <;> exact ⟨_, rfl, rfl, rfl⟩

/-- The memory form of MAJ and SUB stands in that row. -/
theorem memOf_row {maj sub : Nat} {p : Bool} {c : MemF → Instr} (h : memOf maj sub p = some c) (f : MemF) :
    ∃ r, (c f).info = .mem r f ∧ r.maj = maj ∧ r.sub = sub := by
  simp only [memOf, only_entry] at h
  cases p
  all_goals
    split at h
    case h_31 => cases h
    all_goals
      obtain ⟨hk, rfl⟩ := List.getElem?_eq_some_iff.1 h
      simp only [List.length_cons, List.length_nil] at hk
      interval_cases sub <;> exact ⟨_, rfl, rfl, rfl⟩

/-- The control, system or engine form of MAJ and SUB stands in that row. -/
theorem ctlOf_row {maj sub : Nat} {c : Ctl → Instr} (h : ctlOf maj sub = some c) (f : Ctl) :
    ∃ r, (c f).info = .ctl r f ∧ r.maj = maj ∧ r.sub = sub := by
  simp only [ctlOf, only_entry] at h
  split at h
  case h_37 => cases h
  all_goals
    obtain ⟨hk, rfl⟩ := List.getElem?_eq_some_iff.1 h
    simp only [List.length_cons, List.length_nil] at hk
    interval_cases sub <;> exact ⟨_, rfl, rfl, rfl⟩

/-! ### What parses is what it is encoded in (R65) -/

/-- Words that parse are the words of what they parse to; a header has no extension words. -/
theorem encode_of_parse {x : Words} {i : Instr} (h : parse x = some i) (hx : lenOf (x.w0.extractLsb' 0 2) = none → x.w1 = 0 ∧ x.w2 = 0) :
    encode i = some x := by
  obtain ⟨w0, w1, w2⟩ := x
  unfold parse at h
  split at h
  case h_1 hl =>
    obtain ⟨rfl, rfl⟩ := hx hl
    cases h
    simp only [encode, Instr.info, packHeader_unpackHeader (code_of_lenOf_none hl)]
  case h_2 l hl =>
    have hc := code_of_lenOf hl
    dsimp only at h
    split at h
    case h_1 c hcomp =>
      cases h
      obtain ⟨r, hi, hm, hs⟩ := compOf_row hcomp (unpackComp l ⟨w0, w1, w2⟩)
      simp only [encode, hi, hm, hs, packComp_unpackComp, BitVec.ofNat_toNat, BitVec.setWidth_eq]
      simp only [unpackComp, hc, packW0_fields]
    case h_2 =>
      split at h
      case h_1 c hmem =>
        cases h
        obtain ⟨r, hi, hm, hs⟩ := memOf_row hmem (unpackMem l ⟨w0, w1, w2⟩)
        simp only [encode, hi, hm, hs, packMem_unpackMem, BitVec.ofNat_toNat, BitVec.setWidth_eq]
        simp only [unpackMem, hc, packW0_fields]
      case h_2 =>
        obtain ⟨c, hctl, rfl⟩ := Option.map_eq_some_iff.1 h
        obtain ⟨r, hi, hm, hs⟩ := ctlOf_row hctl (unpackCtl l ⟨w0, w1, w2⟩)
        simp only [encode, hi, hm, hs, BitVec.ofNat_toNat, BitVec.setWidth_eq]
        simp only [unpackCtl, hc, packW0_fields]

/-! ### Bytes as one number (R9) -/

/-- The number of bytes is below 256^n. -/
theorem leNat_lt (l : List Byte) : leNat l < 256 ^ l.length := by
  induction l with
  | nil => decide
  | cons b t ih =>
    have := b.isLt
    rw [leNat, List.length_cons, Nat.pow_succ']
    omega

/-- Bytes are read back from their number. -/
theorem leBytes_leNat (l : List Byte) : leBytes l.length (leNat l) = l := by
  induction l with
  | nil => rfl
  | cons b t ih =>
    have := b.isLt
    rw [List.length_cons, leBytes, leNat, show (b.toNat + 256 * leNat t) / 256 = leNat t by omega, ih]
    congr 1
    apply BitVec.eq_of_toNat_eq
    rw [BitVec.toNat_ofNat]
    omega

/-- A number of at most 16 bytes is the number of its words. -/
theorem toNat_wordsOf {v : Nat} (h : v < 256 ^ 16) : (wordsOf v).toNat = v := by
  simp only [wordsOf, Words.toNat, BitVec.toNat_ofNat]
  omega

/-! ### The decoder -/

/-- What the words of bytes decode to is well formed, and is what the words encode. -/
theorem parse_of_decodeWords {x : Words} {i : Instr} (h : decodeWords x = .ok i) : parse x = some i ∧ i.wf = true := by
  unfold decodeWords at h
  split at h
  · cases h
  case h_2 j hp =>
    split at h
    · cases h
    case h_2 hf =>
      cases h
      refine ⟨hp, List.all_eq_true.2 fun c hc => ?_⟩
      simp only [Instr.flaw, Option.map_eq_none_iff, List.find?_eq_none, Bool.not_eq_true', Bool.not_eq_false] at hf
      exact hf c hc

/-- The low bits of the first byte are those of the first word. -/
theorem code_of_first (b : Byte) (t : List Byte) : (wordsOf (leNat (b :: t))).w0.extractLsb' 0 2 = b.extractLsb' 0 2 := by
  have := b.isLt
  apply BitVec.eq_of_toNat_eq
  simp only [wordsOf, leNat, BitVec.extractLsb'_toNat, BitVec.toNat_ofNat, Nat.shiftRight_zero]
  omega

/-- Bytes of the length that the first announces are those of the instruction that their words decode to. -/
theorem encodeBytes_of_decodeWords {b : Byte} {t : List Byte} {i : Instr} (hn : lenBytes b = (b :: t).length)
    (h : decodeWords (wordsOf (leNat (b :: t))) = .ok i) : i.wf = true ∧ encodeBytes i = b :: t := by
  obtain ⟨hp, hw⟩ := parse_of_decodeWords h
  have hlt := leNat_lt (b :: t)
  rw [← hn] at hlt
  have hx : lenOf ((wordsOf (leNat (b :: t))).w0.extractLsb' 0 2) = none → (wordsOf (leNat (b :: t))).w1 = 0 ∧ (wordsOf (leNat (b :: t))).w2 = 0 := by
    intro hl
    rw [code_of_first] at hl
    simp only [lenBytes, hl] at hlt
    simp only [wordsOf]
    rw [Nat.div_eq_of_lt (by omega), Nat.div_eq_of_lt (by omega)]
    exact ⟨rfl, rfl⟩
  have he := encode_of_parse hp hx
  have hv : (wordsOf (leNat (b :: t))).toNat = leNat (b :: t) :=
    toNat_wordsOf (hlt.trans_le (Nat.pow_le_pow_right (by decide) (by rcases lenBytes_eq b with h | h | h <;> omega)))
  have hsize : i.size = (b :: t).length := by
    rw [← hn, ← lenBytes_first he, hv]
    congr 1
    apply BitVec.eq_of_toNat_eq
    have := b.isLt
    rw [BitVec.toNat_ofNat, leNat]
    omega
  refine ⟨hw, ?_⟩
  rw [encodeBytes, he]
  simp only [hv, hsize]
  exact leBytes_leNat (b :: t)

/-- Settles O31: no field of a word is dropped by the parse, each form stands in the row that it was parsed by, and bytes are read back from their number. -/
theorem decodeThenEncode : Obligations.DecodeThenEncode := by
  unfold Obligations.DecodeThenEncode
  intro bs rest i h
  cases bs with
  | nil => cases h
  | cons b t =>
    obtain ⟨n, hn⟩ : ∃ n, lenBytes b = n + 1 := ⟨lenBytes b - 1, by rcases lenBytes_eq b with h | h | h <;> omega⟩
    simp only [decode] at h
    split at h
    · cases h
    case isFalse hlen =>
      split at h
      case h_2 => cases h
      case h_1 j hd =>
        cases h
        rw [hn, List.take_succ_cons] at hd
        have hl : lenBytes b = (b :: t.take n).length := by
          simp only [hn, List.length_cons, List.length_take] at hlen ⊢
          omega
        obtain ⟨hw, he⟩ := encodeBytes_of_decodeWords hl hd
        exact ⟨hw, by rw [he, hn, List.drop_succ_cons, List.cons_append, List.take_append_drop]⟩

/-- Settles O32: each word is decoded. -/
theorem sampleWords : Obligations.SampleWords := by
  unfold Obligations.SampleWords
  exact ⟨rfl, rfl, rfl, rfl, rfl, rfl⟩

end Sys2Proof.Proofs.DecodeEncode

/-! PROOF. What an access through caches, links and home memory leaves as it was: the groups, the teams, the counters, the management block. -/
namespace Sys2Proof.Proofs.Caches
open Sys2Proof Sys2Proof.Machine

/-- t differs from s only in what caches, home memory, watches and links hold. -/
def MemOnly (s t : State) : Prop :=
  { s with cores := t.cores, dies := t.dies, slices := t.slices, mem := t.mem, marks := t.marks, valid := t.valid, wbs := t.wbs,
           watches := t.watches, fabric := t.fabric } = t

namespace MemOnly

theorem refl (s : State) : MemOnly s s := rfl

theorem trans {s t u : State} (h : MemOnly s t) (k : MemOnly t u) : MemOnly s u := by
  unfold MemOnly at *
  rw [← h] at k
  exact k

section
variable {s t : State} (h : MemOnly s t)
include h
theorem grp : t.grp = s.grp := by rw [← h]
theorem cur : t.cur = s.cur := by rw [← h]
theorem groups : t.groups = s.groups := by rw [← h]
theorem team : t.team = s.team := by rw [← h]
theorem teams : t.teams = s.teams := by rw [← h]
theorem clusters : t.clusters = s.clusters := by rw [← h]
theorem parts : t.parts = s.parts := by rw [← h]
theorem flumes : t.flumes = s.flumes := by rw [← h]
theorem mgmt : t.mgmt = s.mgmt := by rw [← h]
theorem ticket : t.ticket = s.ticket := by rw [← h]
theorem nextId : t.nextId = s.nextId := by rw [← h]
theorem late : t.late = s.late := by rw [← h]
theorem agenda : t.agenda = s.agenda := by rw [← h]
theorem claims : t.claims = s.claims := by rw [← h]
theorem change : t.change = s.change := by rw [← h]
theorem slot_eq : slot t = slot s := by rw [← h]; rfl
theorem other_eq : other t = other s := by rw [← h]; rfl
theorem readS_eq (r : Nat) : readS t r = readS s r := by rw [← h]; rfl
theorem readQ_eq (r : Nat) : readQ t r = readQ s r := by rw [← h]; rfl
theorem homeOf_eq (pa : Nat) : homeOf t pa = homeOf s pa := by rw [← h]; rfl
theorem canonPa_eq (pa : Nat) : canonPa t pa = canonPa s pa := by rw [← h]; rfl
theorem lineNo_eq (pa : Nat) : lineNo t pa = lineNo s pa := by rw [← h]; rfl
theorem peerLine_eq (l : Nat) : peerLine t l = peerLine s l := by rw [← h]; rfl
end

/-- A loop whose every round leaves the rest. -/
theorem foldl {α : Type} {f : State → α → State} (hf : ∀ s a, MemOnly s (f s a)) (l : List α) (s : State) : MemOnly s (l.foldl f s) := by
  induction l generalizing s with
  | nil => exact refl s
  | cons a l ih => exact (hf s a).trans (ih _)

/-- A branch both of whose sides leave the rest. -/
theorem ite {s t u : State} {c : Prop} [Decidable c] (h : MemOnly s t) (k : MemOnly s u) : MemOnly s (if c then t else u) := by
  split
  · exact h
  · exact k

end MemOnly

/-! ### Parts of the state -/

theorem memOnly_modCore (c : Nat) (f : Core → Core) (s : State) : MemOnly s (modCore c f s) := rfl
theorem memOnly_modDie (d : Nat) (f : Die → Die) (s : State) : MemOnly s (modDie d f s) := rfl
theorem memOnly_modSlice (k : Nat) (f : Slice → Slice) (s : State) : MemOnly s (modSlice k f s) := rfl
theorem memOnly_modFabric (f : Fabric → Fabric) (s : State) : MemOnly s (modFabric f s) := rfl
theorem memOnly_modLink (k : Nat) (f : Link → Link) (s : State) : MemOnly s (modLink k f s) := rfl

/-! ### Home memory -/

theorem memOnly_accept (s : State) (pa : Nat) : MemOnly s (accept s pa) := by
  unfold accept
  refine .ite ?_ (.refl s)
  split
  · exact memOnly_modSlice _ _ s
  · exact .refl _

theorem memOnly_writeBytes (bs : List Byte) (s : State) (pa : Nat) : MemOnly s (writeBytes s pa bs) := by
  induction bs generalizing s pa with
  | nil => exact .refl _
  | cons b t ih => exact .trans (t := writeByte s pa b) rfl (ih _ _)

theorem memOnly_writeMark (s : State) (pa : Nat) (m : Mark) : MemOnly s (writeMark s pa m) := .ite (.refl s) rfl

theorem memOnly_setValid (s : State) (pa : Nat) (b : Bool) : MemOnly s (setValid s pa b) := .ite (.refl s) rfl

theorem memOnly_sigNote (s : State) (pa : Nat) : MemOnly s (sigNote s pa) := rfl

theorem memOnly_homeWrite (s : State) (pa : Nat) (w : TWord) : MemOnly s (homeWrite s pa w) :=
  (((memOnly_writeBytes _ s _).trans (memOnly_writeMark ..)).trans (memOnly_sigNote ..)).trans (memOnly_setValid ..)

/-! ### Requests to peers -/

theorem memOnly_sendReq (op dev line wmask : Nat) (d : List TWord) (cnt : Option Nat) (p gid : Nat) (pu : Purpose) (s : State) :
    MemOnly s (sendReq op dev line wmask d cnt p gid pu s) := by
  unfold sendReq
  exact .ite (.trans (memOnly_modFabric _ s) (memOnly_modLink _ _ _)) (memOnly_modFabric _ s)

theorem memOnly_dropFills (d : Nat) (hit : Nat → Bool) (s : State) : MemOnly s (dropFills d hit s) :=
  .trans (memOnly_modDie d _ s) (memOnly_modFabric _ _)

/-! ### Write-backs -/

theorem memOnly_performLine (x : CLine) (s : State) : MemOnly s (performLine x s) :=
  .trans (memOnly_accept s _) (.foldl (fun s _ => .ite (memOnly_homeWrite s _ _) (.refl s)) _ _)

theorem memOnly_writeHome (r : Nat) (x : CLine) (cnt : Option Nat) (s : State) : MemOnly s (writeHome r x cnt s) := by
  unfold writeHome
  refine .ite rfl ?_
  split
  · exact memOnly_sendReq ..
  · exact memOnly_performLine x s

theorem memOnly_putHome (p pa : Nat) (ws : List TWord) (pu : Purpose) (s : State) : MemOnly s (putHome p pa ws pu s) := by
  unfold putHome
  split
  · exact memOnly_sendReq ..
  · exact .trans (memOnly_accept s pa) (.foldl (fun s _ => memOnly_homeWrite s _ _) _ _)

/-- The slices accept the requests of an image's lines. -/
theorem memOnly_ctxAccept (p c va n : Nat) (s : State) : MemOnly s (ctxAccept p c va n s) := by
  refine .foldl (fun s i => ?_) _ s
  split
  · exact memOnly_accept s _
  · exact .refl _

/-! ### Translations (R314) -/

theorem memOnly_engineTlb (c p va : Nat) (s : State) : MemOnly s (engineTlb c p va s) := by
  unfold engineTlb
  refine .ite (.refl s) ?_
  split
  · exact .trans (memOnly_modCore c _ s) (memOnly_modDie _ _ _)
  · exact .refl _

/-! ### The die cache -/

theorem memOnly_dieRoom (d line : Nat) (s : State) : MemOnly s (dieRoom d line s).2 := by
  unfold dieRoom
  dsimp only
  split
  · exact .refl _
  · split
    case h_1 v ls' _ =>
      have hd := (memOnly_modDie d (fun q => { q with lines := ls'.filter (fun x => x.line != v.line) }) s).trans (memOnly_dropFills d (fun l => l == v.line) _)
      exact .ite (hd.trans (memOnly_writeHome ..)) hd
    case h_2 => exact memOnly_modDie d _ s

theorem memOnly_dieTouch (d line rrpv : Nat) (s : State) : MemOnly s (dieTouch d line rrpv s) := by
  unfold dieTouch
  exact .ite (memOnly_modDie d _ s) (.trans (memOnly_dieRoom d line s) (memOnly_modDie d _ _))

theorem memOnly_dieWords (d line : Nat) (f : Nat → CWord → CWord) (s : State) : MemOnly s (dieWords d line f s) := memOnly_modDie d _ s

theorem memOnly_dieFill (d line rdis : Nat) (s : State) : MemOnly s (dieFill d line rdis s) := by
  have ht := memOnly_dieTouch d line rdis s
  unfold dieFill
  dsimp only
  split
  · exact ht
  · exact .ite ht ((ht.trans (memOnly_accept _ _)).trans (memOnly_dieWords ..))

/-! ### The L1 -/

/-- A dirty line of an L1 put into its die's cache. -/
theorem memOnly_spillDown (d : Nat) (v : CLine) (s : State) :
    MemOnly s (dieWords d v.line (fun i w => if (v.word i).dirty then v.word i else w)
      (modDie d (fun q => { q with lines := q.lines.map (fun y => if y.line = v.line then { y with part := v.part } else y) }) (dieTouch d v.line 2 s))) :=
  ((memOnly_dieTouch d v.line 2 s).trans (memOnly_modDie d _ _)).trans (memOnly_dieWords ..)

theorem memOnly_l1Insert (c : Nat) (x : CLine) (s : State) : MemOnly s (l1Insert c x s) := by
  unfold l1Insert
  dsimp only
  refine .ite (memOnly_modCore c _ s) ?_
  split
  · exact memOnly_modCore c _ s
  · exact .ite (.trans (memOnly_modCore c _ s) (memOnly_spillDown _ _ _)) (memOnly_modCore c _ s)

theorem memOnly_takeFill (c line : Nat) (s : State) : MemOnly s (takeFill c line s) := by
  unfold takeFill
  split
  · exact .refl _
  · exact .trans (memOnly_modDie _ _ s) (memOnly_dieWords ..)

theorem memOnly_l1Fill (c line i rdis : Nat) (s : State) : MemOnly s (l1Fill c line i rdis s) := by
  unfold l1Fill
  exact .ite (((memOnly_dieFill _ line rdis s).trans (memOnly_takeFill c line _)).trans (memOnly_l1Insert ..)) (memOnly_l1Insert c _ s)

theorem memOnly_cacheRead (c pa rdis : Nat) (s : State) : MemOnly s (cacheRead c pa rdis s).2 := memOnly_l1Fill ..

theorem memOnly_cacheWrite (c pa p rdis : Nat) (t : TWord) (s : State) : MemOnly s (cacheWrite c pa p rdis t s) :=
  (memOnly_l1Fill c _ _ rdis s).trans (memOnly_modCore c _ _)

/-! ### Lines written back and dropped -/

theorem memOnly_l1WriteBack (c line : Nat) (s : State) : MemOnly s (l1WriteBack c line s) := by
  unfold l1WriteBack
  split
  · exact .refl _
  case h_2 v hv =>
    refine .ite ?_ (.refl s)
    have hl : v.line = line := by simpa using List.find?_some hv
    subst hl
    exact (memOnly_modCore c _ s).trans (memOnly_spillDown _ v _)

theorem memOnly_dieWriteBack (d r line : Nat) (cnt : Option Nat) (s : State) : MemOnly s (dieWriteBack d r line cnt s) := by
  unfold dieWriteBack
  split
  · exact .refl _
  · exact .ite (.trans (memOnly_modDie d _ s) (memOnly_writeHome ..)) (.refl s)

theorem memOnly_l1Drop (c line : Nat) (s : State) : MemOnly s (l1Drop c line s) := memOnly_modCore c _ s

theorem memOnly_dieDrop (d line : Nat) (s : State) : MemOnly s (dieDrop d line s) := (memOnly_modDie d _ s).trans (memOnly_dropFills ..)

theorem memOnly_flushLine (c line : Nat) (s : State) : MemOnly s (flushLine c line s) :=
  (((memOnly_l1WriteBack c line s).trans (memOnly_dieWriteBack ..)).trans (memOnly_l1Drop c line _)).trans (memOnly_dieDrop ..)

/-! ### Releases and acquires (R269) -/

theorem memOnly_releaseAction (c scope : Nat) (s : State) : MemOnly s (releaseAction c scope s) := by
  have hl (s : State) : MemOnly s (releaseL1 c s) := .foldl (fun s n => memOnly_l1WriteBack c n s) _ s
  have hd (s : State) : MemOnly s (releaseDie (dieOf c) c (some c) s) := .foldl (fun s n => memOnly_dieWriteBack (dieOf c) c n (some c) s) _ s
  exact .ite (.refl s) (.ite (hl s) ((hl s).trans (hd _)))

theorem memOnly_releaseNow (scope : Nat) (s : State) : MemOnly s (releaseNow scope s) := by
  have hc : MemOnly s (advanceCut s.grp.core scope s) := .ite (memOnly_modCore _ _ s) (.refl s)
  exact .ite (.refl s) (hc.trans (memOnly_releaseAction ..))

theorem memOnly_acquireAction (c scope : Nat) (s : State) : MemOnly s (acquireAction c scope s) := by
  unfold acquireAction
  exact .ite (.refl s) (.ite (memOnly_modCore c _ s) (.trans (.trans (memOnly_modCore c _ s) (memOnly_modDie _ _ _)) (memOnly_dropFills ..)))

/-! ### The words that a slot sees (R172, R174, R275) -/

theorem memOnly_readOne (c rdis : Nat) (pub : Option Nat) (pa : Nat) (s : State) : MemOnly s (readOne c rdis pub pa s).2 := by
  unfold readOne
  split
  · exact .refl _
  · split
    · exact memOnly_cacheRead ..
    · exact .refl _

theorem memOnly_pubLine (c : Nat) (pub : Option Nat) (pa : Nat) (s : State) : MemOnly s (pubLine c pub pa s) := by
  have hf := memOnly_flushLine c (lineNo s pa) s
  exact .ite (.ite (hf.trans (memOnly_accept _ pa)) hf) (.refl s)

/-- Words read one after the other. -/
theorem memOnly_readAll (c rdis : Nat) (pub : Option Nat) (pas : List Nat) (r : List (Nat × TWord) × State) :
    MemOnly r.2 (pas.foldl (fun r pa => match readOne c rdis pub pa r.2 with
      | (some t, s) => (r.1 ++ [(pa, t)], s)
      | (none, s) => (r.1, s)) r).2 := by
  induction pas generalizing r with
  | nil => exact .refl r.2
  | cons pa pas ih =>
    have h := memOnly_readOne c rdis pub pa r.2
    rw [List.foldl_cons]
    refine .trans ?_ (ih _)
    split <;> rename_i he <;> rw [he] at h <;> exact h

theorem memOnly_readWords (c rdis : Nat) (pub : Option Nat) (pas : List Nat) (s : State) : MemOnly s (readWords c rdis pub pas s).2 :=
  .trans (.foldl (fun s pa => memOnly_pubLine c pub pa s) _ s) (memOnly_readAll c rdis pub pas ([], _))

/-! ### Code (R14, R452) -/

theorem memOnly_fetchBlock {s t : State} {va : Nat} {bs : List Byte} (h : fetchBlock s va = .ok (bs, t)) : MemOnly s t := by
  simp only [fetchBlock] at h
  split at h
  · cases h
  · split at h
    · cases h
      exact .refl _
    · split at h
      · cases h
      · cases h
      · split at h
        · cases h
        · split at h
          · cases h
          · cases h
            exact memOnly_modCore ..

theorem memOnly_fetchFrom {s t : State} {va : Nat} {bs : List Byte} (h : fetchFrom s va = .ok (bs, t)) : MemOnly s t := by
  unfold fetchFrom at h
  split at h
  · cases h
    exact .refl _
  · split at h
    case h_1 hb =>
      cases h
      exact memOnly_fetchBlock hb
    case h_2 => cases h

theorem memOnly_scanOver {n : Nat} {s t : State} {va pc : Nat} (h : scanOver s n va = .ok (pc, t)) : MemOnly s t := by
  induction n generalizing s va with
  | zero =>
    cases h
    exact .refl _
  | succ n ih =>
    unfold scanOver at h
    split at h
    · cases h
    case h_2 hb => exact (memOnly_fetchFrom hb).trans (ih h)

theorem memOnly_continuation {n : Nat} {s t : State} {c : Nat} (h : continuation s n = .ok (c, t)) : MemOnly s t := by
  unfold continuation at h
  split at h
  · exact memOnly_scanOver h
  · cases h
    exact .refl _

/-! ### The divergence stack (R111) -/

theorem memOnly_dvRead {i : Nat} {s t : State} {e : DvEntry} (h : dvRead i s = .ok (e, t)) : MemOnly s t := by
  simp only [dvRead] at h
  split at h
  · cases h
  · split at h
    · cases h
    · split at h
      · cases h
      · cases h
        exact (memOnly_cacheRead ..).trans (memOnly_cacheRead ..)

theorem memOnly_dvWrite {i : Nat} {s t : State} {e : DvEntry} (h : dvWrite i e s = .ok t) : MemOnly s t := by
  simp only [dvWrite, DvEntry.words] at h
  split at h
  · cases h
  · cases h
    exact (memOnly_cacheWrite ..).trans (memOnly_cacheWrite ..)

end Sys2Proof.Proofs.Caches

/-! PROOF. Clause headers and branches (R17 to R20, R105 to R107): what an act that runs to its end leaves, and each outcome of the two kinds of act. -/
namespace Sys2Proof.Proofs.Control
open Sys2Proof Sys2Proof.Machine Sys2Proof.Proofs.Caches

/-! ### The issuing slot's moves -/

/-- A transfer moves the group's slot only. -/
theorem transfer_grp (pc : Nat) (s : State) : (transfer pc s).grp = s.grp.modSlot s.cur (fun y => (Slot.issued y).goto pc) := by
  unfold transfer
  by_cases h : ((slot s).urgent || (slot s).yieldsAt) = true <;> simp [h, youngest, youngestOf]

/-- The youngest slot of a core is named in its age order alone. -/
theorem outsideSame_youngestOf (c gid : Nat) (b : Bool) (s : State) : OutsideSame s (youngestOf c gid b s) :=
  ⟨rfl, rfl, rfl, rfl, rfl, rfl, rfl, core_youngestOf c gid b s, rfl, rfl, memorySame_of_eq rfl rfl rfl rfl, rfl, rfl, rfl, rfl, rfl, rfl, rfl, rfl, rfl, rfl,
   rfl, rfl, rfl, rfl⟩

theorem outsideSame_youngest (s : State) : OutsideSame s (youngest s) := outsideSame_youngestOf ..

/-- A change of the other slot alone. -/
theorem outsideSame_modOther (f : Slot → Slot) (s : State) : OutsideSame s (modOther f s) := outsideSame_modGrp (fun g => g.modSlot (! s.cur) f) s

/-- Two changes of one slot are one. -/
theorem modSlot_modSlot (g : Group) (b : Bool) (f h : Slot → Slot) : (g.modSlot b f).modSlot b h = g.modSlot b (fun x => h (f x)) := by
  cases b <;> rfl

/-- A branch's target is the offset's address (R105). -/
theorem targetBy_eq (f : Ctl) (off : Int) (s : State) : targetBy f off s = relTarget (slot s).pc (if f.len = .l64 then off else f.w1.toInt) := rfl

/-- What is no target (R15). -/
theorem badTarget_eq_false {pc : Nat} : badTarget pc = false ↔ pc % 4 = 0 ∧ pc % 32 ≠ 28 := by
  simp [badTarget]

theorem badTarget_eq_true {pc : Nat} : badTarget pc = true ↔ pc % 4 ≠ 0 ∨ pc % 32 = 28 := by
  simp [badTarget]

/-- Every flag of a mask reads zero, as the header tests it (R19). -/
theorem maskZero_iff {x : Slot} {m : BitVec 12} : x.maskZero m.toNat = true ↔ flagsClear x m := by
  simp only [Slot.maskZero, flagsClear, List.all_eq_true, List.mem_range, Bool.or_eq_true, Bool.not_eq_true', beq_iff_eq, BitVec.getLsbD]
  refine forall_congr' fun k => forall_congr' fun _ => ?_
  cases m.toNat.testBit k <;> simp

/-! ### An act that runs to its end, or stops -/

section
variable {x : Instr} {s t : State} {act : State → Except Stop State}

/-- No late writes wait once a clear instruction has entered. -/
theorem entered_late (h : clear x s = true) : (entered x s).late = none := (outsideSame_entered h).late.trans (clear_late h)

theorem entered_cur (h : clear x s = true) : (entered x s).cur = s.cur := (outsideSame_entered h).cur

theorem entered_dvDepth (h : clear x s = true) : (entered x s).grp.dvDepth = s.grp.dvDepth := by
  obtain ⟨_, _, _, e⟩ := entered_grp h
  rw [e]

theorem entered_dvCap (h : clear x s = true) : (entered x s).grp.dvCap = s.grp.dvCap := by
  obtain ⟨_, _, _, e⟩ := entered_grp h
  rw [e]

theorem entered_modSlot_gid (h : clear x s = true) (b : Bool) (f : Slot → Slot) : ((entered x s).grp.modSlot b f).gid = s.grp.gid := by
  rw [Group.modSlot_gid, entered_gid h]

/-- An instruction without vector sources whose act starts from another state than the one entered, as one that has fetched code. -/
theorem ran_plain {w : State} (h : clear x s = true) (hv : vecSrcs x = []) (hx : exec x s = issueE x act s) (ha : act (entered x s) = .ok t)
    (hl : w.late = none) (hg : t.grp.gid = s.grp.gid) (hf : OutsideSame w t) : ∃ v, exec x s = .next v ∧ OutsideSame w v ∧ v.grp = t.grp.closes x :=
  ran_ofE h hx ha (done_grp_plain h hv t (hf.late.trans hl) hg) hf

/-- The same where nothing outside the group has changed. -/
theorem yields_plain (h : clear x s = true) (hv : vecSrcs x = []) (hx : exec x s = issueE x act s) (ha : act (entered x s) = .ok t)
    (hg : t.grp.gid = s.grp.gid) (hf : OutsideSame (entered x s) t) : Yields x s (t.grp.closes x) := by
  obtain ⟨v, hn, ho, hvg⟩ := ran_plain h hv hx ha (entered_late h) hg hf
  exact ⟨v, hn, hvg, (outsideSame_entered h).trans ho⟩

/-- An act that moves on. -/
theorem yields_advance {n : Nat} (h : clear x s = true) (hv : vecSrcs x = []) (hx : exec x s = issueE x act s)
    (ha : act (entered x s) = .ok (advance n (entered x s))) :
    Yields x s (((entered x s).grp.modSlot s.cur (fun y => passed y n)).closes x) := by
  have hg := advance_grp n (entered x s)
  rw [entered_cur h] at hg
  rw [← hg]
  exact yields_plain h hv hx ha (by rw [hg, entered_modSlot_gid h]) (outsideSame_advance n _)

/-- An act that goes to a target. -/
theorem yields_transfer {pc : Nat} (h : clear x s = true) (hv : vecSrcs x = []) (hx : exec x s = issueE x act s)
    (ha : act (entered x s) = .ok (transfer pc (entered x s))) :
    Yields x s (((entered x s).grp.modSlot s.cur (fun y => (Slot.issued y).goto pc)).closes x) := by
  have hg := transfer_grp pc (entered x s)
  rw [entered_cur h] at hg
  rw [← hg]
  exact yields_plain h hv hx ha (by rw [hg, entered_modSlot_gid h]) (outsideSame_transfer pc _)

end

/-! ### Branches (R105 to R107) -/

/-- A branch: taken to a target, not taken, or to an address that is no target. -/
theorem branch_runs {x : Instr} {f : Ctl} {s : State} {taken : State → Bool} (h : clear x s = true) (he : entered x s = s) (hv : vecSrcs x = [])
    (hk : ∀ g : Group, g.closes x = g) (hx : exec x s = issueE x (branchAct f taken) s) :
    let pc := relTarget (slot s).pc (if f.len = .l64 then f.imm.toInt else f.w1.toInt)
    (taken s = false → Yields x s (s.grp.passes s.cur f.len))
    ∧ (taken s = true → pc % 4 = 0 → pc % 32 ≠ 28 → Yields x s (s.grp.modSlot s.cur (fun y => (Slot.issued y).goto pc)))
    ∧ (taken s = true → (pc % 4 ≠ 0 ∨ pc % 32 = 28) → exec x s = .next (takeTrap 0x02 (BitVec.allOnes 32) 0 0 s)) := by
  intro pc
  refine ⟨fun ht => ?_, fun ht h4 h32 => ?_, fun ht hbad => ?_⟩
  · have ha : branchAct f taken (entered x s) = .ok (advance (4 * f.len.words) (entered x s)) := by
      rw [he, branchAct, if_neg (by simp [ht])]
      rfl
    have hy := yields_advance h hv hx ha
    rw [he, hk] at hy
    exact hy
  · have ha : branchAct f taken (entered x s) = .ok (transfer pc (entered x s)) := by
      rw [he, branchAct, if_pos ht, targetBy_eq, jump, if_neg (by simp [badTarget_eq_false.2 ⟨h4, h32⟩, pc])]
    have hy := yields_transfer h hv hx ha
    rw [he, hk] at hy
    exact hy
  · have ha : branchAct f taken (entered x s) = .error .fetchal := by
      rw [he, branchAct, if_pos ht, targetBy_eq, jump, if_pos (badTarget_eq_true.2 hbad)]
    have hs := hx.trans (issueE_stop h ha)
    rwa [he] at hs

/-- Settles O19: the four branches are one act under four conditions. -/
theorem branches : Obligations.Branches := by
  unfold Obligations.Branches
  intro f s
  rw [List.forall_mem_cons, List.forall_mem_cons, List.forall_mem_cons, List.forall_mem_singleton]
  refine ⟨fun h => ?_, fun h => ?_, fun h => ?_, fun h => ?_⟩
  · exact branch_runs (taken := fun _ => true) h (entered_eq h rfl rfl rfl) rfl (fun _ => rfl) rfl
  · exact branch_runs (taken := fun s => readS s f.a.toNat != 0) h (entered_eq h rfl rfl rfl) rfl (fun _ => rfl) rfl
  · exact branch_runs (taken := fun s => readS s f.a.toNat == 0) h (entered_eq h rfl rfl rfl) rfl (fun _ => rfl) rfl
  · exact branch_runs (taken := fun s => (slot s).exec == 0) h (entered_eq h rfl rfl rfl) rfl (fun _ => rfl) rfl

/-! ### Clause headers (R17 to R19) -/

/-- A header whose flags are not clear holds. -/
theorem headerAct_waits {h : Header} {s : State} (hw : ¬ flagsClear (slot s) h.wait) : headerAct h s = .error .hold := by
  unfold headerAct
  rw [if_pos]
  simpa [← maskZero_iff] using hw

/-- A header with SER holds while an operation of its slot is outstanding. -/
theorem headerAct_ser {h : Header} {s : State} (hw : flagsClear (slot s) h.wait) (hs : (h.ser && s.grp.ops.any (fun o => o.slot == s.cur)) = true) :
    headerAct h s = .error .hold := by
  unfold headerAct
  rw [if_neg (by simp [maskZero_iff.2 hw]), if_pos hs]

/-- A header that holds no more starts its clause, which lies within the body of its loop. -/
theorem headerAct_starts {h : Header} {s : State} (hw : flagsClear (slot s) h.wait) (hs : (h.ser && s.grp.ops.any (fun o => o.slot == s.cur)) = false)
    (hp : pastBody s h.nins.toNat = .ok false) (he : (slot s).exec ≠ 0) :
    headerAct h s = .ok (youngest (modCur (fun y => { Slot.issued y with
      pc := nextPc y.pc 8,
      cl := some { hdr := y.pc, nins := h.nins.toNat, idx := 0, setA := h.setA.toNat, setB := h.setB.toNat, yld := h.yld } }) s)) := by
  unfold headerAct
  rw [if_neg (by simp [maskZero_iff.2 hw]), if_neg (by simp [hs])]
  simp only [hp, if_neg he]

/-- Where the slot's mask is empty it goes past its clause. -/
theorem headerAct_skips {h : Header} {s w : State} {pc : Nat} (hw : flagsClear (slot s) h.wait)
    (hs : (h.ser && s.grp.ops.any (fun o => o.slot == s.cur)) = false) (hp : pastBody s h.nins.toNat = .ok false) (he : (slot s).exec = 0)
    (hscan : scanOver s h.nins.toNat (nextPc (slot s).pc 8) = .ok (pc, w)) :
    headerAct h s = .ok (youngest (modCur (fun y => Slot.loopEnd { Slot.issued y with pc := pc, cl := none }) w)) := by
  unfold headerAct
  rw [if_neg (by simp [maskZero_iff.2 hw]), if_neg (by simp [hs])]
  simp only [hp, if_pos he, hscan]

/-- The operations that a header with SER waits for stand as they stood before the region's end. -/
theorem entered_ops_any {x : Instr} {s : State} (h : clear x s = true) (b : Bool) :
    (entered x s).grp.ops.any (fun o => o.slot == b) = s.grp.ops.any (fun o => o.slot == b) := by
  unfold entered
  split
  case isFalse => rfl
  case isTrue he =>
    simp only [endRegion, (clear_parts h).2.2.2.1 he, List.foldl_nil, startRegion, modGrp, List.any_map]
    refine congrArg (List.any s.grp.ops) (funext fun o => ?_)
    dsimp only [Function.comp]
    split <;> rfl

/-- Settles O17: the act's branches, one by one, in the state that the header has entered. -/
theorem clauseHeaders : Obligations.ClauseHeaders := by
  unfold Obligations.ClauseHeaders
  intro h s hc x u serHolds
  have hu : slot u = slot s := entered_slot hc
  have hser : (h.ser && u.grp.ops.any (fun o => o.slot == u.cur)) = serHolds := by
    rw [entered_cur hc, entered_ops_any hc]
  have hx : exec x s = issueE x (headerAct h) s := rfl
  refine ⟨fun hw => ?_, fun hw hs => ?_, fun hw hs hp he => ?_, fun pc w hw hs hp he hscan => ?_⟩
  · exact hx.trans (issueE_stop hc (headerAct_waits (by rwa [hu])))
  · exact hx.trans (issueE_stop hc (headerAct_ser (by rwa [hu]) (hser.trans hs)))
  · have ha := headerAct_starts (s := u) (by rwa [hu]) (hser.trans hs) hp (by rwa [hu])
    have hy := yields_plain hc rfl hx ha (entered_modSlot_gid hc _ _) ((outsideSame_modCur _ u).trans (outsideSame_youngest _))
    rw [show s.cur = u.cur from (entered_cur hc).symm]
    exact hy
  · have ha := headerAct_skips (s := u) (by rwa [hu]) (hser.trans hs) hp (by rwa [hu]) (by rwa [hu])
    have hm := memOnly_scanOver hscan
    obtain ⟨t, hn, ho, hg⟩ := ran_plain (w := w) hc rfl hx ha (hm.late.trans (entered_late hc))
      (by show (w.grp.modSlot w.cur _).gid = _; rw [Group.modSlot_gid, hm.grp, entered_gid hc]) ((outsideSame_modCur _ w).trans (outsideSame_youngest _))
    refine ⟨t, hn, ?_, ho⟩
    rw [show s.cur = w.cur from (hm.cur.trans (entered_cur hc)).symm]
    exact hg

end Sys2Proof.Proofs.Control

/-! PROOF. SPLIT, JOIN and EXIT, case by case (R112 to R114). -/
namespace Sys2Proof.Proofs.Paths
open Sys2Proof Sys2Proof.Machine Sys2Proof.Proofs.Caches Sys2Proof.Proofs.Control

/-! ### Fields of the immediate -/

/-- A field of the immediate as a number (R29). -/
theorem at_eq (f : Ctl) (lo n : Nat) : f.at lo n = (f.imm.extractLsb' lo n).toNat := by
  simp [Ctl.at, BitVec.extractLsb'_toNat]

/-- A number of n bits read as two's complement. -/
theorem toSigned_toNat {n : Nat} (x : BitVec n) (h : 0 < n) : toSigned n x.toNat = x.toInt := by
  have := x.isLt
  have hp : 2 ^ n = 2 * 2 ^ (n - 1) := by rw [← Nat.pow_succ']; congr; omega
  rw [toSigned, Nat.mod_eq_of_lt this, BitVec.toInt]
  split <;> split <;> omega

/-! ### The stack's depth, and moves that follow a change of the slot -/

/-- A change of the issuing group alone, whatever it becomes. -/
theorem outsideSame_grp (s : State) (g : Group) : OutsideSame s { s with grp := g } := outsideSame_modGrp (fun _ => g) s

/-- Another depth: what it does to the group. -/
theorem setDepth_grp (n : Nat) (s : State) : (setDepth n s).grp = { (wakeStack s).grp with dvDepth := n } := by
  cases h : s.cur <;> simp [setDepth, wakeStack, modOther, modGrp, Group.modSlot, h]

theorem setDepth_cur (n : Nat) (s : State) : (setDepth n s).cur = s.cur := rfl

theorem outsideSame_setDepth (n : Nat) (s : State) : OutsideSame (wakeStack s) (setDepth n s) := outsideSame_grp (wakeStack s) (setDepth n s).grp

theorem outsideSame_wakeStack (s : State) : OutsideSame s (wakeStack s) := outsideSame_modOther _ s

theorem outsideSame_wakeJoin (s : State) : OutsideSame s (wakeJoin s) := outsideSame_modOther _ s

/-- A transfer of a slot that has changed before. -/
theorem transfer_modCur_grp (pc : Nat) (f : Slot → Slot) (s : State) :
    (transfer pc (modCur f s)).grp = s.grp.modSlot s.cur (fun y => (Slot.issued (f y)).goto pc) := by
  rw [transfer_grp, modCur_grp, show (modCur f s).cur = s.cur from rfl, modSlot_modSlot]

/-- A move on of a slot that has changed before. -/
theorem advance_modCur_grp (n : Nat) (f : Slot → Slot) (s : State) :
    (advance n (modCur f s)).grp = s.grp.modSlot s.cur (fun y => passed (f y) n) := by
  rw [advance_grp, modCur_grp, show (modCur f s).cur = s.cur from rfl, modSlot_modSlot]

theorem outsideSame_transfer_modCur (pc : Nat) (f : Slot → Slot) (s : State) : OutsideSame s (transfer pc (modCur f s)) :=
  (outsideSame_modCur f s).trans (outsideSame_transfer pc _)

theorem outsideSame_advance_modCur (n : Nat) (f : Slot → Slot) (s : State) : OutsideSame s (advance n (modCur f s)) :=
  (outsideSame_modCur f s).trans (outsideSame_advance n _)

/-! ### SPLIT's act (R112) -/

/-- The target of a SPLIT (R105, R112). -/
def splitTarget (f : Ctl) (s : State) : Nat := relTarget (slot s).pc (if f.len = .l64 then (f.imm.extractLsb' 7 14).toInt else f.w1.toInt)

theorem targetBy_split (f : Ctl) (s : State) : targetBy f (toSigned 14 (f.at 7 14)) s = splitTarget f s := by
  rw [at_eq, toSigned_toNat _ (by decide), targetBy_eq, splitTarget]

/-- The lanes that a SPLIT takes, and those that it leaves. -/
abbrev splitTaken (f : Ctl) (s : State) : BitVec 32 := (slot s).exec &&& (readS s f.a.toNat).setWidth 32
abbrev splitRest (f : Ctl) (s : State) : BitVec 32 := (slot s).exec &&& ~~~((readS s f.a.toNat).setWidth 32)

section
variable {f : Ctl} {s w : State} {c : Nat}

theorem splitAct_holds (hz : (slot s).flagsZero = false) : splitAct f s = .error .hold := by
  unfold splitAct
  rw [if_pos (by simp [hz])]

theorem splitAct_none (hz : (slot s).flagsZero = true) (ht : splitTaken f s = 0) : splitAct f s = .ok (advance (4 * f.len.words) s) := by
  unfold splitAct
  rw [if_neg (by simp [hz]), if_pos ht, Machine.lenOf]

theorem splitAct_all (hz : (slot s).flagsZero = true) (ht : splitTaken f s ≠ 0) (hr : splitRest f s = 0) : splitAct f s = jump (splitTarget f s) s := by
  unfold splitAct
  rw [if_neg (by simp [hz]), if_neg ht, if_pos hr, targetBy_split]

section
variable (hz : (slot s).flagsZero = true) (ht : splitTaken f s ≠ 0) (hr : splitRest f s ≠ 0) (hc : continuation s (4 * f.len.words) = .ok (c, w))
include hz ht hr hc

theorem splitAct_bad (hb : badTarget (splitTarget f s) = true) : splitAct f s = .error .fetchal := by
  unfold splitAct
  rw [if_neg (by simp [hz]), if_neg ht, if_neg hr, Machine.lenOf, hc, targetBy_split]
  simp only [hb, if_true]

variable (hb : badTarget (splitTarget f s) = false)
include hb

theorem splitAct_forks (hl : (other w).live = false) (ho : (other w).flagsZero = true) :
    let w1 := modOther (fun y => { Slot.vacant with st := .ready, pc := c, exec := splitRest f s, flags := y.flags, tag := (f.imm.extractLsb' 0 7).toNat }) w
    let w2 := transfer (splitTarget f s) (modCur (fun x => { x with exec := splitTaken f s, tag := (f.imm.extractLsb' 0 7).toNat }) w1)
    splitAct f s = .ok (youngestOf w2.grp.core w2.grp.gid (! w2.cur) w2) := by
  unfold splitAct
  rw [if_neg (by simp [hz]), if_neg ht, if_neg hr, Machine.lenOf, hc, targetBy_split]
  simp only [hb, hl, ho, Bool.not_true, Bool.not_false, if_true, Bool.false_eq_true, if_false, at_eq]

theorem splitAct_waits (hl : (other w).live = false) (ho : (other w).flagsZero = false) : splitAct f s = .error .hold := by
  unfold splitAct
  rw [if_neg (by simp [hz]), if_neg ht, if_neg hr, Machine.lenOf, hc, targetBy_split]
  simp only [hb, hl, ho, Bool.not_false, if_true, Bool.false_eq_true, if_false]

variable (hl : (other w).live = true)
include hl

theorem splitAct_deep (hd : w.grp.dvDepth = w.grp.dvCap) : splitAct f s = .error (.trap 0x03 (BitVec.allOnes 32) 0 0) := by
  unfold splitAct
  rw [if_neg (by simp [hz]), if_neg ht, if_neg hr, Machine.lenOf, hc, targetBy_split]
  simp only [hb, hl, hd, Bool.not_true, if_true, Bool.false_eq_true, if_false]

theorem splitAct_pushes {v : State} (hd : w.grp.dvDepth ≠ w.grp.dvCap)
    (hv : dvWrite w.grp.dvDepth { pc := dvPc c, k := (f.imm.extractLsb' 0 7).toNat, own := w.cur, pend := true, mask := splitRest f s, saved := 0 } w = .ok v) :
    splitAct f s = .ok (transfer (splitTarget f s) (setExec (splitTaken f s) (setDepth (v.grp.dvDepth + 1) v))) := by
  unfold splitAct
  rw [if_neg (by simp [hz]), if_neg ht, if_neg hr, Machine.lenOf, hc, targetBy_split]
  simp only [hb, hl, Bool.not_true, Bool.false_eq_true, if_false, if_neg hd, at_eq, hv]
end
end

/-! ### SPLIT (R112) -/

section
variable {f : Ctl} {s : State} (h : clear (.split f) s = true)
include h

theorem splitTaken_entered : splitTaken f (entered (.split f) s) = splitTaken f s := by
  unfold splitTaken
  rw [entered_slot h, entered_readS h]

theorem splitRest_entered : splitRest f (entered (.split f) s) = splitRest f s := by
  unfold splitRest
  rw [entered_slot h, entered_readS h]

theorem splitTarget_entered : splitTarget f (entered (.split f) s) = splitTarget f s := by
  unfold splitTarget
  rw [entered_slot h]

/-- A fork runs the other slot from the continuation, with the lanes not taken. -/
theorem split_forks {w : State} {c : Nat} (hz : (slot s).flagsZero = true) (ht : splitTaken f s ≠ 0) (hr : splitRest f s ≠ 0)
    (hb : badTarget (splitTarget f s) = false) (hc : continuation (entered (.split f) s) (4 * f.len.words) = .ok (c, w))
    (hl : (other s).live = false) (ho : (other s).flagsZero = true) :
    let k := (f.imm.extractLsb' 0 7).toNat
    ∃ t, exec (.split f) s = .next t ∧ OutsideSame w t
      ∧ t.grp = ((w.grp.modSlot (! s.cur) (fun y => { Slot.vacant with st := .ready, pc := c, exec := splitRest f s, flags := y.flags, tag := k })).modSlot s.cur
          (fun y => { (Slot.issued y).goto (splitTarget f s) with exec := splitTaken f s, tag := k })).closes (.split f) := by
  intro k
  have hm := memOnly_continuation hc
  have how : other w = other s := hm.other_eq.trans (entered_other h)
  have ha := splitAct_forks (by rwa [entered_slot h]) (by rwa [splitTaken_entered h]) (by rwa [splitRest_entered h]) hc (by rwa [splitTarget_entered h])
    (by rwa [how]) (by rwa [how])
  rw [splitTaken_entered h, splitRest_entered h, splitTarget_entered h] at ha
  have hg := transfer_modCur_grp (splitTarget f s) (fun x => { x with exec := splitTaken f s, tag := k })
    (modOther (fun y => { Slot.vacant with st := .ready, pc := c, exec := splitRest f s, flags := y.flags, tag := k }) w)
  rw [modOther_grp, show (modOther _ w).cur = s.cur from hm.cur.trans (entered_cur h), hm.cur.trans (entered_cur h)] at hg
  obtain ⟨t, hn, hout, hgrp⟩ := ran_plain (w := w) h rfl rfl ha (hm.late.trans (entered_late h))
    ((congrArg Group.gid hg).trans (by rw [Group.modSlot_gid, Group.modSlot_gid, hm.grp, entered_gid h]))
    (((outsideSame_modOther _ w).trans (outsideSame_transfer_modCur _ _ _)).trans (outsideSame_youngestOf ..))
  exact ⟨t, hn, hout, hgrp.trans (congrArg (·.closes (.split f)) hg)⟩

/-- A push leaves the lanes not taken on the stack. -/
theorem split_pushes {w v : State} {c : Nat} (hz : (slot s).flagsZero = true) (ht : splitTaken f s ≠ 0) (hr : splitRest f s ≠ 0)
    (hb : badTarget (splitTarget f s) = false) (hc : continuation (entered (.split f) s) (4 * f.len.words) = .ok (c, w))
    (hl : (other s).live = true) (hd : s.grp.dvDepth ≠ s.grp.dvCap)
    (hv : dvWrite s.grp.dvDepth
      { pc := dvPc c, k := (f.imm.extractLsb' 0 7).toNat, own := s.cur, pend := true, mask := splitRest f s, saved := 0 } w = .ok v) :
    ∃ t, exec (.split f) s = .next t ∧ OutsideSame (wakeStack v) t
      ∧ t.grp = ({ (wakeStack v).grp with dvDepth := s.grp.dvDepth + 1 }.modSlot s.cur
          (fun y => { (Slot.issued y).goto (splitTarget f s) with exec := splitTaken f s })).closes (.split f) := by
  have hm := memOnly_continuation hc
  have hmv := hm.trans (memOnly_dvWrite hv)
  have how : other w = other s := hm.other_eq.trans (entered_other h)
  have hdw : w.grp.dvDepth = s.grp.dvDepth := by rw [hm.grp, entered_dvDepth h]
  have hcw : w.grp.dvCap = s.grp.dvCap := by rw [hm.grp, entered_dvCap h]
  have hdv : v.grp.dvDepth = s.grp.dvDepth := by rw [hmv.grp, entered_dvDepth h]
  have hcv : v.cur = s.cur := hmv.cur.trans (entered_cur h)
  have ha := splitAct_pushes (f := f) (v := v) (by rwa [entered_slot h]) (by rwa [splitTaken_entered h]) (by rwa [splitRest_entered h]) hc
    (by rwa [splitTarget_entered h]) (by rwa [how]) (by rwa [hdw, hcw])
    (by rwa [splitRest_entered h, hdw, hm.cur, entered_cur h])
  rw [splitTaken_entered h, splitTarget_entered h, hdv] at ha
  have hg := transfer_modCur_grp (splitTarget f s) (fun x => { x with exec := splitTaken f s }) (setDepth (s.grp.dvDepth + 1) v)
  rw [setDepth_grp, setDepth_cur, hcv] at hg
  obtain ⟨t, hn, hout, hgrp⟩ := ran_plain (w := wakeStack v) h rfl rfl ha (hmv.late.trans (entered_late h))
    ((congrArg Group.gid hg).trans (by simp [wakeStack, hmv.grp, entered_gid h]))
    ((outsideSame_setDepth _ v).trans (outsideSame_transfer_modCur _ _ _))
  exact ⟨t, hn, hout, hgrp.trans (congrArg (·.closes (.split f)) hg)⟩

end

/-- Settles O21: each case of the act, in the state that SPLIT has entered. -/
theorem splits : Obligations.Splits := by
  unfold Obligations.Splits
  intro f s h x u
  have hx : exec x s = issueE x (splitAct f) s := rfl
  have hu : slot u = slot s := entered_slot h
  refine ⟨fun hz => hx.trans (issueE_stop h (splitAct_holds (by rwa [hu]))), ?_⟩
  intro hz k taken rest target
  have hT : splitTaken f u = taken := splitTaken_entered h
  have hR : splitRest f u = rest := splitRest_entered h
  have hG : splitTarget f u = target := splitTarget_entered h
  have hzu : (slot u).flagsZero = true := by rwa [hu]
  refine ⟨fun ht => ?_, fun ht hr hb => ?_, fun ht hb hok => ?_, fun c w ht hr hb hc => ⟨fun hl ho => ?_, fun hl ho => ?_, fun hl hd => ?_, fun v hl hd hv => ?_⟩⟩
  · exact yields_advance h rfl hx (splitAct_none hzu (hT.trans ht))
  · have ha : splitAct f u = .ok (transfer target u) := by
      rw [splitAct_all hzu (by rwa [hT]) (hR.trans hr), hG, jump, if_neg (by simp [hb])]
    exact yields_transfer h rfl hx ha
  · have ha : splitAct f u = .error .fetchal := by
      by_cases hr : rest = 0
      · rw [splitAct_all hzu (by rwa [hT]) (hR.trans hr), hG, jump, if_pos hb]
      · cases hc : continuation u (4 * f.len.words) with
        | error e => simp [hc, Except.isOk, Except.toBool] at hok
        | ok r => exact splitAct_bad hzu (by rwa [hT]) (by rwa [hR]) hc (by rwa [hG])
    exact hx.trans (issueE_stop h ha)
  · exact split_forks h hz ht hr hb hc hl ho
  · have how : other w = other s := (memOnly_continuation hc).other_eq.trans (entered_other h)
    exact hx.trans (issueE_stop h (splitAct_waits hzu (by rwa [hT]) (by rwa [hR]) hc (by rwa [hG]) (by rwa [how]) (by rwa [how])))
  · have hm := memOnly_continuation hc
    have how : other w = other s := hm.other_eq.trans (entered_other h)
    exact hx.trans (issueE_stop h (splitAct_deep hzu (by rwa [hT]) (by rwa [hR]) hc (by rwa [hG]) (by rwa [how])
      (by rw [hm.grp, entered_dvDepth h, entered_dvCap h, hd])))
  · exact split_pushes h hz ht hr hb hc hl hd hv

/-! ### JOIN's act (R113) -/

section
variable {f : Ctl} {s v w z : State} {e : DvEntry} {c : Nat}

theorem joinAct_holds (hz : (slot s).flagsZero = false) : joinAct f s = .error .hold := by
  unfold joinAct
  rw [if_pos (by simp [hz])]

theorem joinAct_meets (hz : (slot s).flagsZero = true) (hp : ((other s).live && (other s).tag == f.at 0 7) = true) (hj : (other s).atJoin (f.at 0 7) = true) :
    joinAct f s = .ok (advance (4 * f.len.words) (modCur (fun x => { x with exec := (slot s).exec ||| (other s).exec, tag := 127 })
      (modOther (fun y => { Slot.vacant with flags := y.flags }) s))) := by
  unfold joinAct
  rw [if_neg (by simp [hz]), if_pos (by simpa using hp), if_pos hj, Machine.lenOf]

theorem joinAct_parks (hz : (slot s).flagsZero = true) (hp : ((other s).live && (other s).tag == f.at 0 7) = true) (hj : (other s).atJoin (f.at 0 7) = false) :
    joinAct f s = .error (.parkJoin (f.at 0 7) false) := by
  unfold joinAct
  rw [if_neg (by simp [hz]), if_pos (by simpa using hp), if_neg (by simp [hj])]

theorem joinAct_stack (hz : (slot s).flagsZero = true) (hp : ((other s).live && (other s).tag == f.at 0 7) = false) : joinAct f s = joinStack f s := by
  unfold joinAct
  rw [if_neg (by simp [hz]), if_neg (by simpa using hp)]

theorem joinStack_empty (hd : s.grp.dvDepth = 0) : joinStack f s = .ok (advance (4 * f.len.words) s) := by
  unfold joinStack
  rw [if_pos hd, Machine.lenOf]

section
variable (hd : s.grp.dvDepth ≠ 0) (hr : dvRead (s.grp.dvDepth - 1) s = .ok (e, v))
include hd hr

theorem joinStack_foreign (ho : dvOwner v e ≠ v.cur) : joinStack f s = .error (.parkJoin (f.at 0 7) true) := by
  unfold joinStack
  rw [if_neg hd, hr]
  simp only [if_neg ho]

variable (ho : dvOwner v e = v.cur)
include ho

theorem joinStack_passes (hk : e.k ≠ f.at 0 7) : joinStack f s = .ok (advance (4 * f.len.words) v) := by
  unfold joinStack
  rw [if_neg hd, hr]
  simp only [if_pos ho, if_pos hk, Machine.lenOf]

variable (hk : e.k = f.at 0 7)
include hk

theorem joinStack_bad (hp : e.pend = true) (hc : continuation v (4 * f.len.words) = .ok (c, w)) (hb : badTarget (pcOfDv e.pc) = true) :
    joinStack f s = .error .fetchal := by
  unfold joinStack
  rw [if_neg hd, hr]
  simp only [if_pos ho, ne_eq, hk, not_true_eq_false, if_false, hp, if_true, Machine.lenOf, hc, hb]

theorem joinStack_runs (hp : e.pend = true) (hc : continuation v (4 * f.len.words) = .ok (c, w)) (hb : badTarget (pcOfDv e.pc) = false)
    (hw : dvWrite (s.grp.dvDepth - 1) { e with saved := (slot s).exec, pend := false, pc := dvPc c } w = .ok z) :
    joinStack f s = .ok (transfer (pcOfDv e.pc) (setExec e.mask (wakeStack z))) := by
  unfold joinStack
  rw [if_neg hd, hr]
  rw [hk] at hw
  simp only [if_pos ho, ne_eq, hk, not_true_eq_false, if_false, hp, if_true, Machine.lenOf, hc, hb, Bool.false_eq_true, hw]

theorem joinStack_here (hp : e.pend = false) (hs : e.pc = selfMark) :
    joinStack f s = .ok (advance (4 * f.len.words) (setExec ((slot s).exec ||| e.saved) (setDepth (s.grp.dvDepth - 1) v))) := by
  unfold joinStack
  rw [if_neg hd, hr]
  simp only [if_pos ho, ne_eq, hk, not_true_eq_false, if_false, hp, Bool.false_eq_true, if_pos hs, Machine.lenOf]

theorem joinStack_there (hp : e.pend = false) (hs : e.pc ≠ selfMark) :
    joinStack f s = jump (pcOfDv e.pc) (setExec ((slot s).exec ||| e.saved) (setDepth (s.grp.dvDepth - 1) v)) := by
  unfold joinStack
  rw [if_neg hd, hr]
  simp only [if_pos ho, ne_eq, hk, not_true_eq_false, if_false, hp, Bool.false_eq_true, if_neg hs]
end
end

/-! ### Acts that leave a state read from the stack -/

/-- Both slots stand once an instruction has entered. -/
theorem entered_grp_slot {x : Instr} {s : State} (h : clear x s = true) (b : Bool) : (entered x s).grp.slot b = s.grp.slot b := by
  obtain ⟨_, _, _, hg⟩ := entered_grp h
  cases b <;> rw [hg] <;> rfl

section
variable {x : Instr} {s v : State} {act : State → Except Stop State} (h : clear x s = true) (hm : MemOnly (entered x s) v)
include h hm

/-- The owner of an entry is the owner that it had. -/
theorem dvOwner_after (e : DvEntry) : dvOwner v e = dvOwner s e := by
  rw [dvOwner, hm.grp, entered_grp_slot h, hm.cur, entered_cur h, dvOwner]

/-- The issuing slot moves on after the stack has been read. -/
theorem ran_advance {n : Nat} (hv : vecSrcs x = []) (hx : exec x s = issueE x act s) (ha : act (entered x s) = .ok (advance n v)) :
    ∃ t, exec x s = .next t ∧ OutsideSame v t ∧ t.grp = (v.grp.modSlot s.cur (fun y => passed y n)).closes x := by
  have hg := advance_grp n v
  rw [hm.cur, entered_cur h] at hg
  obtain ⟨t, hn, ho, hgrp⟩ := ran_plain (w := v) h hv hx ha (hm.late.trans (entered_late h))
    ((congrArg Group.gid hg).trans (by rw [Group.modSlot_gid, hm.grp, entered_gid h])) (outsideSame_advance n v)
  exact ⟨t, hn, ho, hgrp.trans (congrArg (·.closes x) hg)⟩

/-- The issuing slot goes to a target with another mask, the top entry changed. -/
theorem ran_transfer_changed {pc : Nat} {m : BitVec 32} (hv : vecSrcs x = []) (hx : exec x s = issueE x act s)
    (ha : act (entered x s) = .ok (transfer pc (setExec m (wakeStack v)))) :
    ∃ t, exec x s = .next t ∧ OutsideSame (wakeStack v) t
      ∧ t.grp = ((wakeStack v).grp.modSlot s.cur (fun y => { (Slot.issued y).goto pc with exec := m })).closes x := by
  have hg := transfer_modCur_grp pc (fun x => { x with exec := m }) (wakeStack v)
  rw [show (wakeStack v).cur = s.cur from hm.cur.trans (entered_cur h)] at hg
  obtain ⟨t, hn, ho, hgrp⟩ := ran_plain (w := wakeStack v) h hv hx ha (hm.late.trans (entered_late h))
    ((congrArg Group.gid hg).trans (by simp [wakeStack, hm.grp, entered_gid h])) (outsideSame_transfer_modCur _ _ _)
  exact ⟨t, hn, ho, hgrp.trans (congrArg (·.closes x) hg)⟩

/-- The same, the top entry removed. -/
theorem ran_transfer_popped {pc n : Nat} {m : BitVec 32} (hv : vecSrcs x = []) (hx : exec x s = issueE x act s)
    (ha : act (entered x s) = .ok (transfer pc (setExec m (setDepth n v)))) :
    ∃ t, exec x s = .next t ∧ OutsideSame (wakeStack v) t
      ∧ t.grp = ({ (wakeStack v).grp with dvDepth := n }.modSlot s.cur (fun y => { (Slot.issued y).goto pc with exec := m })).closes x := by
  have hg := transfer_modCur_grp pc (fun x => { x with exec := m }) (setDepth n v)
  rw [setDepth_grp, setDepth_cur, hm.cur, entered_cur h] at hg
  obtain ⟨t, hn, ho, hgrp⟩ := ran_plain (w := wakeStack v) h hv hx ha (hm.late.trans (entered_late h))
    ((congrArg Group.gid hg).trans (by simp [wakeStack, hm.grp, entered_gid h])) ((outsideSame_setDepth n v).trans (outsideSame_transfer_modCur _ _ _))
  exact ⟨t, hn, ho, hgrp.trans (congrArg (·.closes x) hg)⟩

/-- The issuing slot moves on with another mask, the top entry removed. -/
theorem ran_advance_popped {l n : Nat} {m : BitVec 32} (hv : vecSrcs x = []) (hx : exec x s = issueE x act s)
    (ha : act (entered x s) = .ok (advance l (setExec m (setDepth n v)))) :
    ∃ t, exec x s = .next t ∧ OutsideSame (wakeStack v) t
      ∧ t.grp = ({ (wakeStack v).grp with dvDepth := n }.modSlot s.cur (fun y => passed { y with exec := m } l)).closes x := by
  have hg := advance_modCur_grp l (fun x => { x with exec := m }) (setDepth n v)
  rw [setDepth_grp, setDepth_cur, hm.cur, entered_cur h] at hg
  obtain ⟨t, hn, ho, hgrp⟩ := ran_plain (w := wakeStack v) h hv hx ha (hm.late.trans (entered_late h))
    ((congrArg Group.gid hg).trans (by simp [wakeStack, hm.grp, entered_gid h])) ((outsideSame_setDepth n v).trans (outsideSame_advance_modCur _ _ _))
  exact ⟨t, hn, ho, hgrp.trans (congrArg (·.closes x) hg)⟩

end

/-! ### JOIN (R113) -/

/-- A slot that parks at a JOIN by case 1 releases nothing where the other is not parked there. -/
theorem parkAtJoin_away {k : Nat} {s : State} (hj : (other s).atJoin k = false) : parkAtJoin k false s = modCur (fun y => { y with st := .parkJoin k false }) s := by
  unfold parkAtJoin
  rw [if_neg]
  rw [other_modCur]
  intro hs
  simp only [Bool.and_eq_true, decide_eq_true_eq] at hs
  simp [Slot.atJoin, hs.1] at hj

/-- A slot that parks at a JOIN by case 4 releases the other where it waits there by case 1, which now applies to it. -/
theorem parkAtJoin_stack (k : Nat) (s : State) : parkAtJoin k true s =
    let w := modCur (fun y => { y with st := .parkJoin k true }) s
    if (other s).st = .parkJoin k false ∧ (slot s).tag = k then modOther (fun y => { y with st := .ready }) w else w := by
  simp [parkAtJoin]

/-- The slots meet at a JOIN: the other ends, and the issuing one goes on with the lanes of both. -/
theorem join_meets {f : Ctl} {s : State} (h : clear (.join f) s = true) (hz : (slot s).flagsZero = true)
    (hp : ((other s).live && (other s).tag == f.at 0 7) = true) (hj : (other s).atJoin (f.at 0 7) = true) :
    Yields (.join f) s ((((entered (.join f) s).grp.modSlot (! s.cur) (fun y => { Slot.vacant with flags := y.flags })).modSlot s.cur
      (fun y => passed { y with exec := (slot s).exec ||| (other s).exec, tag := 127 } (4 * f.len.words))).closes (.join f)) := by
  have ha := joinAct_meets (f := f) (s := entered (.join f) s) (by rwa [entered_slot h]) (by rwa [entered_other h]) (by rwa [entered_other h])
  rw [entered_slot h, entered_other h] at ha
  have hg := advance_modCur_grp (4 * f.len.words) (fun x => { x with exec := (slot s).exec ||| (other s).exec, tag := 127 })
    (modOther (fun y => { Slot.vacant with flags := y.flags }) (entered (.join f) s))
  rw [modOther_grp, show (modOther _ (entered (.join f) s)).cur = s.cur from entered_cur h, entered_cur h] at hg
  rw [← hg]
  exact yields_plain h rfl rfl ha ((congrArg Group.gid hg).trans (by rw [Group.modSlot_gid, Group.modSlot_gid, entered_gid h]))
    ((outsideSame_modOther _ _).trans (outsideSame_advance_modCur _ _ _))

/-- Settles O22: each case of the act, in the state that JOIN has entered. -/
theorem joins : Obligations.Joins := by
  unfold Obligations.Joins
  intro f s h x u k m partner
  have hx : exec x s = issueE x (joinAct f) s := rfl
  have hu : slot u = slot s := entered_slot h
  have hou : other u = other s := entered_other h
  have hk : f.at 0 7 = k := at_eq f 0 7
  refine ⟨fun hz => hx.trans (issueE_stop h (joinAct_holds (by rwa [hu]))), fun hz => ?_⟩
  have hzu : (slot u).flagsZero = true := by rwa [hu]
  have hpu {b : Bool} (hp : partner = b) : ((other u).live && (other u).tag == f.at 0 7) = b := by rw [hou, hk]; exact hp
  refine ⟨fun hp hj => join_meets h hz (by rwa [hk]) (by rwa [hk]), fun hp hj => ?_, fun hp hd => ?_, fun e v hp hd hr => ?_⟩
  · have hj' : (other u).atJoin k = false := by rwa [hou]
    have ha := joinAct_parks hzu (hpu hp) (by rwa [hk])
    rw [hk] at ha
    exact (hx.trans (issueE_stop h ha)).trans (congrArg _ (parkAtJoin_away hj'))
  · exact yields_advance h rfl hx ((joinAct_stack hzu (hpu hp)).trans (joinStack_empty (by rwa [entered_dvDepth h])))
  have hdu : u.grp.dvDepth = s.grp.dvDepth := entered_dvDepth h
  rw [← hdu] at hd hr
  have hm : MemOnly u v := memOnly_dvRead hr
  have hact := joinAct_stack (f := f) hzu (hpu hp)
  have hown {b : Bool} (ho : dvOwner s e = b) : dvOwner v e = b := (dvOwner_after h hm e).trans ho
  have hcur : v.cur = s.cur := hm.cur.trans (entered_cur h)
  refine ⟨fun ho => ?_, fun ho hne => ?_, fun ho he hb hok hor => ?_, fun c w z ho he hpend hb hc hw => ?_, fun ho he hpend hs hb => ?_, fun ho he hpend hs => ?_⟩
  · have ha := hact.trans (joinStack_foreign hd hr (by rwa [dvOwner_after h hm, hcur]))
    rw [hk] at ha
    have hpark := parkAtJoin_stack k u
    rw [hou, hu] at hpark
    exact (hx.trans (issueE_stop h ha)).trans (congrArg _ hpark)
  · exact ran_advance h hm rfl hx (hact.trans (joinStack_passes hd hr (by rw [hown ho, hcur]) (by rwa [hk])))
  · have hself : dvOwner v e = v.cur := by rw [hown ho, hcur]
    have ha : joinAct f u = .error .fetchal := by
      cases hpend : e.pend with
      | true =>
        cases hc : continuation v (4 * f.len.words) with
        | error e => simp [hc, Except.isOk, Except.toBool] at hok
        | ok r => exact hact.trans (joinStack_bad hd hr hself (he.trans hk.symm) hpend hc hb)
      | false =>
        have hs : e.pc ≠ selfMark := hor.resolve_left (by simp [hpend])
        rw [hact, joinStack_there hd hr hself (he.trans hk.symm) hpend hs, jump, if_pos hb]
    exact hx.trans (issueE_stop h ha)
  · have hmw := memOnly_continuation hc
    have ha := hact.trans (joinStack_runs hd hr (by rw [hown ho, hcur]) (he.trans hk.symm) hpend hc hb (by rw [hdu, hu]; exact hw))
    exact ran_transfer_changed h ((hm.trans hmw).trans (memOnly_dvWrite hw)) rfl hx ha
  · have ha := hact.trans (joinStack_there hd hr (by rw [hown ho, hcur]) (he.trans hk.symm) hpend hs)
    rw [jump, if_neg (by simp [hb]), hu, hdu] at ha
    exact ran_transfer_popped h hm rfl hx ha
  · have ha := hact.trans (joinStack_here hd hr (by rw [hown ho, hcur]) (he.trans hk.symm) hpend hs)
    rw [hu, hdu] at ha
    exact ran_advance_popped h hm rfl hx ha

end Sys2Proof.Proofs.Paths

/-! PROOF. EXIT, case by case (R114): the end of a slot, the entries below the top one, and that none of it makes writes wait. -/
namespace Sys2Proof.Proofs.Exits
open Sys2Proof Sys2Proof.Machine Sys2Proof.Proofs.Caches Sys2Proof.Proofs.Control Sys2Proof.Proofs.Paths

/-! ### The writes that wait for the end of a cycle stand (R123) -/

section
variable (s : State)

theorem modGroup_late (gid : Nat) (f : Group → Group) : (modGroup gid f s).late = s.late := by
  unfold modGroup
  split <;> rfl

theorem fire_late (fn vec : Nat) (on : Bool) : (fire fn vec on s).late = s.late := by
  unfold fire
  split <;> rfl

theorem postFault_late (p : Nat) (f : FaultInfo) : (postFault p f s).late = s.late := by
  unfold postFault putFault
  split
  · rw [fire_late, modPart_late, putRecord, (memOnly_putHome ..).late]
  · rfl

theorem sendWatch_late (g : Group) (id : Nat) (w : SigWait) : (sendWatch g id w s).late = s.late := by
  unfold sendWatch
  split
  · rfl
  · split
    · rfl
    · exact (memOnly_sendReq ..).late

end

theorem tokenFor_late {c p acc va k : Nat} {b : Bool} {s t : State} (h : tokenFor c p acc va s = some (k, b, t)) : t.late = s.late := by
  unfold tokenFor at h
  dsimp only at h
  split at h
  · cases h
    rfl
  · split at h
    · cases h
    · cases h
      rfl

theorem engineStall_late {cl c p acc va k : Nat} {x : TrapInfo} {s t : State} (h : engineStall cl c p acc va x s = some (k, t)) : t.late = s.late := by
  unfold engineStall at h
  split at h
  · cases h
  case h_2 hk =>
    have hl := tokenFor_late hk
    split at h
    · cases h
      exact hl
    · split at h
      · cases h
      · cases h
        rw [postFault_late, hl]

theorem placeSig_late (gid id : Nat) (s : State) : (placeSig gid id s).late = s.late := by
  have he (c p va : Nat) : (engineTlb c p va s).late = s.late := (memOnly_engineTlb c p va s).late
  unfold placeSig modOp
  split
  · rfl
  · split
    · split
      · rfl
      · dsimp only
        split
        · rw [sendWatch_late, modGroup_late, he]
        · rw [modGroup_late, he]
        · split
          case h_1 hs => rw [modGroup_late, engineStall_late hs, he]
          case h_2 => exact he ..
    · rfl

/-- A loop whose every round leaves the waiting writes. -/
theorem foldl_late {α : Type} {f : State → α → State} (hf : ∀ s a, (f s a).late = s.late) (l : List α) (s : State) : (l.foldl f s).late = s.late := by
  induction l generalizing s with
  | nil => rfl
  | cons a l ih => exact (ih _).trans (hf s a)

theorem reissueWaits_late (gid : Nat) (s : State) : (reissueWaits gid s).late = s.late := by
  unfold reissueWaits
  split
  · rfl
  · dsimp only
    rw [foldl_late fun _ _ => placeSig_late ..]
    dsimp only
    rw [modGroup_late, modGroup_late]

theorem late_ite {p : Prop} [Decidable p] {s a b : State} (ha : a.late = s.late) (hb : b.late = s.late) : (if p then a else b).late = s.late := by
  split <;> assumption

theorem focus_late (gid : Nat) (b : Bool) (s : State) : (focus gid b s).late = s.late := by
  have hgrp (t : State) (o : Option Group) (l : Group → List Group) : (match o with | none => t | some g => { t with grp := g, groups := l g }).late = t.late := by
    cases o <;> rfl
  have hteam (t : State) (o : Option Team) (l : Team → List Team) : (match o with | none => t | some g => { t with team := g, teams := l g }).late = t.late := by
    cases o <;> rfl
  unfold focus
  dsimp only
  generalize hu : (ite (s.grp.gid = gid) s _ : State) = u
  have h1 : u.late = s.late := by
    subst hu
    refine late_ite rfl ?_
    exact hgrp ..
  clear hu
  refine late_ite h1 ?_
  exact (hteam ..).trans h1

theorem drainGroup_late (gid : Nat) (s : State) : (drainGroup gid s).late = s.late := by
  unfold drainGroup
  rw [modGroup_late]
  split <;> rfl

theorem handlerEnd_late (gid : Nat) (s : State) : (handlerEnd gid s).late = s.late := by
  have hbump (t : State) : (bump t).late = t.late := rfl
  have hstart (t : State) : (startRegion t).late = t.late := rfl
  have hyoung (c g : Nat) (b : Bool) (t : State) : (youngestOf c g b t).late = t.late := rfl
  have hunwatch (g : Group) (t : State) : (unwatch g t).late = t.late := rfl
  have hcount (c : Nat) (b : Bool) (f : Nat → Nat) (t : State) (d : Nat) : (if d = 0 then t else modCount c b f t).late = t.late :=
    late_ite rfl rfl
  unfold handlerEnd
  split
  · rfl
  · dsimp only
    split
    · rw [hbump, hstart, focus_late, reissueWaits_late, hyoung, hyoung, modGroup_late, (memOnly_ctxAccept ..).late, hunwatch, hcount, hcount]
    · rw [drainGroup_late, modGroup_late]

theorem endSlot_late (s : State) : (endSlot s).late = s.late := by
  unfold endSlot
  dsimp only
  split
  · rfl
  · split
    · split
      · rw [handlerEnd_late]
        rfl
      · rfl
    · rw [drainGroup_late]
      rfl

/-- No case of EXIT makes writes wait. -/
theorem exitScan_late {n : Nat} {s r : State} (h : exitScan n s = .ok r) : r.late = s.late := by
  induction n generalizing s with
  | zero =>
    cases h
    exact endSlot_late s
  | succ n ih =>
    simp only [exitScan] at h
    split at h
    · cases h
      exact endSlot_late s
    · split at h
      · cases h
      case h_2 e v hr =>
        have hv := (memOnly_dvRead hr).late
        split at h
        · cases h
          rw [endSlot_late, hv]
        · split at h
          · split at h
            · cases h
            · split at h
              · cases h
              case h_2 z hw =>
                cases h
                rw [transfer_late, ← hv, ← (memOnly_dvWrite hw).late]
                rfl
          · split at h
            · exact (ih h).trans hv
            · unfold jump at h
              split at h
              · cases h
              · cases h
                rw [transfer_late, ← hv]
                rfl

/-! ### EXIT's cases (R114) -/

section
variable {n : Nat} {s v z : State} {e : DvEntry}

theorem exitScan_empty (hd : s.grp.dvDepth = 0) : exitScan (n + 1) s = .ok (endSlot s) := by
  unfold exitScan
  exact if_pos hd

section
variable (hd : s.grp.dvDepth ≠ 0) (hr : dvRead (s.grp.dvDepth - 1) s = .ok (e, v))
include hd hr

theorem exitScan_foreign (ho : dvOwner v e ≠ v.cur) : exitScan (n + 1) s = .ok (endSlot v) := by
  unfold exitScan
  rw [if_neg hd, hr]
  simp only [if_pos ho]

variable (ho : dvOwner v e = v.cur)
include ho

theorem exitScan_bad (hp : e.pend = true ∨ e.saved ≠ 0) (hb : badTarget (pcOfDv e.pc) = true) : exitScan (n + 1) s = .error .fetchal := by
  unfold exitScan
  rw [if_neg hd, hr]
  simp only [ho, ne_eq, not_true_eq_false, if_false]
  split
  · rfl
  case isFalse hn => rw [if_neg (hp.resolve_left hn), jump, if_pos hb]

theorem exitScan_otherSide (hp : e.pend = true) (hb : badTarget (pcOfDv e.pc) = false)
    (hw : dvWrite (s.grp.dvDepth - 1) { e with pend := false, saved := 0, pc := selfMark } v = .ok z) :
    exitScan (n + 1) s = .ok (transfer (pcOfDv e.pc) (setExec e.mask (wakeStack z))) := by
  unfold exitScan
  rw [if_neg hd, hr]
  simp only [ho, ne_eq, not_true_eq_false, if_false, hp, if_true, hb, Bool.false_eq_true, hw]

variable (hp : e.pend = false)
include hp

theorem exitScan_joined (hs : e.saved ≠ 0) (hb : badTarget (pcOfDv e.pc) = false) :
    exitScan (n + 1) s = .ok (transfer (pcOfDv e.pc) (setExec e.saved (setDepth (s.grp.dvDepth - 1) v))) := by
  unfold exitScan
  rw [if_neg hd, hr]
  simp only [ho, ne_eq, not_true_eq_false, if_false, hp, Bool.false_eq_true, if_neg hs, jump, hb]

theorem exitScan_below (hs : e.saved = 0) : exitScan (n + 1) s = exitScan n (setDepth (s.grp.dvDepth - 1) v) := by
  rw [exitScan]
  simp only [if_neg hd, hr, ho, ne_eq, not_true_eq_false, if_false, hp, Bool.false_eq_true, if_pos hs]

end
end

/-! ### The end of a slot (R114, R228) -/

/-- The state in which the issuing slot has ceased to be live, and the other is released from a JOIN. -/
def ceased (s : State) : State := wakeJoin (modCur (fun y => { Slot.vacant with flags := y.flags }) s)

/-- A slot that is released where it is parked at a JOIN. -/
def freed (y : Slot) : Slot := match y.st with | .parkJoin _ _ => { y with st := .ready } | _ => y

theorem freed_live (y : Slot) : (freed y).live = y.live := by
  unfold freed
  split
  case h_1 h =>
    rw [Slot.live, Slot.live, h]
    rfl
  case h_2 => rfl

/-- The group of `ceased`. -/
theorem ceased_grp (s : State) : (ceased s).grp = (s.grp.modSlot s.cur (fun y => { Slot.vacant with flags := y.flags })).modSlot (! s.cur) freed := rfl

theorem outsideSame_ceased (s : State) : OutsideSame s (ceased s) := (outsideSame_modCur _ s).trans (outsideSame_wakeJoin _)

theorem ceased_noLive (s : State) : (ceased s).grp.noLive = ! (other s).live := by
  rw [ceased_grp]
  cases h : s.cur <;>
    simp only [Group.noLive, Group.modSlot, other, Group.slot, h, Bool.not_true, Bool.not_false, if_true, if_false, Bool.false_eq_true, freed_live] <;>
    simp [Slot.live, Slot.vacant]

theorem ceased_gid (s : State) : (ceased s).grp.gid = s.grp.gid := by
  rw [ceased_grp, Group.modSlot_gid, Group.modSlot_gid]

/-- A slot ends while the other is live. -/
theorem endSlot_leaves {s : State} (hl : (other s).live = true) : endSlot s = ceased s := by
  have hn := ceased_noLive s
  rw [hl] at hn
  unfold endSlot
  exact if_pos (by show (! (ceased s).grp.noLive) = true; rw [hn]; rfl)

/-- The group drains with its last live slot. -/
theorem endSlot_drains {s : State} (hl : (other s).live = false) (hh : s.grp.inHandler = false) : endSlot s = drainGroup (ceased s).grp.gid (ceased s) := by
  have hn := ceased_noLive s
  rw [hl] at hn
  have hi : (ceased s).grp.inHandler = false := by
    rw [ceased_grp]
    simp [Group.modSlot_inHandler, hh]
  unfold endSlot
  refine (if_neg (by show ¬ (! (ceased s).grp.noLive) = true; rw [hn]; simp)).trans (if_neg ?_)
  show ¬ (ceased s).grp.inHandler = true
  simp [hi]

/-- What the drain of the issuing group leaves of it. -/
theorem drainGroup_grp (s : State) : (drainGroup s.grp.gid s).grp = { s.grp with life := .draining, ops := s.grp.ops.filter (fun o => ! o.isWait), waitList := [] } := by
  simp [drainGroup, groupOf, modGroup, unwatch, dropWatches]

theorem outsideSame_drainGroup (s : State) : OutsideSame s (drainGroup s.grp.gid s) := by
  simp only [drainGroup, groupOf, modGroup, unwatch, dropWatches, if_true]
  exact ⟨rfl, rfl, rfl, rfl, rfl, rfl, rfl, fun _ => rfl, rfl, rfl, memorySame_of_eq rfl rfl rfl rfl, rfl, rfl, rfl, rfl, rfl, rfl, rfl, rfl, rfl, rfl, rfl, rfl,
    rfl, rfl⟩

/-- The other slot owns an entry only where it is live. -/
theorem other_live_of_dvOwner {s : State} {e : DvEntry} (h : dvOwner s e ≠ s.cur) : (other s).live = true := by
  unfold dvOwner at h
  split at h
  case isTrue hl =>
    have ho : e.own = ! s.cur := by cases he : e.own <;> cases hc : s.cur <;> simp_all
    rwa [ho] at hl
  case isFalse => exact absurd rfl h

/-- A slot is live under another depth of the stack. -/
theorem other_setDepth_live (n : Nat) (s : State) : (other (setDepth n s)).live = (other s).live := by
  have ho : other (setDepth n s) = (match (other s).st with | .parkJoin _ true => { other s with st := .ready } | _ => other s) := by
    cases h : s.cur <;> simp [setDepth, wakeStack, modOther, modGrp, other, Group.slot, Group.modSlot, h] <;> rfl
  rw [ho]
  split
  case h_1 h =>
    rw [Slot.live, Slot.live, h]
    rfl
  case h_2 => rfl

/-- The end of one of two live slots, the stack read before. -/
theorem ran_ended {x : Instr} {s w : State} {act : State → Except Stop State} (h : clear x s = true) (hv : vecSrcs x = []) (hx : exec x s = issueE x act s)
    (hl : w.late = none) (hg : w.grp.gid = s.grp.gid) (ho : (other w).live = true) (ha : act (entered x s) = .ok (endSlot w)) :
    ∃ t, exec x s = .next t ∧ OutsideSame (ceased w) t ∧ t.grp = (ceased w).grp.closes x := by
  rw [endSlot_leaves ho] at ha
  exact ran_plain h hv hx ha ((outsideSame_ceased w).late.trans hl) ((ceased_gid w).trans hg) (.refl _)

/-- Settles O23: each case of the scan, from the state that EXIT has entered. -/
theorem exits : Obligations.Exits := by
  unfold Obligations.Exits
  intro f s h x u ended
  have hx : exec x s = issueE x (exitScan 256) s := rfl
  have hou : other u = other s := entered_other h
  have hdu : u.grp.dvDepth = s.grp.dvDepth := entered_dvDepth h
  refine ⟨fun hd hl => ?_, fun hd hl hh => ?_, fun e v hd hr ho => ?_, fun e v hd hr ho => ?_⟩
  · obtain ⟨t, hn, hout, hgrp⟩ := ran_ended h rfl hx (entered_late h) (entered_gid h) (hou ▸ hl) (exitScan_empty (hdu.trans hd))
    exact ⟨t, hn, hgrp, ((outsideSame_entered h).trans (outsideSame_ceased u)).trans hout⟩
  · have hih : u.grp.inHandler = false := by
      obtain ⟨_, _, _, hg⟩ := entered_grp h
      rw [show u.grp = _ from hg]
      exact hh
    have ha := exitScan_empty (n := 255) (hdu.trans hd)
    rw [endSlot_drains (hou ▸ hl) hih] at ha
    have hy := yields_plain h rfl hx ha (by rw [drainGroup_grp]; exact (ceased_gid u).trans (entered_gid h))
      ((outsideSame_ceased u).trans (outsideSame_drainGroup _))
    rwa [drainGroup_grp] at hy
  all_goals
    rw [← hdu] at hd hr
    have hm : MemOnly u v := memOnly_dvRead hr
    have hcur : v.cur = s.cur := hm.cur.trans (entered_cur h)
    have hlate : v.late = none := hm.late.trans (entered_late h)
    have hgid : v.grp.gid = s.grp.gid := by rw [hm.grp, entered_gid h]
    rw [← dvOwner_after h hm e, ← hcur] at ho
  · refine ⟨fun hp hb => ?_, fun z hp hb hw => ?_, fun hp hs hb => ?_, fun hp hs hd1 hl => ?_, fun r hp hs hscan hg => ?_⟩
    · exact hx.trans (issueE_stop h (exitScan_bad hd hr ho hp hb))
    · rw [← hdu] at hw
      exact ran_transfer_changed h (hm.trans (memOnly_dvWrite hw)) rfl hx (exitScan_otherSide hd hr ho hp hb hw)
    · have ha := exitScan_joined (n := 255) hd hr ho hp hs hb
      rw [hdu] at ha
      exact ran_transfer_popped h hm rfl hx ha
    · have ha := exitScan_below (n := 255) hd hr ho hp hs
      have hgrp := setDepth_grp 0 v
      rw [hdu, hd1, exitScan_empty (congrArg Group.dvDepth hgrp)] at ha
      refine ran_ended h rfl hx hlate ((congrArg Group.gid hgrp).trans ?_) ?_ ha
      · rw [← hgid]
        exact Group.modSlot_gid ..
      · rw [other_setDepth_live, hm.other_eq, hou]
        exact hl
    · have ha := exitScan_below (n := 255) hd hr ho hp hs
      rw [hdu, hscan] at ha
      exact ran_plain h rfl hx ha ((exitScan_late hscan).trans hlate) hg (.refl _)
  · exact ran_ended h rfl hx hlate hgid (other_live_of_dvOwner ho) (exitScan_foreign hd hr ho)

end Sys2Proof.Proofs.Exits

/-! PROOF. Words put together of fields: what a field, a bit and a gap of such a word read as (R9). -/
namespace Sys2Proof.Proofs.Fields
open Sys2Proof Sys2Proof.Machine

/-- Two fields, given as (position, length, value), share no bit. -/
def apart (x y : Nat × Nat × Nat) : Bool := decide (x.1 + x.2.1 ≤ y.1) || decide (y.1 + y.2.1 ≤ x.1)

/-- No two fields of a list share a bit. -/
def allApart : List (Nat × Nat × Nat) → Bool
  | [] => true
  | x :: l => l.all (apart x) && allApart l

/-- A field at its position: its bits. -/
theorem testBit_field (x : Nat × Nat × Nat) (i : Nat) :
    ((x.2.2 % 2 ^ x.2.1) <<< x.1).testBit i = (decide (x.1 ≤ i) && (decide (i - x.1 < x.2.1) && x.2.2.testBit (i - x.1))) := by
  rw [Nat.testBit_shiftLeft, Nat.testBit_mod_two_pow]

/-- The bits of fields put together. -/
theorem testBit_foldl (l : List (Nat × Nat × Nat)) (a i : Nat) :
    (l.foldl (fun a x => a ||| ((x.2.2 % 2 ^ x.2.1) <<< x.1)) a).testBit i
      = (a.testBit i || l.any (fun x => ((x.2.2 % 2 ^ x.2.1) <<< x.1).testBit i)) := by
  induction l generalizing a with
  | nil => simp
  | cons x l ih => rw [List.foldl_cons, ih, Nat.testBit_or, List.any_cons, Bool.or_assoc]

/-- A bit of a word put together of fields. -/
theorem getLsbD_packFields (l : List (Nat × Nat × Nat)) {i : Nat} (hi : i < 64) :
    (packFields l).getLsbD i = l.any (fun x => ((x.2.2 % 2 ^ x.2.1) <<< x.1).testBit i) := by
  rw [packFields, BitVec.getLsbD_ofNat, testBit_foldl]
  simp [hi]

/-- A bit within one field is no bit of a field apart from it. -/
theorem testBit_apart {x y : Nat × Nat × Nat} {i : Nat} (h : apart x y = true) (hl : y.1 ≤ i) (hu : i < y.1 + y.2.1) :
    ((x.2.2 % 2 ^ x.2.1) <<< x.1).testBit i = false := by
  rw [testBit_field]
  simp only [apart, Bool.or_eq_true, decide_eq_true_eq] at h
  by_cases hx : x.1 ≤ i
  · simp [show ¬ i - x.1 < x.2.1 by omega]
  · simp [hx]

theorem apart_comm (x y : Nat × Nat × Nat) : apart x y = apart y x := Bool.or_comm ..

/-- A bit within a field is that bit of its value. -/
theorem any_testBit_of_mem {l : List (Nat × Nat × Nat)} {y : Nat × Nat × Nat} {i : Nat} (h : allApart l = true) (hm : y ∈ l) (hl : y.1 ≤ i)
    (hu : i < y.1 + y.2.1) : l.any (fun x => ((x.2.2 % 2 ^ x.2.1) <<< x.1).testBit i) = y.2.2.testBit (i - y.1) := by
  induction l with
  | nil => cases hm
  | cons x l ih =>
    simp only [allApart, Bool.and_eq_true, List.all_eq_true] at h
    rw [List.any_cons]
    rcases List.mem_cons.1 hm with rfl | hm
    · have hrest : l.any (fun x => ((x.2.2 % 2 ^ x.2.1) <<< x.1).testBit i) = false :=
        List.any_eq_false.2 fun x hx => by rw [testBit_apart (apart_comm .. ▸ h.1 x hx) hl hu]; simp
      rw [hrest, testBit_field]
      simp [hl, show i - y.1 < y.2.1 by omega]
    · rw [testBit_apart (h.1 y hm) hl hu, Bool.false_or, ih h.2 hm]

section
variable {l : List (Nat × Nat × Nat)} {lo n v : Nat}

/-- A field of a word put together of fields. -/
theorem extract_packFields (h : allApart l = true) (hm : (lo, n, v) ∈ l) (hn : lo + n ≤ 64) : ((packFields l).extractLsb' lo n).toNat = v % 2 ^ n := by
  refine Nat.eq_of_testBit_eq fun i => ?_
  rw [← BitVec.getLsbD, BitVec.getLsbD_extractLsb', Nat.testBit_mod_two_pow]
  by_cases hi : i < n
  · rw [getLsbD_packFields l (by omega), any_testBit_of_mem h hm (Nat.le_add_right lo i) (by simpa using hi), Nat.add_sub_cancel_left]
  · simp [hi]

/-- A gap between the fields reads zero. -/
theorem extract_packFields_gap (h : l.all (fun x => apart x (lo, n, 0)) = true) (hn : lo + n ≤ 64) : ((packFields l).extractLsb' lo n).toNat = 0 := by
  refine Nat.eq_of_testBit_eq fun i => ?_
  rw [← BitVec.getLsbD, BitVec.getLsbD_extractLsb', Nat.zero_testBit]
  by_cases hi : i < n
  · rw [getLsbD_packFields l (by omega),
      List.any_eq_false.2 fun x hx => by rw [testBit_apart (List.all_eq_true.1 h x hx) (Nat.le_add_right lo i) (by simpa using hi)]; simp]
    simp
  · simp [hi]

/-- A bit within a field of a word put together of fields. -/
theorem getLsbD_field (h : allApart l = true) (hm : (lo, n, v) ∈ l) (hn : lo + n ≤ 64) {i : Nat} (hi : i < n) :
    (packFields l).getLsbD (lo + i) = v.testBit i := by
  rw [getLsbD_packFields l (by omega), any_testBit_of_mem h hm (Nat.le_add_right lo i) (by simpa using hi), Nat.add_sub_cancel_left]

/-- A flag of a word put together of fields. -/
theorem getLsbD_flag {b : Bool} (h : allApart l = true) (hm : (lo, 1, b2n b) ∈ l) (hn : lo < 64) : (packFields l).getLsbD lo = b := by
  have := getLsbD_field h hm (by omega) (Nat.zero_lt_one)
  rw [Nat.add_zero] at this
  rw [this]
  cases b <;> rfl

end

/-- A field put above what is there adds to it. -/
theorem or_shiftLeft_eq_add {a n : Nat} (h : a < 2 ^ n) (v : Nat) : a ||| (v <<< n) = a + 2 ^ n * v := by
  rw [Nat.or_comm, ← Nat.shiftLeft_add_eq_or_of_lt h, Nat.shiftLeft_eq]
  ring

/-- A field of a word as the bits that it is cut from. -/
theorem field_eq (v : Word) (lo n : Nat) : field v lo n = (v.extractLsb' lo n).toNat := by
  rw [field, BitVec.extractLsb'_toNat]

end Sys2Proof.Proofs.Fields

/-! PROOF. System registers (R44, R123): the words that SYSR reads, and what SYSW stores. -/
namespace Sys2Proof.Proofs.System
open Sys2Proof Sys2Proof.Machine Sys2Proof.Proofs.Caches Sys2Proof.Proofs.Control Sys2Proof.Proofs.Paths Sys2Proof.Proofs.Fields

/-! ### The values of system registers (R110, R260, R316, R345, R410, R411) -/

/-- The divergence stack's register. -/
theorem dvspWord_eq {g : Group} (hd : g.dvDepth < 256) (hc : g.dvCap < 256) (h0 : g.slot0.tag < 128) (h1 : g.slot1.tag < 128) :
    dvspWord g = BitVec.ofNat 64 (g.dvDepth + 2 ^ 8 * g.dvCap + 2 ^ 16 * g.slot0.tag + 2 ^ 23 * g.slot1.tag) := by
  simp only [dvspWord, packFields, List.foldl_cons, List.foldl_nil, Nat.zero_or, Nat.shiftLeft_zero]
  rw [Nat.mod_eq_of_lt (show g.dvDepth < 2 ^ 8 from hd), Nat.mod_eq_of_lt (show g.dvCap < 2 ^ 8 from hc), Nat.mod_eq_of_lt (show g.slot0.tag < 2 ^ 7 from h0),
    Nat.mod_eq_of_lt (show g.slot1.tag < 2 ^ 7 from h1), or_shiftLeft_eq_add (n := 8) hd, or_shiftLeft_eq_add (n := 16) (by omega), or_shiftLeft_eq_add (n := 23) (by omega)]

/-- The page token's register. -/
theorem pgtokWord_eq {n : Nat} (h : n < 2 ^ 32) (b : Bool) :
    packFields [(0, 32, n), (32, 1, b2n b)] = BitVec.ofNat 64 (n + 2 ^ 32 * (if b then 1 else 0)) := by
  simp only [packFields, List.foldl_cons, List.foldl_nil, Nat.zero_or, Nat.shiftLeft_zero]
  rw [Nat.mod_eq_of_lt h, or_shiftLeft_eq_add h]
  cases b <;> rfl

/-- The combs that light a channel, one bit each. -/
theorem testBit_litCombs (w : Word) {c : Nat} (hc : c < 4) :
    (litCombs w).testBit c = (List.range 64).any (fun i => w.getLsbD i && i % 16 / 4 == c) := by
  have hfold (p : Nat → Bool) : ((List.range 4).foldl (fun a c => if p c then a + 2 ^ c else a) 0).testBit c = p c := by
    show (([0, 1, 2, 3] : List Nat).foldl (fun a c => if p c then a + 2 ^ c else a) 0).testBit c = p c
    simp only [List.foldl_cons, List.foldl_nil]
    interval_cases c <;> cases p 0 <;> cases p 1 <;> cases p 2 <;> cases p 3 <;> rfl
  exact hfold fun c => (List.range 64).any (fun i => bit w i && (i % 16) / 4 == c)

theorem litCount_lt (w : Word) : litCount w < 128 := by
  have := List.length_filter_le (fun i => w.toNat.testBit i) (List.range 64)
  rw [List.length_range] at this
  exact Nat.lt_of_le_of_lt this (by decide)

/-- How many channels are lit. -/
theorem litCount_eq (w : Word) : litCount w = ((List.range 64).filter (fun i => w.getLsbD i)).length := rfl

theorem linkState_eq (l : Link) : linkState l =
    if l.training then 1 else if l.up = false then 0 else if litCount l.txLit = 64 ∧ litCount l.rxLit = 64 then 2 else 3 := by
  unfold linkState
  cases l.up <;> simp

theorem linkState_lt (l : Link) : linkState l < 4 := by
  rw [linkState_eq]
  split
  · decide
  · split
    · decide
    · split <;> decide

theorem sysRead_link (s : State) {k : Nat} (hk : k < 15) : sysRead s (0x100 + k) = linkWord s k := by
  interval_cases k <;> rfl

theorem sysRead_slice (s : State) (m : Nat) : sysRead s (0x200 + m) = sliceWord s m := by
  unfold sysRead
  split <;> try omega
  rw [if_neg (by omega), if_neg (by omega), Nat.add_sub_cancel_left]

/-- The matrix register (R345). -/
theorem mstatWord_fields (t : Team) :
    let w := mstatWord t
    let fld := fun lo n => (w.extractLsb' lo n).toNat
    fld 0 6 = t.mfl % 64 ∧ fld 6 2 = 0 ∧ w.getLsbD 8 = t.lheld ∧ w.getLsbD 9 = t.lpend ∧ fld 10 11 = t.lcnt % 2048
      ∧ fld 21 3 = 0 ∧ w.getLsbD 24 = t.latch.broken ∧ fld 25 7 = 0 ∧ fld 32 32 = t.bankc % 2 ^ 32 := by
  refine ⟨?_, ?_, ?_, ?_, ?_, ?_, ?_, ?_, ?_⟩
  · exact extract_packFields rfl (by simp) (by decide)
  · exact extract_packFields_gap rfl (by decide)
  · exact getLsbD_flag rfl (by simp) (by decide)
  · exact getLsbD_flag rfl (by simp) (by decide)
  · exact extract_packFields rfl (by simp) (by decide)
  · exact extract_packFields_gap rfl (by decide)
  · exact getLsbD_flag rfl (by simp) (by decide)
  · exact extract_packFields_gap rfl (by decide)
  · exact extract_packFields rfl (by simp) (by decide)

/-- A link's register (R410). -/
theorem linkWord_fields (s : State) (k : Nat) :
    let w := linkWord s k
    let fld := fun lo n => (w.extractLsb' lo n).toNat
    let l := link s k
    fld 0 2 = linkState l ∧ w.getLsbD 2 = l.txKph ∧ w.getLsbD 3 = (l.rot || l.rxRot) ∧ fld 4 4 = (s.mgmt.device + k + 1) % 16
      ∧ fld 8 7 = litCount l.txLit ∧ fld 15 7 = litCount l.rxLit
      ∧ (∀ c < 4, w.getLsbD (22 + c) = (litCombs l.txLit).testBit c ∧ w.getLsbD (26 + c) = (litCombs l.rxLit).testBit c)
      ∧ fld 30 8 = l.spf % 256 ∧ fld 38 12 = vget l.txEsn 0 0 % 4096 ∧ fld 50 9 = l.kept.length % 512 ∧ fld 59 5 = 0 := by
  have hcut {v n : Nat} (h : v < 2 ^ n) : v % 2 ^ n = v := Nat.mod_eq_of_lt h
  refine ⟨?_, ?_, ?_, ?_, ?_, ?_, fun c hc => ⟨?_, ?_⟩, ?_, ?_, ?_, ?_⟩
  · exact (extract_packFields rfl (by simp) (by decide)).trans (hcut (linkState_lt _))
  · exact getLsbD_flag rfl (by simp) (by decide)
  · exact getLsbD_flag rfl (by simp) (by decide)
  · exact (extract_packFields (v := peerOf s k) rfl (by simp) (by decide)).trans (hcut (Nat.mod_lt _ (by decide)))
  · exact (extract_packFields rfl (by simp) (by decide)).trans (hcut (litCount_lt _))
  · exact (extract_packFields rfl (by simp) (by decide)).trans (hcut (litCount_lt _))
  · exact getLsbD_field (n := 4) rfl (by simp) (by decide) hc
  · exact getLsbD_field (n := 4) rfl (by simp) (by decide) hc
  · exact extract_packFields rfl (by simp) (by decide)
  · exact extract_packFields rfl (by simp) (by decide)
  · exact extract_packFields rfl (by simp) (by decide)
  · exact extract_packFields_gap rfl (by decide)

/-- A slice's register (R260). -/
theorem sliceWord_fields (s : State) (m : Nat) :
    let w := sliceWord s m
    let fld := fun lo n => (w.extractLsb' lo n).toNat
    let pinned := s.pins.flatMap (fun x => (List.range 32).map (fun i => x.1 * 4096 + 128 * i))
    fld 0 32 = (vget s.slices m ⟨0⟩).accept % 2 ^ 32 ∧ fld 32 10 = min 1023 (waitingAt s m)
      ∧ fld 42 6 = min 63 (s.claims.filter (fun c => inSlice s m (c.1 * 128))).length
      ∧ fld 48 14 = min 8192 ((pinned.filter (inSlice s m)).length / 8) ∧ fld 62 2 = 0 := by
  have hcut {v n : Nat} (h : v < 2 ^ n) : v % 2 ^ n = v := Nat.mod_eq_of_lt h
  refine ⟨?_, ?_, ?_, ?_, ?_⟩
  · exact extract_packFields rfl (by simp) (by decide)
  · exact (extract_packFields rfl (by simp) (by decide)).trans (hcut (by omega))
  · exact (extract_packFields rfl (by simp) (by decide)).trans (hcut (by omega))
  · exact (extract_packFields rfl (by simp) (by decide)).trans (hcut (by omega))
  · exact extract_packFields_gap rfl (by decide)

/-- The spare pool's register (R411). -/
theorem spareWord_fields (s : State) {i : Nat} (hi : i < 8) :
    ((spareWord s).extractLsb' (4 * i) 4).toNat = vget s.fabric.spares i 15 % 16 ∧ ((spareWord s).extractLsb' 32 32).toNat = 0 := by
  refine ⟨?_, extract_packFields_gap rfl (by decide)⟩
  exact extract_packFields rfl (List.mem_map.2 ⟨i, List.mem_range.2 hi, rfl⟩) (by omega)

/-! ### SYSR (R123) -/

/-- A scalar register written by a slot that issues alone. -/
theorem writeS_now {s : State} (hl : s.late = none) (r : Nat) (v : Word) : writeS r v s = modGrp (fun g => g.writeS s.cur r v allBits) s := defer_now hl

theorem Group.writeS_gid (g : Group) (b : Bool) (r : Nat) (v bits : Word) : (g.writeS b r v bits).gid = g.gid := by
  unfold Group.writeS
  split
  · rfl
  · exact Group.modSlot_gid ..

/-- SYSR, as its register may be read or not. -/
theorem sysr_runs {f : Ctl} {s : State} (h : clear (.sysr f) s = true) :
    ((f.imm.toNat < 0x100 ∨ blockReadable s = true) →
      Yields (.sysr f) s ((s.grp.writeS s.cur f.d.toNat (sysRead s f.imm.toNat) allBits).passes s.cur f.len))
    ∧ (0x100 ≤ f.imm.toNat → blockReadable s = false → exec (.sysr f) s = .next (takeTrap 0x05 (BitVec.allOnes 32) 0 0 s)) := by
  have hx : exec (.sysr f) s = issueE (.sysr f) (sysrAct f) s := rfl
  have he : entered (.sysr f) s = s := entered_eq h rfl rfl rfl
  refine ⟨fun hr => ?_, fun hn hb => ?_⟩
  · have ha : sysrAct f s = .ok (advance (4 * f.len.words) (writeS f.d.toNat (sysRead s f.imm.toNat) s)) := by
      unfold sysrAct
      refine if_neg ?_
      rcases hr with hr | hr
      · simp [Nat.not_le.2 hr]
      · simp [hr]
    have hw := writeS_now (clear_late h) f.d.toNat (sysRead s f.imm.toNat)
    have hg := advance_grp (4 * f.len.words) (writeS f.d.toNat (sysRead s f.imm.toNat) s)
    rw [hw] at ha hg
    have hy := yields_plain h rfl hx (by rw [he]; exact ha) ((congrArg Group.gid hg).trans (by simp [Group.writeS_gid]))
      (by rw [he]; exact (outsideSame_modGrp _ s).trans (outsideSame_advance ..))
    rw [hg] at hy
    exact hy
  · have ha : sysrAct f s = .error (.trap 0x05 (BitVec.allOnes 32) 0 0) := by
      unfold sysrAct
      exact if_pos (by simp [hn, hb])
    have hs := hx.trans (issueE_stop h (by rw [he]; exact ha))
    rwa [he] at hs

/-- Settles O25: each register's word, field by field. -/
theorem systemReads : Obligations.SystemReads := by
  unfold Obligations.SystemReads
  refine ⟨fun f s h => sysr_runs h, fun s => ⟨rfl, rfl, rfl, rfl, dvspWord_eq, fun h => pgtokWord_eq h _, mstatWord_fields s.team, fun k hk => ?_, ?_, fun m _ => ?_⟩⟩
  · rw [sysRead_link s hk]
    obtain ⟨h0, h1, h2, h3, h4, h5, h6, hrest⟩ := linkWord_fields s k
    refine ⟨h0.trans (linkState_eq _), h1, h2, h3, h4, h5, fun c hc => ?_, hrest⟩
    rw [← testBit_litCombs _ hc, ← testBit_litCombs _ hc]
    exact h6 c hc
  · exact fun i hi => spareWord_fields s hi
  · rw [sysRead_slice]
    exact sliceWord_fields s m

/-! ### SYSW (R123, R336) -/

/-- The team alone has changed on both sides of a frame. -/
theorem outsideSame_team {s u : State} (h : OutsideSame s u) (t : Team) : OutsideSame { s with team := t } { u with team := t } :=
  ⟨h.cur, h.groups, rfl, h.teams, h.clusters, h.grids, h.parts, h.cores, h.dies, h.slices, ⟨h.memory.bytes, h.memory.marks, h.memory.valid⟩, h.pins, h.claims,
   h.wbs, h.flumes, h.weir, h.distr, h.fabric, h.mgmt, h.ticket, h.hostOut, h.hostHeld, h.time, h.late, h.agenda⟩

/-- The issuing team changed. -/
theorem modTeam_self (f : Team → Team) (s : State) : modTeam s.team.tid f s = { s with team := f s.team } := if_pos rfl

/-- s, but for groups, of which the issuing one keeps its name. -/
def GroupsOnly (s t : State) : Prop := ∃ g gs, t = { s with grp := g, groups := gs } ∧ g.gid = s.grp.gid

theorem GroupsOnly.refl (s : State) : GroupsOnly s s := ⟨s.grp, s.groups, rfl, rfl⟩

theorem GroupsOnly.trans {s t u : State} (h : GroupsOnly s t) (k : GroupsOnly t u) : GroupsOnly s u := by
  obtain ⟨g, gs, rfl, hg⟩ := h
  obtain ⟨g', gs', rfl, hg'⟩ := k
  exact ⟨g', gs', rfl, hg'.trans hg⟩

/-- A change of a group that keeps names. -/
theorem groupsOnly_modGroup {f : Group → Group} (hf : ∀ g, (f g).gid = g.gid) (gid : Nat) (s : State) : GroupsOnly s (modGroup gid f s) := by
  unfold modGroup
  split
  · exact ⟨_, _, rfl, hf _⟩
  · exact ⟨_, _, rfl, rfl⟩

/-- A report changes a group. -/
theorem groupsOnly_reportBase (gid : Nat) (t : TrapInfo) (s : State) : GroupsOnly s (reportBase gid t s) := by
  unfold reportBase
  split
  · exact .refl s
  · split
    · exact .refl s
    · split
      · split
        · exact groupsOnly_modGroup (f := fun g => { g with heldTraps := g.heldTraps ++ [t] }) (fun _ => rfl) ..
        · exact .refl s
      · exact groupsOnly_modGroup (f := fun g => { g with trap := some { t with s0 := vget g.sregs 0 0, time := s.time } }) (fun _ => rfl) ..

/-- A loop whose every round changes groups. -/
theorem groupsOnly_foldl {α : Type} {f : State → α → State} (hf : ∀ s a, GroupsOnly s (f s a)) (l : List α) (s : State) : GroupsOnly s (l.foldl f s) := by
  induction l generalizing s with
  | nil => exact .refl s
  | cons a l ih => exact (hf s a).trans (ih _)

/-- The trap of the waiting members changes groups, and empties the latch. -/
theorem groupsOnly_gangTrap (s : State) :
    GroupsOnly { s with team := { s.team with latch := { s.team.latch with broken := false, arrived := [] } } } (gangTrap s.team.tid false s) := by
  unfold gangTrap
  rw [teamOf, if_pos rfl]
  dsimp only
  rw [modTeam_self]
  refine groupsOnly_foldl (fun s f => ?_) _ _
  split
  · exact .refl s
  · exact (groupsOnly_modGroup (fun g => Group.modSlot_gid ..) _ _).trans (groupsOnly_reportBase ..)

/-- The gang register written: the trap's state with another team. -/
theorem gangSet_eq (v : Word) (s : State) :
    gangSet v s = { gangTrap s.team.tid false s with team := { s.team with gang := v, latch := Latch.empty } } := by
  unfold gangSet
  obtain ⟨g, gs, hw, _⟩ := groupsOnly_gangTrap s
  rw [hw]
  exact modTeam_self (fun t => { t with gang := v, latch := Latch.empty }) _

/-- Without waiting members the trap changes the latch alone. -/
theorem gangTrap_none {s : State} (h : s.team.latch.arrived = []) :
    gangTrap s.team.tid false s = { s with team := { s.team with latch := { s.team.latch with broken := false, arrived := [] } } } := by
  unfold gangTrap
  rw [teamOf, if_pos rfl]
  dsimp only
  rw [h, modTeam_self, List.foldl_nil]

section
variable {f : Ctl} {s : State} (h : clear (.sysw f) s = true)
include h

/-- SYSW of a register of the group. -/
theorem sysw_grp {g : Group} (hg : g.gid = s.grp.gid) {e : State} (hf : OutsideSame (entered (.sysw f) s) e) (heg : e.grp = g)
    (ha : sysWrite f.imm.toNat (readS s f.a.toNat) (entered (.sysw f) s) = .ok e) : Yields (.sysw f) s (g.passes s.cur f.len).begins := by
  have hx : exec (.sysw f) s = issueE (.sysw f) (syswAct f) s := rfl
  have hact : syswAct f (entered (.sysw f) s) = .ok (advance (4 * f.len.words) e) := by
    rw [syswAct, entered_readS h, ha, Machine.lenOf]
  have hag := advance_grp (4 * f.len.words) e
  rw [hf.cur, entered_cur h, heg] at hag
  have hy := yields_plain h rfl hx hact ((congrArg Group.gid hag).trans (by rw [Group.modSlot_gid, hg])) (hf.trans (outsideSame_advance ..))
  rw [hag] at hy
  exact hy

/-- SYSW of a register of the team. -/
theorem sysw_team {e w : State} (hg : e.grp.gid = s.grp.gid) (hf : OutsideSame w e) (hl : w.late = none) (hc : w.cur = s.cur)
    (ha : sysWrite f.imm.toNat (readS s f.a.toNat) (entered (.sysw f) s) = .ok e) : YieldsIn (.sysw f) s w (e.grp.passes s.cur f.len).begins := by
  have hx : exec (.sysw f) s = issueE (.sysw f) (syswAct f) s := rfl
  have hact : syswAct f (entered (.sysw f) s) = .ok (advance (4 * f.len.words) e) := by
    rw [syswAct, entered_readS h, ha, Machine.lenOf]
  have hag := advance_grp (4 * f.len.words) e
  rw [hf.cur, hc] at hag
  obtain ⟨t, hn, ho, hgrp⟩ := ran_plain h rfl hx hact hl ((congrArg Group.gid hag).trans (by rw [Group.modSlot_gid, hg])) (hf.trans (outsideSame_advance ..))
  exact ⟨t, hn, by rw [hgrp, hag]; rfl, ho⟩

/-- SYSW of a status or mode register stores it at once. -/
theorem sysw_status {n : Nat} (hn : f.imm.toNat = n) (hm : n ∈ [0, 1, 2]) :
    Yields (.sysw f) s (((entered (.sysw f) s).grp.sysw n (readS s f.a.toNat)).passes s.cur f.len).begins := by
  have hd := defer_now (x := .sysw n (readS s f.a.toNat)) (f := modGrp (fun g => g.sysw n (readS s f.a.toNat))) (entered_late h)
  have ha : sysWrite n (readS s f.a.toNat) (entered (.sysw f) s) = .ok (modGrp (fun g => g.sysw n (readS s f.a.toNat)) (entered (.sysw f) s)) := by
    rw [← hd]
    simp only [List.mem_cons, List.not_mem_nil, or_false] at hm
    rcases hm with rfl | rfl | rfl <;> rfl
  rw [← hn] at ha
  have hgid : ((entered (.sysw f) s).grp.sysw n (readS s f.a.toNat)).gid = s.grp.gid := by
    rw [← entered_gid h]
    unfold Group.sysw
    split <;> rfl
  subst hn
  exact sysw_grp h hgid (outsideSame_modGrp _ _) rfl ha

/-- SYSW of the stack's register: the depth, and the join tags; the other slot is released where the top entry is another. -/
theorem sysw_stack (hn : f.imm.toNat = 0x20) :
    let t := modGrp (fun g => g.sysw 0x20 (readS s f.a.toNat)) (entered (.sysw f) s)
    Yields (.sysw f) s ((if t.grp.dvDepth = s.grp.dvDepth then t else wakeStack t).grp.passes s.cur f.len).begins := by
  intro t
  have hd : defer (.sysw 0x20 (readS s f.a.toNat)) (modGrp (fun g => g.sysw 0x20 (readS s f.a.toNat))) (entered (.sysw f) s) = t := defer_now (entered_late h)
  have ha : sysWrite 0x20 (readS s f.a.toNat) (entered (.sysw f) s) = .ok (if t.grp.dvDepth = s.grp.dvDepth then t else wakeStack t) := by
    rw [← entered_dvDepth h]
    exact congrArg (fun w => Except.ok (if t.grp.dvDepth = (entered (.sysw f) s).grp.dvDepth then w else wakeStack w)) hd
  rw [← hn] at ha
  refine sysw_grp h ?_ ?_ rfl ha
  · rw [← entered_gid h]
    split
    · rfl
    · exact Group.modSlot_gid ..
  · have ht : OutsideSame (entered (.sysw f) s) t := outsideSame_modGrp _ _
    split
    · exact ht
    · exact ht.trans (outsideSame_wakeStack t)

end

/-- A slot that is not parked by case 4 stays as it is where the stack changes. -/
theorem wakeStack_away {s : State} (h : ∀ k, (other s).st ≠ .parkJoin k true) : (wakeStack s).grp = s.grp := by
  have hy : (match (other s).st with | .parkJoin _ true => { other s with st := .ready } | _ => other s) = other s := by
    split
    case h_1 k hk => exact absurd hk (h k)
    case h_2 => rfl
  cases hc : s.cur <;> simp only [other, Group.slot, hc, Bool.not_true, Bool.not_false, if_true, if_false, Bool.false_eq_true] at hy <;>
    simp only [wakeStack, modOther, Group.modSlot, hc, Bool.not_true, Bool.not_false, if_true, if_false, Bool.false_eq_true]
  · exact congrArg (fun y => { s.grp with slot1 := y }) hy
  · exact congrArg (fun y => { s.grp with slot0 := y }) hy

/-- One that is parked there is released. -/
theorem wakeStack_parked {s : State} {k : Nat} (h : (other s).st = .parkJoin k true) :
    (wakeStack s).grp = s.grp.modSlot (! s.cur) (fun y => { y with st := .ready }) := by
  have hy : (match (other s).st with | .parkJoin _ true => { other s with st := .ready } | _ => other s) = { other s with st := .ready } := by
    rw [h]
  cases hc : s.cur <;> simp only [other, Group.slot, hc, Bool.not_true, Bool.not_false, if_true, if_false, Bool.false_eq_true] at hy <;>
    simp only [wakeStack, modOther, Group.modSlot, hc, Bool.not_true, Bool.not_false, if_true, if_false, Bool.false_eq_true]
  · exact congrArg (fun y => { s.grp with slot1 := y }) hy
  · exact congrArg (fun y => { s.grp with slot0 := y }) hy

/-- Settles O26: one register after the other. -/
theorem systemWrites : Obligations.SystemWrites := by
  unfold Obligations.SystemWrites
  intro f s h x u v fld
  have hgid : u.grp.gid = s.grp.gid := entered_gid h
  have hlate : u.late = none := entered_late h
  have hout : OutsideSame s u := outsideSame_entered h
  have hteam : u.team = s.team := hout.team
  have hfld (lo n : Nat) : field v lo n = fld lo n := field_eq v lo n
  have hstack : (modGrp (fun g => g.sysw 0x20 v) u).grp =
      { u.grp with dvDepth := min (fld 0 8) s.grp.dvCap, slot0 := { s.grp.slot0 with tag := fld 16 7 }, slot1 := { s.grp.slot1 with tag := fld 23 7 } } := by
    obtain ⟨_, _, _, hg⟩ := entered_grp h
    simp only [modGrp, Group.sysw, hfld, u, x, hg]
  have hother : (other (modGrp (fun g => g.sysw 0x20 v) u)).st = (other s).st := by
    rw [other, hstack, other, show (modGrp _ u).cur = s.cur from hout.cur]
    cases s.cur <;> rfl
  refine ⟨fun hn => ?_, fun hn => ?_, fun hn => ?_, fun hn hk => ?_, fun k hn hk hd => ?_, fun hn => ?_, fun hn hv ha => ?_, fun hn hv => ?_, fun hn hv => ?_⟩
  · rw [← hfld]
    exact sysw_status h hn (by simp)
  · rw [← hfld]
    exact sysw_status h hn (by simp)
  · have hq : (if fld 0 3 = 0 ∨ fld 0 3 = 7 then 1 else fld 0 3) = qmodeStore (field v 0 3) := by
      have hlt : fld 0 3 < 8 := BitVec.isLt _
      rw [hfld, qmodeStore, Nat.mod_eq_of_lt hlt]
      simp
    rw [hq]
    exact sysw_status h hn (by simp)
  · have hy := sysw_stack h hn
    have he : (if (modGrp (fun g => g.sysw 0x20 v) u).grp.dvDepth = s.grp.dvDepth then modGrp (fun g => g.sysw 0x20 v) u
        else wakeStack (modGrp (fun g => g.sysw 0x20 v) u)).grp = (modGrp (fun g => g.sysw 0x20 v) u).grp := by
      split
      case isTrue => rfl
      case isFalse hne =>
        rw [hstack] at hne
        exact wakeStack_away fun k => hother ▸ (hk.resolve_right hne) k
    rw [← hstack, ← he]
    exact hy
  · have hy := sysw_stack h hn
    have he : (if (modGrp (fun g => g.sysw 0x20 v) u).grp.dvDepth = s.grp.dvDepth then modGrp (fun g => g.sysw 0x20 v) u
        else wakeStack (modGrp (fun g => g.sysw 0x20 v) u)).grp = (modGrp (fun g => g.sysw 0x20 v) u).grp.modSlot (! s.cur) (fun y => { y with st := .ready }) := by
      rw [if_neg (by rw [hstack]; exact hd), wakeStack_parked (hother.trans hk), show (modGrp _ u).cur = s.cur from hout.cur]
    rw [← hstack, ← he]
    exact hy
  · have ha : sysWrite f.imm.toNat v u = .ok { u with team := { s.team with mfl := fld 0 6, bankc := fld 32 32 } } := by
      rw [← hfld, ← hfld, ← hteam, hn]
      exact congrArg Except.ok ((defer_now hlate).trans (modTeam_self _ u))
    exact sysw_team h (e := { u with team := { s.team with mfl := fld 0 6, bankc := fld 32 32 } }) hgid (outsideSame_team hout _) (clear_late (s := s) h) rfl ha
  all_goals have hact : sysWrite f.imm.toNat v u = gangAct v u := by rw [hn]; rfl
  all_goals rw [gangAct, hteam, hv] at hact
  · rw [Bool.not_true, if_neg (by simp), defer_now hlate, gangSet_eq, gangTrap_none (hteam ▸ ha), hteam] at hact
    exact sysw_team h (e := { u with team := { s.team with gang := v, latch := Latch.empty } }) hgid (outsideSame_team hout _) (clear_late (s := s) h) rfl hact
  · intro w
    rw [Bool.not_true, if_neg (by simp), defer_now hlate, gangSet_eq, hteam] at hact
    obtain ⟨g, gs, hw, hg⟩ := groupsOnly_gangTrap u
    rw [hteam] at hw
    refine sysw_team h (e := { w with team := { s.team with gang := v, latch := Latch.empty } }) ?_ (.refl _) ?_ ?_ hact
    · exact (congrArg (fun t => t.grp.gid) hw).trans (hg.trans hgid)
    · exact (congrArg State.late hw).trans hlate
    · exact (congrArg State.cur hw).trans hout.cur
  · have ha : syswAct f u = .error .ill := by
      rw [syswAct, entered_readS h, hact]
      rfl
    exact issueE_stop (x := x) (act := syswAct f) h ha

end Sys2Proof.Proofs.System

/-! PROOF. Registers by their elements and lanes (R35, R37, R128): vectors of values, elements of a word, and a word written in some bits. -/
namespace Sys2Proof.Proofs.Words
open Sys2Proof Sys2Proof.Machine Sys2Proof.Proofs.Fields

/-! ### Vectors of values -/

section
variable {α : Type} {n : Nat} (v : Vector α n) {i k : Nat} (d : α)

theorem vget_vset_self (h : i < n) (x : α) : vget (vset v i x) i d = x := by
  simp [vget, vset, h]

theorem vget_vset_ne (h : k ≠ i) (x : α) : vget (vset v i x) k d = vget v k d := by
  simp [vget, vset, Vector.getElem?_setIfInBounds_ne (Ne.symm h)]

theorem vmod_eq_vset (h : i < n) (f : α → α) : vmod v i f = vset v i (f (vget v i d)) := by
  simp [vmod, vset, vget, h]

theorem vget_vmod_self (h : i < n) (f : α → α) : vget (vmod v i f) i d = f (vget v i d) := by
  rw [vmod_eq_vset v d h, vget_vset_self v d h]

theorem vget_vmod_ne (h : k ≠ i) (f : α → α) : vget (vmod v i f) k d = vget v k d := by
  unfold vmod
  split
  · exact vget_vset_ne v d h _
  · rfl

/-- Two changes that agree on what stands there. -/
theorem vmod_congr {f g : α → α} (h : i < n → f (vget v i d) = g (vget v i d)) : vmod v i f = vmod v i g := by
  by_cases hi : i < n
  · rw [vmod_eq_vset v d hi, vmod_eq_vset v d hi, h hi]
  · simp [vmod, Vector.getElem?_eq_none (Nat.not_lt.1 hi)]

end

theorem lane_lanesOf (f : Nat → Word) {l : Nat} (h : l < 32) : lane (lanesOf f) l = f l := by
  simp [lane, lanesOf, h]

theorem lanesOf_congr {f g : Nat → Word} (h : ∀ l < 32, f l = g l) : lanesOf f = lanesOf g := by
  have he : (List.range 32).map f = (List.range 32).map g := List.map_congr_left fun l hl => h l (List.mem_range.1 hl)
  simp only [lanesOf, he]

theorem lane_blend (m : Mask) (v : Lanes) (f : Nat → Word) {l : Nat} (h : l < 32) : lane (blend m v f) l = if m.getLsbD l then f l else lane v l :=
  lane_lanesOf _ h

/-! ### Elements of a word (R37) -/

/-- Bit k of element q. -/
theorem testBit_elem (r : Word) (q w k : Nat) : (elem r q w).testBit k = (decide (k < w) && r.getLsbD (w * q + k)) := by
  rw [elem, Nat.testBit_mod_two_pow, Nat.testBit_shiftRight, BitVec.getLsbD]

theorem elem_lt (r : Word) (q w : Nat) : elem r q w < 2 ^ w := Nat.mod_lt _ (Nat.two_pow_pos w)

/-- A word put together of elements is one put together of fields. -/
theorem ofElems_eq (w : Nat) (f : Nat → Nat) : ofElems w f = packFields ((List.range (64 / w)).map (fun i => (w * i, w, f i))) := by
  rw [packFields, List.foldl_map, ofElems]

/-- A bit of a word put together of elements. -/
theorem getLsbD_ofElems {w : Nat} (f : Nat → Nat) {q k : Nat} (hq : q < 64 / w) (hk : k < w) : (ofElems w f).getLsbD (w * q + k) = (f q).testBit k := by
  have hb : w * q + k < 64 := by
    have := Nat.mul_le_of_le_div w (q + 1) 64 (Nat.succ_le_of_lt hq)
    rw [Nat.mul_comm, Nat.mul_succ] at this
    omega
  rw [ofElems_eq, getLsbD_packFields _ hb, List.any_map]
  refine Bool.eq_iff_iff.2 (List.any_eq_true.trans ⟨?_, fun hf => ⟨q, List.mem_range.2 hq, ?_⟩⟩)
  · rintro ⟨i, -, hi⟩
    have hfield := (testBit_field (w * i, w, f i) (w * q + k)).symm.trans hi
    simp only [Bool.and_eq_true, decide_eq_true_eq] at hfield
    obtain ⟨h1, h2, h3⟩ := hfield
    have : i = q := by
      have h4 : w * i ≤ w * q + k := h1
      have h5 : w * q + k < w * i + w := by omega
      have hiq : i < q + 1 := Nat.lt_of_mul_lt_mul_left (a := w) (by rw [Nat.mul_succ]; omega)
      have hqi : q < i + 1 := Nat.lt_of_mul_lt_mul_left (a := w) (by rw [Nat.mul_succ]; omega)
      omega
    subst this
    rwa [Nat.add_sub_cancel_left] at h3
  · exact (testBit_field (w * q, w, f q) (w * q + k)).trans (by simp [hk, hf])

/-- An element of a word put together of elements. -/
theorem elem_ofElems {w : Nat} (f : Nat → Nat) {q : Nat} (hq : q < 64 / w) : elem (ofElems w f) q w = f q % 2 ^ w := by
  refine Nat.eq_of_testBit_eq fun k => ?_
  rw [testBit_elem, Nat.testBit_mod_two_pow]
  by_cases hk : k < w
  · rw [getLsbD_ofElems f hq hk]
  · simp [hk]

/-- Words with the same elements are the same. -/
theorem eq_of_elem {w : Nat} (hw : w ∣ 64) {a b : Word} (h : ∀ q < 64 / w, elem a q w = elem b q w) : a = b := by
  have hpos : 0 < w := Nat.pos_of_dvd_of_pos hw (by decide)
  refine BitVec.eq_of_getLsbD_eq fun i hi => ?_
  have hq : i / w < 64 / w := Nat.div_lt_div_of_lt_of_dvd hw hi
  have hbit := congrArg (·.testBit (i % w)) (h (i / w) hq)
  simp only [testBit_elem, Nat.mod_lt i hpos, decide_true, Bool.true_and, Nat.div_add_mod] at hbit
  exact hbit

/-- The bits of a word of which one element is set. -/
theorem getLsbD_setElem_zero (p w v : Nat) {i : Nat} (hi : i < 64) :
    (setElem 0 p w v).getLsbD i = (decide (w * p ≤ i) && (decide (i - w * p < w) && v.testBit (i - w * p))) := by
  have h := testBit_field (w * p, w, v) i
  rw [setElem, setField, BitVec.getLsbD_ofNat, Nat.testBit_or, show BitVec.toNat (0 : Word) = 0 from rfl, Nat.zero_and, Nat.zero_testBit, Bool.false_or, h]
  simp [hi]

/-! ### A word written in some bits (R35) -/

/-- A word in which some bits are written. -/
def mixed (old val bits : Word) : Word := (old &&& ~~~bits) ||| (val &&& bits)

theorem getLsbD_mixed (old val bits : Word) {i : Nat} (hi : i < 64) :
    (mixed old val bits).getLsbD i = if bits.getLsbD i then val.getLsbD i else old.getLsbD i := by
  simp only [mixed, BitVec.getLsbD_or, BitVec.getLsbD_and, BitVec.getLsbD_not, hi, decide_true, Bool.true_and]
  cases bits.getLsbD i <;> simp

theorem getLsbD_allBits {i : Nat} (hi : i < 64) : allBits.getLsbD i = true := by
  rw [allBits, BitVec.getLsbD_allOnes]
  exact decide_eq_true hi

theorem mixed_allBits (old val : Word) : mixed old val allBits = val := by
  refine BitVec.eq_of_getLsbD_eq fun i hi => ?_
  rw [getLsbD_mixed _ _ _ hi, getLsbD_allBits hi, if_pos rfl]

theorem mixed_zero (old val : Word) : mixed old val 0 = old := by
  refine BitVec.eq_of_getLsbD_eq fun i hi => ?_
  rw [getLsbD_mixed _ _ _ hi, if_neg (by simp)]

/-- The bits that a form of elements writes (R35). -/
def elementBits (w : Nat) (only : Option Nat) : Word := match only with | some p => setElem 0 p w (ones w) | none => allBits

theorem elements_bits (w : Nat) (only : Option Nat) (f : Nat → FRes) : (elements w only f).bits = elementBits w only := by
  cases only <;> rfl

theorem testBit_ones (w k : Nat) : (ones w).testBit k = decide (k < w) := Nat.testBit_two_pow_sub_one w k

theorem elem_mixed_elements (old : Word) {w : Nat} (only : Option Nat) (f : Nat → FRes) {q : Nat} (hq : q < 64 / w) :
    elem (mixed old (elements w only f).val (elements w only f).bits) q w
      = if (match only with | none => true | some p => q == p) then (f q).bits % 2 ^ w else elem old q w := by
  cases only with
  | none =>
    show elem (mixed old (ofElems w fun i => (f i).bits) allBits) q w = _
    rw [mixed_allBits, elem_ofElems _ hq, if_pos rfl]
  | some p =>
    refine Nat.eq_of_testBit_eq fun k => ?_
    rw [testBit_elem]
    by_cases hk : k < w
    · have hb : w * q + k < 64 := by
        have := Nat.mul_le_of_le_div w (q + 1) 64 (Nat.succ_le_of_lt hq)
        rw [Nat.mul_comm, Nat.mul_succ] at this
        omega
      rw [getLsbD_mixed _ _ _ hb]
      show (decide (k < w) && if (setElem 0 p w (ones w)).getLsbD (w * q + k) = true then (setElem 0 p w (f p).bits).getLsbD (w * q + k)
        else old.getLsbD (w * q + k)) = _
      rw [getLsbD_setElem_zero _ _ _ hb, getLsbD_setElem_zero _ _ _ hb, testBit_ones]
      by_cases hp : q = p
      · subst hp
        simp [hk]
      · have hout : ¬ (w * p ≤ w * q + k ∧ w * q + k - w * p < w) := by
          rintro ⟨h1, h2⟩
          have hiq : p < q + 1 := Nat.lt_of_mul_lt_mul_left (a := w) (by rw [Nat.mul_succ]; omega)
          have hqi : q < p + 1 := Nat.lt_of_mul_lt_mul_left (a := w) (by rw [Nat.mul_succ]; omega)
          omega
        have hcond : (decide (w * p ≤ w * q + k) && (decide (w * q + k - w * p < w) && decide (w * q + k - w * p < w))) = false := by
          simpa using fun h1 => Nat.not_lt.1 fun h2 => hout ⟨h1, h2⟩
        rw [hcond]
        simp [hp, testBit_elem, hk]
    · have hlt (x : Nat) (hx : x < 2 ^ w) : x.testBit k = false := Nat.testBit_lt_two_pow (Nat.lt_of_lt_of_le hx (Nat.pow_le_pow_right (by decide) (by omega)))
      simp only [hk, decide_false, Bool.false_and]
      split
      · rw [hlt _ (Nat.mod_lt _ (Nat.two_pow_pos w))]
      · rw [hlt _ (elem_lt ..)]

/-- A word written in whole elements. -/
theorem elem_mixed_ofElems (old : Word) {w : Nat} (v : Nat → Nat) (p : Nat → Bool) {q : Nat} (hq : q < 64 / w) :
    elem (mixed old (ofElems w v) (ofElems w fun i => if p i then ones w else 0)) q w = if p q then v q % 2 ^ w else elem old q w := by
  refine Nat.eq_of_testBit_eq fun k => ?_
  rw [testBit_elem, apply_ite (Nat.testBit · k), Nat.testBit_mod_two_pow, testBit_elem]
  by_cases hk : k < w
  · have hb : w * q + k < 64 := by
      have := Nat.mul_le_of_le_div w (q + 1) 64 (Nat.succ_le_of_lt hq)
      rw [Nat.mul_comm, Nat.mul_succ] at this
      omega
    rw [getLsbD_mixed _ _ _ hb, getLsbD_ofElems _ hq hk, getLsbD_ofElems _ hq hk]
    cases p q <;> simp [hk, testBit_ones]
  · simp [hk]

/-- A change that changes nothing. -/
theorem vmod_id {α : Type} {n : Nat} (v : Vector α n) (i : Nat) : vmod v i (fun x => x) = v := by
  unfold vmod
  split
  case h_1 x h =>
    obtain ⟨hi, rfl⟩ := Vector.getElem?_eq_some_iff.1 h
    ext j hj
    rw [Vector.getElem_setIfInBounds]
    split
    case isTrue e => subst e; rfl
    case isFalse => rfl
  case h_2 => rfl

end Sys2Proof.Proofs.Words

/-! PROOF. The integer operations on elements (R92, R93, R96, R97): each as the operation on bit vectors of the element's width. -/
namespace Sys2Proof.Proofs.Integers
open Sys2Proof Sys2Proof.Machine

theorem tyWidth_pos (ty : Nat) : 0 < tyWidth ty := by
  unfold tyWidth
  split <;> decide

theorem tyWidth_dvd (ty : Nat) : tyWidth ty ∣ 64 := by
  unfold tyWidth
  split <;> decide

/-- Reduction modulo 2^w as a bit vector. -/
theorem wrapInt_eq (w : Nat) (x : Int) : wrapInt w x = (BitVec.ofInt w x).toNat := rfl

/-- A number read as two's complement. -/
theorem toSigned_eq {w : Nat} (n : Nat) (h : 0 < w) : toSigned w n = (BitVec.ofNat w n).toInt := by
  have hp : 2 ^ w = 2 * 2 ^ (w - 1) := by rw [← Nat.pow_succ']; congr; omega
  rw [toSigned, BitVec.toInt, BitVec.toNat_ofNat]
  split <;> split <;> omega

/-- A number read by its type. -/
theorem intOf_eq (ty n : Nat) : intOf ty n = valueOfE (tySigned ty) (BitVec.ofNat (tyWidth ty) n) := by
  unfold intOf valueOfE
  split
  · exact toSigned_eq n (tyWidth_pos ty)
  · rw [BitVec.toNat_ofNat]

/-- Comparison by type is comparison of values. -/
theorem below_iff {w : Nat} (sg : Bool) (a b : BitVec w) : below sg a b = decide (valueOfE sg a < valueOfE sg b) := by
  unfold below valueOfE
  cases sg
  · simp [BitVec.ult]
  · simp [BitVec.slt]

theorem valueOfE_inj {w : Nat} {sg : Bool} {a b : BitVec w} : valueOfE sg a = valueOfE sg b ↔ a = b := by
  unfold valueOfE
  cases sg
  · simp [BitVec.toNat_inj]
  · simp [BitVec.toInt_inj]

/-- A value modulo 2^w is the bit vector again. -/
theorem ofInt_valueOfE {w : Nat} (sg : Bool) (a : BitVec w) : BitVec.ofInt w (valueOfE sg a) = a := by
  unfold valueOfE
  cases sg <;> simp

/-- The whole product of two elements. -/
theorem wideMul_eq {w : Nat} (sg : Bool) (a b : BitVec w) : wideMul sg a b = BitVec.ofInt (2 * w) (valueOfE sg a * valueOfE sg b) := by
  unfold wideMul valueOfE
  cases sg
  · simp only [Bool.false_eq_true, if_false]
    rw [← Int.natCast_mul, BitVec.ofInt_natCast]
    exact BitVec.eq_of_toNat_eq (by simp [BitVec.toNat_mul, BitVec.toNat_setWidth, Nat.mul_mod])
  · simp only [if_true]
    rw [BitVec.signExtend, BitVec.signExtend, BitVec.ofInt_mul]

/-- The high half of a product. -/
theorem extract_high {w : Nat} (x : Int) : (BitVec.ofInt (2 * w) x).extractLsb' w w = BitVec.ofInt w (x / (2 ^ w : Nat)) := by
  refine BitVec.eq_of_toNat_eq ?_
  rw [BitVec.extractLsb'_toNat, BitVec.toNat_ofInt, BitVec.toNat_ofInt, Nat.shiftRight_eq_div_pow]
  have hm : ((2 ^ (2 * w) : Nat) : Int) = (2 ^ w : Nat) * (2 ^ w : Nat) := by rw [two_mul, Nat.pow_add, Nat.cast_mul]
  have hpos : (0 : Int) < (2 ^ w : Nat) := by exact_mod_cast Nat.two_pow_pos w
  refine Int.natCast_inj.1 ?_
  rw [Int.natCast_emod, Int.natCast_ediv, Int.toNat_of_nonneg (Int.emod_nonneg _ (by rw [hm]; exact (Int.mul_pos hpos hpos).ne')),
    Int.toNat_of_nonneg (Int.emod_nonneg _ hpos.ne'), hm]
  generalize ((2 ^ w : Nat) : Int) = m at hpos
  rw [Int.emod_def x, Int.mul_assoc, Int.sub_mul_ediv_left _ _ hpos.ne', Int.sub_mul_emod_self_left]

/-- The first place in a range where a predicate holds, counted as those before it. -/
theorem find_range (p : Nat → Bool) (s n : Nat) :
    ((List.range' s n).find? p).getD (s + n) = s + ((List.range' s n).takeWhile (fun k => ! p k)).length := by
  induction n generalizing s with
  | zero => simp
  | succ n ih =>
    have hrest := ih (s + 1)
    rw [List.range'_succ, List.find?_cons, List.takeWhile_cons]
    cases hp : p s
    · simp only [Bool.not_false, if_true, List.length_cons]
      rw [show s + (n + 1) = s + 1 + n by omega, hrest]
      omega
    · simp

/-- How far a predicate holds in a range. -/
theorem length_takeWhile_range {p : Nat → Bool} {m n : Nat} (hm : m ≤ n) (hp : ∀ k < m, p k = true) (hn : m < n → p m = false) :
    ((List.range n).takeWhile p).length = m := by
  obtain ⟨d, rfl⟩ := Nat.exists_eq_add_of_le hm
  rw [List.range_add, List.takeWhile_append_of_pos fun k hk => hp k (List.mem_range.1 hk)]
  cases d with
  | zero => simp
  | succ d =>
    rw [List.range_succ_eq_map, List.map_cons, List.takeWhile_cons_of_neg (by simp [hn (by omega)])]
    simp

/-- How many zeros lead an element. -/
theorem leading_zeros {w : Nat} (a : BitVec w) : ((List.range w).takeWhile (fun k => ! a.getMsbD k)).length = w - bitlen a.toNat := by
  have hbit (k : Nat) (hk : k < w) : a.getMsbD k = a.toNat.testBit (w - 1 - k) := by
    rw [BitVec.getMsbD, BitVec.getLsbD]
    simp [hk]
  by_cases h0 : a.toNat = 0
  · refine length_takeWhile_range (by omega) (fun k hk => ?_) (fun h => ?_)
    · rw [hbit k (by omega), h0]
      simp
    · simp [bitlen, h0] at h
  · have hlog : a.toNat.log2 < w := (Nat.log2_lt h0).2 a.isLt
    have hlen : bitlen a.toNat = a.toNat.log2 + 1 := if_neg h0
    refine length_takeWhile_range (Nat.sub_le ..) (fun k hk => ?_) (fun h => ?_)
    · rw [hbit k (by omega), Nat.testBit_lt_two_pow]
      · rfl
      · exact (Nat.log2_lt h0).1 (by omega)
    · rw [hbit _ (by omega), show w - 1 - (w - bitlen a.toNat) = a.toNat.log2 by omega, Nat.testBit_log2 h0]
      rfl

/-- A function of the model gives, on elements of type TY, what the operation on bit vectors gives. -/
def Agrees (f : Comp) (fn : Nat → Nat → Nat → Nat → Nat) (e : ElemFn) : Prop :=
  ∀ a b c : BitVec f.w, fn f.ty.toNat a.toNat b.toNat c.toNat = (e f f.w (tySigned f.ty.toNat) a b c).toNat

section
variable (f : Comp)

theorem intOf_toNat (a : BitVec f.w) : intOf f.ty.toNat a.toNat = valueOfE (tySigned f.ty.toNat) a := by
  rw [intOf_eq, show tyWidth f.ty.toNat = f.w from rfl, BitVec.ofNat_toNat, BitVec.setWidth_eq]

theorem agrees_add : Agrees f iAdd addE := fun a b _ => (BitVec.toNat_add a b).symm

theorem agrees_sub : Agrees f iSub subE := fun a b _ => by
  rw [iSub, wrapInt_eq]
  refine congrArg BitVec.toNat (?_ : BitVec.ofInt f.w _ = a - b)
  rw [← BitVec.toInt_inj, BitVec.toInt_ofInt, BitVec.toInt_sub, BitVec.toInt_eq_toNat_bmod, BitVec.toInt_eq_toNat_bmod]
  simp

theorem agrees_and : Agrees f iAnd andE := fun a b _ => (BitVec.toNat_and a b).symm

theorem agrees_or : Agrees f iOr orE := fun a b _ => (BitVec.toNat_or a b).symm

theorem agrees_xor : Agrees f iXor xorE := fun a b _ => (BitVec.toNat_xor a b).symm

theorem agrees_shl : Agrees f iShl shlE := fun _ _ _ => (BitVec.toNat_shiftLeft).symm

theorem agrees_shr : Agrees f iShr shrE := fun a _ _ => (BitVec.toNat_ushiftRight a _).symm

theorem agrees_sar : Agrees f iSar sarE := fun a b _ => by
  rw [iSar, wrapInt_eq, toSigned_eq _ (tyWidth_pos _), show tyWidth f.ty.toNat = f.w from rfl, BitVec.ofNat_toNat, BitVec.setWidth_eq]
  refine congrArg BitVec.toNat (?_ : BitVec.ofInt f.w _ = a.sshiftRight _)
  rw [BitVec.sshiftRight, Int.shiftRight_eq_div_pow]

theorem agrees_min : Agrees f iMin minE := fun a b _ => by
  rw [iMin, intOf_toNat, intOf_toNat, minE, below_iff, apply_ite BitVec.toNat]
  by_cases h : valueOfE (tySigned f.ty.toNat) a ≤ valueOfE (tySigned f.ty.toNat) b
  · rw [if_pos h, if_neg (by simpa using h)]
  · rw [if_neg h, if_pos (by simpa using h)]

theorem agrees_max : Agrees f iMax maxE := fun a b _ => by
  rw [iMax, intOf_toNat, intOf_toNat, maxE, below_iff, apply_ite BitVec.toNat]
  by_cases h : valueOfE (tySigned f.ty.toNat) a < valueOfE (tySigned f.ty.toNat) b
  · rw [if_pos h.le, if_pos (by simpa using h)]
  · rw [if_neg (c := (_ : Bool) = true) (by simpa using h)]
    split
    case isTrue hle => rw [valueOfE_inj.1 (le_antisymm hle (not_lt.1 h))]
    case isFalse => rfl

theorem agrees_mul : Agrees f iMul mulE := fun a b _ => (BitVec.toNat_mul a b).symm

theorem agrees_mulh : Agrees f iMulh mulhE := fun a b _ => by
  rw [iMulh, intOf_toNat, intOf_toNat, show tyWidth f.ty.toNat = f.w from rfl, mulhE, wideMul_eq, wrapInt_eq, extract_high]

theorem agrees_popc : Agrees f iPopc popcE := fun a _ _ => by
  have hle : (List.range f.w).countP (fun k => a.getLsbD k) < 2 ^ f.w :=
    Nat.lt_of_le_of_lt (List.countP_le_length.trans (by rw [List.length_range])) Nat.lt_two_pow_self
  rw [iPopc, popcE, BitVec.toNat_ofNat, Nat.mod_eq_of_lt hle, List.countP_eq_length_filter]
  rfl

theorem agrees_clz : Agrees f iClz clzE := fun a _ _ => by
  have hlen : ((List.range f.w).takeWhile (fun k => ! a.getMsbD k)).length = f.w - bitlen a.toNat := leading_zeros a
  rw [iClz, clzE, hlen, BitVec.toNat_ofNat, Nat.mod_eq_of_lt (Nat.lt_of_le_of_lt (Nat.sub_le ..) Nat.lt_two_pow_self)]
  rfl

theorem agrees_ffs : Agrees f iFfs ffsE := fun a _ _ => by
  have hlen := find_range (fun k => a.getLsbD k) 0 f.w
  rw [Nat.zero_add, Nat.zero_add, ← List.range_eq_range'] at hlen
  rw [ffsE, BitVec.toNat_ofNat, ← hlen, Nat.mod_eq_of_lt]
  · rfl
  · rw [hlen]
    exact Nat.lt_of_le_of_lt ((List.takeWhile_sublist _).length_le.trans (by rw [List.length_range])) Nat.lt_two_pow_self

theorem agrees_not : Agrees f iNot notE := fun a _ _ => by
  rw [iNot, ones, notE, BitVec.toNat_not]
  rfl

theorem agrees_mad : Agrees f iMad madE := fun a b c => by
  rw [iMad, madE, BitVec.toNat_add, BitVec.toNat_mul, Nat.mod_add_mod]
  rfl

theorem agrees_sel : Agrees f iSel selE := fun a b c => by
  rw [iSel, selE, apply_ite BitVec.toNat]
  exact if_congr (by rw [← BitVec.toNat_inj]; rfl) rfl rfl

/-- The condition codes of R97 by the values compared. -/
theorem holdsCc_eq {w : Nat} (sg : Bool) (a b : BitVec w) {cc : Nat} (hcc : cc ≤ 5) :
    condHolds cc false (cmpInt (valueOfE sg a) (valueOfE sg b)) = holdsCc cc sg a b := by
  have heq : (a == b) = decide (valueOfE sg a = valueOfE sg b) := by
    rw [Bool.eq_iff_iff, beq_iff_eq, decide_eq_true_iff, valueOfE_inj]
  unfold holdsCc
  rw [below_iff, below_iff, bne, heq]
  generalize valueOfE sg a = x, valueOfE sg b = y
  rcases lt_trichotomy x y with h | h | h
  · rw [cmpInt, if_pos h]
    interval_cases cc <;> simp [condHolds, h, h.ne, h.le]
  · rw [cmpInt, if_neg h.not_lt, if_neg h.not_gt]
    interval_cases cc <;> simp [condHolds, h]
  · rw [cmpInt, if_neg h.le.not_gt, if_pos h]
    interval_cases cc <;> simp [condHolds, h, h.ne', h.le]

theorem agrees_cmp (hcc : f.cc ≤ 5) : Agrees f (iCmp f.cc) cmpE := fun a b _ => by
  rw [iCmp, iCond, intOf_toNat, intOf_toNat, holdsCc_eq _ _ _ hcc, cmpE, apply_ite BitVec.toNat, BitVec.toNat_allOnes]
  rfl

end

end Sys2Proof.Proofs.Integers

/-! PROOF. Register writes and operands (R35, R36, R41, R42, R90, R128, R129, R359, R360). -/
namespace Sys2Proof.Proofs.Registers
open Sys2Proof Sys2Proof.Machine Sys2Proof.Proofs.System Sys2Proof.Proofs.Words Sys2Proof.Proofs.Integers

/-! ### Writes of a group's registers (R41, R128) -/

section
variable (g : Group) (sl : Bool)

/-- A scalar register below the masks. -/
theorem writeS_reg {r : Nat} (h : r < 62) (v bits : Word) : g.writeS sl r v bits = { g with sregs := vmod g.sregs r (fun o => mixed o v bits) } :=
  if_pos h

/-- The issuing slot's mask. -/
theorem writeS_own (v bits : Word) : g.writeS sl 63 v bits = g.modSlot sl (fun x =>
    if x.live then { x with exec := (x.exec &&& ~~~(bits.setWidth 32)) ||| (v.setWidth 32 &&& bits.setWidth 32) } else x) := rfl

/-- The other slot's mask. -/
theorem writeS_other (v bits : Word) : g.writeS sl 62 v bits = g.modSlot (! sl) (fun x =>
    if x.live then { x with exec := (x.exec &&& ~~~(bits.setWidth 32)) ||| (v.setWidth 32 &&& bits.setWidth 32) } else x) := rfl

/-- A slot's change by what it does to that slot. -/
theorem modSlot_congr {b : Bool} {f h : Slot → Slot} (e : f (g.slot b) = h (g.slot b)) : g.modSlot b f = g.modSlot b h := by
  cases b
  · exact congrArg (fun x => { g with slot0 := x }) e
  · exact congrArg (fun x => { g with slot1 := x }) e

theorem modSlot_id (b : Bool) : g.modSlot b (fun x => x) = g := by cases b <;> rfl

/-- A mask written in some bits, as a whole word. -/
theorem exec_mixed (e : BitVec 32) (v bits : Word) :
    (e &&& ~~~(bits.setWidth 32)) ||| (v.setWidth 32 &&& bits.setWidth 32)
      = (e &&& ~~~(allBits.setWidth 32)) ||| ((mixed (e.setWidth 64) v bits).setWidth 32 &&& allBits.setWidth 32) := by
  refine BitVec.eq_of_getLsbD_eq fun i hi => ?_
  have hi64 : i < 64 := by omega
  have hall : allBits.getLsbD i = true := getLsbD_allBits hi64
  simp only [BitVec.getLsbD_or, BitVec.getLsbD_and, BitVec.getLsbD_not, BitVec.getLsbD_setWidth, hi, decide_true, Bool.true_and, hall, getLsbD_mixed _ _ _ hi64,
    hi64]
  cases bits.getLsbD i <;> simp

/-- A write in some bits is a write of the whole word that they leave. -/
theorem writeS_mixed {s : State} (hc : s.cur = sl) {r : Nat} (h : r < 64) (v bits : Word) :
    g.writeS sl r v bits = g.writeS sl r (mixed (readS { s with grp := g } r) v bits) allBits := by
  by_cases hr : r < 62
  · rw [writeS_reg g sl hr, writeS_reg g sl hr]
    have hread : readS { s with grp := g } r = vget g.sregs r 0 := by
      rw [readS, if_neg (by omega), if_neg (by omega)]
    have hsame : vmod g.sregs r (fun o => mixed o v bits) = vmod g.sregs r (fun o => mixed o (mixed (vget g.sregs r 0) v bits) allBits) :=
      vmod_congr g.sregs 0 fun _ => (mixed_allBits ..).symm
    rw [hread, hsame]
  · have hm : r = 62 ∨ r = 63 := by omega
    rcases hm with rfl | rfl
    · rw [writeS_other, writeS_other]
      refine modSlot_congr g ?_
      have hread : readS { s with grp := g } 62 = (execOf (g.slot (! sl))).setWidth 64 := by rw [← hc]; rfl
      by_cases hl : (g.slot (! sl)).live = true
      · rw [if_pos hl, if_pos hl, hread, execOf, if_pos hl, ← exec_mixed]
      · rw [if_neg hl, if_neg hl]
    · rw [writeS_own, writeS_own]
      refine modSlot_congr g ?_
      have hread : readS { s with grp := g } 63 = (g.slot sl).exec.setWidth 64 := by rw [← hc]; rfl
      by_cases hl : (g.slot sl).live = true
      · rw [if_pos hl, if_pos hl, hread, ← exec_mixed]
      · rw [if_neg hl, if_neg hl]

/-- A whole mask written. -/
theorem exec_allBits (e : BitVec 32) (v : Word) : (e &&& ~~~(allBits.setWidth 32)) ||| (v.setWidth 32 &&& allBits.setWidth 32) = v.setWidth 32 := by
  refine BitVec.eq_of_getLsbD_eq fun i hi => ?_
  have hall : allBits.getLsbD i = true := getLsbD_allBits (by omega)
  simp [hi, hall]

end

/-! ### Queues (R42, R359, R360) -/

/-- What one pop leaves of a queue with an entry. -/
theorem popOne_eq {g : Group} {k : Nat} {q : Queue} {e : QEntry} {t : List QEntry} (hq : vget g.queues k none = some q) (he : q.entries = e :: t) :
    popOne g k =
      let h := { g with vregs := vset g.vregs (60 + k) (lanesOf (fun l => (e.words.getD l ⟨0, 0⟩).data)) }
      if q.popped + 1 = q.total then h.unbind k { q with entries := t, popped := q.popped + 1 }
      else { h with queues := vset g.queues k (some { q with entries := t, popped := q.popped + 1 }) } := by
  unfold popOne
  rw [hq]
  dsimp only
  rw [he]

theorem popOne_vregs {g : Group} {k : Nat} {q : Queue} {e : QEntry} {t : List QEntry} (hq : vget g.queues k none = some q) (he : q.entries = e :: t) :
    (popOne g k).vregs = vset g.vregs (60 + k) (lanesOf (fun l => (e.words.getD l ⟨0, 0⟩).data)) := by
  rw [popOne_eq hq he]
  dsimp only
  split <;> rfl

theorem readQ_bound {s : State} {k : Nat} {q : Queue} {e : QEntry} {t : List QEntry} (hq : vget s.grp.queues k none = some q) (he : q.entries = e :: t) :
    readQ s (60 + k) = lanesOf (fun l => (e.words.getD l ⟨0, 0⟩).data) := by
  have hh : qHead s.grp k = some e := by simp [qHead, hq, he]
  have hb : qBound s.grp k = true := by simp [qBound, hq]
  rw [readQ, if_pos (by omega), Nat.add_sub_cancel_left, hh]
  exact if_pos hb

/-- A register that no bound queue backs reads as itself. -/
theorem readQ_plain {s : State} {r : Nat} (h : 60 ≤ r → qBound s.grp (r - 60) = false) : readQ s r = readV s r := by
  unfold readQ
  split
  case isTrue hr =>
    split
    · rw [h hr]
      rfl
    · rfl
  case isFalse => rfl

/-! ### Immediates (R36) -/

/-- A 32-bit immediate extended to a word, cut to the element. -/
theorem sext64_cut (x : BitVec 32) (w : Nat) : (sext64 32 x.toNat).toNat % 2 ^ w = ((x.signExtend 64).setWidth w).toNat := by
  rw [sext64, toSigned_eq _ (by decide), BitVec.ofNat_toNat, BitVec.setWidth_eq, BitVec.toNat_setWidth]
  rfl

theorem immElem_small {f : Comp} (ht : tyFloat f.ty.toNat = false) (h : imm64 f = false) {x : BitVec 32} (hx : immBitsOf f = x.toNat) :
    immElem f = ((x.signExtend 64).setWidth f.w).toNat := by
  rw [← sext64_cut, ← hx]
  simp [immElem, ht, h]

/-- Settles O16: selectors, immediates and queues, each by its definition. -/
theorem operandSources : Obligations.OperandSources := by
  unfold Obligations.OperandSources
  refine ⟨fun k x w pos q hk hq => ?_, fun x => rfl, fun f ht hl => ?_, fun f ht hl ho => ?_, fun f ht hl ho => ?_, fun s k q e t hk hq he => ?_,
    fun s r _ h => readQ_plain h⟩
  · rw [selWord, hk]
    show elem (ofElems w fun _ => elem x pos w) q w = _
    rw [elem_ofElems _ hq, Nat.mod_eq_of_lt (elem_lt ..)]
  · exact immElem_small ht (by simp [imm64, hl]) (by simp [immBitsOf, Comp.immRaw, hl])
  · exact immElem_small ht (by simp [imm64, hl, ho]) (by simp [immBitsOf, hl, ho])
  · have hbits : immBitsOf f = (f.w2 ++ f.w1).toNat := by
      simp only [immBitsOf, hl, ho, Comp.immRaw, BitVec.toNat_append]
      rw [← Nat.shiftLeft_add_eq_or_of_lt f.w1.isLt, Nat.shiftLeft_eq]
      simp
      ring
    rw [BitVec.toNat_setWidth, ← hbits]
    simp [immElem, ht, imm64, hl, ho]
  · refine ⟨fun l hl => ?_, fun l hl => ?_, ?_, fun ht => ?_⟩
    · rw [readQ_bound hq he, lane_lanesOf _ hl]
    · rw [popOne_vregs hq he, vget_vset_self _ _ (by omega), lane_lanesOf _ hl]
    · rw [popOne_eq hq he]
      dsimp only
      split
      · exact vget_vset_self _ _ hk _
      · exact vget_vset_self _ _ hk _
    · rw [popOne_eq hq he]
      dsimp only
      rw [if_pos ht]
      exact vget_vset_self _ _ hk _

/-! ### Two slots in one cycle (R90, R123, R129) -/

/-- A ready instruction that ends no region passes every check of issue, whether its slot issues alone or not. -/
theorem prep_ready {x : Instr} {s : State} (h : ready x s = true) (hc : commits x = false) (hb : buffers x = false) (hw : waitsFor x = 0)
    (hv : vecSrcs x = []) : prep x s = .ok s := by
  simp only [ready, Bool.and_eq_true, Bool.not_eq_true', Bool.or_eq_true, beq_iff_eq, List.isEmpty_iff] at h
  obtain ⟨⟨⟨⟨⟨_, hill⟩, hbuf⟩, hfull⟩, _⟩, _⟩ := h
  have he : endsBefore s x = false := by
    rw [Bool.eq_false_iff]
    intro he
    have hempty : s.grp.buf = [] := hbuf.resolve_left (by simp [he])
    simp [endsBefore, hc, hb, hw, hempty, storeCounts] at he
    obtain ⟨o, _, _, hf⟩ := he
    cases ho : o.flag <;> simp [ho] at hf
  have hent : entered x s = s := entered_same he
  rw [hent] at hfull
  unfold prep
  rw [if_neg (by simp [hill]), he]
  simp [hfull, hv, poppedBy]

/-- After an effect without pops and a region's end. -/
theorem finish_plain {x : Instr} (hc : commits x = false) (hv : vecSrcs x = []) (b s : State) : finish x b s = bump (countIssue s) := by
  unfold finish
  rw [popsOf_none hv, hc]
  rfl

/-- The flags of elements that raise none. -/
theorem elements_no_flags (w : Nat) (only : Option Nat) (f : Nat → Nat) : (elements w only (fun q => ⟨f q, 0⟩)).fl = 0 := by
  cases only with
  | some p => rfl
  | none =>
    show (List.range (64 / w)).foldl (fun a _ => a ||| 0) 0 = 0
    induction List.range (64 / w) with
    | nil => rfl
    | cons _ l ih => exact ih

/-- What an integer form leaves in the register that it writes. -/
theorem mixed_intElements {f : Comp} {fn : Nat → Nat → Nat → Nat → Nat} {e : ElemFn} (ha : Agrees f fn e) (old : Word) (z : Srcs) :
    let o := elements f.w (seldPos f) (fun p => ⟨fn f.ty.toNat (elem z.a p f.w) (elem z.b p f.w) (elem z.c p f.w), 0⟩)
    mixed old o.val o.bits = merged f old (elemOf e f z) := by
  refine eq_of_elem (w := f.w) (tyWidth_dvd f.ty.toNat) fun q hq => ?_
  have hcut (x : Word) : (BitVec.ofNat f.w (elem x q f.w)).toNat = elem x q f.w := by rw [BitVec.toNat_ofNat, Nat.mod_eq_of_lt (elem_lt ..)]
  have hfn : fn f.ty.toNat (elem z.a q f.w) (elem z.b q f.w) (elem z.c q f.w) = elemOf e f z q := by
    have h := ha (BitVec.ofNat f.w (elem z.a q f.w)) (BitVec.ofNat f.w (elem z.b q f.w)) (BitVec.ofNat f.w (elem z.c q f.w))
    rwa [hcut, hcut, hcut] at h
  have hlt : elemOf e f z q < 2 ^ f.w := BitVec.isLt _
  have hel := elem_mixed_elements old (seldPos f) (fun p => ⟨fn f.ty.toNat (elem z.a p f.w) (elem z.b p f.w) (elem z.c p f.w), 0⟩) hq
  refine hel.trans ?_
  rw [merged, elem_ofElems _ hq, hfn]
  cases seldPos f with
  | none => rfl
  | some p =>
    show (if (q == p) = true then elemOf e f z q % 2 ^ f.w else elem old q f.w) = (if q = p then elemOf e f z q else elem old q f.w) % 2 ^ f.w
    by_cases hp : q = p
    · rw [if_pos (beq_iff_eq.2 hp), if_pos hp]
    · rw [if_neg (by simpa using hp), if_neg hp, Nat.mod_eq_of_lt (elem_lt ..)]

/-- A scalar integer form issued beside another of its group: its result is put by for the end of the cycle. -/
theorem scalarInt_late {c : Comp → Instr} {fn : Comp → Nat → Nat → Nat → Nat → Nat} {e : ElemFn} {f : Comp} {i : CompInfo} {s : State} {l : List Late}
    (hx : exec (c f) s = computeFixed (c f) (intOut (fn f)) s) (hi : (c f).info = .comp i f) (hs : i.scalar = true) (ha : Agrees f (fn f) e)
    (hl : s.late = some l) (hr : ready (c f) s = true) :
    ∃ t ws, exec (c f) s = .next t ∧ t.late = some (l ++ [.result s.cur ws false 0]) ∧ t.grp = s.grp.passes s.cur f.len
      ∧ ∀ g : Group, g.applyAll s.cur ws
          = g.writeS s.cur f.d.toNat (merged f (readS { s with grp := g } f.d.toNat) (elemOf e f (scalSrcs s i f (immElem f) f.w))) allBits := by
  have hv : vecSrcs (c f) = [] := by simp [vecSrcs, hi, compSrcs, hs]
  have hc : commits (c f) = false := by simp [commits, hi]
  have hp : prep (c f) s = .ok s := prep_ready hr hc (by simp [buffers, hi]) (by simp [waitsFor, hi]) hv
  have hlive : (slot s).live = true := by
    simp only [ready, Bool.and_eq_true] at hr
    exact hr.1.1.1.1.1
  have hout : intOut (fn f) i f s = scalOut f (elements f.w (seldPos f) (fun p =>
      ⟨fn f f.ty.toNat (elem (scalSrcs s i f (immElem f) f.w).a p f.w) (elem (scalSrcs s i f (immElem f) f.w).b p f.w)
        (elem (scalSrcs s i f (immElem f) f.w).c p f.w), 0⟩)) := by
    simp only [intOut, elemOut, perLane, hs, Bool.true_or, if_true]
  have hfl : (intOut (fn f) i f s).fl = 0 := by rw [hout, scalOut, elements_no_flags]
  have hlate : fixedEff f false (intOut (fn f) i f s) s
      = advance (4 * f.len.words) { s with late := some (l ++ [.result s.cur (intOut (fn f) i f s).writes false 0]) } := by
    rw [fixedEff, hfl, defer, hl]
    rfl
  refine ⟨bump (countIssue (fixedEff f false (intOut (fn f) i f s) s)), (intOut (fn f) i f s).writes, ?_, ?_, ?_, fun g => ?_⟩
  · rw [hx, computeFixed, hi, ← finish_plain hc hv s]
    simp [issue, hlive, hp, noStop]
  · rw [hlate]
    simp
  · rw [hlate]
    exact advance_grp ..
  · rw [hout]
    show g.writeS s.cur f.d.toNat _ _ = _
    rw [writeS_mixed g s.cur rfl f.d.isLt, mixed_intElements ha]

/-- A comparison's condition is one of R97's six. -/
theorem scmp_cc {f : Comp} (h : (Instr.scmp f).wf = true) : f.cc ≤ 5 := by
  have hopf : opfCc 5 f = true := Laws.Parses.check_of_wf h (c := (.opcodeField, opfCc 5 f)) (by simp [Instr.info, Info.checks, CompInfo.checks])
  exact (Nat.mod_le ..).trans (of_decide_eq_true hopf)

/-- What a form beside another of its group comes to. -/
def RunsLate (c : Comp → Instr) (e : ElemFn) : Prop :=
  ∀ (f : Comp) (i : CompInfo) (s : State) (l : List Late), (c f).info = .comp i f → s.late = some l → ready (c f) s = true →
    ∃ t ws, exec (c f) s = .next t ∧ t.late = some (l ++ [.result s.cur ws false 0]) ∧ t.grp = s.grp.passes s.cur f.len
      ∧ ∀ g : Group, g.applyAll s.cur ws
          = g.writeS s.cur f.d.toNat (merged f (readS { s with grp := g } f.d.toNat) (elemOf e f (scalSrcs s i f (immElem f) f.w))) allBits

/-- A form that computes by a function of the model which agrees with an operation on bit vectors. -/
theorem runsLate {c : Comp → Instr} {fn : Comp → Nat → Nat → Nat → Nat → Nat} {e : ElemFn}
    (hx : ∀ f s, exec (c f) s = computeFixed (c f) (intOut (fn f)) s) (hs : ∀ f i, (c f).info = .comp i f → i.scalar = true)
    (ha : ∀ f, (c f).wf = true → Agrees f (fn f) e) : RunsLate c e := by
  intro f i s l hi hl hr
  have hwf : (c f).wf = true := by
    simp only [ready, illHere, Bool.and_eq_true, Bool.not_eq_true', Bool.or_eq_false_iff] at hr
    obtain ⟨⟨⟨⟨⟨_, ⟨⟨⟨⟨⟨⟨hwf, _⟩, _⟩, _⟩, _⟩, _⟩, _⟩⟩, _⟩, _⟩, _⟩, _⟩ := hr
    simpa using hwf
  exact scalarInt_late (hx f s) hi (hs f i hi) (ha f hwf) hl hr

/-- Every scalar integer form, one by one. -/
theorem scalarInts_late : ∀ p ∈ scalarInts, RunsLate p.1 p.2 := by
  have hs {c : Comp → Instr} {k : Comp → CompInfo} (hk : ∀ f, (c f).info = .comp (k f) f) (h : ∀ f, (k f).scalar = true) (f : Comp) (i : CompInfo)
      (hi : (c f).info = .comp i f) : i.scalar = true := by
    rw [hk f] at hi
    cases hi
    exact h f
  unfold scalarInts
  simp only [List.forall_mem_cons, List.not_mem_nil, false_imp_iff, implies_true, and_true]
  refine ⟨runsLate (fun _ _ => rfl) (hs (fun _ => rfl) fun _ => rfl) (fun f _ => agrees_add f),
    runsLate (fun _ _ => rfl) (hs (fun _ => rfl) fun _ => rfl) (fun f _ => agrees_sub f),
    runsLate (fun _ _ => rfl) (hs (fun _ => rfl) fun _ => rfl) (fun f _ => agrees_and f),
    runsLate (fun _ _ => rfl) (hs (fun _ => rfl) fun _ => rfl) (fun f _ => agrees_or f),
    runsLate (fun _ _ => rfl) (hs (fun _ => rfl) fun _ => rfl) (fun f _ => agrees_xor f),
    runsLate (fun _ _ => rfl) (hs (fun _ => rfl) fun _ => rfl) (fun f _ => agrees_shl f),
    runsLate (fun _ _ => rfl) (hs (fun _ => rfl) fun _ => rfl) (fun f _ => agrees_shr f),
    runsLate (fun _ _ => rfl) (hs (fun _ => rfl) fun _ => rfl) (fun f _ => agrees_sar f),
    runsLate (fun _ _ => rfl) (hs (fun _ => rfl) fun _ => rfl) (fun f _ => agrees_min f),
    runsLate (fun _ _ => rfl) (hs (fun _ => rfl) fun _ => rfl) (fun f _ => agrees_max f),
    runsLate (fun _ _ => rfl) (hs (fun _ => rfl) fun _ => rfl) (fun f _ => agrees_mul f),
    runsLate (fun _ _ => rfl) (hs (fun _ => rfl) fun _ => rfl) (fun f _ => agrees_mulh f),
    runsLate (fun _ _ => rfl) (hs (fun _ => rfl) fun _ => rfl) (fun f _ => agrees_popc f),
    runsLate (fun _ _ => rfl) (hs (fun _ => rfl) fun _ => rfl) (fun f _ => agrees_clz f),
    runsLate (fun _ _ => rfl) (hs (fun _ => rfl) fun _ => rfl) (fun f _ => agrees_ffs f),
    runsLate (fun _ _ => rfl) (hs (fun _ => rfl) fun _ => rfl) (fun f _ => agrees_not f),
    runsLate (fun _ _ => rfl) (hs (fun _ => rfl) fun _ => rfl) (fun f _ => agrees_mad f),
    runsLate (fun _ _ => rfl) (hs (fun _ => rfl) fun _ => rfl) (fun f _ => agrees_sel f),
    runsLate (fun _ _ => rfl) (hs (fun _ => rfl) fun _ => rfl) (fun f h => agrees_cmp f (scmp_cc h))⟩

/-- Settles O15: writes of registers by their definition, the two slots of a cycle by the shape of an integer form. -/
theorem registerWrites : Obligations.RegisterWrites := by
  unfold Obligations.RegisterWrites
  refine ⟨fun g sl r v hr => ⟨?_, fun k hk => ?_, ?_⟩, fun g sl v hl => ?_, fun g sl v hl => ?_, fun g sl v hl => ?_,
    fun g r m v hr => ⟨fun l hl => ?_, fun k hk => ?_, rfl⟩, ?_, fun s x y lx ly => ⟨fun h => ?_, fun h => ?_⟩, fun g a b x y sl n v => ⟨rfl, rfl, rfl⟩⟩
  · rw [writeS_reg g sl hr]
    exact (vget_vmod_self _ _ (by omega) _).trans (mixed_allBits ..)
  · rw [writeS_reg g sl hr]
    exact vget_vmod_ne _ _ hk _
  · rw [writeS_reg g sl hr]
  · rw [writeS_own]
    exact modSlot_congr g (by rw [if_pos hl, exec_allBits])
  · rw [writeS_other]
    exact modSlot_congr g (by rw [if_pos hl, exec_allBits])
  · rw [writeS_other]
    exact (modSlot_congr g (by rw [if_neg (by simp [hl])])).trans (modSlot_id g _)
  · refine (congrArg (lane · l) (vget_vmod_self g.vregs _ hr _)).trans ?_
    rw [lane_blend _ _ _ hl]
    exact if_congr Iff.rfl (mixed_allBits ..) rfl
  · exact vget_vmod_ne _ _ hk _
  · exact fun p hp f i s l => scalarInts_late p hp f i s l
  · exact if_neg (Nat.not_lt.2 h)
  · exact if_pos h

end Sys2Proof.Proofs.Registers

/-! PROOF. Computational forms (R24 to R28, R73, R128): what one leaves at issue, of fixed and of variable latency. -/
namespace Sys2Proof.Proofs.Forms
open Sys2Proof Sys2Proof.Machine Sys2Proof.Proofs.System

/-! ### What register writes leave of a group -/

theorem apply_frame (g : Group) (sl : Bool) (w : RegWrite) : (g.apply sl w).gid = g.gid ∧ (g.apply sl w).queues = g.queues := by
  cases w with
  | vec d m v bits => exact ⟨rfl, rfl⟩
  | scal d v bits =>
    refine ⟨Group.writeS_gid .., ?_⟩
    show (g.writeS sl d v bits).queues = g.queues
    unfold Group.writeS
    split
    · rfl
    · exact Group.modSlot_queues ..
  | amax k op mag nan => exact ⟨rfl, rfl⟩

theorem applyAll_frame (g : Group) (sl : Bool) (ws : List RegWrite) : (g.applyAll sl ws).gid = g.gid ∧ (g.applyAll sl ws).queues = g.queues := by
  induction ws generalizing g with
  | nil => exact ⟨rfl, rfl⟩
  | cons w ws ih =>
    obtain ⟨h1, h2⟩ := apply_frame g sl w
    obtain ⟨h3, h4⟩ := ih (g.apply sl w)
    exact ⟨h3.trans h1, h4.trans h2⟩

/-! ### Issue (R24, R25, R27, R28) -/

section
variable {x : Instr} {i : CompInfo} {f : Comp} {s : State} (hi : x.info = .comp i f) (h : clear x s = true)
include hi h

/-- A computational instruction begins no region. -/
theorem entered_comp : entered x s = s := entered_eq h (by simp [commits, hi]) (by simp [buffers, hi]) (by simp [waitsFor, hi])

/-- One whose effect is the group's alone. -/
theorem yields_comp {eff : State → State} (hx : exec x s = issue x noStop eff s) (hf : OutsideSame s (eff s)) (hq : (eff s).grp.queues = s.grp.queues)
    (hg : (eff s).grp.gid = s.grp.gid) : Yields x s (popAll (vecSrcs x) (eff s).grp) := by
  have he := entered_comp hi h
  have hd := done_grp h (eff s) (hf.late.trans (clear_late h)) hq hg
  have hc : commits x = false := by simp [commits, hi]
  refine yields_of h hx rfl ?_ (by rwa [he])
  rw [he] at hd ⊢
  rw [hd, Group.closes, hc]
  rfl

/-- A form of fixed latency writes its result at once. -/
theorem yields_fixed {out : CompInfo → Comp → State → Out} (hx : exec x s = computeFixed x out s) : Yields x s (fixedAfter x f (out i f s) s) := by
  have hx' : exec x s = issue x noStop (fun s => fixedEff f false (out i f s) s) s := by rw [hx, computeFixed, hi]
  have hnow : fixedEff f false (out i f s) s
      = advance (4 * f.len.words) (modGrp (fun g => (g.applyAll s.cur (out i f s).writes).orFp (out i f s).fl) s) := by
    rw [fixedEff, defer_now (clear_late h)]
    rfl
  have hgrp : (fixedEff f false (out i f s) s).grp = ((s.grp.applyAll s.cur (out i f s).writes).orFp (out i f s).fl).passes s.cur f.len := by
    rw [hnow]
    exact advance_grp ..
  obtain ⟨hg, hq⟩ := applyAll_frame s.grp s.cur (out i f s).writes
  have hy := yields_comp hi h hx' (by rw [hnow]; exact (outsideSame_modGrp _ s).trans (outsideSame_advance ..))
    (by rw [hgrp]; exact (Group.modSlot_queues ..).trans hq) (by rw [hgrp]; exact (Group.modSlot_gid ..).trans hg)
  rwa [hgrp] at hy

/-- A form of variable latency leaves an operation that holds its result. -/
theorem yields_variable {q : Bool} {out : CompInfo → Comp → State → Out} (hx : exec x s = computeVar x q out s) :
    Yields x s (variableAfter x f q (out i f s) s) := by
  have hx' : exec x s = issue x noStop (fun s => variableEff f q (out i f s) s) s := by rw [hx, computeVar, hi]
  have hgrp : (variableEff f q (out i f s) s).grp = (s.grp.starts s f.cf.toNat
      { Op.new .done with writes := (out i f s).writes, fp := if q then 0 else (out i f s).fl, qp := if q then (out i f s).fl else 0 }).passes s.cur f.len :=
    advance_grp ..
  have hframe (g : Group) (k : Option Nat) : (countOn s.cur k g).gid = g.gid ∧ (countOn s.cur k g).queues = g.queues := by
    cases k with
    | none => exact ⟨rfl, rfl⟩
    | some k => exact ⟨Group.modSlot_gid .., Group.modSlot_queues ..⟩
  have hy := yields_comp hi h hx' ((outsideSame_addOp ..).trans (outsideSame_advance ..))
    (by rw [hgrp]; exact (Group.modSlot_queues ..).trans (hframe ..).2) (by rw [hgrp]; exact (Group.modSlot_gid ..).trans (hframe ..).1)
  rwa [hgrp] at hy

/-- MAJ 0x18 outside rational mode (R64). -/
theorem yields_scalarFloat {flt rat : CompInfo → Comp → State → Out} (hx : exec x s = scalarFloat x flt rat s) (hr : ratScalar s.grp i f = false) :
    Yields x s (fixedAfter x f (flt i f s) s) := by
  refine yields_fixed hi h (hx.trans ?_)
  rw [scalarFloat, hi]
  simp only [hr, Bool.false_eq_true, if_false]

/-- MAJ 0x18 in rational mode (R64, R104). -/
theorem yields_scalarRational {flt rat : CompInfo → Comp → State → Out} (hx : exec x s = scalarFloat x flt rat s) (hr : ratScalar s.grp i f = true) :
    Yields x s (variableAfter x f true (rat i f s) s) := by
  refine yields_variable hi h (hx.trans ?_)
  rw [scalarFloat, hi]
  simp only [hr, if_true]

end

/-- Settles O9: each form is the shared issue of its latency, with its own results. -/
theorem variableLatencyForms : Obligations.VariableLatencyForms := by
  unfold Obligations.VariableLatencyForms
  refine ⟨fun f i s hi h => yields_variable hi h rfl, ?_, ?_⟩
  · unfold vectorRationals
    simp only [List.forall_mem_cons, List.not_mem_nil, false_imp_iff, implies_true, and_true]
    refine ⟨?_, ?_, ?_, ?_, ?_, ?_, ?_, ?_⟩ <;> exact fun f i s hi h => yields_variable hi h rfl
  · unfold scalarRationals
    simp only [List.forall_mem_cons, List.not_mem_nil, false_imp_iff, implies_true, and_true]
    refine ⟨?_, ?_, ?_, ?_, ?_, ?_, ?_, ?_, ?_⟩ <;> exact fun f i s hi h hr => yields_scalarRational hi h rfl hr

end Sys2Proof.Proofs.Forms

/-! PROOF. What forms that compute lane by lane and element by element write, and the flags that they raise (R35, R73, R128). -/
namespace Sys2Proof.Proofs.Results
open Sys2Proof Sys2Proof.Machine Sys2Proof.Proofs.Fields Sys2Proof.Proofs.Words Sys2Proof.Proofs.Registers Sys2Proof.Proofs.Forms

/-! ### Flags put together (R73) -/

/-- Flags collected over a list, step by step. -/
theorem testBit_foldl {α : Type} {step : Nat → α → Nat} {k : Nat} {P : α → Prop}
    (h : ∀ a x, (step a x).testBit k = true ↔ a.testBit k = true ∨ P x) (l : List α) (a : Nat) :
    (l.foldl step a).testBit k = true ↔ a.testBit k = true ∨ ∃ x ∈ l, P x := by
  induction l generalizing a with
  | nil => simp
  | cons x l ih =>
    rw [List.foldl_cons, ih, h, or_assoc]
    simp

/-- The flags ORed over a list. -/
theorem testBit_foldl_or {α : Type} (fl : α → Nat) (l : List α) (a k : Nat) :
    (l.foldl (fun a x => a ||| fl x) a).testBit k = true ↔ a.testBit k = true ∨ ∃ x ∈ l, (fl x).testBit k = true :=
  testBit_foldl (fun a x => by rw [Nat.testBit_or, Bool.or_eq_true]) l a

theorem mem_lanesIn {m : Mask} {l : Nat} : l ∈ lanesIn m ↔ l < 32 ∧ m.getLsbD l = true := by
  rw [lanesIn, List.mem_filter, List.mem_range]

/-! ### A form that computes each lane from its own sources -/

/-- A lane's function writes the elements of width w that v gives, the other elements as they were, and raises their flags; which bits it writes is the same
in every lane. -/
structure Computes (w : Nat) (g : Srcs → LaneOut) (v : Srcs → Nat → Option FRes) : Prop where
  bits : ∀ y z, (g y).bits = (g z).bits
  written : ∀ z old q y, q < 64 / w → v z q = some y → elem (mixed old (g z).val (g z).bits) q w = y.bits % 2 ^ w
  kept : ∀ z old q, q < 64 / w → v z q = none → elem (mixed old (g z).val (g z).bits) q w = elem old q w
  flags : ∀ z, ∀ k < 6, (g z).fl.testBit k = true ↔ ∃ q < 64 / w, ∃ y, v z q = some y ∧ y.fl.testBit k = true

/-- The elements that a form computes, of which SELD leaves one (R35). -/
def selected (f : Comp) (v : Srcs → Nat → Option FRes) (z : Srcs) (q : Nat) : Option FRes := if writesAt f q then v z q else none

/-- Elements that each lane computes, and of which SELD names one that is there, or one that raises nothing. -/
theorem computes_elements {f : Comp} {w : Nat} {fn : Srcs → Nat → FRes} (hp : ∀ p, seldPos f = some p → p < 64 / w ∨ ∀ z, (fn z p).fl = 0) :
    Computes w (fun z => elements w (seldPos f) (fn z)) (selected f (fun z q => some (fn z q))) where
  bits y z := by rw [elements_bits, elements_bits]
  written z old q y hq hv := by
    have h : _ = if writesAt f q = true then _ else _ := elem_mixed_elements old (seldPos f) (fn z) hq
    unfold selected at hv
    split at hv
    case isTrue hw =>
      cases hv
      exact h.trans (if_pos hw)
    case isFalse => cases hv
  kept z old q hq hv := by
    have h : _ = if writesAt f q = true then _ else _ := elem_mixed_elements old (seldPos f) (fn z) hq
    unfold selected at hv
    split at hv
    case isTrue => cases hv
    case isFalse hw => exact h.trans (if_neg hw)
  flags z k hk := by
    unfold selected writesAt
    cases hs : seldPos f with
    | none =>
      show ((List.range (64 / w)).foldl (fun a q => a ||| (fn z q).fl) 0).testBit k = true ↔ _
      rw [testBit_foldl_or]
      simp
    | some p =>
      show (fn z p).fl.testBit k = true ↔ _
      rcases hp p hs with hlt | h0
      · constructor
        · exact fun hf => ⟨p, hlt, fn z p, by simp, hf⟩
        · rintro ⟨q, hq, y, hv, hf⟩
          by_cases hqp : q = p
          · subst hqp
            simp only [beq_self_eq_true, if_true, Option.some.injEq] at hv
            rwa [hv]
          · simp [hqp] at hv
      · constructor
        · intro hf
          rw [h0] at hf
          simp at hf
        · rintro ⟨q, hq, y, hv, hf⟩
          by_cases hqp : q = p
          · subst hqp
            simp only [beq_self_eq_true, if_true, Option.some.injEq] at hv
            rwa [hv]
          · simp [hqp] at hv

/-- Elements that are the same modulo 2^w, with the same flags. -/
theorem Computes.congr {f : Comp} {w : Nat} {g : Srcs → LaneOut} {fn fn' : Srcs → Nat → FRes} (hc : Computes w g (selected f (fun z q => some (fn z q))))
    (hb : ∀ z, ∀ q < 64 / w, (fn z q).bits % 2 ^ w = (fn' z q).bits % 2 ^ w) (hf : ∀ z, ∀ q < 64 / w, (fn z q).fl = (fn' z q).fl) :
    Computes w g (selected f (fun z q => some (fn' z q))) where
  bits := hc.bits
  written z old q y hq hv := by
    unfold selected at hv
    split at hv
    case isTrue hw =>
      cases hv
      rw [← hb z q hq]
      exact hc.written z old q (fn z q) hq (if_pos hw)
    case isFalse => cases hv
  kept z old q hq hv := by
    unfold selected at hv
    split at hv
    case isTrue => cases hv
    case isFalse hw => exact hc.kept z old q hq (if_neg hw)
  flags z k hk := by
    rw [hc.flags z k hk]
    refine exists_congr fun q => and_congr_right fun hq => ?_
    unfold selected
    split
    · simp [hf z q hq]
    · simp

/-! ### What such a form leaves (R73, R128) -/

/-- A vector form's write, lane by lane. -/
theorem apply_vecOut {g : Group} {sl : Bool} {d : Nat} {m : Mask} {fn : Nat → LaneOut} (hb : ∀ y z, (fn y).bits = (fn z).bits) :
    g.applyAll sl [.vec d m (((List.range 32).map fn).map LaneOut.val) (match lanesIn m with | [] => 0 | l :: _ => (fn l).bits)]
      = g.writeV d m (fun l => mixed (lane (vget g.vregs d (Vector.replicate 32 0)) l) (fn l).val (fn l).bits) allBits := by
  refine congrArg (fun v => { g with vregs := v }) (vmod_congr g.vregs (Vector.replicate 32 0) fun _ => ?_)
  refine lanesOf_congr fun l hl => ?_
  by_cases hm : m.getLsbD l = true
  · have hne : lanesIn m ≠ [] := List.ne_nil_of_mem (mem_lanesIn.2 ⟨hl, hm⟩)
    have hbits : (match lanesIn m with | [] => 0 | l :: _ => (fn l).bits) = (fn l).bits := by
      cases hc : lanesIn m with
      | nil => exact absurd hc hne
      | cons k t => exact hb k l
    have hval : (((List.range 32).map fn).map LaneOut.val).getD l 0 = (fn l).val := by simp [hl]
    rw [if_pos hm, if_pos hm]
    dsimp only
    rw [hval, hbits]
    exact (mixed_allBits ..).symm
  · rw [if_neg hm, if_neg hm]

section
variable {x : Instr} {i : CompInfo} {f : Comp} {s : State} {o : Out} {immE wi w : Nat} {g : Srcs → LaneOut} {v : Srcs → Nat → Option FRes}
  {extra : List RegWrite} {e : Group → Group}

/-- The lanes that compute are those that MK selects, where no popped word meets a mismatch. -/
theorem compMask_eq (hi : x.info = .comp i f) (h : clear x s = true) : compMask s i f = active s f.msk.toNat := by
  have hb : popBad s.grp (compSrcs i f) = 0 := by
    have := (clear_parts h).2.2.2.2.2.2
    rwa [entered_comp hi h, show vecSrcs x = compSrcs i f by simp [vecSrcs, hi]] at this
  rw [compMask, hb]
  exact BitVec.and_allOnes

/-- A form whose lanes, or whose group, compute elements, and which changes the group besides. -/
theorem gives_of_computes (hi : x.info = .comp i f) (h : clear x s = true) (hy : Yields x s (fixedAfter x f o s))
    (hw : o.writes = (perLane s i f immE wi g).writes ++ extra) (hfl : o.fl = (perLane s i f immE wi g).fl)
    (he : ∀ k : Group, k.applyAll s.cur extra = e k) (hc : Computes w g (selected f v)) : Gives x i f s immE wi w v e := by
  have happ : s.grp.applyAll s.cur o.writes = e (s.grp.applyAll s.cur (perLane s i f immE wi g).writes) := by
    rw [hw, Group.applyAll, List.foldl_append]
    exact he _
  rw [fixedAfter, happ, hfl] at hy
  unfold Gives
  split
  case isTrue hs =>
    rw [perLane, if_pos hs] at hy
    refine ⟨mixed (readS s f.d.toNat) (g (scalSrcs s i f immE wi)).val (g (scalSrcs s i f immE wi)).bits, (g (scalSrcs s i f immE wi)).fl,
      fun q hq => ?_, hc.flags _, ?_⟩
    · split
      case h_1 y hv => exact hc.written _ _ q y hq hv
      case h_2 hv => exact hc.kept _ _ q hq hv
    · have hsc : s.grp.applyAll s.cur (scalOut f (g (scalSrcs s i f immE wi))).writes = _ := writeS_mixed s.grp s.cur (s := s) rfl f.d.isLt _ _
      rw [hsc] at hy
      exact hy
  case isFalse hs =>
    rw [perLane, if_neg hs, compMask_eq hi h] at hy
    have hvec := apply_vecOut (g := s.grp) (sl := s.cur) (d := f.d.toNat) (m := active s f.msk.toNat)
      (fn := fun l => g (laneSrcs s i f immE wi l)) (fun _ _ => hc.bits _ _)
    refine ⟨fun l => mixed (lane (readV s f.d.toNat) l) (g (laneSrcs s i f immE wi l)).val (g (laneSrcs s i f immE wi l)).bits,
      (lanesIn (active s f.msk.toNat)).foldl (fun a l => a ||| (g (laneSrcs s i f immE wi l)).fl) 0, fun l _ _ q hq => ?_, fun k hk => ?_, ?_⟩
    · split
      case h_1 y hv => exact hc.written _ _ q y hq hv
      case h_2 hv => exact hc.kept _ _ q hq hv
    · rw [testBit_foldl_or]
      simp only [Nat.zero_testBit, Bool.false_eq_true, false_or, mem_lanesIn, hc.flags _ k hk, and_assoc]
      rfl
    · have hvec' : s.grp.applyAll s.cur (vecOut f (active s f.msk.toNat) fun l => g (laneSrcs s i f immE wi l)).writes = _ := hvec
      rw [hvec'] at hy
      exact hy

/-- The same of a form that changes nothing else. -/
theorem gives_plain (hi : x.info = .comp i f) (h : clear x s = true) (hy : Yields x s (fixedAfter x f (perLane s i f immE wi g) s))
    (hc : Computes w g (selected f v)) : Gives x i f s immE wi w v id :=
  gives_of_computes (extra := []) hi h hy (List.append_nil _).symm rfl (fun _ => rfl) hc

end

end Sys2Proof.Proofs.Results

/-! PROOF. Floating, converting, packing and dot-product forms, element by element (R100 to R103, R136 to R148). -/
namespace Sys2Proof.Proofs.Floats
open Sys2Proof Sys2Proof.Machine Sys2Proof.Proofs.Fields Sys2Proof.Proofs.Words Sys2Proof.Proofs.Integers Sys2Proof.Proofs.Registers Sys2Proof.Proofs.Forms Sys2Proof.Proofs.Results

/-- Every selector but those of bytes names an element that is there (R35). -/
theorem selOf_fits (c : BitVec 5) {w p : Nat} (h : selOf c.toNat = some (w, p)) : w = 8 ∨ p < 64 / w := by
  have hall : ∀ c : BitVec 5, ∀ r ∈ selOf c.toNat, r.1 = 8 ∨ r.2 < 64 / r.1 := by decide
  exact hall c (w, p) h

/-! ### What the checks say (R34, R35, R54) -/

section
variable {x : Instr} {i : CompInfo} {f : Comp} {s : State} (hi : x.info = .comp i f) (h : clear x s = true)
include hi h

theorem comp_check {c : Flaw × Bool} (hc : c ∈ i.checks f) : c.2 = true := by
  have hill := (clear_parts h).2.2.1
  simp only [illHere, Bool.or_eq_false_iff] at hill
  obtain ⟨⟨⟨⟨⟨⟨hwf, _⟩, _⟩, _⟩, _⟩, _⟩, _⟩ := hill
  exact Laws.Parses.check_of_wf (by simpa using hwf) (by rw [hi]; exact hc)

/-- The type is one that the row allows (R54). -/
theorem type_allowed : inSet i.tys f.ty = true := comp_check hi h (c := (.type, inSet i.tys f.ty)) (by simp [CompInfo.checks])

theorem opf_ok : i.opfOk f = true := comp_check hi h (c := (.opcodeField, i.opfOk f)) (by simp [CompInfo.checks])

/-- SELD names an element of the destination, where that is not made of bytes (R35). -/
theorem seld_fits {w p : Nat} (hw : i.wd f = w) (h8 : w ≠ 8) (hp : seldPos f = some p) : p < 64 / w := by
  have hsel := comp_check hi h (c := (.selector, ! f.ow || (selOk (if i.shape.regA then i.wa f else 0) f.sela && selOk (if i.shape.regB f then i.wb f else 0) f.selb
    && selOk (i.wd f) f.seld))) (List.mem_of_getElem? (i := 10) rfl)
  unfold seldPos at hp
  split at hp
  case isFalse => cases hp
  case isTrue how =>
    simp only [how, Bool.not_true, Bool.false_or, Bool.and_eq_true, hw] at hsel
    obtain ⟨ws, p', hs, rfl⟩ : ∃ ws p', selOf f.seld.toNat = some (ws, p') ∧ p' = p := by
      cases hs : selOf f.seld.toNat with
      | none => simp [hs] at hp
      | some r => exact ⟨r.1, r.2, rfl, by simpa [hs] using hp⟩
    have hws : ws = w := by
      have hok := hsel.2
      simp only [selOk, hs, Bool.or_eq_true, beq_iff_eq] at hok
      rcases hok with h0 | hok
      · rw [h0] at hs
        simp [selOf] at hs
      · exact hok
    subst hws
    exact (selOf_fits f.seld hs).resolve_left h8

end

/-- No floating type of these sets is made of bytes (R54, R68). -/
theorem width_ne_8 : ∀ ty : BitVec 4, inSet 0x0F00 ty = true → tyWidth ty.toNat ≠ 8 := by decide

theorem width_ne_8_sfn : ∀ ty : BitVec 4, inSet 0x0700 ty = true → tyWidth ty.toNat ≠ 8 := by decide

/-! ### Element by element (R100, R136, R141) -/

/-- A form that computes each element from the elements at its place. -/
theorem gives_atElem {x : Instr} {i : CompInfo} {f : Comp} {s : State} {immE : Nat} {fn : Nat → Nat → Nat → FRes} (hi : x.info = .comp i f)
    (h : clear x s = true) (hw : i.wd f = f.w) (h8 : tyWidth f.ty.toNat ≠ 8) (hy : Yields x s (fixedAfter x f (elemOut immE fn i f s) s)) :
    Gives x i f s immE f.w f.w (atElem f fn) id :=
  gives_plain hi h hy (computes_elements fun _ hp => .inl (seld_fits hi h hw h8 hp))

theorem vectorFloats_give (f : Comp) (s : State) :
    ∀ p ∈ [(Instr.vfadd, fAdd), (.vfsub, fSub), (.vfmul, fMul), (.vfmin, fMin), (.vfmax, fMax), (.vfabs, fSign (fun _ => false)), (.vfneg, fSign not),
        (.vfcls, fCls), (.vffma, fFma)], ∀ i : CompInfo, (p.1 f).info = .comp i f → clear (p.1 f) s = true →
      Gives (p.1 f) i f s (immElem f) f.w f.w (atElem f (p.2 (rmOf f) (fmtOf f.ty.toNat))) id := by
  have key {c : Comp → Instr} {fn : Nat → Fmt → Nat → Nat → Nat → FRes} {k : CompInfo} (hk : (c f).info = .comp k f) (ht : k.tys = 0x0F00) (hw : k.wd = Comp.w)
      (hx : exec (c f) s = computeFixed (c f) (fltOut fn) s) (i : CompInfo) (hi : (c f).info = .comp i f) (h : clear (c f) s = true) :
      Gives (c f) i f s (immElem f) f.w f.w (atElem f (fn (rmOf f) (fmtOf f.ty.toNat))) id := by
    obtain ⟨rfl⟩ : k = i := by
      rw [hk] at hi
      cases hi
      rfl
    exact gives_atElem hi h (by rw [hw]) (width_ne_8 _ (ht ▸ type_allowed hi h)) (yields_fixed (out := fltOut fn) hi h hx)
  simp only [List.forall_mem_cons, List.not_mem_nil, false_imp_iff, implies_true, and_true]
  exact ⟨key rfl rfl rfl rfl, key rfl rfl rfl rfl, key rfl rfl rfl rfl, key rfl rfl rfl rfl, key rfl rfl rfl rfl, key rfl rfl rfl rfl, key rfl rfl rfl rfl,
    key rfl rfl rfl rfl, key rfl rfl rfl rfl⟩

theorem scalarFloats_give (f : Comp) (s : State) :
    ∀ p ∈ [(Instr.sfadd, fAdd), (.sfsub, fSub), (.sfmul, fMul), (.sfdiv, fDiv), (.sfmin, fMin), (.sfmax, fMax), (.sffma, fFma),
        (.sfcmp, fCmp (f.opf.extractLsb' 0 3).toNat)],
      ∀ i : CompInfo, (p.1 f).info = .comp i f → clear (p.1 f) s = true → ratScalar s.grp i f = false →
      Gives (p.1 f) i f s (immElem f) f.w f.w (atElem f (p.2 (rmOf f) (fmtOf f.ty.toNat))) id := by
  have key {c : Comp → Instr} {fn : Nat → Fmt → Nat → Nat → Nat → FRes} {rat : CompInfo → Comp → State → Out} {k : CompInfo} (hk : (c f).info = .comp k f)
      (ht : k.tys = 0x0F00) (hw : k.wd = Comp.w) (hx : exec (c f) s = scalarFloat (c f) (fltOut fn) rat s) (i : CompInfo) (hi : (c f).info = .comp i f)
      (h : clear (c f) s = true) (hr : ratScalar s.grp i f = false) :
      Gives (c f) i f s (immElem f) f.w f.w (atElem f (fn (rmOf f) (fmtOf f.ty.toNat))) id := by
    obtain ⟨rfl⟩ : k = i := by
      rw [hk] at hi
      cases hi
      rfl
    exact gives_atElem hi h (by rw [hw]) (width_ne_8 _ (ht ▸ type_allowed hi h)) (yields_scalarFloat (flt := fltOut fn) hi h hx hr)
  have hcc : (f.opf.extractLsb' 0 3).toNat = f.cc := by rw [BitVec.extractLsb'_toNat, Nat.shiftRight_zero]; rfl
  rw [hcc]
  simp only [List.forall_mem_cons, List.not_mem_nil, false_imp_iff, implies_true, and_true]
  exact ⟨key rfl rfl rfl rfl, key rfl rfl rfl rfl, key rfl rfl rfl rfl, key rfl rfl rfl rfl, key rfl rfl rfl rfl, key rfl rfl rfl rfl, key rfl rfl rfl rfl,
    key rfl rfl rfl rfl⟩

theorem specialFunctions_give (f : Comp) (s : State) :
    ∀ p ∈ [(Instr.vfrcp, 0), (.vfrsq, 1), (.vfexp2, 2), (.vflog2, 3), (.vfsin, 4), (.vfcos, 5), (.vfsqrt, 6), (.vftanh, 7)],
      ∀ i : CompInfo, (p.1 f).info = .comp i f → clear (p.1 f) s = true →
      Gives (p.1 f) i f s 0 f.w f.w (atElem f (fun a _ _ => sfunc p.2 f.ty.toNat (rmOf f) a)) id := by
  have key {c : Comp → Instr} {n : Nat} {k : CompInfo} (hk : (c f).info = .comp k f) (ht : k.tys = 0x0700) (hw : k.wd = Comp.w)
      (hx : exec (c f) s = computeFixed (c f) (sfnOut n) s) (i : CompInfo) (hi : (c f).info = .comp i f) (h : clear (c f) s = true) :
      Gives (c f) i f s 0 f.w f.w (atElem f (fun a _ _ => sfunc n f.ty.toNat (rmOf f) a)) id := by
    obtain ⟨rfl⟩ : k = i := by
      rw [hk] at hi
      cases hi
      rfl
    exact gives_atElem hi h (by rw [hw]) (width_ne_8_sfn _ (ht ▸ type_allowed hi h)) (yields_fixed (out := sfnOut n) hi h hx)
  simp only [List.forall_mem_cons, List.not_mem_nil, false_imp_iff, implies_true, and_true]
  exact ⟨key rfl rfl rfl rfl, key rfl rfl rfl rfl, key rfl rfl rfl rfl, key rfl rfl rfl rfl, key rfl rfl rfl rfl, key rfl rfl rfl rfl, key rfl rfl rfl rfl,
    key rfl rfl rfl rfl⟩

/-! ### VFCMP (R139) -/

/-- All ones in the width of a floating type are all ones in its elements. -/
theorem ones_cut : ∀ ty : BitVec 4, inSet 0x0F00 ty = true → ones (fmtOf ty.toNat).w = ones (tyWidth ty.toNat) := by decide

theorem fCmp_bits_ne_zero {cc rm : Nat} {g : Fmt} {a b c : Nat} (hg : 0 < g.w) : (fCmp cc rm g a b c).bits ≠ 0 ↔ (cmpF g cc a b).1 = true := by
  unfold fCmp
  dsimp only
  cases (cmpF g cc a b).1
  · simp
  · simp only [if_true, ones, ne_eq, iff_true]
    have : 2 ^ 1 ≤ 2 ^ g.w := Nat.pow_le_pow_right (by decide) hg
    omega

theorem fmtOf_pos (ty : Nat) : 0 < (fmtOf ty).w := by
  unfold fmtOf
  split <;> decide

/-- The mask of the lanes that satisfy a predicate, as a word. -/
theorem getLsbD_maskOf (p : Nat → Bool) (k : Nat) : (maskOf p).getLsbD k = (decide (k < 32) && p k) := by
  have hstep (a l : Nat) : (if p l then a ||| (1 <<< l) else a).testBit k = true ↔ a.testBit k = true ∨ (l = k ∧ p k = true) := by
    by_cases hl : l = k
    · subst hl
      cases hp : p l <;> simp [Nat.one_shiftLeft]
    · cases hp : p l <;> simp [Nat.one_shiftLeft, hl]
  rw [Bool.eq_iff_iff, maskOf, BitVec.getLsbD_ofNat, Bool.and_eq_true, testBit_foldl hstep]
  simp

theorem vfcmp_gives (f : Comp) (s : State) (i : CompInfo) (hi : (Instr.vfcmp f).info = .comp i f) (h : clear (.vfcmp f) s = true) :
      let at' := fun l q => fCmp (f.opf.extractLsb' 0 3).toNat (rmOf f) (fmtOf f.ty.toNat) (elem (laneSrcs s i f (immElem f) f.w l).a q f.w)
        (elem (laneSrcs s i f (immElem f) f.w l).b q f.w) 0
      let act := fun l => (active s f.msk.toNat).getLsbD l
      (cmpForm f = 2 → Gives (.vfcmp f) i f s (immElem f) f.w f.w
        (atElem f (fun a b _ => fCmp (f.opf.extractLsb' 0 3).toNat (rmOf f) (fmtOf f.ty.toNat) a b 0)) id)
      ∧ (cmpForm f = 0 ∨ cmpForm f = 1 → ∃ (r : Word) (fl : Nat),
          (∀ k < 64, r.getLsbD k = true ↔ k < 32 ∧ act k = true
            ∧ if cmpForm f = 0 then ∀ q < 64 / f.w, (at' k q).bits ≠ 0 else ∃ q < 64 / f.w, (at' k q).bits ≠ 0)
          ∧ (∀ k < 6, fl.testBit k = true ↔ ∃ l < 32, act l = true ∧ ∃ q < 64 / f.w, (at' l q).fl.testBit k = true)
          ∧ Yields (.vfcmp f) s (popAll (vecSrcs (.vfcmp f)) (((s.grp.writeS s.cur f.d.toNat r allBits).orFp fl).passes s.cur f.len))) := by
  have hcc : (f.opf.extractLsb' 0 3).toNat = f.cc := by rw [BitVec.extractLsb'_toNat, Nat.shiftRight_zero]; rfl
  rw [hcc]
  intro at' act
  have hy := yields_fixed (out := vcmpOut (cmpF (fmtOf f.ty.toNat) f.cc)) hi h rfl
  have hty : inSet 0x0F00 f.ty = true := by
    have ht := type_allowed hi h
    cases hi
    exact ht
  refine ⟨fun hform => ?_, fun hform => ?_⟩
  · have hone : ones f.w = ones (fmtOf f.ty.toNat).w := (ones_cut f.ty hty).symm
    rw [vcmpOut, if_pos hform, hone] at hy
    refine gives_atElem hi h ?_ (width_ne_8 _ hty) hy
    cases hi
    exact if_pos (by simpa [cmpForm] using hform)
  · have h2 : cmpForm f ≠ 2 := by omega
    rw [vcmpOut, if_neg h2, compMask_eq hi h] at hy
    have hbits (l q : Nat) : (at' l q).bits ≠ 0 ↔ (cmpF (fmtOf f.ty.toNat) f.cc (elem (laneSrcs s i f (immElem f) f.w l).a q f.w)
        (elem (laneSrcs s i f (immElem f) f.w l).b q f.w)).1 = true := fCmp_bits_ne_zero (fmtOf_pos _)
    refine ⟨_, _, fun k hk => ?_, fun k hk => ?_, hy⟩
    · rw [BitVec.getLsbD_setWidth, getLsbD_maskOf]
      simp only [hk, decide_true, Bool.true_and, Bool.and_eq_true, decide_eq_true_eq, hbits]
      split <;> simp [act]
    · have hstep (a l : Nat) : (((List.range (64 / f.w)).map (fun p => cmpF (fmtOf f.ty.toNat) f.cc (elem (laneSrcs s i f (immElem f) f.w l).a p f.w)
          (elem (laneSrcs s i f (immElem f) f.w l).b p f.w))).foldl (fun a r => a ||| r.2) a).testBit k = true
          ↔ a.testBit k = true ∨ ∃ q < 64 / f.w, (at' l q).fl.testBit k = true := by
        rw [testBit_foldl_or]
        simp [at', fCmp]
      dsimp only
      rw [testBit_foldl hstep]
      simp [mem_lanesIn, act, and_assoc]

/-! ### Fields of the opcode field -/

/-- A bit of the opcode field as a number. -/
theorem opfAt_bit (f : Comp) (lo : Nat) : f.opfAt lo 1 = b2n (f.opf.getLsbD lo) := by
  rw [Comp.opfAt, BitVec.getLsbD, Nat.testBit_eq_decide_div_mod_eq, Nat.shiftRight_eq_div_pow, pow_one]
  rcases Nat.mod_two_eq_zero_or_one (f.opf.toNat / 2 ^ lo) with h | h <;> simp [h, b2n]

theorem opfAt_beq (f : Comp) (lo : Nat) : (f.opfAt lo 1 == 1) = f.opf.getLsbD lo := by
  rw [opfAt_bit]
  cases f.opf.getLsbD lo <;> rfl

theorem opfAt_eq (f : Comp) (lo n : Nat) : f.opfAt lo n = (f.opf.extractLsb' lo n).toNat := by
  rw [Comp.opfAt, BitVec.extractLsb'_toNat]

/-! ### SFCVT (R103) -/

theorem convOv_eq (ty : BitVec 4) (nsat : Bool) : convOv ty.toNat nsat = narrowOv ty.toNat nsat := by
  revert ty nsat
  decide

theorem convF_eq (ty : BitVec 4) (rm : Nat) (nsat : Bool) (x : Ex) : convF ty.toNat rm nsat x = roundEx (fmtOf ty.toNat) rm (narrowOv ty.toNat nsat) x := by
  rw [convF, convOv_eq]

theorem valueOf_float {ty : Nat} (h : tyInt ty = false) (x : Nat) : valueOf ty x = decodeF (fmtOf ty) x := by
  rw [valueOf, h]
  rfl

theorem sfcvt_gives (f : Comp) (s : State) (i : CompInfo) (hi : (Instr.sfcvt f).info = .comp i f) (h : clear (.sfcvt f) s = true)
    (hr : ratScalar s.grp i f = false) :
    Gives (.sfcvt f) i f s 0 f.w f.w (fun z q => some (if q < min (64 / tyWidth f.sty) (64 / f.w) then
      roundEx (fmtOf f.ty.toNat) (rmOf f) (narrowOv f.ty.toNat (f.opf.getLsbD 4)) (decodeF (fmtOf f.sty) (elem z.a q (tyWidth f.sty))).ex else ⟨0, 0⟩)) id := by
  have hy := yields_scalarFloat (flt := sfcvtOut) (rat := sfcvtRat) hi h rfl hr
  have hopf : opfSfcvt f = true ∧ inSet 0x0F00 f.ty = true ∧ i.wd f = f.w := by
    have h1 := opf_ok hi h
    have h2 := type_allowed hi h
    cases hi
    exact ⟨h1, h2, rfl⟩
  obtain ⟨hopf, hty, hwd⟩ := hopf
  have hsty : tyInt f.sty = false := by
    simp only [opfSfcvt, Bool.and_eq_true, decide_eq_true_eq] at hopf
    obtain ⟨⟨⟨h8, h11⟩, _⟩, _⟩ := hopf
    simp [tyInt, show ¬ f.sty < 8 by omega, show f.sty ≠ 15 by omega]
  have hel (x : Nat) : convF f.ty.toNat (rmOf f) (f.opfAt 4 1 == 1) (valueOf f.sty x).ex
      = roundEx (fmtOf f.ty.toNat) (rmOf f) (narrowOv f.ty.toNat (f.opf.getLsbD 4)) (decodeF (fmtOf f.sty) x).ex := by
    rw [convF_eq, opfAt_beq, valueOf_float hsty]
  simp only [sfcvtOut, cvtElems, hel] at hy
  exact gives_plain hi h hy (computes_elements fun _ hp => .inl (seld_fits hi h hwd (width_ne_8 _ hty) hp))

/-! ### VPACK and VUNPK (R146, R147) -/

/-- A value clamped to its type. -/
theorem clampInt_eq (ty : Nat) (x : Int) :
    wrapInt (tyWidth ty) (clampInt ty x) = (clampE (tyWidth ty) (tySigned ty) x).toNat := by
  rw [wrapInt_eq, clampE, clampInt]
  have hp : (1 : Int) ≤ 2 ^ (tyWidth ty - 1) := by exact_mod_cast Nat.one_le_two_pow
  have hq : (1 : Int) ≤ 2 ^ tyWidth ty := by exact_mod_cast Nat.one_le_two_pow
  congr 2
  unfold intMin intMax
  cases tySigned ty
  · push_cast
    split
    · omega
    · split <;> omega
  · push_cast
    split
    · omega
    · split <;> omega

theorem vpack_gives (f : Comp) (s : State) (i : CompInfo) (hi : (Instr.vpack f).info = .comp i f) (h : clear (.vpack f) s = true) :
    Gives (.vpack f) i f s (immElem f) f.w f.w (fun z q =>
        let e := if q < 32 / f.w then elem z.a q (2 * f.w) else elem z.b (q - 32 / f.w) (2 * f.w)
        some ⟨if f.opf.getLsbD 1 then (clampE f.w (tySigned f.ty.toNat) (valueOfE (tySigned f.ty.toNat) (BitVec.ofNat (2 * f.w) e))).toNat
          else if f.opf.getLsbD 0 then e / 2 ^ f.w else e, 0⟩) id := by
  have hy := yields_fixed (out := packOut) hi h rfl
  refine gives_plain hi h hy ((computes_elements fun _ _ => .inr fun _ => rfl).congr (fun z q _ => ?_) fun _ _ _ => rfl)
  dsimp only
  have hlt (x y : Word) (n m : Nat) : (if q < 32 / f.w then elem x n (2 * f.w) else elem y m (2 * f.w)) < 2 ^ (2 * f.w) := by
    split
    · exact elem_lt ..
    · exact elem_lt ..
  specialize hlt z.a z.b q (q - 32 / f.w)
  generalize (if q < 32 / f.w then elem z.a q (2 * f.w) else elem z.b (q - 32 / f.w) (2 * f.w)) = e at hlt
  have hval : (if tySigned f.ty.toNat then toSigned (2 * f.w) e else (e : Int)) = valueOfE (tySigned f.ty.toNat) (BitVec.ofNat (2 * f.w) e) := by
    rw [valueOfE, toSigned_eq e (by have := tyWidth_pos f.ty.toNat; show 0 < 2 * tyWidth _; omega), BitVec.toNat_ofNat, Nat.mod_eq_of_lt hlt]
  unfold packElem
  dsimp only
  rw [opfAt_bit, opfAt_bit, hval, show f.w = tyWidth f.ty.toNat from rfl, clampInt_eq]
  cases f.opf.getLsbD 1 <;> cases f.opf.getLsbD 0 <;> simp [b2n, Nat.shiftRight_eq_div_pow]

theorem vunpk_gives (f : Comp) (s : State) (i : CompInfo) (hi : (Instr.vunpk f).info = .comp i f) (h : clear (.vunpk f) s = true) :
    Gives (.vunpk f) i f s 0 f.w (2 * f.w) (fun z q =>
        let e := BitVec.ofNat f.w (elem z.a (if f.opf.getLsbD 0 then q + 32 / f.w else q) f.w)
        some ⟨if tyInt f.ty.toNat then (if tySigned f.ty.toNat then e.signExtend (2 * f.w) else e.setWidth (2 * f.w)).toNat else e.toNat * 2 ^ f.w, 0⟩) id := by
  have hy := yields_fixed (out := unpackOut) hi h rfl
  refine gives_plain hi h hy ((computes_elements fun _ _ => .inr fun _ => rfl).congr (fun z q _ => ?_) fun _ _ _ => rfl)
  have hplace : q + 32 / f.w * f.opfAt 0 1 = if f.opf.getLsbD 0 then q + 32 / f.w else q := by
    rw [opfAt_bit]
    cases f.opf.getLsbD 0 <;> simp [b2n]
  dsimp only
  rw [hplace]
  generalize (if f.opf.getLsbD 0 then q + 32 / f.w else q) = p
  unfold unpackElem
  dsimp only
  rw [intOf_eq, show tyWidth f.ty.toNat = f.w from rfl, BitVec.toNat_ofNat, Nat.mod_eq_of_lt (elem_lt z.a p f.w), Nat.shiftLeft_eq]
  congr 1
  split
  · rw [wrapInt_eq, valueOfE]
    split
    · rfl
    · rw [BitVec.ofInt_natCast, BitVec.ofNat_toNat]
  · rfl

/-! ### Dot products (R148) -/

/-- The result of a dot product by the types of its elements. -/
theorem dotElem_eq (f : Comp) (z : Srcs) :
    dotElem f z = if tyInt f.ty.toNat then ⟨(BitVec.ofInt 32 (elem z.c (b2n (f.opf.getLsbD 0)) 32
          + ((List.range (64 / f.w)).map (fun k => intOf f.ty.toNat (elem z.a k f.w) * intOf f.ty.toNat (elem z.b k f.w))).sum)).toNat, 0⟩
      else roundEx (fmtOf 10) (rmOf f) .ieee (sumEx (rmOf f) (decodeF (fmtOf 10) (elem z.c (b2n (f.opf.getLsbD 0)) 32)
        :: (List.range (64 / f.w)).map (fun k => (decodeF (fmtOf f.ty.toNat) (elem z.a k f.w)).mul (decodeF (fmtOf f.ty.toNat) (elem z.b k f.w))))) := by
  have hsum (l : List Nat) (t : Nat → Int) (c : Int) : l.foldl (fun a k => a + t k) c = c + (l.map t).sum := by
    induction l generalizing c with
    | nil => simp
    | cons k l ih => rw [List.foldl_cons, ih, List.map_cons, List.sum_cons, add_assoc]
  unfold dotElem
  dsimp only
  rw [opfAt_bit, hsum, wrapInt_eq]
  split
  · rfl
  case isFalse ht =>
    rw [valueOf_float (ty := 10) rfl]
    simp only [valueOf_float (Bool.not_eq_true _ ▸ ht)]

/-- A dot product writes the one element that OPF names, where SELD leaves it. -/
theorem computes_dot (f : Comp) :
    Computes 32 (fun z => if (match seldPos f with | some p => p == f.opfAt 0 1 | none => true) then
        { val := setElem 0 (f.opfAt 0 1) 32 (dotElem f z).bits, bits := setElem 0 (f.opfAt 0 1) 32 (ones 32), fl := (dotElem f z).fl }
      else { val := 0, bits := 0, fl := 0 })
      (selected f (fun z q => if q = f.opfAt 0 1 then some (dotElem f z) else none)) := by
  have hj : f.opfAt 0 1 < 64 / 32 := Nat.mod_lt _ (by decide)
  have hw : (match seldPos f with | some p => p == f.opfAt 0 1 | none => true) = writesAt f (f.opfAt 0 1) := by
    unfold writesAt
    cases seldPos f with
    | none => rfl
    | some p => exact Bool.beq_comm
  rw [hw]
  cases hwr : writesAt f (f.opfAt 0 1) with
  | false =>
    have hnone (z : Srcs) (q : Nat) : selected f (fun z q => if q = f.opfAt 0 1 then some (dotElem f z) else none) z q = none := by
      unfold selected
      split
      case isTrue hq => exact if_neg fun e => by rw [e, hwr] at hq; cases hq
      case isFalse => rfl
    refine ⟨fun _ _ => rfl, fun z old q y _ hv => ?_, fun z old q _ _ => ?_, fun z k _ => ?_⟩
    · rw [hnone] at hv
      cases hv
    · exact congrArg (elem · q 32) (mixed_zero ..)
    · simp [hnone]
  | true =>
    have hsel (z : Srcs) (q : Nat) : selected f (fun z q => if q = f.opfAt 0 1 then some (dotElem f z) else none) z q
        = if q = f.opfAt 0 1 then some (dotElem f z) else none := by
      unfold selected
      split
      · rfl
      case isFalse hq => exact (if_neg fun e : q = f.opfAt 0 1 => hq (by rw [e, hwr])).symm
    have hel (z : Srcs) (old : Word) {q : Nat} (hq : q < 64 / 32) := elem_mixed_elements old (some (f.opfAt 0 1)) (fun _ => dotElem f z) hq
    refine ⟨fun _ _ => rfl, fun z old q y hq hv => ?_, fun z old q hq hv => ?_, fun z k _ => ?_⟩
    · rw [hsel] at hv
      split at hv
      case isTrue he =>
        cases hv
        exact (hel z old hq).trans (if_pos (beq_iff_eq.2 he))
      case isFalse => cases hv
    · rw [hsel] at hv
      split at hv
      case isTrue => cases hv
      case isFalse he => exact (hel z old hq).trans (if_neg (by simpa using he))
    · simp only [hsel]
      constructor
      · exact fun hf => ⟨f.opfAt 0 1, hj, dotElem f z, if_pos rfl, hf⟩
      · rintro ⟨q, _, y, hv, hf⟩
        split at hv
        · cases hv
          exact hf
        · cases hv

theorem vdot_gives (f : Comp) (s : State) : ∀ c ∈ [Instr.vdoth, .vdotb, .vdotn], ∀ i : CompInfo, (c f).info = .comp i f → clear (c f) s = true →
    let j := if f.opf.getLsbD 0 then 1 else 0
    Gives (c f) i f s (immElem f) f.w 32 (fun z q => if q = j then
      some (if tyInt f.ty.toNat then ⟨(BitVec.ofInt 32 (elem z.c j 32
            + ((List.range (64 / f.w)).map (fun k => intOf f.ty.toNat (elem z.a k f.w) * intOf f.ty.toNat (elem z.b k f.w))).sum)).toNat, 0⟩
        else roundEx (fmtOf 10) (rmOf f) .ieee (sumEx (rmOf f) (decodeF (fmtOf 10) (elem z.c j 32)
          :: (List.range (64 / f.w)).map (fun k => (decodeF (fmtOf f.ty.toNat) (elem z.a k f.w)).mul (decodeF (fmtOf f.ty.toNat) (elem z.b k f.w))))))
      else none) id := by
  have key {x : Instr} {i : CompInfo} (hi : x.info = .comp i f) (hx : exec x s = computeFixed x dotOut s) (h : clear x s = true) :=
    gives_plain (v := fun z q => if q = f.opfAt 0 1 then some (dotElem f z) else none) hi h (yields_fixed (out := dotOut) hi h hx) (computes_dot f)
  simp only [opfAt_bit, dotElem_eq] at key
  simp only [List.forall_mem_cons, List.not_mem_nil, false_imp_iff, implies_true, and_true]
  exact ⟨fun i hi h => key hi rfl h, fun i hi h => key hi rfl h, fun i hi h => key hi rfl h⟩

/-! ### VCVT (R143 to R145) -/

/-- The source element of an element that SELD leaves. -/
theorem cvtSource_eq (f : Comp) (q : Nat) : cvtSource f q = if writesAt f q then cvtFrom f q else none := by
  have hplace : (if (decide ((if f.w < tyWidth f.sty then f.opfAt 6 3 * min (64 / tyWidth f.sty) (64 / f.w) else 0) ≤ q)
      && decide (q < (if f.w < tyWidth f.sty then f.opfAt 6 3 * min (64 / tyWidth f.sty) (64 / f.w) else 0) + min (64 / tyWidth f.sty) (64 / f.w))) = true then
      some (q - (if f.w < tyWidth f.sty then f.opfAt 6 3 * min (64 / tyWidth f.sty) (64 / f.w) else 0)
        + if tyWidth f.sty < f.w then f.opfAt 6 3 * min (64 / tyWidth f.sty) (64 / f.w) else 0) else none) = cvtFrom f q := by
    unfold cvtFrom
    rw [← opfAt_eq]
    dsimp only
    generalize f.opfAt 6 3 * min (64 / tyWidth f.sty) (64 / f.w) = lo, min (64 / tyWidth f.sty) (64 / f.w) = n
    by_cases h1 : f.w < tyWidth f.sty
    · simp [h1, h1.not_gt]
    · by_cases h2 : tyWidth f.sty < f.w
      · simp [h1, h2, add_comm]
      · simp [h1, h2]
  rw [← hplace]
  unfold cvtSource writesAt
  rw [cvtPos, cvtCount]
  cases seldPos f with
  | none => simp
  | some p =>
    by_cases hp : p = q
    · subst hp
      simp
    · have h1 : (p == q) = false := by simpa using hp
      have h2 : (q == p) = false := by simpa using Ne.symm hp
      simp [h1, h2]

/-- What VCVT makes of a product (R144). -/
theorem cvtElem_eq (f : Comp) (x : FV) :
    cvtElem f x = if tyInt f.ty.toNat then (if tyInt f.sty && ! f.opf.getLsbD 5 then ⟨(exToInt f.ty.toNat 1 x.ex).bits, 0⟩ else exToInt f.ty.toNat (rmOf f) x.ex)
      else roundEx (fmtOf f.ty.toNat) (rmOf f) (narrowOv f.ty.toNat (f.opf.getLsbD 4)) x.ex := by
  rw [cvtElem, opfAt_beq, ← convF_eq]
  rfl

/-- A lane of VCVT computes the elements that have a source. -/
theorem computes_cvt (f : Comp) : Computes f.w (cvtLane f) (selected f (fun z q => (cvtFrom f q).map (fun k => cvtElem f (cvtX f z k)))) := by
  have hsel (z : Srcs) (q : Nat) : selected f (fun z q => (cvtFrom f q).map (fun k => cvtElem f (cvtX f z k))) z q
      = (cvtSource f q).map (fun k => cvtElem f (cvtProduct f z k)) := by
    rw [cvtSource_eq, selected]
    split <;> rfl
  have hat (z : Srcs) {q : Nat} (hq : q < 64 / f.w) :
      (((List.range (64 / f.w)).map (fun di => (cvtSource f di).map (fun si => cvtElem f (cvtProduct f z si))))[q]?).join
        = (cvtSource f q).map (fun k => cvtElem f (cvtProduct f z k)) := by
    simp [hq]
  have hsome (z : Srcs) (di : Nat) :
      (((List.range (64 / f.w)).map (fun di => (cvtSource f di).map (fun si => cvtElem f (cvtProduct f z si))))[di]?).join.isSome
        = (decide (di < 64 / f.w) && (cvtSource f di).isSome) := by
    by_cases hd : di < 64 / f.w <;> simp [hd]
  have hel (z : Srcs) (old : Word) {q : Nat} (hq : q < 64 / f.w) := elem_mixed_ofElems old
    (fun di => match (((List.range (64 / f.w)).map (fun di => (cvtSource f di).map (fun si => cvtElem f (cvtProduct f z si))))[di]?).join with
      | some r => r.bits | none => 0)
    (fun di => ((((List.range (64 / f.w)).map (fun di => (cvtSource f di).map (fun si => cvtElem f (cvtProduct f z si))))[di]?).join).isSome) hq
  refine ⟨fun y z => ?_, fun z old q y hq hv => ?_, fun z old q hq hv => ?_, fun z k _ => ?_⟩
  · exact congrArg (ofElems f.w) (funext fun di => if_congr (Bool.eq_iff_iff.1 ((hsome y di).trans (hsome z di).symm)) rfl rfl)
  · rw [hsel] at hv
    refine (hel z old hq).trans ?_
    rw [hat z hq, hv]
    rfl
  · rw [hsel] at hv
    refine (hel z old hq).trans ?_
    rw [hat z hq, hv]
    rfl
  · simp only [hsel]
    have hstep (a : Nat) (r : Option FRes) : (match r with | some r => a ||| r.fl | none => a).testBit k = true
        ↔ a.testBit k = true ∨ ∃ y, r = some y ∧ y.fl.testBit k = true := by
      cases r with
      | none => simp
      | some r => simp [Nat.testBit_or]
    refine (testBit_foldl hstep _ 0).trans ?_
    simp only [Nat.zero_testBit, Bool.false_eq_true, false_or, List.mem_map, List.mem_range, exists_exists_and_eq_and]

/-- The greatest magnitude over the products that are numbers (R145). -/
theorem foldl_magUp (xs : List FV) (a : Nat) :
    xs.foldl (fun a x => max a (magUp x)) a
      = ((xs.filter (fun x => ! x.isNan)).map (fun x => (roundEx (fmtOf 10) 3 .ieee x.abs.ex).bits)).foldl max a := by
  induction xs generalizing a with
  | nil => rfl
  | cons x xs ih =>
    rw [List.foldl_cons, ih]
    cases x with
    | nan v => simp [magUp, FV.isNan]
    | inf v => rfl
    | fin v m e => rfl

theorem vcvt_gives (f : Comp) (s : State) (i : CompInfo) (hi : (Instr.vcvt f).info = .comp i f) (h : clear (.vcvt f) s = true) :
      let imm := if imm64 f then (roundEx (fmtOf 10) (rmOf f) .ieee (decodeF (fmtOf 11) (immBitsOf f)).ex).bits else immBitsOf f % 2 ^ 32
      let conv := fun x : FV =>
        if tyInt f.ty.toNat then (if tyInt f.sty && ! f.opf.getLsbD 5 then ⟨(exToInt f.ty.toNat 1 x.ex).bits, 0⟩ else exToInt f.ty.toNat (rmOf f) x.ex)
        else roundEx (fmtOf f.ty.toNat) (rmOf f) (narrowOv f.ty.toNat (f.opf.getLsbD 4)) x.ex
      let xs := (sourcesOf i f s imm 32).flatMap (fun z => ((List.range (64 / f.w)).filter (writesAt f)).filterMap (fun q => (cvtFrom f q).map (cvtX f z)))
      let m := ((xs.filter (fun x => ! x.isNan)).map (fun x => (roundEx (fmtOf 10) 3 .ieee x.abs.ex).bits)).foldl max 0
      let nan := if xs.any FV.isNan then 2 ^ 32 else 0
      let op := (f.opf.extractLsb' 11 2).toNat
      Gives (.vcvt f) i f s imm 32 f.w (fun z q => (cvtFrom f q).map (fun k => conv (cvtX f z k)))
        (fun h => { h with amax := vmod h.amax (f.opf.extractLsb' 9 2).toNat (fun o =>
          if op = 1 then max (o % 2 ^ 32) m + (if o.testBit 32 then 2 ^ 32 else nan) else if op = 2 then m + nan else o) }) := by
  intro imm conv xs m nan op
  have hs : i.scalar = false := by
    cases hi
    rfl
  have himm : cvtImm f = imm := rfl
  have hxs : (sourcesOf i f s imm 32).flatMap (fun z => (List.range (64 / f.w)).filterMap (fun di => (cvtSource f di).map (cvtProduct f z))) = xs := by
    refine congrArg (List.flatMap · _) (funext fun z => ?_)
    rw [List.filterMap_filter]
    refine congrArg (List.filterMap · _) (funext fun q => ?_)
    rw [cvtSource_eq]
    split <;> rfl
  have hlanes : (if f.u then [scalSrcs s i f imm 32] else (lanesIn (compMask s i f)).map (laneSrcs s i f imm 32)) = sourcesOf i f s imm 32 := by
    rw [compMask_eq hi h, sourcesOf, hs, Bool.false_or]
    rfl
  have hamax : cvtAmax f (sourcesOf i f s imm 32) = (m, xs.any FV.isNan) := by
    rw [cvtAmax, hxs, foldl_magUp]
  have hout : cvtOut i f s = if f.opfAt 11 2 = 0 then perLane s i f imm 32 (cvtLane f)
      else { perLane s i f imm 32 (cvtLane f) with
        writes := (perLane s i f imm 32 (cvtLane f)).writes ++ [.amax (f.opfAt 9 2) (f.opfAt 11 2) m (xs.any FV.isNan)] } := by
    rw [cvtOut, himm]
    dsimp only
    rw [hlanes, hamax]
  have hconv : conv = cvtElem f := funext fun x => (cvtElem_eq f x).symm
  rw [show op = f.opfAt 11 2 from (opfAt_eq f 11 2).symm, show (f.opf.extractLsb' 9 2).toNat = f.opfAt 9 2 from (opfAt_eq f 9 2).symm, hconv]
  have hy := yields_fixed (out := cvtOut) hi h rfl
  rw [hout] at hy
  by_cases h0 : f.opfAt 11 2 = 0
  · rw [if_pos h0] at hy
    refine gives_of_computes (extra := []) hi h hy (List.append_nil _).symm rfl (fun k => ?_) (computes_cvt f)
    simp only [h0, Nat.zero_ne_one, if_false, show (0 : Nat) ≠ 2 by decide, vmod_id]
    rfl
  · rw [if_neg h0] at hy
    refine gives_of_computes (extra := [.amax (f.opfAt 9 2) (f.opfAt 11 2) m (xs.any FV.isNan)]) hi h hy rfl rfl (fun k => ?_) (computes_cvt f)
    refine congrArg (fun a => { k with amax := a }) (congrArg (vmod k.amax _) (funext fun old => ?_))
    unfold amaxUpdate
    cases hn : xs.any FV.isNan <;> cases old.testBit 32 <;> simp [nan, hn, b2n]

/-- Settles O8: the shared issue of fixed latency, and each form's elements. -/
theorem fixedLatencyForms : Obligations.FixedLatencyForms := by
  unfold Obligations.FixedLatencyForms
  refine ⟨?_, ?_, fun f s => ⟨vectorFloats_give f s, scalarFloats_give f s, specialFunctions_give f s, vfcmp_gives f s, vcvt_gives f s, vpack_gives f s,
    vunpk_gives f s, vdot_gives f s, sfcvt_gives f s⟩⟩
  · unfold fixedForms
    simp only [List.forall_mem_cons, List.not_mem_nil, false_imp_iff, implies_true, and_true]
    refine ⟨?_, ?_, ?_, ?_, ?_, ?_, ?_, ?_, ?_, ?_, ?_, ?_, ?_, ?_, ?_, ?_, ?_, ?_, ?_, ?_, ?_, ?_, ?_, ?_, ?_, ?_, ?_, ?_⟩ <;>
      exact fun f i s hi h => yields_fixed hi h rfl
  · unfold scalarFloats
    simp only [List.forall_mem_cons, List.not_mem_nil, false_imp_iff, implies_true, and_true]
    refine ⟨?_, ?_, ?_, ?_, ?_, ?_, ?_, ?_, ?_⟩ <;> exact fun f i s hi h hr => yields_scalarFloat hi h rfl hr

end Sys2Proof.Proofs.Floats

/-! PROOF. Loads and scratchpad accesses (R39, R165 to R178): the checks, the operation that one leaves, and the acquire that follows it. -/
namespace Sys2Proof.Proofs.Loads
open Sys2Proof Sys2Proof.Machine Sys2Proof.Proofs.Caches Sys2Proof.Proofs.Control

/-! ### An operation left outstanding (R24) -/

theorem countOn_frame (b : Bool) (k : Option Nat) (g : Group) :
    (countOn b k g).gid = g.gid ∧ (countOn b k g).queues = g.queues ∧ (countOn b k g).core = g.core
      ∧ (countOn b k g).buf = g.buf := by
  cases k with
  | none => exact ⟨rfl, rfl, rfl, rfl⟩
  | some k => exact ⟨Group.modSlot_gid .., Group.modSlot_queues .., Group.modSlot_core .., Group.modSlot_buf ..⟩

theorem starts_gid (g : Group) (w : State) (cf : Nat) (o : Op) : (g.starts w cf o).gid = g.gid := (countOn_frame ..).1
theorem starts_queues (g : Group) (w : State) (cf : Nat) (o : Op) : (g.starts w cf o).queues = g.queues := (countOn_frame ..).2.1

theorem addOp_grp (cf : Nat) (o : Op) (w : State) : (addOp cf o w).grp = w.grp.starts w cf o := rfl

theorem entered_queues {x : Instr} {s : State} (h : clear x s = true) : (entered x s).grp.queues = s.grp.queues := by
  obtain ⟨_, _, _, e⟩ := entered_grp h
  rw [e]

section
variable {x : Instr} {s w e : State} {act : State → Except Stop State} {cf : Nat} {l : Len} {o : Op} (h : clear x s = true)
  (hx : exec x s = issueE x act s)
include h hx

/-- An act that moves on from a state whose group has the slots, queues and name of the group at issue. -/
theorem ran_from {g : Group} (ha : act (entered x s) = .ok (advance (4 * l.words) e)) (hc : e.cur = s.cur) (hl : e.late = none) (hg : e.grp = g)
    (hq : g.queues = s.grp.queues) (hi : g.gid = s.grp.gid) :
    ∃ t, exec x s = .next t ∧ t.grp = (popAll (vecSrcs x) (g.passes s.cur l)).closes x ∧ OutsideSame e t := by
  have hag : (advance (4 * l.words) e).grp = g.passes s.cur l := by rw [advance_grp, hc, hg]; rfl
  obtain ⟨t, hn, ho, ht⟩ := ran_ofE h hx ha
    (done_grp h (advance (4 * l.words) e) ((outsideSame_advance _ e).late.trans hl) (by rw [hag]; exact (Group.modSlot_queues ..).trans hq)
      (by rw [hag]; exact (Group.modSlot_gid ..).trans hi)) (outsideSame_advance _ e)
  exact ⟨t, hn, by rw [ht, hag], ho⟩

/-- An act that leaves one operation outstanding, made in a state whose group is the one that issues. -/
theorem ran_leaving (ha : act (entered x s) = .ok (advance (4 * l.words) e)) (hw : w.grp = (entered x s).grp) (hwc : w.cur = s.cur) (hc : e.cur = s.cur)
    (hl : e.late = none) (hg : e.grp = w.grp.starts w cf o) : ∃ t, exec x s = .next t ∧ t.grp = w.grp.leaving x w cf l o ∧ OutsideSame e t := by
  have hrun := ran_from h hx ha hc hl hg (by rw [starts_queues, hw, entered_queues h]) (by rw [starts_gid, hw, entered_gid h])
  rwa [← hwc] at hrun

end

/-! ### The acquire that follows (R170, R269) -/

/-- What else a group holds has no part in what its die's cache drops. -/
theorem dropFills_regroup (d : Nat) (hit : Nat → Bool) (s : State) (g : Group) (n : Nat) (hg : g.gid = s.grp.gid) (hc : g.core = s.grp.core) :
    dropFills d hit { s with grp := g, nextId := n } = { dropFills d hit s with grp := g, nextId := n } := by
  have hf (t u : State) (r : Req) (ht : t.groups = u.groups) (hi : t.grp.gid = u.grp.gid) (hk : t.grp.core = u.grp.core) :
      fillCore t r = fillCore u r := by
    unfold fillCore groupOf
    rw [ht, hi]
    by_cases e : u.grp.gid = r.gid <;> simp [e, hk]
  unfold dropFills
  rw [funext (fun r => hf { s with grp := g, nextId := n } s r rfl hg hc)]
  rfl

theorem acquireAction_regroup (c scope : Nat) (s : State) (g : Group) (n : Nat) (hg : g.gid = s.grp.gid) (hc : g.core = s.grp.core) :
    acquireAction c scope { s with grp := g, nextId := n } = { acquireAction c scope s with grp := g, nextId := n } := by
  unfold acquireAction
  split
  · rfl
  · split
    · rfl
    · exact dropFills_regroup (dieOf c) (acqClass s scope) (modDie (dieOf c) _ (modCore c _ s)) g n hg hc

/-- The issuing group and the number of its next operation are the group's own. -/
theorem outsideSame_regroup (s : State) (g : Group) (n : Nat) : OutsideSame s { s with grp := g, nextId := n } :=
  (outsideSame_modGrp (fun _ => g) s).trans ⟨rfl, rfl, rfl, rfl, rfl, rfl, rfl, fun _ => rfl, rfl, rfl, memorySame_of_eq rfl rfl rfl rfl, rfl, rfl, rfl, rfl,
    rfl, rfl, rfl, rfl, rfl, rfl, rfl, rfl, rfl, rfl⟩

theorem memOnly_acquired (f : MemF) (s : State) : MemOnly s (acquired f s) := by
  unfold acquired
  split
  · exact memOnly_acquireAction ..
  · exact .refl s

/-- An acquire after its load's operation is made is the acquire before it, and the operation. -/
theorem acquired_addOp (f : MemF) (cf : Nat) (o : Op) (s : State) :
    acquired f (addOp cf o s) = { acquired f s with grp := s.grp.starts s cf o, nextId := s.nextId + 1 } := by
  unfold acquired
  split
  · have hc : (s.grp.starts s cf o).core = s.grp.core := (countOn_frame ..).2.2.1
    unfold acquireNow
    rw [addOp_grp, hc]
    exact acquireAction_regroup _ _ s _ _ (starts_gid ..) hc
  · rfl

/-- A load that needs nothing more leaves its operation, and makes its acquire. -/
theorem yields_load {x : Instr} {s w : State} {act : State → Except Stop State} {f : MemF} {o : Op} (h : clear x s = true)
    (hx : exec x s = issueE x act s) (hw : MemOnly (entered x s) w)
    (ha : act (entered x s) = .ok (advance (4 * f.len.words) (acquired f (addOp f.cf.toNat o w)))) :
    YieldsIn x s (acquired f w) (w.grp.leaving x w f.cf.toNat f.len o) := by
  have hm := memOnly_acquired f w
  have he := acquired_addOp f f.cf.toNat o w
  have hwc : w.cur = s.cur := hw.cur.trans (entered_cur h)
  obtain ⟨t, hn, hg, ho⟩ := ran_leaving (w := w) h hx ha hw.grp hwc (by rw [he]; exact hm.cur.trans hwc)
    (by rw [he]; exact (hm.late.trans hw.late).trans (entered_late h)) (by rw [he])
  rw [he] at ho
  exact ⟨t, hn, hg, (outsideSame_regroup _ _ _).trans ho⟩

/-! ### Checks (R165, R167) -/

theorem anyBad_nil (sc : Bool) (code : Nat) {bad : List (Nat × Nat)} (h : bad = []) : anyBad sc code bad = none := by rw [h]; rfl

/-- Addresses that reach their pages are the accesses (R167). -/
theorem accCheck_reaches {s : State} {vas : List (Nat × Nat)} {size : Nat} {nd : Need} {accs : List LaneAcc} (h : Reaches s vas size nd accs) (sc : Bool)
    (acc : Nat) : accCheck s sc vas size nd acc = .ok accs := by
  obtain ⟨rfl, hall⟩ := h
  have hx (a : LaneAcc) (ha : a ∈ accs) := (hall a ha).2.2
  have hcan : (accs.map (fun a => (a.lane, a.va))).filter (fun v => ! canonical v.2) = [] := by
    simp only [List.filter_eq_nil_iff, List.forall_mem_map]
    exact fun a ha => by simp [(hall a ha).1]
  have hodd : (accs.map (fun a => (a.lane, a.va))).filter (fun v => v.2 % size != 0) = [] := by
    simp only [List.filter_eq_nil_iff, List.forall_mem_map]
    exact fun a ha => by simp [(hall a ha).2.1]
  unfold accCheck
  rw [anyBad_nil _ _ hcan, anyBad_nil _ _ hodd]
  dsimp only
  simp only [List.map_map, List.filterMap_map]
  rw [List.filterMap_eq_nil_iff.2 (fun a ha => ?miss)]
  dsimp only
  rw [anyBad_nil _ _ (List.filterMap_eq_nil_iff.2 (fun a ha => ?refused)), List.filterMap_congr (g := some) (fun a ha => ?ok), List.filterMap_some]
  all_goals
    obtain ⟨pa, hpa, hc⟩ := hx a ha
    simp only [Function.comp_apply, hpa]
  rw [← hc]

/-! ### Global loads (R174, R175) -/

theorem memOnly_askLines (rop : Nat → Nat) (pas : List Nat) (pu : Purpose) (s : State) : MemOnly s (askLines rop pas pu s) := by
  refine .foldl (fun s p => ?_) _ s
  unfold askLine
  split
  · exact memOnly_sendReq ..
  · exact .refl s

/-- A load whose words are all at hand. -/
theorem loadEff_here (f : MemF) (sc : Bool) (accs : List LaneAcc) (s : State) :
    let r := readWords s.grp.core f.rdis.toNat (if f.ord = 5 then some f.scope.toNat else none) (wordsOf accs) s
    let g := gatherOf f sc false s accs r.1 (bufferedBytes s none)
    g.missing = [] → loadEff f sc accs s = acquired f (addOp f.cf.toNat { loadDone g (Op.new .done) with isLoad := true } r.2) := by
  intro r g hm
  unfold loadEff
  exact if_pos (List.isEmpty_iff.2 hm)

/-- One that must ask a peer. -/
theorem loadEff_asks (f : MemF) (sc : Bool) (accs : List LaneAcc) (s : State) :
    let r := readWords s.grp.core f.rdis.toNat (if f.ord = 5 then some f.scope.toNat else none) (wordsOf accs) s
    let g := gatherOf f sc false s accs r.1 (bufferedBytes s none)
    g.missing ≠ [] → MemOnly (addOp f.cf.toNat { Op.new (.gather g) with isLoad := true } r.2) (loadEff f sc accs s) := by
  intro r g hm
  have he : loadEff f sc accs s = askLines (fun pa => if pubHome (if f.ord = 5 then some f.scope.toNat else none) s pa then 1 else 0) g.missing
      (.load r.2.nextId) (addOp f.cf.toNat { Op.new (.gather g) with isLoad := true } r.2) := if_neg (fun h => hm (List.isEmpty_iff.1 h))
  rw [he]
  exact memOnly_askLines ..

/-- LD and LDU, whose checks pass and which nothing holds. -/
theorem load_runs {x : Instr} {f : MemF} {sc : Bool} {s : State} {accs : List LaneAcc} (h : clear x s = true) (hx : exec x s = issueE x (loadAct x f sc) s) :
    let u := entered x s
    let pas := accs.map LaneAcc.pa
    Reaches u (if sc then [(0, baseVa u f)] else laneVas u x f) (tyBytes f.ty.toNat) needLoad accs → memHold u (inWords pas) = none →
    (if f.ord = 5 then claimHold u pas else recallHold u pas) = none →
    let r := readWords u.grp.core f.rdis.toNat (if f.ord = 5 then some f.scope.toNat else none) (wordsOf accs) u
    let g := gatherOf f sc false u accs r.1 (bufferedBytes u none)
    (g.missing = [] → YieldsIn x s (acquired f r.2) (r.2.grp.leaving x r.2 f.cf.toNat f.len { loadDone g (Op.new .done) with isLoad := true }))
    ∧ (g.missing ≠ [] → ∃ t, exec x s = .next t
        ∧ t.grp = r.2.grp.leaving x r.2 f.cf.toNat f.len { Op.new (.gather g) with isLoad := true }) := by
  intro u pas hr hh hc r g
  have ha : loadAct x f sc u = .ok (advance (4 * f.len.words) (loadEff f sc accs u)) := by
    unfold loadAct
    rw [accCheck_reaches hr]
    dsimp only
    rw [hh, hc]
    rfl
  have hw : MemOnly u r.2 := memOnly_readWords ..
  refine ⟨fun hm => yields_load h hx hw (ha.trans (by rw [loadEff_here f sc accs u hm])), fun hm => ?_⟩
  have he := loadEff_asks f sc accs u hm
  have hwc : r.2.cur = s.cur := hw.cur.trans (entered_cur h)
  obtain ⟨t, hn, hg, -⟩ := ran_leaving (w := r.2) h hx ha hw.grp hwc (he.cur.trans hwc) (he.late.trans (hw.late.trans (entered_late h))) he.grp
  exact ⟨t, hn, hg⟩

/-- Settles O40: both forms are one act, on lanes or on one address. -/
theorem loads : Obligations.Loads := by
  unfold Obligations.Loads
  simp only [List.forall_mem_cons, List.not_mem_nil, false_imp_iff, implies_true, and_true]
  exact ⟨fun f s accs h => load_runs h rfl, fun f s accs h => load_runs h rfl⟩

end Sys2Proof.Proofs.Loads

/-! PROOF. Scratchpad accesses (R177, R178): the checks in their order, the loads, and the stores into the region's buffer or at once. -/
namespace Sys2Proof.Proofs.Scratchpads
open Sys2Proof Sys2Proof.Machine Sys2Proof.Proofs.Caches Sys2Proof.Proofs.Control Sys2Proof.Proofs.Loads

/-! ### The checks of a scratchpad access (R39, R165, R177, R178) -/

theorem anyBad_ne_nil (code : Nat) {bad : List (Nat × Nat)} (h : bad ≠ []) : anyBad false code bad = some (.trap code (lanesAt bad) (firstAt bad) 0) := by
  unfold anyBad
  rw [if_neg (by simpa using h)]
  rfl

/-- The lanes whose address is not canonical, where that is asked (R178). -/
def farOf (clus : Bool) (vas : List (Nat × Nat)) : List (Nat × Nat) := vas.filter (fun v => clus && ! canonical v.2)

/-- The lanes whose address is in no scratchpad (R177, R178). -/
def outOf (s : State) (clus : Bool) (vas : List (Nat × Nat)) (size : Nat) : List (Nat × Nat) :=
  vas.filter (fun v => ! (padOf s clus v).any (fun q => q.2 + size ≤ 32768 * q.1.spadGran))

/-- The places of some lanes, each with its team. -/
def placesOf (s : State) (clus : Bool) (vas : List (Nat × Nat)) : List (PadAcc × Team) :=
  vas.filterMap (fun x => (padOf s clus x).map (fun p => ({ lane := x.1, tid := p.1.tid, off := p.2, va := x.2 }, p.1)))

section
variable (s : State) (clus : Bool) (vas : List (Nat × Nat)) (size : Nat)

/-- The canonical test and the alignment test, then the bounds, then presence. -/
theorem padCheck_eq : padCheck s clus vas size =
    match orStop (if clus then anyBad false 0x05 (vas.filter (fun v => ! canonical v.2)) else none) (anyBad false 0x04 (vas.filter (fun v => v.2 % size != 0))) with
    | some e => .error e
    | none => match anyBad false 0x05 (outOf s clus vas size) with
      | some e => .error e
      | none => match (placesOf s clus vas).find? (fun p => ! p.2.present (p.1.off / 128)) with
        | some p => .error (.parkPresence p.1.tid (p.1.off / 128))
        | none => .ok ((placesOf s clus vas).map Prod.fst) := by
  have hout : outOf s clus vas size
      = vas.filter (fun v => ! (match padOf s clus v with | some (t, off) => decide (off + size ≤ t.spadSize) | none => false)) :=
    List.filter_congr fun v _ => by cases padOf s clus v <;> rfl
  rw [hout]
  rfl

/-- Only an access to a cluster's scratchpads is tested for its canonical form. -/
theorem farStop_eq : (if clus then anyBad false 0x05 (vas.filter (fun v => ! canonical v.2)) else none) = anyBad false 0x05 (farOf clus vas) := by
  cases clus
  · exact (anyBad_nil _ _ (List.filter_eq_nil_iff.2 fun _ _ => Bool.false_ne_true)).symm
  · rfl

variable {s clus vas size}

theorem padCheck_far (h : farOf clus vas ≠ []) :
    padCheck s clus vas size = .error (.trap 0x05 (lanesAt (farOf clus vas)) (firstAt (farOf clus vas)) 0) := by
  rw [padCheck_eq, farStop_eq, anyBad_ne_nil _ h]
  rfl

theorem padCheck_odd (h : farOf clus vas = []) {odd : List (Nat × Nat)} (e : vas.filter (fun v => v.2 % size != 0) = odd) (ho : odd ≠ []) :
    padCheck s clus vas size = .error (.trap 0x04 (lanesAt odd) (firstAt odd) 0) := by
  rw [padCheck_eq, farStop_eq, anyBad_nil _ _ h, e, anyBad_ne_nil _ ho]
  rfl

theorem padCheck_out (h : farOf clus vas = []) (ho : vas.filter (fun v => v.2 % size != 0) = []) (hi : outOf s clus vas size ≠ []) :
    padCheck s clus vas size = .error (.trap 0x05 (lanesAt (outOf s clus vas size)) (firstAt (outOf s clus vas size)) 0) := by
  rw [padCheck_eq, farStop_eq, anyBad_nil _ _ h, anyBad_nil _ _ ho, anyBad_ne_nil _ hi]
  rfl

/-- The teams and offsets of the lanes' places. -/
theorem map_placesOf : vas.filterMap (padOf s clus) = (placesOf s clus vas).map (fun p => (p.2, p.1.off)) := by
  rw [placesOf, List.map_filterMap]
  exact List.filterMap_congr fun x _ => by cases padOf s clus x <;> rfl

/-- A place names its own team. -/
theorem tid_of_mem_placesOf {p : PadAcc × Team} (h : p ∈ placesOf s clus vas) : p.1.tid = p.2.tid := by
  obtain ⟨x, -, hx⟩ := List.mem_filterMap.1 h
  obtain ⟨q, -, rfl⟩ := Option.map_eq_some_iff.1 hx
  rfl

theorem padCheck_absent {t : Team} {q : Nat} (h : farOf clus vas = []) (ho : vas.filter (fun v => v.2 % size != 0) = []) (hi : outOf s clus vas size = [])
    (hf : (vas.filterMap (padOf s clus)).find? (fun q => q.1.absent.contains (q.2 / 128)) = some (t, q)) :
    padCheck s clus vas size = .error (.parkPresence t.tid (q / 128)) := by
  rw [map_placesOf, List.find?_map] at hf
  obtain ⟨p, hp, he⟩ := Option.map_eq_some_iff.1 hf
  obtain ⟨rfl, rfl⟩ := Prod.mk.inj he
  have hpred : (fun p : PadAcc × Team => ! p.2.present (p.1.off / 128)) = (fun q => q.1.absent.contains (q.2 / 128)) ∘ (fun p => (p.2, p.1.off)) :=
    funext fun p => Bool.not_not _
  rw [padCheck_eq, farStop_eq, anyBad_nil _ _ h, anyBad_nil _ _ ho, anyBad_nil _ _ hi, hpred, ← tid_of_mem_placesOf (List.mem_of_find?_eq_some hp)]
  dsimp only [orStop]
  rw [hp]

end

/-! ### Scratchpad loads and stores (R177, R178) -/

/-- What the checks of a scratchpad access stop. -/
theorem pad_checks {x : Instr} {f : MemF} {clus : Bool} {s : State} {act : State → Except Stop State} (h : clear x s = true)
    (hx : exec x s = issueE x act s)
    (ha : ∀ e, padCheck (entered x s) clus (laneVas (entered x s) x f) (tyBytes f.ty.toNat) = .error e → act (entered x s) = .error e) :
    let u := entered x s
    let vas := laneVas u x f
    let size := tyBytes f.ty.toNat
    let far := farOf clus vas
    let odd := vas.filter (fun v => v.2 % size != 0)
    let out := outOf u clus vas size
    (far ≠ [] → exec x s = .next (takeTrap 0x05 (lanesAt far) (firstAt far) 0 u))
    ∧ (far = [] → odd ≠ [] → exec x s = .next (takeTrap 0x04 (lanesAt odd) (firstAt odd) 0 u))
    ∧ (far = [] → odd = [] → out ≠ [] → exec x s = .next (takeTrap 0x05 (lanesAt out) (firstAt out) 0 u))
    ∧ (∀ t q, far = [] → odd = [] → out = [] → (vas.filterMap (padOf u clus)).find? (fun q => q.1.absent.contains (q.2 / 128)) = some (t, q) →
        exec x s = .next (modCur (fun y => { y with st := .parkPresence t.tid (q / 128) }) u)) := by
  intro u vas size far odd out
  have hs {e : Stop} (hc : padCheck u clus vas size = .error e) : exec x s = .next (applyStop e u) := hx.trans (issueE_stop h (ha e hc))
  exact ⟨fun h => hs (padCheck_far h), fun h ho => hs (padCheck_odd h rfl ho), fun h ho hi => hs (padCheck_out h ho hi),
    fun t q h ho hi hf => hs (padCheck_absent h ho hi hf)⟩

theorem padLoadAct_error {x : Instr} {f : MemF} {clus : Bool} {s : State} {e : Stop}
    (h : padCheck s clus (laneVas s x f) (tyBytes f.ty.toNat) = .error e) : padLoadAct x f clus s = .error e := by
  rw [padLoadAct, h]

theorem padStoreAct_error {x : Instr} {f : MemF} {clus : Bool} {s : State} {e : Stop}
    (h : padCheck s clus (laneVas s x f) (tyBytes f.ty.toNat) = .error e) : padStoreAct x f clus s = .error e := by
  rw [padStoreAct, h]

/-- LDS and LDC, whose checks pass. -/
theorem padLoad_runs {x : Instr} {f : MemF} {clus : Bool} {s : State} {ps : List PadAcc} (h : clear x s = true)
    (hx : exec x s = issueE x (padLoadAct x f clus) s) :
    let u := entered x s
    padCheck u clus (laneVas u x f) (tyBytes f.ty.toNat) = .ok ps → acquirePending u = false →
    let accs := ps.map (fun q => ({ lane := q.lane, va := q.va, pa := q.tid * 2 ^ 21 + q.off, sreq := false } : LaneAcc))
    let g := { gatherOf f false false u accs (ps.map (fun q => (q.tid * 2 ^ 21 + q.off / 8 * 8, padWord u q.tid q.off))) [] with acq := none, rdis := 0 }
    YieldsIn x s (acquired f u) (u.grp.leaving x u f.cf.toNat f.len { loadDone g (Op.new .done) with isLoad := true }) := by
  intro u hc hp accs g
  refine yields_load h hx (.refl u) ?_
  rw [padLoadAct, hc]
  exact if_neg (Bool.eq_false_iff.1 hp)

theorem popAll_buf (l : List Nat) (g : Group) (b : List BufStore) : popAll l { g with buf := b } = { popAll l g with buf := b } := by
  have hp (g : Group) (k : Nat) : popOne { g with buf := b } k = { popOne g k with buf := b } := by
    unfold popOne
    dsimp only
    split
    · rfl
    · split
      · rfl
      · split <;> rfl
  unfold popAll
  show List.foldl popOne _ (poppedBy g l) = { List.foldl popOne g (poppedBy g l) with buf := b }
  generalize poppedBy g l = m
  induction m generalizing g with
  | nil => rfl
  | cons k m ih => rw [List.foldl_cons, hp, ih]; rfl

theorem passes_buf (g : Group) (c : Bool) (l : Len) (b : List BufStore) : Group.passes { g with buf := b } c l = { g.passes c l with buf := b } := by
  cases c <;> rfl

/-- A relaxed store ends no region (R320). -/
theorem padStore_commits {x : Instr} {f : MemF} {i : MemInfo} (hi : x.info = .mem i f) (hm : i.maj = 0x85 ∨ i.maj = 0x87) (ho : f.ord = 0) :
    commits x = false := by
  rw [commits, hi]
  rcases hm with hm | hm <;> simp [hm, ho]

/-- The stores that a relaxed store makes, by place. -/
def storesAt (f : MemF) (ps : List PadAcc) (s : State) : List BufStore :=
  ps.map (fun q => { op := s.nextId, slot := s.cur, spad := some q.tid, va := q.va, addr := q.off, rdis := 0, spill := none,
                     bytes := (bytesOf (lane (readQ s f.d.toNat) q.lane)).take (tyBytes f.ty.toNat) })

/-- The operation that they complete. -/
def padOp (ps : List PadAcc) : Op := { Op.new (if ps.isEmpty then .done else .buffered) with isWrite := ! ps.isEmpty }

theorem padStore_eq (f : MemF) (ps : List PadAcc) (s : State) :
    padStore f ps s = modGrp (fun g => { g with buf := g.buf ++ storesAt f ps s }) (addOp f.cf.toNat (padOp ps) s) := rfl

theorem padStore_grp (f : MemF) (ps : List PadAcc) (s : State) :
    (padStore f ps s).grp = { s.grp.starts s f.cf.toNat (padOp ps) with buf := s.grp.buf ++ storesAt f ps s } := by
  have hb : (s.grp.starts s f.cf.toNat (padOp ps)).buf = s.grp.buf := (countOn_frame ..).2.2.2
  rw [padStore_eq, ← hb]
  rfl

/-- A relaxed STS or STC goes into the region's buffer (R320). -/
theorem padStore_runs {x : Instr} {f : MemF} {clus : Bool} {s : State} {ps : List PadAcc} (h : clear x s = true)
    (hx : exec x s = issueE x (padStoreAct x f clus) s) (hk : commits x = false) (ho : f.ord = 0) :
    let u := entered x s
    let bytes := fun (q : PadAcc) => (bytesOf (lane (readQ u f.d.toNat) q.lane)).take (tyBytes f.ty.toNat)
    padCheck u clus (laneVas u x f) (tyBytes f.ty.toNat) = .ok ps → acquirePending u = false →
    YieldsIn x s u { u.grp.leaving x u f.cf.toNat f.len { Op.new (if ps.isEmpty then .done else .buffered) with isWrite := ! ps.isEmpty } with
      buf := u.grp.buf ++ ps.map (fun q =>
        ({ op := u.nextId, slot := u.cur, spad := some q.tid, va := q.va, addr := q.off, rdis := 0, spill := none, bytes := bytes q } : BufStore)) } := by
  intro u bytes hc hp
  have ha : padStoreAct x f clus u = .ok (advance (4 * f.len.words) (padStore f ps u)) := by
    rw [padStoreAct, hc]
    dsimp only
    rw [if_neg (Bool.eq_false_iff.1 hp), if_pos ho]
    rfl
  obtain ⟨t, hn, hg, hf⟩ := ran_from h hx ha (entered_cur h) (entered_late h) (padStore_grp f ps u)
    ((starts_queues u.grp u f.cf.toNat (padOp ps)).trans (entered_queues h)) ((starts_gid u.grp u f.cf.toNat (padOp ps)).trans (entered_gid h))
  have hcl (g : Group) : g.closes x = g := if_neg (by simp [hk])
  refine ⟨t, hn, ?_, .trans ?_ hf⟩
  · rw [hg, passes_buf, popAll_buf, hcl, ← entered_cur h, Group.leaving, hcl]
    rfl
  · rw [padStore_eq]
    exact (outsideSame_addOp ..).trans (outsideSame_modGrp ..)

/-- Changes of teams leave the issuing group. -/
theorem modTeams_frame {α : Type} (n : α → Nat) (f : α → Team → Team) (l : List α) (s : State) :
    let t := l.foldl (fun w a => modTeam (n a) (f a) w) s
    t.grp = s.grp ∧ t.cur = s.cur ∧ t.late = s.late := by
  induction l generalizing s with
  | nil => exact ⟨rfl, rfl, rfl⟩
  | cons a l ih =>
    have hone : (modTeam (n a) (f a) s).grp = s.grp ∧ (modTeam (n a) (f a) s).cur = s.cur ∧ (modTeam (n a) (f a) s).late = s.late := by
      unfold modTeam
      split <;> exact ⟨rfl, rfl, rfl⟩
    obtain ⟨hg, hc, hl⟩ := ih (modTeam (n a) (f a) s)
    exact ⟨hg.trans hone.1, hc.trans hone.2.1, hl.trans hone.2.2⟩

/-- A releasing one stores at once, after its release (R170, R173). -/
theorem padRelease_runs {x : Instr} {f : MemF} {clus : Bool} {s : State} {ps : List PadAcc} (h : clear x s = true)
    (hx : exec x s = issueE x (padStoreAct x f clus) s) (ho : f.ord ≠ 0) :
    let u := entered x s
    let bytes := fun (q : PadAcc) => (bytesOf (lane (readQ u f.d.toNat) q.lane)).take (tyBytes f.ty.toNat)
    padCheck u clus (laneVas u x f) (tyBytes f.ty.toNat) = .ok ps → acquirePending u = false → releaseStop u f.scope.toNat = none →
    let w := ps.foldl (fun w q => modTeam q.tid (fun t => t.store q.off (bytes q)) w) (releaseNow f.scope.toNat u)
    YieldsIn x s w (w.grp.leaving x w f.cf.toNat f.len { Op.new .done with isWrite := true }) := by
  intro u bytes hc hp hr w
  have hm := memOnly_releaseNow f.scope.toNat u
  have hw : padRelease f ps u = addOp f.cf.toNat { Op.new .done with isWrite := true } w := by
    have hb (q : PadAcc) : storeBytes f.ty.toNat (storeData (releaseNow f.scope.toNat u) f false q.lane) = bytes q := by
      unfold storeBytes storeData
      rw [if_neg Bool.false_ne_true, hm.readQ_eq]
    unfold padRelease
    simp only [hb]
    rfl
  have ha : padStoreAct x f clus u = .ok (advance (4 * f.len.words) (addOp f.cf.toNat { Op.new .done with isWrite := true } w)) := by
    rw [padStoreAct, hc, ← hw]
    dsimp only
    rw [if_neg (Bool.eq_false_iff.1 hp), if_neg ho, hr]
    rfl
  obtain ⟨hwg, hwc, hwl⟩ := modTeams_frame (fun q => q.tid) (fun q t => t.store q.off (bytes q)) ps (releaseNow f.scope.toNat u)
  have hcur := (hwc.trans hm.cur).trans (entered_cur h)
  have hlate := (hwl.trans hm.late).trans (entered_late h)
  obtain ⟨t, hn, hg, hf⟩ := ran_leaving (w := w) (e := addOp f.cf.toNat { Op.new .done with isWrite := true } w) h hx ha (hwg.trans hm.grp) hcur hcur hlate rfl
  exact ⟨t, hn, hg, (outsideSame_addOp ..).trans hf⟩

/-- Settles O43: the checks, the loads and the stores of the two kinds of scratchpad. -/
theorem scratchpads : Obligations.Scratchpads := by
  unfold Obligations.Scratchpads
  simp only [List.forall_mem_cons, List.not_mem_nil, false_imp_iff, implies_true, and_true]
  refine ⟨⟨fun f s h => pad_checks h rfl fun e => padLoadAct_error, fun f s h => pad_checks h rfl fun e => padStoreAct_error,
    fun f s h => pad_checks h rfl fun e => padLoadAct_error, fun f s h => pad_checks h rfl fun e => padStoreAct_error⟩, ?_, ?_⟩
  · exact ⟨fun f s ps h => padLoad_runs h rfl, fun f s ps h => padLoad_runs h rfl⟩
  · exact ⟨fun f s ps h hc hp => ⟨fun ho => padStore_runs h rfl (padStore_commits rfl (.inl rfl) ho) ho hc hp, fun ho => padRelease_runs h rfl ho hc hp⟩,
      fun f s ps h hc hp => ⟨fun ho => padStore_runs h rfl (padStore_commits rfl (.inr rfl) ho) ho hc hp, fun ho => padRelease_runs h rfl ho hc hp⟩⟩

end Sys2Proof.Proofs.Scratchpads

/-! PROOF. Atomics, reductions and signal posts at issue (R187, R190, R197): the operation that one leaves, and the state in which it is made. -/
namespace Sys2Proof.Proofs.Atomics
open Sys2Proof Sys2Proof.Machine Sys2Proof.Proofs.Caches Sys2Proof.Proofs.Control Sys2Proof.Proofs.Loads

/-! ### The state in which the operation is made -/

theorem memOnly_released (b : Bool) (f : MemF) (s : State) : MemOnly s (released b f s) := by
  cases b
  · exact .refl s
  · exact memOnly_releaseNow ..

/-- The lines of some lanes written back and dropped. -/
def linesFlushed (reqs : List AtomReq) (s : State) : State :=
  ((reqs.map (fun r => lineNo s r.acc.pa)).eraseDups).foldl (fun s l => flushLine s.grp.core l s) s

theorem memOnly_linesFlushed (reqs : List AtomReq) (s : State) : MemOnly s (linesFlushed reqs s) :=
  .foldl (fun s l => memOnly_flushLine s.grp.core l s) _ s

theorem atomReady_eq (f : MemF) (reqs : List AtomReq) (s : State) :
    atomReady' f reqs s =
      (let t := linesFlushed reqs (released (atomReleases f) f s)
       if f.ord = 4 then { t with ticket := t.ticket + 1 } else t) := rfl

section
variable (f : MemF) (reqs : List AtomReq) (s : State)

theorem memOnly_flushedLines : MemOnly s (linesFlushed reqs (released (atomReleases f) f s)) :=
  (memOnly_released (atomReleases f) f s).trans (memOnly_linesFlushed reqs _)

theorem atomReady_frame : (atomReady' f reqs s).grp = s.grp ∧ (atomReady' f reqs s).cur = s.cur ∧ (atomReady' f reqs s).late = s.late := by
  have h := memOnly_flushedLines f reqs s
  rw [atomReady_eq]
  dsimp only
  split <;> exact ⟨h.grp, h.cur, h.late⟩

theorem atomReady_peerLine (pa : Nat) : peerLine (atomReady' f reqs s) (lineNo (atomReady' f reqs s) pa) = peerLine s (lineNo s pa) := by
  have h := memOnly_flushedLines f reqs s
  have ht : peerLine (linesFlushed reqs (released (atomReleases f) f s)) (lineNo (linesFlushed reqs (released (atomReleases f) f s)) pa)
      = peerLine s (lineNo s pa) := by rw [h.peerLine_eq, h.lineNo_eq]
  rw [atomReady_eq]
  dsimp only
  split <;> exact ht

end

theorem complTrap_memOnly {s t : State} (h : MemOnly s t) (code : Nat) (lanes : BitVec 32) (va : Nat) :
    complTrap t code lanes va = complTrap s code lanes va := by
  rw [complTrap, h.slot_eq, h.cur]
  rfl

/-! ### The requests to peers -/

theorem memOnly_sendAtom (id ord : Nat) (a : AtomOp) (r : AtomReq) (s : State) : MemOnly s (sendAtom id ord a r s) := by
  unfold sendAtom
  split
  · exact .refl s
  · refine .trans (t := (if ord = 4 then nextSeq _ _ s else (0, s)).2) ?_ (memOnly_sendReq ..)
    split
    · exact memOnly_modFabric _ s
    · exact .refl s

/-- Lanes that are at home here ask no peer. -/
theorem sendAtoms_none (id ord : Nat) (a : AtomOp) {reqs : List AtomReq} {s : State} (h : ∀ r ∈ reqs, peerLine s (lineNo s r.acc.pa) = none) :
    reqs.foldl (fun s r => sendAtom id ord a r s) s = s := by
  induction reqs with
  | nil => rfl
  | cons r reqs ih =>
    have hr : sendAtom id ord a r s = s := by rw [sendAtom, h r (.head _)]
    rw [List.foldl_cons, hr]
    exact ih fun q hq => h q (.tail _ hq)

/-- The ticket of a seq-cst operation (R190). -/
def ticketed (f : MemF) (s : State) : Option Nat × State := if f.ord = 4 then (let t := takeTicket s; (some t.1, t.2)) else (none, s)

/-- The operation, and then the requests. -/
theorem atomEff_eq (f : MemF) (k : AtomKind) (ty qm : Nat) (ret : Bool) (reqs : List AtomReq) (va : Nat) (u : State) :
    ∃ id a, atomEff f k ty qm ret reqs va (released (atomReleases f) f u) =
      reqs.foldl (fun s r => sendAtom id f.ord.toNat a r s)
        (addOp f.cf.toNat (atomOf f k ty qm ret reqs va (if f.ord = 4 then some (u.ticket + 1) else none) u) (atomReady' f reqs u)) := by
  have hc := complTrap_memOnly (memOnly_released (atomReleases f) f u) 0 0 va
  have ht := (memOnly_flushedLines f reqs u).ticket
  have ho : (if f.ord = 4 then some (u.ticket + 1) else none) = (ticketed f (linesFlushed reqs (released (atomReleases f) f u))).1 := by
    unfold ticketed
    split
    · rw [takeTicket, ht]
    · rfl
  have hw : atomReady' f reqs u = (ticketed f (linesFlushed reqs (released (atomReleases f) f u))).2 := by
    rw [atomReady_eq, ticketed]
    dsimp only
    split <;> rfl
  rw [ho, hw]
  unfold atomEff
  rw [hc]
  exact ⟨_, _, rfl⟩

/-- An atomic, whose checks pass and which nothing holds. -/
theorem atom_runs {x : Instr} {f : MemF} {s : State} {act : State → Except Stop State} {k : AtomKind} {ty qm : Nat} {ret : Bool} {reqs : List AtomReq} {va : Nat}
    {tk : Option Nat} (h : clear x s = true) (hx : exec x s = issueE x act s)
    (ha : act (entered x s) = .ok (advance (4 * f.len.words) (atomEff f k ty qm ret reqs va (released (atomReleases f) f (entered x s)))))
    (htk : (if f.ord = 4 then some ((entered x s).ticket + 1) else none) = tk) :
    let u := entered x s
    let w := atomReady' f reqs u
    let o := atomOf f k ty qm ret reqs va tk u
    (∃ t, exec x s = .next t ∧ t.grp = w.grp.leaving x w f.cf.toNat f.len o)
    ∧ ((∀ r ∈ reqs, peerLine u (lineNo u r.acc.pa) = none) → YieldsIn x s w (w.grp.leaving x w f.cf.toNat f.len o)) := by
  subst htk
  intro u w o
  obtain ⟨id, a, he⟩ := atomEff_eq f k ty qm ret reqs va u
  have hm : MemOnly (addOp f.cf.toNat o w) (atomEff f k ty qm ret reqs va (released (atomReleases f) f u)) := by
    rw [he]
    exact .foldl (fun s r => memOnly_sendAtom id _ a r s) _ _
  obtain ⟨hg, hc, hl⟩ := atomReady_frame f reqs u
  have hwc : w.cur = s.cur := hc.trans (entered_cur h)
  obtain ⟨t, hn, ht, hf⟩ := ran_leaving (w := w) h hx ha hg hwc (hm.cur.trans hwc) (hm.late.trans (hl.trans (entered_late h))) hm.grp
  refine ⟨⟨t, hn, ht⟩, fun hp => ⟨t, hn, ht, ?_⟩⟩
  rw [he, sendAtoms_none] at hf
  · exact (outsideSame_addOp ..).trans hf
  · exact fun r hr => (atomReady_peerLine f reqs u r.acc.pa).trans (hp r hr)

/-! ### The forms -/

/-- A lane's operation, with its operands as they are at issue (R28). -/
theorem reqOf_eq (s : State) (f : MemF) (k : AtomKind) (w : Nat) (a : LaneAcc) :
    reqOf s f k w a =
      (let one := fun (r l : Nat) => BitVec.ofNat 64 (elem (lane (readQ s r) l) 0 w)
       let nv : Word := if k = .cas then one (f.d.toNat + 1) a.lane else 0
       { acc := a, operand := one f.d.toNat a.lane, newVal := nv, done := false, old := 0, bad := false, no := false }) := rfl

theorem firstAt_eq (accs : List LaneAcc) : firstAt (accs.map (fun a => (a.lane, a.va))) = (accs.head?.map LaneAcc.va).getD 0 := by
  cases accs <;> rfl

/-- ATOM, RED and ACAS. -/
theorem atomAct_ok {x : Instr} {f : MemF} {k : AtomKind} {ret : Bool} {u : State} {accs : List LaneAcc}
    (hr : Reaches u (laneVas u x f) (tyBytes f.ty.toNat) needAtomic accs) (hs : atomStop u f (ret && k != .cas) = none) :
    atomAct x f k ret u = .ok (advance (4 * f.len.words) (atomEff f k f.ty.toNat (if k = .rmw 9 then u.grp.qmode else 0) ret
      (accs.map (reqOf u f k (tyWidth f.ty.toNat))) (firstAt (accs.map (fun a => (a.lane, a.va)))) (released (atomReleases f) f u))) := by
  unfold atomAct
  dsimp only
  rw [accCheck_reaches hr]
  dsimp only
  rw [hs, firstAt_eq]
  rfl

/-- SIGP (R197). -/
theorem sigpAct_ok {f : MemF} {u : State} {a : LaneAcc} (hr : Reaches u [(0, baseVa u f)] 8 needAtomic [a]) (hs : atomStop u f false = none) :
    sigpAct f u = .ok (advance (4 * f.len.words) (atomEff f (.rmw 0) 6 0 false
      [{ acc := a, operand := readS u f.d.toNat, newVal := 0, done := false, old := 0, bad := false, no := false }] (baseVa u f)
      (released (atomReleases f) f u))) := by
  unfold sigpAct
  dsimp only
  rw [accCheck_reaches hr]
  dsimp only
  rw [hs]
  rfl

/-- SIGP is never seq-cst (R197). -/
theorem sigp_ord {f : MemF} {s : State} (h : clear (.sigp f) s = true) : f.ord ≠ 4 := by
  have hill := (clear_parts h).2.2.1
  simp only [illHere, Bool.or_eq_false_iff] at hill
  obtain ⟨⟨⟨⟨⟨⟨hwf, _⟩, _⟩, _⟩, _⟩, _⟩, _⟩ := hill
  intro h4
  have hck := Laws.Parses.check_of_wf (i := .sigp f) (by simpa using hwf) (List.mem_of_getElem? (i := 7) rfl)
  simp only [h4, mRow, Bool.and_eq_true] at hck
  exact absurd hck.1 (by decide)

/-- Every atomic, reduction and ACAS is the act of its kind. -/
theorem exec_atomForms : ∀ p ∈ atomForms, ∀ (f : MemF) (s : State), exec (p.1 f) s = issueE (p.1 f) (atomAct (p.1 f) f p.2.1 p.2.2) s := by
  unfold atomForms
  simp only [List.forall_mem_cons, List.not_mem_nil, false_imp_iff, implies_true, and_true]
  and_intros <;> exact fun _ _ => rfl

/-- Settles O48: every form is one act; SIGP's is that of a reduction of one word. -/
theorem atomicsIssue : Obligations.AtomicsIssue := by
  unfold Obligations.AtomicsIssue
  refine ⟨fun p hp f s accs h hr hs => ?_, fun f s a h hr hs => ?_⟩
  · obtain ⟨hrun, hin⟩ := atom_runs h (exec_atomForms p hp f s) (atomAct_ok hr hs) rfl
    exact ⟨hrun, fun hp => hin (List.forall_mem_map.2 hp)⟩
  · obtain ⟨hrun, hin⟩ := atom_runs h rfl (sigpAct_ok hr hs) (if_neg (sigp_ord h))
    exact ⟨hrun, fun hp => hin (List.forall_mem_singleton.2 hp)⟩

end Sys2Proof.Proofs.Atomics

/-! PROOF. Completion (R25, R173, R195, R344, R358): an operation writes its registers, ORs its flags and counts its flag down in one step. -/
namespace Sys2Proof.Proofs.Completion
open Sys2Proof Sys2Proof.Machine

/-- The group without an operation that has written its results and counted its flag down. -/
def plainly (g : Group) (o : Op) (s : State) : State := bump (modGroup g.gid (fun h =>
  { countOff o.slot o.flag (((h.applyAll o.slot o.writes).orFp o.fp).orQ o.qp) with ops := h.ops.filter (fun p => p.id != o.id) }) s)

/-- Nothing in the way of an operation's results: its group does not drain, its region stands, and it neither traps nor has a status. -/
def Quiet (g : Group) (o : Op) : Prop := g.life ≠ .draining ∧ o.void = false ∧ o.trap = none ∧ o.ms = 0

theorem applyAll_ops (g : Group) (sl : Bool) (ws : List RegWrite) : (g.applyAll sl ws).ops = g.ops := by
  induction ws generalizing g with
  | nil => rfl
  | cons w ws ih =>
    refine (ih _).trans ?_
    cases w with
    | vec d m v bits => rfl
    | scal d v bits =>
      show (g.writeS sl d v bits).ops = g.ops
      unfold Group.writeS
      split
      · rfl
      · exact Group.modSlot_ops ..
    | amax k op mag nan => rfl

/-- Results written leave the operations as they are. -/
theorem written_ops (g : Group) (o : Op) : (((g.applyAll o.slot o.writes).orFp o.fp).orQ o.qp).ops = g.ops := applyAll_ops ..

theorem modGroup_change (gid : Nat) (f : Group → Group) (s : State) : (modGroup gid f s).change = s.change := by
  unfold modGroup
  split <;> rfl

/-- A completion without its count of changes. -/
theorem plainly_unbumped (g : Group) (o : Op) (s : State) : ({ plainly g o s with change := s.change } : State) = modGroup g.gid (fun h =>
    { countOff o.slot o.flag (((h.applyAll o.slot o.writes).orFp o.fp).orQ o.qp) with ops := h.ops.filter (fun p => p.id != o.id) }) s := by
  rw [plainly, bump, ← modGroup_change g.gid _ s]

section
variable {g : Group} {o : Op} {s : State} (hg : groupOf s g.gid = some g)
include hg

/-- The completion of an operation whose results count. -/
theorem completeOp_kept (hl : g.life ≠ .draining) (hv : o.void = false) (hm : o.ms = 0) :
    completeOp g.gid o s = match o.trap with
      | some t => bump (reportTrap g.gid t { plainly g o s with change := s.change })
      | none => plainly g o s := by
  have hkeep : (g.life == .draining || o.void) = false := by simp [hl, hv]
  unfold completeOp
  rw [hg]
  simp only [hkeep, Bool.false_eq_true, if_false, if_pos hm, written_ops, plainly_unbumped]
  cases o.trap <;> rfl

theorem completeOp_quiet (h : Quiet g o) : completeOp g.gid o s = plainly g o s := by
  obtain ⟨hl, hv, ht, hm⟩ := h
  rw [completeOp_kept hg hl hv hm, ht]

/-- The completion of an operation of a draining group (R229). -/
theorem completeOp_draining (hl : g.life = .draining) (hm : o.ms = 0) :
    completeOp g.gid o s = bump (modGroup g.gid (fun h => { countOff o.slot o.flag h with ops := h.ops.filter (fun p => p.id != o.id) }) s) := by
  have hkeep : (g.life == .draining || o.void) = true := by simp [hl]
  unfold completeOp
  rw [hg]
  simp only [hkeep, if_true, if_pos hm]
  cases o.trap <;> rfl

end

/-! ### Operations that are no memory operations -/

section
variable {g : Group} {o : Op} {s : State} (hf : findOp s o.id = some (g, o))
include hf

theorem operationComplete_eq (hr : opReady s g o = true) : exec (.operationComplete o.id) s = .next (finishOp g o s) := by
  show Host.Outcome.next (match findOp s o.id with | some (g, o) => if opReady s g o then finishOp g o s else s | none => s) = _
  rw [hf]
  exact congrArg _ (if_pos hr)

theorem memoryOpComplete_eq (hr : memReady s g o = true) : exec (.memoryOpComplete o.id) s = .next (settleInv g.part (finishMem g o s)) := by
  show Host.Outcome.next (match findOp s o.id with | some (g, o) => if memReady s g o then settleInv g.part (finishMem g o s) else s | none => s) = _
  rw [hf]
  exact congrArg _ (if_pos hr)

theorem operationComplete_done (hk : o.kind = .done) (hl : o.isLoad = false) (hw : o.isWrite = false) :
    exec (.operationComplete o.id) s = .next (completeOp g.gid o s) := by
  rw [operationComplete_eq hf (by simp [opReady, hk, hl, hw]), finishOp, hk]

theorem memoryOpComplete_done (hk : o.kind = .done) (hw : o.isLoad = true ∨ o.isWrite = true) :
    exec (.memoryOpComplete o.id) s = .next (settleInv g.part (completeOp g.gid { o with kind := .done } s)) := by
  rw [memoryOpComplete_eq hf (by simpa [memReady, hk] using hw), finishMem, hk]

/-- A drain (R344). -/
theorem operationComplete_mdrn {t : Team} {d tile row nreg ty rm amx amop : Nat} {nsat : Bool} {mul : Option Nat}
    (hk : o.kind = .mdrn d tile row nreg ty rm amx amop nsat mul) (hr : mdrnReady s g o = true) (ht : teamOf s g.team = some t) :
    exec (.operationComplete o.id) s = .next (completeOp g.gid (mdrnResult s t o) { s with free := s.free + 1024 }) := by
  rw [operationComplete_eq hf (by rw [opReady, hk]; exact hr), finishOp, hk, ht]

/-! ### Waits, presence bits and streams -/

/-- A wait at a barrier without an acquire ends once its phase is over (R195). -/
theorem memoryOpComplete_barw {clus par : Bool} {k ph scope : Nat} (hk : o.kind = .barw clus k ph par 0 scope)
    (hd : ∃ b : Barrier, (if clus then (clusterOf s g.cluster).map (fun c => vget c.cb k (.fresh 0)) else (teamOf s g.team).map (fun t => vget t.bars k (.fresh 0))) = some b
      ∧ phaseDone b ph = true) :
    exec (.memoryOpComplete o.id) s = .next (settleInv g.part (completeOp g.gid { o with kind := .done } s)) := by
  obtain ⟨b, hb, hp⟩ := hd
  have hbar : barOfGroup s g clus k = b := by
    unfold barOfGroup
    cases clus
    · obtain ⟨t, ht, rfl⟩ := Option.map_eq_some_iff.1 hb
      simp [ht]
    · obtain ⟨c, hc, rfl⟩ := Option.map_eq_some_iff.1 hb
      simp [hc]
  rw [memoryOpComplete_eq hf (by rw [memReady, hk]; dsimp only; rw [barwReady, hk]; dsimp only; rw [hbar, hp]), finishMem, hk]
  rfl

/-- A wait for a ticket ends with the epoch at which its range was freed (R202). -/
theorem memoryOpComplete_gpwt {t d e : Nat} (hk : o.kind = .gpwt t d) (he : s.weir.freed.find? (fun x => x.1 == t) = some (t, e)) :
    exec (.memoryOpComplete o.id) s = .next (settleInv g.part
      (completeOp g.gid { o with kind := .done, writes := [.scal d (BitVec.ofNat 64 e) allBits] } s)) := by
  have hr : gpwtReady s o = some e := by rw [gpwtReady, hk]; dsimp only; rw [he]; rfl
  rw [memoryOpComplete_eq hf (by rw [memReady, hk]; dsimp only; rw [hr]; rfl), finishMem, hk]
  dsimp only
  rw [hr]

/-- A request to peers completes once it is answered. -/
theorem memoryOpComplete_peer {tags : List Nat} {t : TrapInfo} (hk : o.kind = .peer tags t) (ha : ∀ r ∈ s.fabric.reqs, r.tag ∉ tags) :
    exec (.memoryOpComplete o.id) s = .next (settleInv g.part (completeOp g.gid { o with kind := .done } s)) := by
  have hr : answered s tags = true := by simpa [answered] using ha
  rw [memoryOpComplete_eq hf (by rw [memReady, hk]; exact hr), finishMem, hk]

/-- Presence bits take effect at completion (R179). -/
theorem memoryOpComplete_pres {tid line mask : Nat} {v : Bool} (hk : o.kind = .pres tid line mask v) :
    exec (.memoryOpComplete o.id) s = .next (settleInv g.part (completeOp g.gid { o with kind := .done } (presApply tid line mask v s))) := by
  rw [memoryOpComplete_eq hf (by rw [memReady, hk]), finishMem, hk]

/-- A stream is bound, or not, once its record is there (R358). -/
theorem memoryOpComplete_hrst {h : Gather} {q : Nat} (hk : o.kind = .hrst h q) (hm : h.missing = []) :
    exec (.memoryOpComplete o.id) s = .next (settleInv g.part (hrstDone g.gid o h q s)) := by
  rw [memoryOpComplete_eq hf (by rw [memReady, hk]; simp [hrstReady, hm]), finishMem, hk]

end

/-- The words of a stream's record. -/
def recordOf (h : Gather) : List Word := h.accs.map (fun a => ((assocGet a.pa h.got).getD ⟨0, 0⟩).data)

theorem hrstDone_binds {gid : Nat} {o : Op} {h : Gather} {q : Nat} {s : State} (hn : h.no = []) (hv : walkValid (recordOf h) false = true)
    (hx : (walkOf (recordOf h)).ext.getD 4 0 = 1) :
    let y := bindQueue (walkOf (recordOf h)) h.tmpl
    hrstDone gid o h q s = completeOp gid { o with kind := .done, trap := none } (modGroup gid (fun g => { g with
      queues := vset g.queues q (some y),
      start := if o.region = g.region then g.start else { g.start with queues := vset g.start.queues q (some y) } }) s) := by
  intro y
  have hb : (fun g : Group => g.bind o q y) = fun g => { g with
      queues := vset g.queues q (some y),
      start := if o.region = g.region then g.start else { g.start with queues := vset g.start.queues q (some y) } } := by
    funext g
    unfold Group.bind
    by_cases hr : o.region = g.region <;> simp [hr]
  rw [← hb]
  exact if_pos (show (h.no.isEmpty && walkValid (recordOf h) false && (walkOf (recordOf h)).ext.getD 4 0 == 1) = true by rw [hn, hv, hx]; rfl)

theorem hrstDone_refuses {gid : Nat} {o : Op} {h : Gather} {q : Nat} {s : State}
    (hv : walkValid (recordOf h) false = false ∨ (walkOf (recordOf h)).ext.getD 4 0 ≠ 1) : hrstDone gid o h q s = completeOp gid { o with kind := .done } s := by
  refine if_neg (show ¬ (h.no.isEmpty && walkValid (recordOf h) false && (walkOf (recordOf h)).ext.getD 4 0 == 1) = true from ?_)
  simp only [Bool.and_eq_true, beq_iff_eq]
  rintro ⟨⟨_, h1⟩, h2⟩
  rcases hv with hv | hv
  · rw [hv] at h1
    cases h1
  · exact hv h2

end Sys2Proof.Proofs.Completion

/-! PROOF. Writes performed at home (R86, R241, R242, R266): the word written reads back, every word of another place is as it was, and a dirty line of a
die's cache that is written back is gone from it. -/
namespace Sys2Proof.Proofs.HomeWrites
open Sys2Proof Sys2Proof.Machine Sys2Proof.Proofs.Caches Sys2Proof.Proofs.EncodeDecode Sys2Proof.Proofs.Words

/-! ### Bytes of a word -/

theorem leBytes_eq (n v : Nat) : leBytes n v = (List.range n).map (fun i => BitVec.ofNat 8 (v >>> (8 * i))) := by
  induction n generalizing v with
  | zero => rfl
  | succ n ih =>
    rw [leBytes, ih, List.range_succ_eq_map, List.map_cons, List.map_map]
    congr 1
    refine List.map_congr_left fun i _ => congrArg (BitVec.ofNat 8) ?_
    rw [show 8 * i.succ = 8 + 8 * i by omega, Nat.shiftRight_add, Nat.shiftRight_eq_div_pow v 8]

theorem leNat_eq (bs : List Byte) : leNat bs = bs.foldr (fun b acc => b.toNat + 256 * acc) 0 := by
  induction bs with
  | nil => rfl
  | cons b bs ih => rw [leNat, ih, List.foldr_cons]

@[simp] theorem length_bytesOf (w : Word) : (bytesOf w).length = 8 := by simp [bytesOf]

theorem wordOfBytes_bytesOf (w : Word) : wordOfBytes (bytesOf w) = w := by
  have hb : bytesOf w = leBytes 8 w.toNat := (leBytes_eq 8 w.toNat).symm
  have hn : leNat (leBytes 8 w.toNat) = w.toNat := leNat_leBytes (by have := w.isLt; omega)
  rw [wordOfBytes, List.take_of_length_le (by simp), ← leNat_eq, hb, hn, BitVec.ofNat_toNat, BitVec.setWidth_eq]

theorem readBytes_eq (s : State) (p n : Nat) : readBytes s p n = (List.range n).map (fun i => readByte s (p + i)) := by
  induction n generalizing p with
  | zero => rfl
  | succ n ih =>
    rw [readBytes, ih, List.range_succ_eq_map, List.map_cons, List.map_map]
    congr 1
    exact List.map_congr_left fun i _ => by rw [Function.comp_apply, show p + 1 + i = p + (i + 1) by omega]

/-- A word is its eight bytes and its postmark. -/
theorem homeWord_congr {s t : State} {pa : Nat} (hb : ∀ i < 8, readByte t (pa / 8 * 8 + i) = readByte s (pa / 8 * 8 + i))
    (hm : readMark t pa = readMark s pa) : homeWord t pa = homeWord s pa := by
  rw [homeWord, homeWord, readBytes_eq, readBytes_eq, hm, List.map_congr_left fun i hi => hb i (List.mem_range.1 hi)]

/-! ### Bytes written -/

/-- Bytes written side by side read back. -/
theorem readByte_writeBytes {s : State} {p c : Nat} {bs : List Byte} (hc : ∀ i < bs.length, canonPa s (p + i) = c + i) {i : Nat} (hi : i < bs.length) :
    readByte (writeBytes s p bs) (p + i) = bs.getD i 0 := by
  induction bs generalizing s p c i with
  | nil => cases hi
  | cons b bs ih =>
    have hc' (j : Nat) (hj : j < bs.length) : canonPa (writeByte s p b) (p + 1 + j) = c + 1 + j := by
      rw [canonPa_congr (writeByte_mgmt s p b), show p + 1 + j = p + (j + 1) by omega, hc (j + 1) (by simpa using hj)]
      omega
    show readByte (writeBytes (writeByte s p b) (p + 1) bs) (p + i) = _
    cases i with
    | zero =>
      rw [readByte_writeBytes_other, Nat.add_zero, readByte_writeByte_self]
      · rfl
      · intro j hj
        rw [hc' j hj, canonPa_congr (writeByte_mgmt s p b), hc 0 (by simp)]
        omega
    | succ i =>
      rw [show p + (i + 1) = p + 1 + i by omega, ih hc' (by simpa using hi)]
      rfl

/-! ### A word written -/

theorem readByte_homeWrite (s : State) (p : Nat) (w : TWord) (a : Nat) :
    readByte (homeWrite s p w) a = readByte (writeBytes s (p / 8 * 8) (bytesOf w.data)) a :=
  (readByte_setValid ..).trans (readByte_writeMark (writeBytes s (p / 8 * 8) (bytesOf w.data)) p w.mark a)

/-- A postmark written, but for host memory (R245). -/
theorem readMark_homeWrite {s : State} {p : Nat} (hp : homeOf s p ≠ .host) (w : TWord) {a : Nat} (ha : homeOf s a ≠ .host) :
    readMark (homeWrite s p w) a = if canonPa s a / 8 = canonPa s p / 8 then w.mark else readMark s a := by
  have hm (b : Nat) : homeOf (homeWrite s p w) b = homeOf s b := (memOnly_homeWrite s p w).homeOf_eq b
  have hb := memOnly_writeBytes (bytesOf w.data) s (p / 8 * 8)
  have hmarks : (homeWrite s p w).marks = canonSet 0 (canonPa s p / 8) w.mark s.marks := by
    have hset (t : State) : (setValid (sigNote t p) p true).marks = t.marks := by
      unfold setValid
      split <;> rfl
    have hwb (bs : List Byte) (t : State) (q : Nat) : (writeBytes t q bs).marks = t.marks := by
      induction bs generalizing t q with
      | nil => rfl
      | cons b bs ih => exact ih _ _
    refine (hset _).trans ?_
    rw [writeMark, if_neg (by rwa [hb.homeOf_eq]), hb.canonPa_eq]
    exact congrArg (canonSet 0 (canonPa s p / 8) w.mark) (hwb ..)
  have hca : canonPa (homeWrite s p w) a = canonPa s a := (memOnly_homeWrite s p w).canonPa_eq a
  rw [readMark, if_neg (by rwa [hm]), readMark, if_neg ha, hmarks, hca]
  split
  · rename_i e
    rw [e, canonGet_canonSet_self]
  · rename_i e
    exact canonGet_canonSet_other _ _ e _

/-! ### A line of local memory -/

section
variable {s : State} {line : Nat} (h : homeOf s (line * 128) = .localMem)
include h

/-- The bytes of a local line lie side by side, from a boundary on (R243). -/
theorem canonPa_line {i : Nat} (hi : i < 128) :
    homeOf s (line * 128 + i) = .localMem ∧ canonPa s (line * 128 + i) = canonPa s (line * 128) + i ∧ canonPa s (line * 128) % 128 = 0 := by
  unfold homeOf at h
  unfold homeOf canonPa
  generalize s.mgmt.device = d at *
  simp only [Bool.and_eq_true, decide_eq_true_eq] at h ⊢
  split at h
  · refine ⟨if_pos (by omega), ?_, ?_⟩ <;> (repeat rw [if_neg (by omega)])
    omega
  · split at h
    · split at h
      · rename_i hfar hpod hdev
        have hdev' : (line * 128 + i - 0x100000000000) / 2 ^ 40 = d := by
          obtain ⟨k, hk⟩ := Nat.exists_eq_add_of_le hpod.1
          rw [show line * 128 - 0x100000000000 = k by omega] at hdev
          rw [show line * 128 + i - 0x100000000000 = k + i by omega]
          omega
        have hpod' : 0x100000000000 ≤ line * 128 + i ∧ line * 128 + i < 0x200000000000 := by omega
        rw [if_neg (by omega), if_pos hpod', if_pos hdev', if_pos ⟨hpod', hdev'⟩, if_pos ⟨hpod, hdev⟩]
        exact ⟨rfl, by omega, by omega⟩
      · cases h
    · split at h <;> cases h

/-- No byte of another place has changed. -/
theorem readByte_homeWrite_other {i a : Nat} (hi : i < 16) (w : TWord) (ha : ∀ j < 8, canonPa s a ≠ canonPa s (line * 128) + (8 * i + j)) :
    readByte (homeWrite s (line * 128 + 8 * i) w) a = readByte s a := by
  rw [readByte_homeWrite, show (line * 128 + 8 * i) / 8 * 8 = line * 128 + 8 * i by omega]
  refine readByte_writeBytes_other _ s _ a fun j hj => ?_
  rw [length_bytesOf] at hj
  rw [Nat.add_assoc, (canonPa_line h (by omega)).2.1]
  exact ha j hj

/-- A word of the line reads back as it was written, and no other word of it has changed. -/
theorem homeWord_homeWrite {i k : Nat} (hi : i < 16) (hk : k < 16) (w : TWord) :
    homeWord (homeWrite s (line * 128 + 8 * i) w) (line * 128 + 8 * k) = if k = i then w else homeWord s (line * 128 + 8 * k) := by
  have hpi : (line * 128 + 8 * i) / 8 * 8 = line * 128 + 8 * i := by omega
  have hpk : (line * 128 + 8 * k) / 8 * 8 = line * 128 + 8 * k := by omega
  obtain ⟨hli, hci, -⟩ := canonPa_line h (i := 8 * i) (by omega)
  obtain ⟨hlk, hck, h128⟩ := canonPa_line h (i := 8 * k) (by omega)
  have hmark := readMark_homeWrite (s := s) (p := line * 128 + 8 * i) (by rw [hli]; nofun) w (a := line * 128 + 8 * k) (by rw [hlk]; nofun)
  rw [hci, hck] at hmark
  split
  · rename_i e
    subst e
    have hbyte (j : Nat) (hj : j < 8) : readByte (homeWrite s (line * 128 + 8 * k) w) (line * 128 + 8 * k + j) = (bytesOf w.data).getD j 0 := by
      rw [readByte_homeWrite, hpk]
      refine readByte_writeBytes (c := canonPa s (line * 128) + 8 * k) (fun j hj => ?_) (by simpa using hj)
      rw [length_bytesOf] at hj
      rw [Nat.add_assoc, (canonPa_line h (by omega)).2.1, Nat.add_assoc]
    have hbytes : readBytes (homeWrite s (line * 128 + 8 * k) w) (line * 128 + 8 * k) 8 = bytesOf w.data := by
      rw [readBytes_eq, List.map_congr_left fun j hj => hbyte j (List.mem_range.1 hj)]
      exact List.ext_getElem (by simp) fun j h1 h2 => by rw [List.getElem_map, List.getElem_range, List.getD_eq_getElem _ _ h2]
    rw [homeWord, hpk, hbytes, wordOfBytes_bytesOf, hmark, if_pos rfl]
  · rename_i hne
    refine homeWord_congr (fun j hj => ?_) (hmark.trans (if_neg (by omega)))
    refine readByte_homeWrite_other h hi w fun m hm => ?_
    rw [hpk, Nat.add_assoc, (canonPa_line h (by omega)).2.1]
    omega

end

/-! ### A line's dirty words performed at home (R241, R242) -/

/-- One dirty word of a line performed at its home. -/
def performWord (x : CLine) (s : State) (i : Nat) : State :=
  if (x.word i).valid && (x.word i).dirty then homeWrite s (x.line * 128 + 8 * i) (x.word i).w else s

theorem performLine_eq (x : CLine) (s : State) : performLine x s = (List.range 16).foldl (performWord x) (accept s (x.line * 128)) := rfl

theorem memOnly_performWord (x : CLine) (s : State) (i : Nat) : MemOnly s (performWord x s i) := .ite (memOnly_homeWrite ..) (.refl s)

section
variable {x : CLine} {l : List Nat} (hl : ∀ i ∈ l, i < 16)
include hl

theorem homeWord_performWords {s : State} (h : homeOf s (x.line * 128) = .localMem) {k : Nat} (hk : k < 16) (hv : (x.word k).valid = true) (hd : (x.word k).dirty = true) :
    homeWord (l.foldl (performWord x) s) (x.line * 128 + 8 * k) = if k ∈ l then (x.word k).w else homeWord s (x.line * 128 + 8 * k) := by
  induction l generalizing s with
  | nil => simp
  | cons i l ih =>
    have hi := hl i (.head _)
    have hone : homeWord (performWord x s i) (x.line * 128 + 8 * k) = if k = i then (x.word k).w else homeWord s (x.line * 128 + 8 * k) := by
      unfold performWord
      split
      · rw [homeWord_homeWrite h hi hk]
        split
        · rename_i e
          rw [e]
        · rfl
      · rename_i hnd
        rw [if_neg]
        rintro rfl
        simp [hv, hd] at hnd
    rw [List.foldl_cons, ih (fun j hj => hl j (.tail _ hj)) (by rwa [(memOnly_performWord x s i).homeOf_eq]), hone]
    by_cases hki : k = i <;> by_cases hkl : k ∈ l <;> simp [hki, hkl]

theorem readByte_performWords {s : State} (h : homeOf s (x.line * 128) = .localMem) {a : Nat} (ha : canonPa s a / 128 ≠ canonPa s (x.line * 128) / 128) :
    readByte (l.foldl (performWord x) s) a = readByte s a := by
  induction l generalizing s with
  | nil => rfl
  | cons i l ih =>
    have hi := hl i (.head _)
    have hm := memOnly_performWord x s i
    rw [List.foldl_cons, ih (fun j hj => hl j (.tail _ hj)) (by rwa [hm.homeOf_eq]) (by rwa [hm.canonPa_eq, hm.canonPa_eq])]
    unfold performWord
    split
    · have h128 := (canonPa_line h (i := 0) (by omega)).2.2
      exact readByte_homeWrite_other h hi _ fun j hj he => ha (by omega)
    · rfl

end

theorem readByte_accept (s : State) (pa a : Nat) : readByte (accept s pa) a = readByte s a := by
  unfold accept
  split
  · split <;> rfl
  · rfl

theorem die_modDie {d : Nat} (f : Die → Die) (s : State) (hd : d < 8) : die (modDie d f s) d = f (die s d) := vget_vmod_self _ _ hd f

/-- A line dropped from a die's cache is gone from it. -/
theorem findLine_dieDrop {d line : Nat} (s : State) (hd : d < 8) : findLine (die (bump (dieDrop d line s)) d).lines line = none := by
  have hl : (die (bump (dieDrop d line s)) d).lines = (die s d).lines.filter (fun x => x.line != line) := by
    show (die (modDie d _ (modDie d _ s)) d).lines = _
    rw [die_modDie _ _ hd, die_modDie _ _ hd]
  rw [hl]
  exact List.find?_eq_none.2 fun y hy => by simpa using (List.mem_filter.1 hy).2

/-- What a state's memory reads as depends on memory and on the device's number alone. -/
theorem reads_congr {s t : State} (hm : t.mem = s.mem) (hk : t.marks = s.marks) (hd : t.mgmt = s.mgmt) (pa : Nat) :
    readByte t pa = readByte s pa ∧ homeWord t pa = homeWord s pa := by
  have hb (a : Nat) : readByte t a = readByte s a := by rw [readByte, readByte, hm, canonPa_congr hd]
  have hh : homeOf t pa = homeOf s pa := by rw [homeOf, homeOf, hd]
  exact ⟨hb pa, homeWord_congr (fun i _ => hb _) (by rw [readMark, readMark, hh, hk, canonPa_congr hd])⟩

theorem reads_dropped (d line : Nat) (s : State) (pa : Nat) :
    readByte (bump (dieDrop d line s)) pa = readByte s pa ∧ homeWord (bump (dieDrop d line s)) pa = homeWord s pa := reads_congr rfl rfl rfl pa

theorem writeHome_local {s : State} {r : Nat} {x : CLine} {cnt : Option Nat} (hh : lineHeld s r x.line = false) (hp : peerLine s x.line = none) :
    writeHome r x cnt s = performLine x s := by
  rw [writeHome, if_neg (Bool.eq_false_iff.1 hh), hp]

/-- A dirty line of a die's cache is performed at its home, and is gone from the cache. -/
theorem homeWritePerform_local {s : State} {d line : Nat} {x : CLine} (hd : d < 8) (hf : findLine (die s d).lines line = some x) (hx : x.isDirty = true)
    (hh : lineHeld s (48 * d) line = false) (h : homeOf s (line * 128) = .localMem) :
    ∃ t, exec (.homeWritePerform d line) s = .next t ∧ findLine (die t d).lines line = none
      ∧ (∀ k < 16, (x.word k).valid = true → (x.word k).dirty = true → homeWord t (line * 128 + 8 * k) = (x.word k).w)
      ∧ ∀ a, canonPa s a / 128 ≠ canonPa s (line * 128) / 128 → readByte t a = readByte s a := by
  obtain rfl : x.line = line := by simpa using List.find?_some hf
  let u := modDie d (fun q => { q with lines := q.lines.map (fun y => if y.line = x.line then y.clean else y) }) s
  have hu : MemOnly s u := memOnly_modDie ..
  have hpeer : peerLine u x.line = none := by
    rw [hu.peerLine_eq, peerLine, h]
  have hback : dieWriteBack d (48 * d) x.line none s = performLine x u := by
    unfold dieWriteBack
    rw [hf]
    dsimp only
    rw [if_pos hx]
    exact writeHome_local hh hpeer
  have hn : exec (.homeWritePerform d x.line) s = .next (bump (dieDrop d x.line (performLine x u))) := by
    show Host.Outcome.next (match findLine (die s d).lines x.line with
      | some x' => if x'.isDirty && ! lineHeld s (dieReq d) x.line then bump (dieDrop d x.line (dieWriteBack d (dieReq d) x.line none s)) else s
      | none => s) = _
    rw [hf, dieReq, hback]
    exact congrArg _ (if_pos (by simp [hx, hh]))
  have hacc := memOnly_accept u (x.line * 128)
  have hloc : homeOf (accept u (x.line * 128)) (x.line * 128) = .localMem := by rw [hacc.homeOf_eq, hu.homeOf_eq, h]
  have h16 (i : Nat) (hi : i ∈ List.range 16) : i < 16 := List.mem_range.1 hi
  refine ⟨_, hn, findLine_dieDrop (performLine x u) hd, fun k hk hv hdk => ?_, fun a ha => ?_⟩
  · rw [(reads_dropped ..).2, performLine_eq, homeWord_performWords h16 hloc hk hv hdk, if_pos (List.mem_range.2 hk)]
  · rw [(reads_dropped ..).1, performLine_eq, readByte_performWords h16 hloc (by rwa [hacc.canonPa_eq, hacc.canonPa_eq, hu.canonPa_eq, hu.canonPa_eq]), readByte_accept]
    exact (reads_congr rfl rfl rfl a).1

end Sys2Proof.Proofs.HomeWrites

/-! PROOF. Walks (R314, R316, R317): a walk that finds a translation keeps it; one that finds none parks its slots under a token. -/
namespace Sys2Proof.Proofs.Walks
open Sys2Proof Sys2Proof.Machine Sys2Proof.Proofs.Caches Sys2Proof.Proofs.Words Sys2Proof.Proofs.HomeWrites

/-! ### Translations kept (R314) -/

theorem core_modCore {c : Nat} (f : Core → Core) (s : State) (hc : c < 384) : Machine.core (modCore c f s) c = f (Machine.core s c) := vget_vmod_self _ _ hc f

/-- A translation kept is found again. -/
theorem lookup_addTlb {s : State} {c p va : Nat} {e : Tlb} (hc : c < 384) (he : e.covers va = true) : lookup (addTlb c p e s) (some c) p va = some e := by
  have htlb : (Machine.core (addTlb c p e s) c).tlb1 = (p, e) :: (Machine.core s c).tlb1.take 255 := by
    show (Machine.core (modCore c _ s) c).tlb1 = _
    rw [core_modCore _ _ hc]
    rfl
  have hfind : tlbFind p va (Machine.core (addTlb c p e s) c).tlb1 = some e := by
    rw [htlb, tlbFind, List.find?_cons_of_pos (by simp [he])]
    rfl
  rw [lookup, hfind]

/-! ### A partition without the walks that have returned -/

/-- A change of a partition leaves what does not depend on the fields that it changes. -/
theorem of_part_modPart {α : Type} (v : Partition → α) {f : Partition → Partition} (hf : ∀ x, v (f x) = v x) (p : Nat) (s : State) (q : Nat) :
    v (part (modPart p f s) q) = v (part s q) := by
  by_cases hq : q = p
  · subst hq
    by_cases hb : q < 16
    · rw [part, modPart, vget_vmod_self _ _ hb, hf]
      rfl
    · have hout (t : State) : part t q = .empty := by
        rw [part, vget, Vector.getElem?_eq_none (Nat.le_of_not_lt hb)]
        rfl
      rw [hout, hout]
  · rw [part, modPart, vget_vmod_ne _ _ hq]
    rfl

/-- The walks of a partition taken up. -/
def walksTaken (p : Nat) (s : State) : State := modPart p (fun q => { q with walks := [] }) s

section
variable (p : Nat) (s : State)

theorem of_part_walksTaken {α : Type} (v : Partition → α) (hv : ∀ x : Partition, v { x with walks := [] } = v x) (q : Nat) :
    v (part (walksTaken p s) q) = v (part s q) := of_part_modPart v hv p s q

theorem ownerOf_walksTaken (pa : Nat) : ownerOf (walksTaken p s) pa = ownerOf s pa := by
  have ho := of_part_walksTaken p s Partition.owned fun _ => rfl
  simp only [ownerOf, ho]

theorem lineHeld_walksTaken (r line : Nat) : lineHeld (walksTaken p s) r line = lineHeld s r line := by
  have hm : mapHeld (walksTaken p s) r line = mapHeld s r line := by
    unfold mapHeld
    rw [ownerOf_walksTaken]
    cases ownerOf s (line * 128) with
    | none => rfl
    | some q =>
      exact of_part_walksTaken p s (fun x => match x.change with
        | some c => c.oldSlice (line * 128) != newSlice x (line * 128) && c.over line == x.stale.contains r
        | none => false) (fun _ => rfl) q
  rw [lineHeld, hm]
  rfl

theorem faultRoom_walksTaken (q : Nat) : faultRoom (walksTaken p s) q = faultRoom s q := by
  have hq := of_part_walksTaken p s Partition.fq (fun _ => rfl) q
  have hl : lineNo (walksTaken p s) (faultPlace (walksTaken p s) q) = lineNo s (faultPlace s q) := by
    rw [faultPlace, hq]
    rfl
  have hr : ringRoom (walksTaken p s) q = ringRoom s q := by
    rw [ringRoom, hq]
    rfl
  rw [faultRoom, hr, hl, lineHeld_walksTaken, faultRoom]

theorem walkPage_walksTaken (q va : Nat) : walkPage (walksTaken p s) q va = walkPage s q va := by
  have hpgt := of_part_walksTaken p s Partition.pgtbase (fun _ => rfl) q
  have hword (a : Nat) : homeWord (walksTaken p s) a = homeWord s a := (reads_congr rfl rfl rfl a).2
  have htab (m : Nat) (nd : Need) (pa n : Nat) : tablesOk (walksTaken p s) m nd pa n = tablesOk s m nd pa n := rfl
  have hleaf (m va lv table : Nat) (e : Word) : leafEnd (walksTaken p s) m va lv table e = leafEnd s m va lv table e := by
    unfold leafEnd leafPage
    simp only [hword, htab]
  have hfrom (m va lv table : Nat) : walkFrom (walksTaken p s) m va lv table = walkFrom s m va lv table := by
    induction lv generalizing table with
    | zero => simp only [walkFrom, hword, htab, hleaf]
    | succ lv ih => simp only [walkFrom, hword, htab, hleaf, ih]
  rw [walkPage, walkEnd, hfrom, hpgt]
  rfl

end

/-! ### A walk returns (R314, R317) -/

section
variable {s : State} {p : BitVec 4} {r : WalkReq} (hw : (part s p.toNat).walks = [r]) (hh : r.held = [])
  (hm : walkHeld s p.toNat (r.page * 4096) = false)
include hw hm in
theorem walkComplete_eq : exec (.walkComplete p r.page) s = .next (walkReturn p.toNat r s) := by
  show Host.Outcome.next (if walkHeld s p.toNat (r.page * 4096) then s
    else ((part s p.toNat).walks.filter (fun q => q.page == r.page)).foldl (fun s q => walkReturn p.toNat q s) s) = _
  rw [hw, List.filter_cons_of_pos (by simp), List.filter_nil, if_neg (Bool.eq_false_iff.1 hm)]
  rfl

include hw hh in
theorem walkReturn_eq : walkReturn p.toNat r s =
    (let t := walksTaken p.toNat s
     let found := (walkPage s p.toNat (r.page * 4096)).isSome
     let u := if found then engineTlb r.core p.toNat (r.page * 4096) t else r.waiters.foldl (fun s w => parkWaiter p.toNat r.core w s) t
     if found || r.waiters.any (parkRoom t p.toNat r.core) then bump u else u) := by
  have ht : modPart p.toNat (fun q => { q with walks := q.walks.erase r }) s = walksTaken p.toNat s := by
    have hv : vmod s.parts p.toNat (fun q => { q with walks := q.walks.erase r }) = vmod s.parts p.toNat (fun q => { q with walks := [] }) :=
      vmod_congr s.parts .empty fun _ => by
        show ({ part s p.toNat with walks := (part s p.toNat).walks.erase r } : Partition) = _
        rw [hw, List.erase_cons_head]
        rfl
    unfold walksTaken modPart
    rw [hv]
  unfold walkReturn
  rw [ht]
  dsimp only
  rw [walkPage_walksTaken, hh]
  simp only [List.foldl_nil, List.isEmpty_nil, Bool.not_true, Bool.or_false]

include hw hh hm

/-- A walk that finds a translation. -/
theorem walkComplete_found {e : Tlb} (he : walkPage s p.toNat (r.page * 4096) = some e) (hl : lookup s (some r.core) p.toNat (r.page * 4096) = none) :
    exec (.walkComplete p r.page) s = .next (bump (addTlb r.core p.toNat e (walksTaken p.toNat s))) := by
  have hl' : lookup (walksTaken p.toNat s) (some r.core) p.toNat (r.page * 4096) = none := hl
  have ht : engineTlb r.core p.toNat (r.page * 4096) (walksTaken p.toNat s) = addTlb r.core p.toNat e (walksTaken p.toNat s) := by
    rw [engineTlb, hl', walkPage_walksTaken, he]
    rfl
  rw [walkComplete_eq hw hm, walkReturn_eq hw hh, he]
  dsimp only [Option.isSome_some]
  rw [if_pos rfl, ht]
  rfl

end

/-! ### A slot parks under a token (R316, R317) -/

/-- The group of a name after a change of it. -/
theorem groupOf_modGroup {s : State} {gid : Nat} {g : Group} {f : Group → Group} (hg : groupOf s gid = some g) (hf : ∀ x : Group, (f x).gid = x.gid) :
    groupOf (modGroup gid f s) gid = some (f g) := by
  unfold groupOf at hg
  unfold modGroup
  split at hg
  · rename_i e
    cases hg
    rw [if_pos e, groupOf, if_pos ((hf _).trans e)]
  · rename_i e
    have hpred : (fun x : Group => x.gid == gid) ∘ (fun x : Group => if x.gid = gid then f x else x) = fun x => x.gid == gid := by
      funext x
      by_cases hx : x.gid = gid <;> simp [hx, hf]
    rw [if_neg e, groupOf, if_neg e, List.find?_map, hpred, hg]
    exact congrArg some (if_pos (by simpa using List.find?_some hg))

theorem groupOf_congr {s t : State} (hg : t.grp = s.grp) (hs : t.groups = s.groups) (gid : Nat) : groupOf t gid = groupOf s gid := by
  rw [groupOf, groupOf, hg, hs]

theorem postFault_frame (p : Nat) (f : FaultInfo) (s : State) :
    (postFault p f s).grp = s.grp ∧ (postFault p f s).groups = s.groups ∧ (postFault p f s).mgmt.tokens = s.mgmt.tokens := by
  have hfire (fn vec : Nat) (on : Bool) (t : State) : (fire fn vec on t).grp = t.grp ∧ (fire fn vec on t).groups = t.groups ∧ (fire fn vec on t).mgmt = t.mgmt := by
    unfold fire
    split <;> exact ⟨rfl, rfl, rfl⟩
  unfold postFault putFault
  split
  · have hm := memOnly_putHome p (faultPlace s p) ((faultWords s f).map stamped) (.write none) s
    obtain ⟨h1, h2, h3⟩ := hfire (p + 1) 1 (bit (part s p).fq.base 57) (modPart p (fun x => { x with fq := { x.fq with tail := (x.fq.tail + 1) % 2 ^ 32 } })
      (putRecord p (faultPlace s p) (faultWords s f) s))
    exact ⟨h1.trans hm.grp, h2.trans hm.groups, congrArg Mgmt.tokens (h3.trans hm.mgmt)⟩
  · exact ⟨rfl, rfl, rfl⟩

/-- A slot held for a walk that found nothing parks under the next token, where its table and its record have room. -/
theorem parkWaiter_parks {s : State} {p c : Nat} {w : Waiter} {g : Group} (hg : groupOf s w.gid = some g) (hl : g.life = .resident) (hs : g.stopped = false)
    (ht : g.trap = none) (hst : (g.slot w.slot).st = .held) (hno : ∀ e ∈ (Machine.core s c).waits, e.part ≠ p ∨ e.page ≠ pageOf w.va)
    (hlen : (Machine.core s c).waits.length < 64) (hroom : faultRoom s p = true) :
    let k := if (s.mgmt.tokens + 1) % 2 ^ 32 = 0 then 1 else (s.mgmt.tokens + 1) % 2 ^ 32
    ∃ h, groupOf (parkWaiter p c w s) w.gid = some h ∧ (h.slot w.slot).st = .parkTrans k s.time ∧ h.pgtok = k ∧ h.pgPend = true
      ∧ (parkWaiter p c w s).mgmt.tokens = k := by
  intro k
  have hfind : (Machine.core s c).waits.find? (fun e => e.part == p && e.page == pageOf w.va) = none :=
    List.find?_eq_none.2 fun e he => by simpa [← not_or, or_comm, imp_iff_not_or] using hno e he
  have htok : tokenFor c p w.acc w.va s = some (k, true, modCore c (fun q => { q with waits := q.waits ++
      [{ part := p, page := pageOf w.va, token := k, since := s.time, acc := w.acc, va := w.va }] }) (modMgmt (fun m => { m with tokens := k }) s)) := by
    unfold tokenFor
    dsimp only
    rw [hfind]
    exact if_neg (by omega)
  generalize hu : modCore c _ _ = u at htok
  have hpark : ∃ f, parkWaiter p c w s = postFault p f (parkUnder w.gid w.slot k u) := by
    unfold parkWaiter
    rw [hg]
    dsimp only
    rw [if_neg (by simp [hl, hs, ht, hst]), htok]
    dsimp only
    rw [if_neg (by simp), if_neg (by simp [hroom])]
    exact ⟨_, rfl⟩
  obtain ⟨f, hf⟩ := hpark
  obtain ⟨h1, h2, h3⟩ := postFault_frame p f (parkUnder w.gid w.slot k u)
  have hgu : groupOf u w.gid = some g := by rw [← hg, ← hu]; rfl
  have htime : u.time = s.time := by rw [← hu]; rfl
  rw [hf, groupOf_congr h1 h2, h3]
  refine ⟨_, groupOf_modGroup hgu fun x => Group.modSlot_gid .., ?_, rfl, rfl, ?_⟩
  · rw [← htime]
    cases w.slot <;> rfl
  · have hmg (gid : Nat) (f : Group → Group) (t : State) : (modGroup gid f t).mgmt = t.mgmt := by
      unfold modGroup
      split <;> rfl
    rw [parkUnder, hmg, ← hu]
    rfl

section
variable {s : State} {p : BitVec 4} {r : WalkReq} {w : Waiter} {g : Group}

/-- A walk that finds no translation parks the one slot that waits for it. -/
theorem walkComplete_parks (hw : (part s p.toNat).walks = [r]) (hh : r.held = []) (hm : walkHeld s p.toNat (r.page * 4096) = false)
    (he : walkPage s p.toNat (r.page * 4096) = none) (hr : r.waiters = [w]) (hg : groupOf s w.gid = some g) (hl : g.life = .resident)
    (hs : g.stopped = false) (ht : g.trap = none) (hst : (g.slot w.slot).st = .held)
    (hno : ∀ e ∈ (Machine.core s r.core).waits, e.part ≠ p.toNat ∨ e.page ≠ pageOf w.va) (hlen : (Machine.core s r.core).waits.length < 64)
    (hroom : faultRoom s p.toNat = true) :
    let k := if (s.mgmt.tokens + 1) % 2 ^ 32 = 0 then 1 else (s.mgmt.tokens + 1) % 2 ^ 32
    ∃ h t, exec (.walkComplete p r.page) s = .next t ∧ groupOf t w.gid = some h ∧ (h.slot w.slot).st = .parkTrans k s.time ∧ h.pgtok = k
      ∧ h.pgPend = true ∧ t.mgmt.tokens = k := by
  intro k
  obtain ⟨h, hg', hst', htok, hpend, hmt⟩ := parkWaiter_parks (s := walksTaken p.toNat s) (p := p.toNat) (c := r.core) hg hl hs ht hst hno hlen
    (by rwa [faultRoom_walksTaken])
  generalize hu : parkWaiter p.toNat r.core w (walksTaken p.toNat s) = u at hg' hmt
  have hret : walkReturn p.toNat r s = u ∨ walkReturn p.toNat r s = bump u := by
    rw [walkReturn_eq hw hh, he, hr, ← hu]
    dsimp only [Option.isSome_none, List.foldl_cons, List.foldl_nil]
    rw [if_neg Bool.false_ne_true]
    split
    · exact .inr rfl
    · exact .inl rfl
  rcases hret with hret | hret
  · exact ⟨h, u, by rw [walkComplete_eq hw hm, hret], hg', hst', htok, hpend, hmt⟩
  · exact ⟨h, bump u, by rw [walkComplete_eq hw hm, hret], hg', hst', htok, hpend, hmt⟩

end

end Sys2Proof.Proofs.Walks

/-! PROOF. The life of slots, groups and grids (R249, R308, R309, R311, R321, R395, R402): urgency, trap reports and the entry of a handler, retirement,
aborts, and the end of a grid. -/
namespace Sys2Proof.Proofs.Life
open Sys2Proof Sys2Proof.Machine Sys2Proof.Proofs.Caches Sys2Proof.Proofs.Control Sys2Proof.Proofs.Words Sys2Proof.Proofs.HomeWrites

/-! ### Stale requests and urgent slots (R249, R402) -/

theorem staleMapRetry_eq (s : State) (c : Nat) (p : BitVec 4) :
    exec (.staleMapRetry c p) s = .next (bump (freeLines (modPart p.toNat (fun q => { q with stale := q.stale.filter (· ≠ c) }) s))) := by
  have hf : (fun k => k != c) = (fun k => decide (k ≠ c)) := funext fun k => (decide_not ..).symm.trans rfl
  show Host.Outcome.next (bump (freeLines (modPart p.toNat (fun q => { q with stale := q.stale.filter (fun k => k != c) }) s))) = _
  rw [hf]

theorem slotUrgent_eq (s : State) (b : Bool) : exec (.slotUrgent s.grp.gid b) s
    = .next { s with grp := s.grp.modSlot b (fun x => if x.overdue then { x with urgent := true } else x) } :=
  congrArg Host.Outcome.next (if_pos rfl)

theorem slotUrgent_waits {s : State} {b : Bool} (h : (s.grp.slot b).waited < 96) : exec (.slotUrgent s.grp.gid b) s = .next s := by
  have ho : (s.grp.slot b).overdue = false := by simp [Slot.overdue, h]
  have hid : s.grp.modSlot b (fun x => if x.overdue then { x with urgent := true } else x) = s.grp := by
    rw [Registers.modSlot_congr s.grp (h := fun x => x) (by rw [ho]; rfl), Registers.modSlot_id]
  rw [slotUrgent_eq, hid]

theorem slotUrgent_overdue {s : State} {b : Bool} (hs : (s.grp.slot b).st = .ready ∨ (s.grp.slot b).st = .held) (h : 96 ≤ (s.grp.slot b).waited) :
    exec (.slotUrgent s.grp.gid b) s = .next { s with grp := s.grp.modSlot b (fun x => { x with urgent := true }) } := by
  have ho : (s.grp.slot b).overdue = true := by
    rcases hs with hs | hs <;> simp [Slot.overdue, h, hs]
  rw [slotUrgent_eq, Registers.modSlot_congr s.grp (f := fun x => if x.overdue then { x with urgent := true } else x)
    (h := fun x => { x with urgent := true }) (if_pos ho)]

/-! ### Traps (R308, R309) -/

/-- A held trap of a group that runs again is reported. -/
theorem trapReport_eq {s : State} {g : Group} {t : TrapInfo} {ts : List TrapInfo} (hg : groupOf s g.gid = some g) (hl : g.life = .resident)
    (ht : g.trap = none) (hs : g.stopped = false) (hh : g.heldTraps = t :: ts) :
    exec (.trapReport g.gid) s = .next (bump (enterHandler g.gid (reportTrap g.gid t (modGroup g.gid (fun g => { g with heldTraps := ts }) s)))) := by
  show Host.Outcome.next (match groupOf s g.gid with
    | some h => (match h.heldTraps with
      | t :: rest => if reportDue h then bump (enterHandler g.gid (reportTrap g.gid t (modGroup g.gid (fun h => { h with heldTraps := rest }) s))) else s
      | [] => s)
    | none => s) = _
  rw [hg]
  dsimp only
  rw [hh]
  exact congrArg _ (if_pos (by simp [reportDue, hl, ht, hs, hh]))

theorem groupOf_self (s : State) : groupOf s s.grp.gid = some s.grp := if_pos rfl

/-- A group in focus with its team. -/
theorem focus_self {s : State} (h : s.team.tid = s.grp.team) : focus s.grp.gid s.cur s = s := by
  unfold focus
  rw [if_pos rfl]
  exact if_pos h

theorem memOnly_ctxPut (p c va : Nat) (t : TWord) (s : State) : MemOnly s (ctxPut p c va t s) := by
  unfold ctxPut
  split
  · exact ((memOnly_homeWrite ..).trans (memOnly_l1Drop c _ _)).trans (memOnly_dieDrop ..)
  · exact .refl s

theorem memOnly_writeImage (g : Group) (ws : List Word) (s : State) : MemOnly s (writeImage g ws s) :=
  (memOnly_ctxAccept ..).trans (.foldl (fun s _ => memOnly_ctxPut g.part g.core _ _ s) _ _)

/-- What is dropped with a group's launch: neither the group, nor where its image lies. -/
theorem imageVa_dropLaunch (p gid : Nat) (s : State) (g : Group) : imageVa (dropLaunch p gid s) g = imageVa s g := by
  have hpart {α : Type} (v : Partition → α) (hv : ∀ (x : Partition) a b, v { x with argGot := a, argNo := b } = v x) (q : Nat) :
      v (part (dropLaunch p gid s) q) = v (part s q) :=
    (Walks.of_part_modPart v (fun x => hv x _ _) p _ q).trans (Walks.of_part_modPart v (fun x => hv x _ _) p s q)
  have hslot (n : Nat) : ctxSlot (dropLaunch p gid s) g.part n = ctxSlot s g.part n := by
    rw [ctxSlot, hpart Partition.ctxbase fun _ _ _ => rfl, hpart Partition.ctxcfg fun _ _ _ => rfl, ctxSlot]
  rw [imageVa, hslot]
  rfl

section
variable {s : State} {t : TrapInfo} (hl : s.grp.life = .resident) (ht : s.grp.trap = some t) (hs : s.grp.stopped = false) (hi : s.grp.inHandler = false)
  (hb : s.grp.buf = []) (hd : s.grp.drained = true) (hc : ctxMapped s s.grp.core s.grp.part (imageVa s s.grp) 0x5000 = true)
  (hh : handlerOf s s.grp ≠ 0)

include hi hh in
/-- A group with a handler that is not in it does not wait to be suspended. -/
theorem suspendHeld_no : suspendHeld s s.grp = false := by simp [suspendHeld, hi, hh]

include hl ht hs hi hb hd hc hh in
theorem trapHandlerEntry_eq : exec (.trapHandlerEntry s.grp.gid) s = .next (bump (enterHandler s.grp.gid s)) := by
  have hr : entryReady s s.grp = true := by simp [entryReady, hl, ht, hs, hb, hd, hc, suspendHeld_no hi hh]
  show Host.Outcome.next (match groupOf s s.grp.gid with
    | some g => if entryReady s g then bump (enterHandler s.grp.gid s) else s
    | none => s) = _
  rw [groupOf_self]
  exact congrArg _ (if_pos hr)

/-- A group stopped by a trap, its waits cancelled, its image written and its launch forgotten. -/
def imaged (t : TrapInfo) (s : State) : State :=
  dropLaunch s.grp.part s.grp.gid (writeImage s.grp.cancelWaits (trapWords t) { unwatch s.grp s with grp := s.grp.cancelWaits })

theorem imaged_eq (t : TrapInfo) (s : State) :
    imaged t s = dropLaunch (modGrp Group.cancelWaits (unwatch s.grp s)).grp.part s.grp.gid
      (writeImage (modGrp Group.cancelWaits (unwatch s.grp s)).grp (trapWords t) (modGrp Group.cancelWaits (unwatch s.grp s))) := rfl

theorem memOnly_imaged (t : TrapInfo) (s : State) :
    MemOnly { unwatch s.grp s with grp := s.grp.cancelWaits } (writeImage s.grp.cancelWaits (trapWords t) { unwatch s.grp s with grp := s.grp.cancelWaits }) :=
  memOnly_writeImage ..

theorem dropLaunch_frame (p gid : Nat) (s : State) :
    (dropLaunch p gid s).grp = s.grp ∧ (dropLaunch p gid s).late = s.late ∧ (dropLaunch p gid s).grids = s.grids := ⟨rfl, rfl, rfl⟩

theorem imaged_grp (t : TrapInfo) (s : State) : (imaged t s).grp = s.grp.cancelWaits := by
  rw [imaged, (dropLaunch_frame ..).1, (memOnly_imaged t s).grp]

theorem imaged_late (t : TrapInfo) (s : State) : (imaged t s).late = s.late := by
  rw [imaged, (dropLaunch_frame ..).2.1, (memOnly_imaged t s).late]
  rfl

theorem imageVa_imaged (t : TrapInfo) (s : State) : imageVa (imaged t s) (imaged t s).grp = imageVa s s.grp := by
  rw [imaged_grp, imaged, imageVa_dropLaunch]
  have hm := memOnly_imaged t s
  unfold imageVa ctxSlot part teamOf
  rw [hm.team, hm.teams, hm.parts]
  rfl

theorem handlerOf_imaged (t : TrapInfo) (s : State) : handlerOf (imaged t s) (imaged t s).grp = handlerOf s s.grp := by
  have hg : (imaged t s).grids = s.grids := by
    rw [imaged, (dropLaunch_frame ..).2.2, ← memOnly_imaged t s]
    rfl
  rw [imaged_grp, handlerOf, gridOf, hg]
  rfl

include ht hi hb hd hc hh in
theorem enterHandler_eq (hm : s.team.tid = s.grp.team) : enterHandler s.grp.gid s =
    startRegion (youngestOf (imaged t s).grp.core s.grp.gid false
      (modGrp (fun g => g.enter (handlerOf (imaged t s) (imaged t s).grp) (imageVa (imaged t s) g)) (imaged t s))) := by
  have hgo : (! s.grp.drained || ! ctxMapped s s.grp.core s.grp.part (imageVa s s.grp) 0x5000 || suspendHeld s s.grp) = false := by
    simp [hd, hc, suspendHeld_no hi hh]
  have hin : (imaged t s).grp.inHandler = false := by
    rw [imaged_grp]
    exact hi
  unfold enterHandler
  rw [groupOf_self]
  dsimp only
  rw [ht, focus_self hm, hb]
  dsimp only [List.isEmpty_nil]
  rw [if_pos rfl]
  dsimp only
  rw [hgo, if_neg Bool.false_ne_true]
  rw [← imaged_eq, if_neg (by rwa [handlerOf_imaged]), hin, if_neg Bool.false_ne_true]

/-- The group at the start of its handler's region. -/
theorem handlerStart_grp {u : State} (c gid : Nat) (hu : u.late = none) (h : Nat) :
    (bump (startRegion (youngestOf c gid false (modGrp (fun g => g.enter h (imageVa u g)) u)))).grp = (u.grp.enter h (imageVa u u.grp)).begins := by
  show ({ u.grp.enter h (imageVa u u.grp) with region := _, start := ((u.grp.enter h (imageVa u u.grp)).settle (u.late.getD [])).record } : Group) = _
  rw [hu]
  rfl

include hl ht hs hi hb hd hc hh in
/-- A trapped group that has drained enters its handler. -/
theorem trapHandlerEntry_runs (hla : s.late = none) (hm : s.team.tid = s.grp.team) :
    ∃ w, exec (.trapHandlerEntry s.grp.gid) s = .next w
      ∧ w.grp = (s.grp.cancelWaits.enter (handlerOf s s.grp) (imageVa s s.grp)).begins ∧ OutsideSame (imaged t s) w := by
  refine ⟨_, (trapHandlerEntry_eq hl ht hs hi hb hd hc hh).trans (by rw [enterHandler_eq ht hi hb hd hc hh hm]), ?_, ?_⟩
  · rw [handlerStart_grp _ _ ((imaged_late t s).trans hla), handlerOf_imaged, imageVa_imaged, imaged_grp]
  · exact ((outsideSame_modGrp _ _).trans (outsideSame_youngestOf ..)).trans ((outsideSame_modGrp ..).trans (outsideSame_bump _))

end

end Sys2Proof.Proofs.Life

/-! PROOF. Ends (R229 to R231, R321, R395): a group without operations retires, a region goes back to its start, a grid posts its signal. -/
namespace Sys2Proof.Proofs.Ends
open Sys2Proof Sys2Proof.Machine Sys2Proof.Proofs.Caches Sys2Proof.Proofs.Words Sys2Proof.Proofs.HomeWrites

/-! ### The names of the groups out of focus -/

/-- The groups out of focus bear the names that they bore. -/
def SameNames (s t : State) : Prop := t.groups.map Group.gid = s.groups.map Group.gid

theorem SameNames.refl (s : State) : SameNames s s := rfl

theorem SameNames.trans {s t u : State} (h : SameNames s t) (k : SameNames t u) : SameNames s u := Eq.trans k h

theorem sameNames_mapGroups {f : Group → Group} (hf : ∀ g, (f g).gid = g.gid) (s : State) : SameNames s (mapGroups f s) := by
  show (s.groups.map f).map Group.gid = _
  rw [List.map_map]
  exact List.map_congr_left fun g _ => hf g

theorem sameNames_modTeam (tid : Nat) (f : Team → Team) (s : State) : SameNames s (modTeam tid f s) := by
  unfold modTeam
  split <;> exact .refl s

theorem sameNames_leaseDone (tid : Nat) (s : State) : SameNames s (leaseDone tid s) :=
  sameNames_mapGroups (fun g => by split <;> rfl) s

theorem sameNames_expireNow (c : Nat) (s : State) : SameNames s (expireNow c s) := by
  unfold expireNow
  split
  · generalize (othersWait s c _ && _) = b
    cases b <;> exact .refl s
  · exact .refl s

theorem sameNames_grantHead (c : Nat) (s : State) : SameNames s (grantHead c s) := by
  unfold grantHead
  split
  · exact ((SameNames.refl (modCore c _ s)).trans (sameNames_modTeam ..)).trans ((sameNames_leaseDone ..).trans (sameNames_expireNow ..))
  · exact .refl s

theorem sameNames_releaseLease (c tid : Nat) (s : State) : SameNames s (releaseLease c tid s) :=
  ((sameNames_modTeam tid _ s).trans (sameNames_modTeam tid _ (modCore c _ _))).trans (sameNames_leaseDone tid (modCore c _ _))

theorem sameNames_removeTeam (t : Team) (s : State) : SameNames s (removeTeam t s) := by
  have hlease := (sameNames_releaseLease t.core t.tid s).trans (sameNames_grantHead t.core _)
  refine Eq.trans (sameNames_modTeam t.tid _ (modPart t.part _ (mapGroups _ _))) (Eq.trans ?_ hlease)
  exact sameNames_mapGroups (fun _ => by rfl) (grantHead t.core (releaseLease t.core t.tid s))

theorem sameNames_clusterEnd (cid : Nat) (s : State) : SameNames s (clusterEnd cid s) := by
  unfold clusterEnd
  split
  · exact .refl s
  · split <;> exact .refl s

theorem sameNames_lowerBarriers (g : Group) (s : State) : SameNames s (lowerBarriers g s) := sameNames_modTeam g.team _ s

/-- A group taken out of the machine is not among the others. -/
theorem removeGroup_gone (g : Group) (s : State) : ∀ h ∈ (removeGroup g s).groups, h.gid ≠ g.gid := by
  intro h hh
  simpa using (List.mem_filter.1 hh).2

theorem SameNames.gone {s t : State} (h : SameNames s t) {gid : Nat} (hs : ∀ g ∈ s.groups, g.gid ≠ gid) : ∀ g ∈ t.groups, g.gid ≠ gid := by
  intro g hg he
  have hm : g.gid ∈ s.groups.map Group.gid := h ▸ List.mem_map_of_mem hg
  obtain ⟨k, hk, hke⟩ := List.mem_map.1 hm
  exact hs k hk (hke.trans he)

theorem retireGroup_gone (g : Group) (s : State) : ∀ h ∈ (retireGroup g s).groups, h.gid ≠ g.gid := by
  refine SameNames.gone (s := removeGroup g s) ?_ (removeGroup_gone g s)
  have hlow := (sameNames_lowerBarriers g (removeGroup g s)).trans (sameNames_modTeam g.team (fun t => { t with retired := t.retired + 1 }) _)
  unfold retireGroup
  dsimp only
  split
  · exact hlow
  · split
    · exact hlow.trans ((sameNames_removeTeam ..).trans (sameNames_clusterEnd ..))
    · exact hlow.trans (sameNames_modTeam ..)

theorem groupRetire_eq {s : State} {g : Group} (hg : groupOf s g.gid = some g) (ho : g.ops = []) (hl : g.life = .draining) :
    exec (.groupRetire g.gid) s = .next (settleInv g.part (bump (retireGroup g s))) := by
  show Host.Outcome.next (match groupOf s g.gid with
    | some h => if handlerOver s h then handlerEnd g.gid s else if retireReady h then settleInv h.part (bump (retireGroup h s)) else s
    | none => s) = _
  rw [hg]
  exact congrArg _ ((if_neg (by simp [handlerOver, hl])).trans (if_pos (by simp [retireReady, hl, ho])))

/-! ### Region aborts (R321) -/

theorem regionAbort_eq {s : State} {g : Group} {k : Nat} (hg : groupOf s g.gid = some g) (hl : g.life = .resident) (ht : g.trap = none)
    (hs : g.stopped = false) (ha : g.aborting = false) (hr : faultRoom s g.part = true) (hk : parkedLong s g = some k) :
    exec (.regionAbort g.gid) s
      = .next (settleInv g.part (bump (abortUnder g.gid 2 (accessOfToken s g.core k).1 (accessOfToken s g.core k).2 k s))) := by
  have hd : abortDue s g = some k := by rw [abortDue, if_pos (by simp [hl, ht, hs, ha, hr]), hk]
  show Host.Outcome.next (match groupOf s g.gid with
    | some h => (match abortDue s h with
      | some k => let a := accessOfToken s h.core k; settleInv h.part (bump (abortUnder g.gid 2 a.1 a.2 k s))
      | none => s)
    | none => s) = _
  rw [hg]
  dsimp only
  rw [hd]

theorem flag_replicate {x : Slot} (h : x.flags = Vector.replicate 12 0) {k : Nat} (hk : k < 12) : x.flag k = 0 := by
  rw [Slot.flag, h]
  simp [vget, hk]

/-! ### The end of a grid (R395) -/

theorem homeWord_accept (s : State) (pa a : Nat) : homeWord (accept s pa) a = homeWord s a := by
  unfold accept
  split
  · split
    · exact (reads_congr rfl rfl rfl a).2
    · rfl
  · rfl

theorem gridGone_eq (x : Grid) (s : State) : gridGone x s =
    { modPart x.part (fun q => { q with snapsUsed := q.snapsUsed.filter (· ≠ x.snap) }) s with grids := s.grids.filter (fun y => y.id != x.id) } := by
  have hf : (fun k => k != x.snap) = (fun k => decide (k ≠ x.snap)) := funext fun k => (decide_not ..).symm.trans rfl
  unfold gridGone
  rw [hf]
  rfl

/-- The one element of 64 bits is the word. -/
theorem setElem_whole (d : Word) (v : Nat) : setElem d 0 64 v = BitVec.ofNat 64 v :=
  BitVec.eq_of_toNat_eq (by simp [setElem, setField])

/-- An i64 word plus one, stamped. -/
theorem atomWord_one {q : Bool} {t : TWord} (h : mismatch q t = false) :
    atomWord (.rmw 0) 6 0 0 q t 1 0 = { bad := false, put := some (stamped (t.data + 1)), fl := 0 } := by
  have hsum : BitVec.ofNat 64 (iAdd 6 (elem t.data 0 64) (elem 1 0 64) 0) = t.data + 1 := by
    refine BitVec.eq_of_toNat_eq ?_
    simp [iAdd, elem, tyWidth, BitVec.toNat_add]
  unfold atomWord
  rw [if_neg (Bool.eq_false_iff.1 h)]
  show ({ bad := false, put := some (stamped (setElem t.data 0 64 (iAdd 6 (elem t.data 0 64) (elem 1 0 64) 0))), fl := 0 } : AtomRes) = _
  rw [setElem_whole, hsum]

section
variable {s : State} {x : Grid} (hg : gridOf s x.id = some x) (ht : x.pkt.teams ≤ x.retired) (hst : x.stall = none) (hp : x.posted = false)
  (hr : x.released = true) (hw : writesOut s = false) (hb : s.wbs = [])
include hg ht hst hp hr hw hb

theorem gridComplete_eq (hf : signalFree s x = true) : exec (.gridComplete x.id) s = .next (bump (gridSignal x s)) := by
  have hready : gridReady s x = true := by simp [gridReady, gridOver, ht, hst, hp, hr, hw, hb, hf]
  show Host.Outcome.next (match gridOf s x.id with
    | some y => if ! gridReady s y then s
      else if ! y.released then (let s := gridRelease y s; bump (if ! writesOut s && s.wbs.isEmpty then gridSignal y s else s))
      else bump (gridSignal y s)
    | none => s) = _
  rw [hg]
  exact congrArg _ ((if_neg (by simp [hready])).trans (if_neg (by simp [hr])))

/-- A grid without a completion signal is gone. -/
theorem gridComplete_unsignalled (hc : x.pkt.compl = 0) : exec (.gridComplete x.id) s = .next (bump (gridGone x s)) := by
  rw [gridComplete_eq hg ht hst hp hr hw hb (by simp [signalFree, hc]), gridSignal, if_pos hc]

/-- One whose signal's rights are refused is gone too. -/
theorem gridComplete_refused (hc : x.pkt.compl ≠ 0) (hx : xlate s none x.part x.pkt.compl 8 needAtomic = .refused) :
    exec (.gridComplete x.id) s = .next (bump (gridGone x s)) := by
  rw [gridComplete_eq hg ht hst hp hr hw hb (by simp [signalFree, hx]), gridSignal, if_neg hc, hx]

/-- A signal at home here counts one more, and the grid is gone. -/
theorem gridComplete_signalled {pa : Nat} {q : Bool} (hc : x.pkt.compl ≠ 0) (hx : xlate s none x.part x.pkt.compl 8 needAtomic = .ok pa q)
    (hh : lineHeld s 386 (lineNo s (canonPa s pa)) = false) (hl : peerLine s (lineNo s (canonPa s pa)) = none)
    (hm : mismatch q (homeWord s (canonPa s pa)) = false) :
    exec (.gridComplete x.id) s = .next (bump (gridGone x (homeWrite (accept s (canonPa s pa)) (canonPa s pa)
      (stamped ((homeWord s (canonPa s pa)).data + 1))))) := by
  have hwait : signalWaits s 386 x.part (canonPa s pa) q = false := by simp [signalWaits, hh, hm]
  have hpost : postSignal x.part 0 none x.pkt.compl (canonPa s pa) q (.gridEnd x.id) s
      = homeWrite (accept s (canonPa s pa)) (canonPa s pa) (stamped ((homeWord s (canonPa s pa)).data + 1)) := by
    unfold postSignal
    rw [hl]
    dsimp only
    unfold signalHere
    dsimp only
    rw [homeWord_accept, atomWord_one hm]
    exact if_neg Bool.false_ne_true
  have hmo : MemOnly s (postSignal x.part 0 none x.pkt.compl (canonPa s pa) q (.gridEnd x.id) s) := by
    rw [hpost]
    exact (memOnly_accept ..).trans (memOnly_homeWrite ..)
  have hpeer : (peerLine (postSignal x.part 0 none x.pkt.compl (canonPa s pa) q (.gridEnd x.id) s)
      (lineNo (postSignal x.part 0 none x.pkt.compl (canonPa s pa) q (.gridEnd x.id) s) (canonPa s pa))).isSome = false := by
    rw [hmo.peerLine_eq, hmo.lineNo_eq, hl]
    rfl
  rw [gridComplete_eq hg ht hst hp hr hw hb (by simp [signalFree, hx, hwait]), gridSignal, if_neg hc, hx]
  dsimp only
  rw [hwait, if_neg Bool.false_ne_true, hpeer, if_neg Bool.false_ne_true, hpost]

end

/-- Settles O56: each kind of completion by its own rule. -/
theorem completions : Obligations.Completions := by
  unfold Obligations.Completions
  intro plain quiet waitDone
  refine ⟨fun s g o hf hg hq hk => ⟨fun hl hw => ?_, fun hw => ?_⟩, fun s g o t hf hg hl hv ht hm hk hld hw => ?_, fun s g o hf hg hl hm hk hld hw => ?_,
    fun s g o t d tile row nreg ty rm amx amop nsat mul hf hk hr ht => Completion.operationComplete_mdrn hf hk hr ht,
    fun s g o hf hg hq => ⟨fun clus k ph par scope hk hd => ?_, fun t d e hk he => ?_, fun tags t hk ha => ?_,
      fun tid line mask v hk => Completion.memoryOpComplete_pres hf hk⟩,
    fun s g o h q hf hg hk hm hn => ⟨fun hv => ?_, fun hv => ?_⟩,
    fun s d line x hd hf hx hh h => homeWritePerform_local hd hf hx hh h, fun s c p va e hc he => Walks.lookup_addTlb hc he,
    fun s p r hw hh hm => ⟨fun e he hl => Walks.walkComplete_found hw hh hm he hl,
      fun g w he hr hg hl hs ht hst hno hlen hroom => Walks.walkComplete_parks hw hh hm he hr hg hl hs ht hst hno hlen hroom⟩,
    Life.staleMapRetry_eq, fun s b h => Life.slotUrgent_waits h, fun s b hs h => Life.slotUrgent_overdue hs h,
    fun s g t ts hg hl ht hs hh => Life.trapReport_eq hg hl ht hs hh,
    fun s t hl ht hs hi hb hla hd hc hh hm => Life.trapHandlerEntry_runs hl ht hs hi hb hd hc hh hla hm,
    fun s g hg ho hl => ⟨groupRetire_eq hg ho hl, retireGroup_gone g s⟩,
    fun s g k hg hl ht hs ha hr hk => regionAbort_eq hg hl ht hs ha hr hk,
    fun g token since => ⟨rfl, rfl, rfl, rfl, rfl, fun hl => if_pos hl, rfl, rfl, rfl, rfl, rfl, rfl, fun k hk => flag_replicate rfl hk⟩,
    fun s x hg ht hst hp hr hw hb => ⟨fun hc => ?_, fun hc hx => ?_, fun pa q hc hx hh hl hm => ?_⟩⟩
  · rw [Completion.operationComplete_done hf hk hl hw, Completion.completeOp_quiet hg hq]
    rfl
  · rw [Completion.memoryOpComplete_done hf hk hw, Completion.completeOp_quiet (o := { o with kind := .done }) hg hq]
    rfl
  · rw [Completion.operationComplete_done hf hk hld hw, Completion.completeOp_kept hg (by rw [hl]; nofun) hv hm, ht]
    rfl
  · rw [Completion.operationComplete_done hf hk hld hw, Completion.completeOp_draining hg hl hm]
  · rw [Completion.memoryOpComplete_barw hf hk hd, Completion.completeOp_quiet (o := { o with kind := .done }) hg hq]
    rfl
  · rw [Completion.memoryOpComplete_gpwt hf hk he, Completion.completeOp_quiet (o := { o with kind := .done, writes := _ }) hg hq]
    rfl
  · rw [Completion.memoryOpComplete_peer hf hk ha, Completion.completeOp_quiet (o := { o with kind := .done }) hg hq]
    rfl
  · rw [Completion.memoryOpComplete_hrst hf hk hm, Completion.hrstDone_binds hn hv.1 hv.2]
    rfl
  · rw [Completion.memoryOpComplete_hrst hf hk hm, Completion.hrstDone_refuses hv]
  · rw [gridComplete_unsignalled hg ht hst hp hr hw hb hc, gridGone_eq]
  · rw [gridComplete_refused hg ht hst hp hr hw hb hc hx, gridGone_eq]
  · rw [gridComplete_signalled hg ht hst hp hr hw hb hc hx hh hl hm, gridGone_eq]

end Sys2Proof.Proofs.Ends

/-! PROOF. A step (R402): an input that is due, or the front end of the slot picked (R13 to R18) and the cycle of its core (R403), and what a
fetch from memory reads (R452). -/
namespace Sys2Proof.Proofs.Steps
open Sys2Proof Sys2Proof.Machine Sys2Proof.Proofs.Caches Sys2Proof.Proofs.DecodeEncode Sys2Proof.Proofs.EncodeDecode

/-! ### The slot picked -/

/-- The oldest of some slots is one of them. -/
theorem mem_of_oldest {s : State} {l : List (Nat × Bool × Nat)} {y : Nat × Bool × Nat} (h : oldest s l = some y) : y ∈ l := by
  induction l generalizing y with
  | nil => cases h
  | cons a l ih =>
    unfold oldest at h
    cases ho : oldest s l with
    | none =>
      rw [ho] at h
      cases h
      exact List.mem_cons_self
    | some z =>
      rw [ho] at h
      dsimp only at h
      split at h <;> cases h
      · exact List.mem_cons_of_mem _ (ih ho)
      · exact List.mem_cons_self

theorem mem_of_firstSlot {s : State} {l : List (Nat × Bool × Nat)} {y : Nat × Bool × Nat} (h : firstSlot s l = some y) : y ∈ l := by
  have hm := mem_of_oldest h
  split at hm
  · exact hm
  · exact List.mem_of_mem_filter hm

/-- A slot that may be picked is a slot of a group. -/
theorem group_of_pickable {s : State} {z : Nat × Bool × Nat} (h : z ∈ pickable s) : ∃ g ∈ allGroups s, g.gid = z.1 := by
  obtain ⟨g, hg, hz⟩ := List.mem_flatMap.1 h
  obtain ⟨b, -, hb⟩ := List.mem_filterMap.1 hz
  split at hb <;> cases hb
  exact ⟨g, hg, rfl⟩

theorem groupOf_of_mem {s : State} {g : Group} (h : g ∈ allGroups s) : ∃ k, groupOf s g.gid = some k := by
  unfold groupOf
  split
  · exact ⟨_, rfl⟩
  next hne =>
    rcases List.mem_cons.1 h with rfl | hm
    · exact absurd rfl hne
    · exact Option.isSome_iff_exists.1 (List.find?_isSome.2 ⟨g, hm, beq_self_eq_true _⟩)

/-- The slot picked is a slot of a group. -/
theorem groupOf_of_pick {s : State} {x : Nat × Bool} (h : pick s = some x) : ∃ g, groupOf s x.1 = some g := by
  unfold pick at h
  dsimp only at h
  split at h
  · cases h
  · obtain ⟨z, hz, rfl⟩ := Option.map_eq_some_iff.1 h
    obtain ⟨g, hg, hgid⟩ := group_of_pickable (List.mem_of_mem_filter (mem_of_firstSlot hz))
    obtain ⟨k, hk⟩ := groupOf_of_mem hg
    exact ⟨k, hgid ▸ hk⟩

/-! ### The front end (R13 to R18) -/

/-- A body that is not wanted is not pinned. -/
theorem pinBody_eq_self {s : State} (h : ∀ l, (slot s).loop = some l → l.run = true → l.pin ≠ .want) : pinBody s = .ok s := by
  unfold pinBody
  cases hl : (slot s).loop with
  | none => rfl
  | some l =>
    refine if_neg fun hw => ?_
    obtain ⟨hr, hp⟩ := (Bool.and_eq_true _ _).mp hw
    exact h l hl hr (eq_of_beq hp)

/-- The words that begin at the first of some bytes. -/
def firstWords (bs : List Byte) : Words := EncodeDecode.wordsOf (leNat (bs.take (lenBytes (bs.getD 0 0))))

theorem fetchWords_of_fetchFrom {s t : State} {va : Nat} {bs : List Byte} (h : fetchFrom s va = .ok (bs, t))
    (hn : va % 32 + lenBytes (bs.getD 0 0) ≤ 32) : fetchWords s va = .ok (firstWords bs, lenBytes (bs.getD 0 0), t) := by
  unfold fetchWords
  rw [h]
  exact if_neg (by omega)

theorem decodeWords_of_decode {bs rest : List Byte} {i : Instr} (h : decode bs = .ok (i, rest)) : decodeWords (firstWords bs) = .ok i := by
  unfold decode at h
  split at h
  · cases h
  next b t =>
    dsimp only at h
    split at h
    · cases h
    · split at h <;> cases h
      assumption

/-- Only a header's words have the low bits of one (R17). -/
theorem low_bits_of_header {w : Words} {h : Header} (hd : decodeWords w = .ok (.clauseHeader h)) : w.w0.extractLsb' 0 2 = 3 := by
  cases hl : lenOf (w.w0.extractLsb' 0 2) with
  | none => exact code_of_lenOf_none hl
  | some l =>
    have he := encode_of_parse (parse_of_decodeWords hd).1 fun hn => nomatch hl.symm.trans hn
    cases he
    exact packHeader_code h

/-- The front end of a slot that need not find its place again, where nothing stops it, hands on the instruction that its bytes decode to. -/
theorem frontEnd_eq_run {p t : State} {i : Instr} {bs rest : List Byte} (hr : (slot p).reenter = false)
    (hcl : (slot p).cl = none → badTarget (slot p).pc = false) (hl : ∀ l, (slot p).loop = some l → l.run = true → l.pin ≠ .want)
    (hf : fetchFrom p (slot p).pc = .ok (bs, t)) (hn : (slot p).pc % 32 + lenBytes (bs.getD 0 0) ≤ 32) (hd : decode bs = .ok (i, rest))
    (hb : (slot p).skipBp = true ∨ comparator t (slot p).pc = none) (ht : badTransfer i t = false)
    (hh : (slot p).cl = none → ∃ h, i = .clauseHeader h) (hrep : (slot p).rep = none) : frontEnd p = .run i t := by
  have hslot : slot t = slot p := (memOnly_fetchFrom hf).slot_eq
  have hw := decodeWords_of_decode hd
  have hreplace : replace p = .ok p := by
    unfold replace
    rw [hr]
  have htarget : ((slot p).cl.isNone && badTarget (slot p).pc) ≠ true := fun hc => by
    obtain ⟨hc, hbad⟩ := (Bool.and_eq_true _ _).mp hc
    exact absurd (hcl (Option.isNone_iff_eq_none.1 hc)) (Bool.eq_false_iff.not_left.2 hbad)
  have hheader : ((slot p).cl.isNone && (firstWords bs).w0.extractLsb' 0 2 != 3) ≠ true := fun hc => by
    obtain ⟨hc, hbad⟩ := (Bool.and_eq_true _ _).mp hc
    obtain ⟨h, rfl⟩ := hh (Option.isNone_iff_eq_none.1 hc)
    exact ne_of_beq_false (by simpa using hbad) (low_bits_of_header hw)
  have hbp : (if (slot p).skipBp then none else comparator t (slot p).pc) = none := by
    rcases hb with hb | hb <;> simp [hb]
  have hword : frontWord p = .ok (i, t) := by
    unfold frontWord
    rw [if_neg htarget, pinBody_eq_self hl]
    dsimp only
    rw [fetchWords_of_fetchFrom hf hn]
    dsimp only
    rw [(parse_of_decodeWords hw).1]
    dsimp only
    refine (if_neg (Bool.eq_false_iff.1 ht)).trans ?_
    rw [hslot, hbp]
    dsimp only
    rw [if_neg hheader, hrep]
    dsimp only
    rw [hw]
  unfold frontEnd
  rw [hreplace]
  dsimp only
  rw [hword]

/-! ### The cycle of a core (R402, R403) -/

theorem issues_countWaits (c : Nat) (l : List (Nat × Bool)) (e s : State) : (countWaits c l e s).issues = s.issues := rfl

theorem cycleOf_alone {x : Nat × Bool} {s t : State} {g : Group} (hp : partner x s = none) (hg : groupOf s x.1 = some g)
    (hi : issueSlot x s = .next t) : cycleOf x s = if t.issues = s.issues then .next t else .next (countWaits g.core [x] s t) := by
  unfold cycleOf
  dsimp only
  rw [hp]
  dsimp only
  rw [hi, hg]

theorem cycleOf_pair {x y : Nat × Bool} {s t : State} {g : Group} (hp : partner x s = some y) (hg : groupOf s x.1 = some g)
    (hi : issueTwo x y s = .next t) : cycleOf x s = if t.issues = s.issues then .next t else .next (countWaits g.core [x, y] s t) := by
  unfold cycleOf
  dsimp only
  rw [hp]
  dsimp only
  rw [hi, hg]

section
variable {x : Nat × Bool} {s t : State} {g : Group} {n : Nat} {l : List (Nat × Bool × Nat)}

theorem cycle_not_held (hg : groupOf s x.1 = some g) (hc : cycleOf x s = .next t) (hh : leftHeld x s t = false) :
    cycle (n + 1) l x s = .next t := by
  unfold cycle
  rw [hc, hg]
  exact if_neg (Bool.eq_false_iff.1 hh)

/-- The first slot of a cycle is held: the next of its core is picked. -/
theorem cycle_held (hg : groupOf s x.1 = some g) (hc : cycleOf x s = .next t) (hh : leftHeld x s t = true) :
    cycle (n + 1) [] x s = match firstSlot t (besides g.core x t) with
      | some y => cycle n [(x.1, x.2, g.core)] (y.1, y.2.1) t
      | none => .next t := by
  have hfilter : (besides g.core x t).filter (fun z => ! [(x.1, x.2, g.core)].contains z) = besides g.core x t :=
    List.filter_eq_self.2 fun z hz => by
      obtain ⟨-, hne⟩ := (Bool.and_eq_true _ _).mp (List.mem_filter.1 hz).2
      simpa using hne
  rw [cycle, hc, hg]
  dsimp only
  rw [if_pos hh, List.nil_append, hfilter] <;> rfl

theorem cycle_fault {r : Fault} (hc : cycleOf x s = .fault r) : cycle (n + 1) l x s = .fault r := by
  rw [cycle, hc]

theorem cycle_refused {r : Refusal} (hc : cycleOf x s = .refused r) : cycle (n + 1) l x s = .refused r := by
  rw [cycle, hc]

theorem leftHeld_eq_false_of_issued (h : t.issues ≠ s.issues) : leftHeld x s t = false := by
  simp [leftHeld, h]

theorem leftHeld_eq_false_of_not_held (h : (slotOf t x).st ≠ .held) : leftHeld x s t = false := by
  simp [leftHeld, h]

theorem leftHeld_eq_true (h : t.issues = s.issues) (hh : (slotOf t x).st = .held) : leftHeld x s t = true := by
  simp [leftHeld, h, hh]

end

/-! ### One step -/

/-- A step that no input and no other agent takes is a cycle of the core of the slot picked. -/
theorem step_eq_cycle {s : State} {x : Nat × Bool} (ha : s.agenda = []) (ht : s.turn = false) (hp : pick (elapse s) = some x) :
    step s = cycle 96 [] x (elapse s) := by
  have hagenda : (elapse s).agenda = [] := ha
  have hturn : (elapse s).turn = false := ht
  unfold step
  dsimp only
  rw [hagenda]
  dsimp only
  unfold turnStep
  rw [hturn, if_neg Bool.false_ne_true]
  dsimp only
  rw [hp]

theorem step_eq_exec {s : State} {i : Instr} {rest : List Instr} (h : s.agenda = i :: rest) :
    step s = exec i { elapse s with agenda := rest } := by
  have hagenda : (elapse s).agenda = i :: rest := h
  unfold step
  dsimp only
  rw [hagenda]

/-! ### What a fetch reads (R452) -/

/-- A block that no copy holds and whose line no core holds is read from memory, and kept. -/
theorem fetchBlock_from_memory {s : State} {va pa : Nat} {sr : Bool} (hi : icacheGet s s.grp.core s.grp.part (va57 va / 32) = none)
    (hc : canonical va = true) (hx : xlate s (some s.grp.core) s.grp.part (va57 va / 32 * 32) 32 needFetch = .ok pa sr)
    (hh : ∀ d l, homeOf s pa ≠ .peer d l) (hl : lineHeld s s.grp.core (lineNo s pa) = false) :
    fetchBlock s va = .ok (readBytes s pa 32, icachePut s.grp.core s.grp.part (va57 va / 32) (readBytes s pa 32) s) := by
  have hhome : atHome ([lineNo s pa].filter (lineHeld s s.grp.core)) = none := by
    rw [List.filter_cons_of_neg (Bool.eq_false_iff.1 hl)]
    rfl
  unfold fetchBlock
  dsimp only
  rw [hc, hi, hx]
  dsimp only
  rw [hhome]
  cases hk : homeOf s pa with
  | peer d l => exact absurd hk (hh d l)
  | _ => rfl

theorem fetchFrom_from_memory {s t : State} {va : Nat} {bs : List Byte} (hp : pinnedBytes (slot s) va = none)
    (hf : fetchBlock s va = .ok (bs, t)) : fetchFrom s va = .ok (bs.drop (va % 32), t) := by
  unfold fetchFrom
  rw [hp]
  dsimp only
  rw [hf]

/-! ### The obligation -/

/-- The two slots of a cycle, in the statement's words. -/
theorem issueTwo_eq (x y : Nat × Bool) (e : State) :
    issueTwo x y e = if y.1 ≠ x.1 then issueApart x y e
      else if ageIn e y < ageIn e x ∧ trapping x e = true ∧ trapping y e = true then issueBoth y x e else issueBoth x y e := by
  simp [issueTwo, and_assoc]

theorem cycleOf_alone_stop {x : Nat × Bool} {s : State} (hp : partner x s = none) :
    (∀ r, issueSlot x s = .fault r → cycleOf x s = .fault r) ∧ (∀ r, issueSlot x s = .refused r → cycleOf x s = .refused r) := by
  unfold cycleOf
  dsimp only
  rw [hp]
  dsimp only
  constructor
  all_goals
    intro r hr
    rw [hr]

/-- Settles O33: the front end of the picked slot hands on what its bytes decode to, and the cycle of its core makes of that the step. -/
theorem stepRunsTheDecodedInstruction : Obligations.StepRunsTheDecodedInstruction := by
  unfold Obligations.StepRunsTheDecodedInstruction
  refine ⟨?_, ?_, fun s i rest h => step_eq_exec h, ?_⟩
  case refine_1 =>
    intro s t x i bs rest ha hturn hpick p hpartner hr hcl hl hf hn hd hb ht hh hrep
    have hissue : issueSlot x (elapse s) = exec i t := by
      unfold issueSlot
      rw [frontEnd_eq_run hr hcl hl hf hn hd hb ht hh hrep]
    obtain ⟨g, hg⟩ := groupOf_of_pick hpick
    have halone {u : State} (hu : exec i t = .next u) := cycleOf_alone hpartner hg (hissue.trans hu)
    obtain ⟨hfault, hrefused⟩ := cycleOf_alone_stop hpartner
    refine ⟨g, hg, fun u hu hne => ?_, fun u hu he hne => ?_, fun u hu he hheld => ?_, fun r hx => ?_, fun r hx => ?_⟩
    all_goals rw [step_eq_cycle ha hturn hpick]
    · exact cycle_not_held hg ((halone hu).trans (if_neg hne)) (leftHeld_eq_false_of_issued hne)
    · exact cycle_not_held hg ((halone hu).trans (if_pos he)) (leftHeld_eq_false_of_not_held hne)
    · exact cycle_held hg ((halone hu).trans (if_pos he)) (leftHeld_eq_true he hheld)
    · exact cycle_fault (hfault r (hissue.trans hx))
    · exact cycle_refused (hrefused r (hissue.trans hx))
  case refine_2 =>
    intro s t x y ha hturn hpick hpartner e two htwo
    obtain ⟨g, hg⟩ := groupOf_of_pick hpick
    have hpair := cycleOf_pair hpartner hg ((issueTwo_eq x y e).trans htwo)
    refine ⟨g, hg, fun hne => ?_, fun he hne => ?_⟩
    all_goals rw [step_eq_cycle ha hturn hpick]
    · exact cycle_not_held hg (hpair.trans (if_neg hne)) (leftHeld_eq_false_of_issued hne)
    · exact cycle_not_held hg (hpair.trans (if_pos he)) (leftHeld_eq_false_of_not_held hne)
  case refine_3 =>
    intro s va pa sr hp hi hc hx hh hl
    exact ⟨_, fetchFrom_from_memory hp (fetchBlock_from_memory hi hc hx hh hl), rfl, rfl, rfl⟩

end Sys2Proof.Proofs.Steps

/-! PROOF. One element of a word in an atomic operation (R59, R188, R191, R192): the element replaced, and what each operation makes of it. -/
namespace Sys2Proof.Proofs.AtomicElements
open Sys2Proof Sys2Proof.Machine Sys2Proof.Proofs.Fields Sys2Proof.Proofs.Words Sys2Proof.Proofs.Integers

/-! ### An element replaced (R37) -/

/-- An element of a word as the bits that it is cut from. -/
theorem elem_eq_extract (d : Word) (e w : Nat) : elem d e w = (d.extractLsb' (e * w) w).toNat := by
  rw [BitVec.extractLsb'_toNat, Nat.mul_comm, elem]

theorem elem_zero_eq_extract (d : Word) (w : Nat) : elem d 0 w = (d.extractLsb' 0 w).toNat := by
  rw [elem_eq_extract, Nat.zero_mul]

/-- Two elements have the same number where they are cut from the same bits: ACAS's compare, bit for bit (R192). -/
theorem elem_eq_elem_zero_iff (d v : Word) (e w : Nat) : elem d e w = elem v 0 w ↔ d.extractLsb' (e * w) w = v.extractLsb' 0 w := by
  rw [elem_eq_extract, elem_zero_eq_extract, BitVec.toNat_inj]

/-- A bit of a word of which one element is replaced. -/
theorem getLsbD_setElem (d : Word) (e w v : Nat) {k : Nat} (hk : k < 64) :
    (setElem d e w v).getLsbD k = if e * w ≤ k ∧ k < e * w + w then v.testBit (k - e * w) else d.getLsbD k := by
  have hin : (k - e * w < w ∧ e * w ≤ k) ↔ (e * w ≤ k ∧ k < e * w + w) := by omega
  have hfield := testBit_field (e * w, w, v) k
  rw [setElem, setField, Nat.mul_comm w e, BitVec.getLsbD_ofNat, Nat.testBit_or, hfield]
  simp only [Nat.testBit_and, Nat.testBit_xor, Nat.testBit_two_pow_sub_one, Nat.testBit_shiftLeft, BitVec.getLsbD, hk]
  by_cases h : e * w ≤ k ∧ k < e * w + w
  · simp [h, (hin.2 h).1]
  · rw [if_neg h]
    by_cases hl : e * w ≤ k
    · simp [show ¬ k - e * w < w by omega]
    · simp [hl]

/-- The element that is replaced reads the low bits of what was put. -/
theorem extract_setElem_same (d r : Word) {e w : Nat} (he : e * w + w ≤ 64) : (setElem d e w r.toNat).extractLsb' (e * w) w = r.extractLsb' 0 w := by
  refine BitVec.eq_of_getLsbD_eq fun k hk => ?_
  rw [BitVec.getLsbD_extractLsb', BitVec.getLsbD_extractLsb', getLsbD_setElem d e w _ (by omega), if_pos (by omega), Nat.add_sub_cancel_left, Nat.zero_add]
  rfl

theorem getLsbD_setElem_outside (d : Word) {e w v k : Nat} (hk : k < 64) (h : k < e * w ∨ e * w + w ≤ k) :
    (setElem d e w v).getLsbD k = d.getLsbD k := by
  rw [getLsbD_setElem d e w v hk, if_neg (by omega)]

/-- An element of a word ends within it. -/
theorem elem_end_le {e w : Nat} (h : e < 64 / w) : e * w + w ≤ 64 := by
  rw [← Nat.succ_mul]
  exact Nat.mul_le_of_le_div w (e + 1) 64 h

/-! ### The outcome for a word (R188, R191, R192) -/

/-- The outcome that replaces element e of a word and stamps it. -/
def replaced (t : TWord) (e w x fl : Nat) : AtomRes := { bad := false, put := some (stamped (setElem t.data e w x)), fl := fl }

theorem atomWord_mismatch (k : AtomKind) (ty q e : Nat) {b : Bool} {t : TWord} (v n : Word) (h : mismatch b t = true) :
    atomWord k ty q e b t v n = { bad := true, put := none, fl := 0 } := if_pos h

section
variable {b : Bool} {t : TWord} (hm : mismatch b t = false) (e : Nat) (v n : Word)
include hm

theorem atomWord_rmw (k ty q : Nat) : atomWord (.rmw k) ty q e b t v n =
    let r := atomElem (.rmw k) ty q (elem t.data e (tyWidth ty)) (elem v 0 (tyWidth ty)) (elem n 0 (tyWidth ty))
    replaced t e (tyWidth ty) r.bits r.fl := by
  unfold atomWord
  rw [if_neg (Bool.eq_false_iff.1 hm)]
  exact if_neg (by simp)

theorem atomWord_cas_holds {ty q : Nat} (h : elem t.data e (tyWidth ty) = elem v 0 (tyWidth ty)) :
    atomWord .cas ty q e b t v n = replaced t e (tyWidth ty) (elem n 0 (tyWidth ty)) 0 := by
  simp [atomWord, atomElem, replaced, hm, h]

theorem atomWord_cas_fails {ty q : Nat} (h : elem t.data e (tyWidth ty) ≠ elem v 0 (tyWidth ty)) :
    atomWord .cas ty q e b t v n = { bad := false, put := none, fl := 0 } := by
  simp [atomWord, hm, h]

/-- An operation whose element is an integer function of the model gives what that function's operation on bit vectors gives. -/
theorem atomWord_of_agrees {f : Comp} {fn : Nat → Nat → Nat → Nat → Nat} {op : ElemFn} (ha : Agrees f fn op) {k q : Nat}
    (hk : ∀ m a c, atomElem (.rmw k) f.ty.toNat q m a c = ⟨fn f.ty.toNat m a 0, 0⟩) :
    atomWord (.rmw k) f.ty.toNat q e b t v n =
      replaced t e f.w (op f f.w (tySigned f.ty.toNat) (t.data.extractLsb' (e * f.w) f.w) (v.extractLsb' 0 f.w) 0).toNat 0 := by
  rw [atomWord_rmw hm, hk, ← ha, ← Comp.w, elem_eq_extract, elem_zero_eq_extract]
  rfl

end

/-- Every TY code is the type of some compute fields. -/
theorem exists_comp_ty {ty : Nat} (h : ty < 16) : ∃ f : Comp, f.ty.toNat = ty :=
  ⟨{ len := .l64, d := 0, a := 0, b := 0, ty := BitVec.ofNat 4 ty, msk := 0, cf := 0, u := false
     ax := false, bx := false, rm := 0, ow := false, qr := 0, opf := 0, w1 := 0, w2 := 0 }, Nat.mod_eq_of_lt h⟩

/-- Settles O49: the integer operations are those of the compute forms on elements (R92); the rest is the operation's case of the outcome. -/
theorem atomicResults : Obligations.AtomicResults := by
  unfold Obligations.AtomicResults
  refine ⟨?integers, ?reals, fun k ty q e b t v n => atomWord_mismatch k ty q e v n, ?element⟩
  case integers =>
    intro ty e t v n hty _ hm
    obtain ⟨f, rfl⟩ := exists_comp_ty (Nat.lt_trans hty (by decide))
    have hput (x : Word) : replaced t e f.w (elem x 0 f.w) 0 = replaced t e f.w (x.extractLsb' 0 f.w).toNat 0 := by rw [elem_zero_eq_extract]
    have hsame := elem_eq_elem_zero_iff t.data v e f.w
    refine ⟨atomWord_of_agrees hm e v n (agrees_add f) fun _ _ _ => rfl, atomWord_of_agrees hm e v n (agrees_min f) fun _ _ _ => rfl,
      atomWord_of_agrees hm e v n (agrees_max f) fun _ _ _ => rfl, atomWord_of_agrees hm e v n (agrees_and f) fun _ _ _ => rfl,
      atomWord_of_agrees hm e v n (agrees_or f) fun _ _ _ => rfl, atomWord_of_agrees hm e v n (agrees_xor f) fun _ _ _ => rfl, ?_, fun h => ?_, fun h => ?_⟩
    · exact (atomWord_rmw hm e v n 6 _ 0).trans (hput v)
    · exact (atomWord_cas_holds hm e v n (hsame.2 h)).trans (hput n)
    · exact atomWord_cas_fails hm e v n (mt hsame.1 h)
  case reals =>
    intro e q t v n hm
    exact ⟨atomWord_rmw hm e v n 7 10 q, atomWord_rmw hm e v n 8 9 q, fun ty _ => atomWord_rmw hm e v n 6 ty q, fun ty _ => atomWord_rmw hm e v n 9 ty q⟩
  case element =>
    intro w e d r _ he
    exact ⟨extract_setElem_same d r (elem_end_le he), fun k hk hout => getLsbD_setElem_outside d hk hout⟩

end Sys2Proof.Proofs.AtomicElements

/-! PROOF. The canonical form of memory (R85, R87, R243): what is shown of every part of a step, and the updates of the state, of home
memory, caches, records and images. -/
namespace Sys2Proof.Proofs.CanonicalMemory
open Sys2Proof Sys2Proof.Machine

/-- Memory has its canonical form (R85, R87): what every step keeps. -/
def Wf (s : State) : Prop := Memory.wf s = true

/-- Where an act does not stop, the state that it leaves is well-formed. -/
inductive OkWf : Except Stop State → Prop
  | ok {t : State} (h : Wf t) : OkWf (.ok t)
  | error {e : Stop} : OkWf (.error e)

/-- The same of an act that also gives a value. -/
inductive OkPairWf {α : Type} : Except Stop (α × State) → Prop
  | ok {r : α × State} (h : Wf r.2) : OkPairWf (.ok r)
  | error {e : Stop} : OkPairWf (.error e)

/-- The state is well-formed, if there is one. -/
inductive SomeWf : Option State → Prop
  | some {t : State} (h : Wf t) : SomeWf (.some t)
  | none : SomeWf .none

/-- The same where a value stands beside the state. -/
inductive SomePairWf {α : Type} : Option (α × State) → Prop
  | some {r : α × State} (h : Wf r.2) : SomePairWf (.some r)
  | none : SomePairWf .none

/-- The next state of an outcome is well-formed. -/
inductive NextWf : StepOut → Prop
  | next {t : State} (h : Wf t) : NextWf (.next t)
  | fault {e : Fault} : NextWf (.fault e)
  | refused {e : Refusal} : NextWf (.refused e)

theorem OkWf.of {t : State} {r : Except Stop State} (h : OkWf r) (e : r = .ok t) : Wf t := by
  cases h with
  | ok h => cases e; exact h
  | error => cases e

theorem OkPairWf.of {α : Type} {a : α} {t : State} {r : Except Stop (α × State)} (h : OkPairWf r) (e : r = .ok (a, t)) : Wf t := by
  cases h with
  | ok h => cases e; exact h
  | error => cases e

theorem SomeWf.of {t : State} {r : Option State} (h : SomeWf r) (e : r = .some t) : Wf t := by
  cases h with
  | some h => cases e; exact h
  | none => cases e

theorem SomePairWf.of {α : Type} {a : α} {t : State} {r : Option (α × State)} (h : SomePairWf r) (e : r = .some (a, t)) : Wf t := by
  cases h with
  | some h => cases e; exact h
  | none => cases e

theorem NextWf.of {t : State} {r : StepOut} (h : NextWf r) (e : r = .next t) : Wf t := by
  cases h with
  | next h => cases e; exact h
  | fault => cases e
  | refused => cases e

theorem OkWf.ite {c : Prop} [Decidable c] {r q : Except Stop State} (h : OkWf r) (k : OkWf q) : OkWf (if c then r else q) := by
  split
  · exact h
  · exact k

theorem NextWf.ite {c : Prop} [Decidable c] {r q : StepOut} (h : NextWf r) (k : NextWf q) : NextWf (if c then r else q) := by
  split
  · exact h
  · exact k

theorem wf_snd {α : Type} {a : α} {t : State} {r : α × State} (h : Wf r.2) (e : r = (a, t)) : Wf t := by
  rw [e] at h
  exact h

theorem wf_snd2 {α β : Type} {a : α} {b : β} {t : State} {r : α × β × State} (h : Wf r.2.2) (e : r = (a, b, t)) : Wf t := by
  rw [e] at h
  exact h

theorem wf_ite {c : Prop} [Decidable c] {s t : State} (h : Wf s) (k : Wf t) : Wf (if c then s else t) := by
  split
  · exact h
  · exact k

theorem wf_ite2 {α : Type} {c : Prop} [Decidable c] {r q : α × State} (h : Wf r.2) (k : Wf q.2) : Wf (if c then r else q).2 := by
  split
  · exact h
  · exact k

theorem wf_foldl {α : Type} {f : State → α → State} {l : List α} {s : State} (hf : ∀ s a, Wf s → Wf (f s a)) (h : Wf s) : Wf (l.foldl f s)
    :=
  Memory.wf_foldl f hf l h

theorem SomeWf.ite {c : Prop} [Decidable c] {r q : Option State} (h : SomeWf r) (k : SomeWf q) : SomeWf (if c then r else q) := by
  split
  · exact h
  · exact k

theorem OkPairWf.ite {α : Type} {c : Prop} [Decidable c] {r q : Except Stop (α × State)} (h : OkPairWf r) (k : OkPairWf q) :
    OkPairWf (if c then r else q) := by
  split
  · exact h
  · exact k

theorem SomeWf.map {α : Type} {o : Option α} {f : α → State} (h : ∀ a, Wf (f a)) : SomeWf (o.map f) := by
  cases o with
  | none => exact .none
  | some a => exact .some (h a)

theorem SomeWf.findSome {α : Type} {f : α → Option State} (h : ∀ a, SomeWf (f a)) : ∀ {l : List α}, SomeWf (l.findSome? f)
  | [] => .none
  | a :: l => by
    rw [List.findSome?_cons]
    split
    case h_1 e => exact .some ((h a).of e)
    · exact SomeWf.findSome h

theorem wf_getD {o : Option State} {s : State} (h : SomeWf o) (k : Wf s) : Wf (o.getD s) := by
  cases h with
  | some h => exact h
  | none => exact k

theorem SomePairWf.ite {α : Type} {c : Prop} [Decidable c] {r q : Option (α × State)} (h : SomePairWf r) (k : SomePairWf q) :
    SomePairWf (if c then r else q) := by
  split
  · exact h
  · exact k

/-- Every other part of the state may be anything. -/
theorem wf_other {s : State} {xgrp : Group} {xcur : Bool} {xgroups : List Group} {xteam : Team} {xteams : List Team} {xclusters : List
    Cluster} {xgrids : List Grid} {xparts : Vector Partition 16} {xcores : Vector Core 384} {xdies : Vector Die 8} {xslices : Vector Slice
    256} {xpins : List (Nat × Nat)} {xclaims : List (Nat × Nat)} {xwbs : List (Nat × CLine)} {xwatches : List Watch} {xflumes : List Flume}
    {xweir : Weir} {xdistr : Distr} {xfabric : Fabric} {xmgmt : Mgmt} {xticket : Nat} {xhostOut : List HostOut} {xhostHeld : List HostAcc}
    {xtime : Nat} {xtick : Nat} {xfree : Nat} {xnextId : Nat} {xchange : Nat} {xissues : Nat} {xlate : Option (List Late)} {xagenda : List
    Instr} {xturn : Bool} {xlastCore : Nat}
    (h : Wf s) : Wf ⟨xgrp, xcur, xgroups, xteam, xteams, xclusters, xgrids, xparts, xcores, xdies, xslices, s.mem, s.marks, s.valid, xpins,
        xclaims, xwbs, xwatches, xflumes, xweir, xdistr, xfabric, xmgmt, xticket, xhostOut, xhostHeld, xtime, xtick, xfree, xnextId,
        xchange, xissues, xlate, xagenda, xturn, xlastCore⟩ := h

/-! ### Memory at home -/

theorem wf_writeByte {s : State} {pa : Nat} {b : Byte} (h : Wf s) : Wf (writeByte s pa b) := Memory.wf_writeByte pa b h
theorem wf_writeBytes {s : State} {pa : Nat} {l : List Byte} (h : Wf s) : Wf (writeBytes s pa l) := Memory.wf_writeBytes l pa h
theorem wf_setValid {s : State} {pa : Nat} {b : Bool} (h : Wf s) : Wf (setValid s pa b) := Memory.wf_setValid pa b h
theorem wf_writeMark {s : State} {pa : Nat} {m : Mark} (h : Wf s) : Wf (writeMark s pa m) := Memory.wf_writeMark pa m h

/-- A write that is made at once, or kept until the end of the cycle (R90, R123, R129). -/
theorem wf_defer {x : Late} {f : State → State} {s : State} (hf : ∀ s, Wf s → Wf (f s)) (h : Wf s) : Wf (defer x f s) := by
  unfold defer
  split
  · exact hf s h
  · exact wf_other h

section
variable {s : State} {p c d i k gid tid cid g r pa key cnd step op dev line wmask kind dst id rrpv rdis scope va fn vec n : Nat} {t : TWord}
  {hd : FabHdr} {cnt : Option Nat} {pu : Purpose} {x : CLine} {ws : List TWord}

/-! ### Parts of the state -/

theorem wf_modPart {f : Partition → Partition} (h : Wf s) : Wf (modPart p f s) := wf_other h
theorem wf_modCore {f : Core → Core} (h : Wf s) : Wf (modCore c f s) := wf_other h
theorem wf_modDie {f : Die → Die} (h : Wf s) : Wf (modDie d f s) := wf_other h
theorem wf_modSlice {f : Slice → Slice} (h : Wf s) : Wf (modSlice i f s) := wf_other h
theorem wf_modWeir {f : Weir → Weir} (h : Wf s) : Wf (modWeir f s) := wf_other h
theorem wf_modFabric {f : Fabric → Fabric} (h : Wf s) : Wf (modFabric f s) := wf_other h
theorem wf_modLink {f : Link → Link} (h : Wf s) : Wf (modLink k f s) := wf_other h
theorem wf_modMgmt {f : Mgmt → Mgmt} (h : Wf s) : Wf (modMgmt f s) := wf_other h
theorem wf_modDistr {f : Distr → Distr} (h : Wf s) : Wf (modDistr f s) := wf_other h
theorem wf_modGroup {f : Group → Group} (h : Wf s) : Wf (modGroup gid f s) := wf_ite (wf_other h) (wf_other h)
theorem wf_mapGroups {f : Group → Group} (h : Wf s) : Wf (mapGroups f s) := wf_other h
theorem wf_modTeam {f : Team → Team} (h : Wf s) : Wf (modTeam tid f s) := wf_ite (wf_other h) (wf_other h)
theorem wf_modCluster {f : Cluster → Cluster} (h : Wf s) : Wf (modCluster cid f s) := wf_other h
theorem wf_modGrid {f : Grid → Grid} (h : Wf s) : Wf (modGrid g f s) := wf_other h
theorem wf_fresh (h : Wf s) : Wf (fresh s).2 := wf_other h
theorem wf_freeWord (h : Wf s) : Wf (freeWord s).2 := wf_other h
theorem wf_freeLanes (h : Wf s) : Wf (freeLanes s).2 := wf_other h
theorem wf_bump (h : Wf s) : Wf (bump s) := wf_other h
theorem wf_modGrp {f : Group → Group} (h : Wf s) : Wf (modGrp f s) := wf_other h
theorem wf_modCur {f : Slot → Slot} (h : Wf s) : Wf (modCur f s) := wf_other h
theorem wf_modOther {f : Slot → Slot} (h : Wf s) : Wf (modOther f s) := wf_other h
theorem wf_wakeStack (h : Wf s) : Wf (wakeStack s) := wf_modOther h

theorem wf_focus {gid : Nat} {b : Bool} {s : State} (h : Wf s) : Wf (focus gid b s) := by
  have focusGroup : Wf (if s.grp.gid = gid then s
      else match s.groups.find? (fun g => g.gid == gid) with
        | none => s
        | some g => { s with grp := g, groups := (if s.grp.life == .retired then [] else [s.grp]) ++ s.groups.filter (fun x => x.gid !=
            gid) }) := by
    refine wf_ite h ?_
    split
    · exact h
    · exact wf_other h
  refine wf_ite (wf_other focusGroup) ?_
  split
  · exact wf_other focusGroup
  · exact wf_other (wf_other focusGroup)

theorem wf_writeS {v : Word} (h : Wf s) : Wf (writeS r v s) := wf_defer (fun _ h => wf_modGrp h) h

/-! ### Words at home (R243 to R257) -/

theorem wf_accept (h : Wf s) : Wf (accept s pa) := by
  unfold accept
  refine wf_ite ?_ h
  split
  · exact wf_modSlice h
  · exact h

theorem wf_sigNote (h : Wf s) : Wf (sigNote s pa) := wf_other h
theorem wf_putWord (h : Wf s) : Wf (putWord s pa t) := wf_sigNote (wf_writeMark (wf_writeBytes h))
theorem wf_addWatch {cmp : Word} (h : Wf s) : Wf (addWatch key pa cnd cmp s) := wf_other h
theorem wf_dropWatches {f : Nat → Bool} (h : Wf s) : Wf (dropWatches f s) := wf_other h
theorem wf_homeWrite (h : Wf s) : Wf (homeWrite s pa t) := wf_setValid (wf_putWord h)
theorem wf_clearBlock (h : Wf s) : Wf (clearBlock s pa) := wf_setValid (wf_foldl (fun _ _ h => wf_putWord h) h)

/-! ### Flits and messages (R405 to R433) -/

theorem wf_sendGmac (h : Wf s) : Wf (sendGmac k s) := by
  unfold sendGmac
  dsimp only
  split
  · exact h
  · exact wf_modLink h

theorem wf_emitNumbered (h : Wf s) : Wf (emitNumbered k s) := by
  unfold emitNumbered
  split
  · exact h
  · dsimp only
    split
    · exact wf_modLink h
    · exact wf_modLink (wf_modLink h)

theorem wf_transmitAs {i : FabItem} (h : Wf s) : Wf (transmitAs step k i s) := wf_modLink h
theorem wf_transmitItem {i : FabItem} (h : Wf s) : Wf (transmitItem k i s) := wf_transmitAs h
theorem wf_transmit {d : List TWord} (h : Wf s) : Wf (transmit k hd d s) := wf_transmitItem h
theorem wf_queueSpill {ms : List (FabHdr × List TWord)} (h : Wf s) : Wf (queueSpill k ms s) := wf_modLink h

theorem wf_emitSpillway (h : Wf s) : Wf (emitSpillway k s) := by
  unfold emitSpillway
  dsimp only
  split
  · exact wf_modLink h
  · exact h

theorem wf_sendNext (h : Wf s) : Wf (sendNext k s) :=
  wf_ite (wf_sendGmac h) (wf_ite (wf_emitSpillway h) (wf_ite (wf_emitNumbered h) (wf_ite (wf_sendGmac h) h)))

theorem wf_sendReq {d : List TWord} (h : Wf s) : Wf (sendReq op dev line wmask d cnt p gid pu s) :=
  wf_ite (wf_transmit (wf_modFabric h)) (wf_modFabric h)

theorem wf_sendNow {r : Req} (h : Wf s) : Wf (sendNow r step k hd s) := wf_transmitAs (wf_modFabric h)
theorem wf_sendAgain {r : Req} (h : Wf s) : Wf (sendAgain r s) := wf_ite h (wf_sendNow h)

theorem wf_pumpList : ∀ {l : List Req} {n : Nat} {go : Bool} {s : State}, Wf s → Wf (pumpList l n go s)
  | [], _, _, _, h => h
  | _ :: _, _, _, _, h => wf_ite (wf_pumpList (wf_sendAgain h)) (wf_pumpList (wf_ite (wf_sendNow h) h))

theorem wf_pumpReqs (h : Wf s) : Wf (pumpReqs s) := wf_pumpList h
theorem wf_sendRsp {d : List TWord} (h : Wf s) : Wf (sendRsp op hd wmask d s) := wf_transmit h
theorem wf_sendSeg {c : CtlSeg} (h : Wf s) : Wf (sendSeg c s) := wf_transmitItem h
theorem wf_sendCtl {bytes : List Byte} (h : Wf s) : Wf (sendCtl kind dst bytes s) := wf_sendSeg h

/-! ### Caches and write-backs (R232 to R242) -/

theorem wf_dropFills {hit : Nat → Bool} (h : Wf s) : Wf (dropFills d hit s) := wf_modFabric (wf_modDie h)
theorem wf_performLine (h : Wf s) : Wf (performLine x s) := wf_foldl (fun _ _ h => wf_ite (wf_homeWrite h) h) (wf_accept h)

theorem wf_writeHome (h : Wf s) : Wf (writeHome r x cnt s) := by
  unfold writeHome
  refine wf_ite (wf_other h) ?_
  split
  · exact wf_sendReq h
  · exact wf_performLine h

theorem wf_lineFree (h : Wf s) : Wf (lineFree line s) := wf_foldl (fun _ _ h => wf_writeHome h) (wf_other h)
theorem wf_freeLines (h : Wf s) : Wf (freeLines s) := wf_foldl (fun _ _ h => wf_lineFree h) h
theorem wf_unclaim (h : Wf s) : Wf (unclaim line id s) := wf_lineFree (wf_other h)

theorem wf_putHome (h : Wf s) : Wf (putHome p pa ws pu s) := by
  unfold putHome
  split
  · exact wf_sendReq h
  · exact wf_foldl (fun _ _ h => wf_homeWrite h) (wf_accept h)

theorem wf_dieRoom (h : Wf s) : Wf (dieRoom d line s).2 := by
  unfold dieRoom
  dsimp only
  split
  · exact h
  · split
    · exact wf_ite (wf_writeHome (wf_dropFills (wf_modDie h))) (wf_dropFills (wf_modDie h))
    · exact wf_modDie h

theorem wf_dieTouch (h : Wf s) : Wf (dieTouch d line rrpv s) := wf_ite (wf_modDie h) (wf_modDie (wf_dieRoom h))
theorem wf_dieWords {f : Nat → CWord → CWord} (h : Wf s) : Wf (dieWords d line f s) := wf_modDie h

theorem wf_dieFill (h : Wf s) : Wf (dieFill d line rdis s) := by
  unfold dieFill
  dsimp only
  split
  · exact wf_dieTouch h
  · exact wf_ite (wf_dieTouch h) (wf_dieWords (wf_accept (wf_dieTouch h)))

theorem wf_l1Insert (h : Wf s) : Wf (l1Insert c x s) := by
  unfold l1Insert
  refine wf_ite (wf_modCore h) ?_
  split
  · exact wf_modCore h
  · exact wf_ite (wf_dieWords (wf_modDie (wf_dieTouch (wf_modCore h)))) (wf_modCore h)

theorem wf_takeFill (h : Wf s) : Wf (takeFill c line s) := by
  unfold takeFill
  split
  · exact h
  · exact wf_dieWords (wf_modDie h)

theorem wf_l1Take (h : Wf s) : Wf (l1Take c line i s) := wf_l1Insert h
theorem wf_l1Fill (h : Wf s) : Wf (l1Fill c line i rdis s) := wf_ite (wf_l1Take (wf_takeFill (wf_dieFill h))) (wf_l1Insert h)
theorem wf_cacheRead (h : Wf s) : Wf (cacheRead c pa rdis s).2 := wf_l1Fill h
theorem wf_cacheWrite (h : Wf s) : Wf (cacheWrite c pa p rdis t s) := wf_modCore (wf_l1Fill h)
theorem wf_cacheStore {bs : List Byte} (h : Wf s) : Wf (cacheStore c pa p rdis bs s) := wf_cacheWrite (wf_cacheRead h)

theorem wf_l1WriteBack (h : Wf s) : Wf (l1WriteBack c line s) := by
  unfold l1WriteBack
  split
  · exact h
  · exact wf_ite (wf_dieWords (wf_modDie (wf_dieTouch (wf_modCore h)))) h

theorem wf_dieWriteBack (h : Wf s) : Wf (dieWriteBack d r line cnt s) := by
  unfold dieWriteBack
  split
  · exact h
  · exact wf_ite (wf_writeHome (wf_modDie h)) h

theorem wf_l1Drop (h : Wf s) : Wf (l1Drop c line s) := wf_modCore h
theorem wf_dieDrop (h : Wf s) : Wf (dieDrop d line s) := wf_dropFills (wf_modDie h)
theorem wf_flushLine (h : Wf s) : Wf (flushLine c line s) := wf_dieDrop (wf_l1Drop (wf_dieWriteBack (wf_l1WriteBack h)))
theorem wf_dropLine (h : Wf s) : Wf (dropLine c line s) := wf_dieDrop (wf_l1Drop h)
theorem wf_releaseL1 (h : Wf s) : Wf (releaseL1 c s) := wf_foldl (fun _ _ h => wf_l1WriteBack h) h
theorem wf_releaseDie (h : Wf s) : Wf (releaseDie d r cnt s) := wf_foldl (fun _ _ h => wf_dieWriteBack h) h
theorem wf_releaseAction (h : Wf s) : Wf (releaseAction c scope s) := wf_ite h (wf_ite (wf_releaseL1 h) (wf_releaseDie (wf_releaseL1 h)))

theorem wf_acquireAction (h : Wf s) : Wf (acquireAction c scope s) := wf_ite h (wf_ite (wf_modCore h)
    (wf_dropFills (wf_modDie (wf_modCore h))))

theorem wf_keepFill (h : Wf s) : Wf (keepFill c line ws s) := wf_modDie h
theorem wf_peerFill (h : Wf s) : Wf (peerFill c line rdis ws s) := wf_dieWords (wf_ite h (wf_dieTouch h))

theorem wf_peerFillL1 {ixs : List Nat} (h : Wf s) : Wf (peerFillL1 c line rdis ixs ws s) :=
  wf_foldl (fun _ _ h => wf_ite (wf_l1Take h) h) (wf_peerFill h)

theorem wf_scrubLine (h : Wf s) : Wf (scrubLine line s) := wf_foldl (fun _ _ h => wf_dieDrop h) (wf_foldl (fun _ _ h => wf_ite
    (wf_l1Drop h) h) h)

/-! ### Translations (R312 to R315) -/

theorem wf_addTlb {t : Tlb} (h : Wf s) : Wf (addTlb c p t s) := wf_modDie (wf_modCore h)

theorem wf_engineTlb (h : Wf s) : Wf (engineTlb c p va s) := by
  unfold engineTlb
  refine wf_ite h ?_
  split
  · exact wf_addTlb h
  · exact h

/-! ### Fault and event records (R319, R436, R437) -/

theorem wf_putRecord {ws : List Word} (h : Wf s) : Wf (putRecord p pa ws s) := wf_putHome h
theorem wf_fire {on : Bool} (h : Wf s) : Wf (fire fn vec on s) := wf_ite (wf_other h) h
theorem wf_putFault {ws : List Word} (h : Wf s) : Wf (putFault p ws s) := wf_fire (wf_modPart (wf_putRecord h))
theorem wf_postFault {f : FaultInfo} (h : Wf s) : Wf (postFault p f s) := wf_ite (wf_putFault h) (wf_modMgmt h)

theorem wf_drainFaults {p : Nat} : ∀ {n : Nat} {s : State}, Wf s → Wf (drainFaults p n s)
  | 0, _, h => h
  | _ + 1, _, h => by
    unfold drainFaults
    split
    · exact h
    · exact wf_ite (wf_drainFaults (wf_putFault (wf_modMgmt h))) h

theorem wf_modHeq {f : EvQueue → EvQueue} (h : Wf s) : Wf (modHeq fn f s) := wf_ite (wf_modMgmt h) (wf_modPart h)
theorem wf_evLost (h : Wf s) : Wf (evLost fn s) := wf_modHeq h
theorem wf_putEvent {ws : List Word} (h : Wf s) : Wf (putEvent fn ws s) := wf_fire (wf_modHeq (wf_putRecord h))

theorem wf_postEvent {l : List (Nat × Nat × Nat)} (h : Wf s) : Wf (postEvent fn kind l s) :=
  wf_ite (wf_evLost h) (wf_ite (wf_putEvent h) (wf_modMgmt h))

theorem wf_evDrain {x : Nat × List Word} (h : Wf s) : Wf (evDrain x s) := wf_ite (wf_putEvent (wf_modMgmt h)) (wf_evLost (wf_modMgmt h))

/-! ### Images (R308 to R310) -/

theorem wf_ctxPut (h : Wf s) : Wf (ctxPut p c va t s) := by
  unfold ctxPut
  split
  · exact wf_dropLine (wf_homeWrite h)
  · exact h

theorem wf_ctxAccept (h : Wf s) : Wf (ctxAccept p c va n s) := by
  unfold ctxAccept
  refine wf_foldl (fun s a h => ?_) ?_
  · split
    · refine wf_accept ?_
      exact h
    · exact h
  · exact h

theorem wf_writeImage {g : Group} {rec : List Word} (h : Wf s) : Wf (writeImage g rec s) := wf_foldl (fun _ _ h => wf_ctxPut h)
    (wf_ctxAccept h)
end

end Sys2Proof.Proofs.CanonicalMemory

/-! PROOF. The canonical form of memory is kept by fetch, by operations and regions, by traps and by what issue does around an effect (R24,
R306 to R321). -/
namespace Sys2Proof.Proofs.CanonicalIssue
open Sys2Proof Sys2Proof.Machine Sys2Proof.Proofs.CanonicalMemory

section
variable {s before : State} {tid bits c p block va gid n pc cf id token cl acc reader line st dev pa kind scope code addr detail k rdis rop
    : Nat}
  {b q : Bool} {o : Op} {f : Comp} {g : Group} {t : TrapInfo} {lanes : BitVec 32} {x : Instr} {pub : Option Nat} {pu : Purpose}

/-! ### Sticky flags -/

theorem wf_orMstat (h : Wf s) : Wf (orMstat tid bits s) := wf_modTeam h

/-! ### Fetch (R14, R452) -/

theorem wf_icachePut {bs : List Byte} (h : Wf s) : Wf (icachePut c p block bs s) := wf_modCore h

theorem wf_fetchBlock (h : Wf s) : OkPairWf (fetchBlock s va) := by
  unfold fetchBlock
  refine .ite .error ?_
  split
  · exact .ok h
  · split
    · exact .error
    · exact .error
    · split
      · exact .error
      · split
        · exact .error
        · exact .ok (wf_icachePut h)

theorem wf_fetchFrom (h : Wf s) : OkPairWf (fetchFrom s va) := by
  unfold fetchFrom
  split
  · exact .ok h
  · split
    · rename_i e
      exact .ok ((wf_fetchBlock h).of e)
    · exact .error

theorem wf_fetchWords {s u : State} {va n : Nat} {w : Words} (h : Wf s) (e : fetchWords s va = .ok (w, n, u)) : Wf u := by
  unfold fetchWords at e
  split at e
  · cases e
  case h_2 hf =>
    dsimp only at e
    split at e <;> cases e
    exact (wf_fetchFrom h).of hf

theorem wf_scanOver : ∀ {n va : Nat} {s : State}, Wf s → OkPairWf (scanOver s n va)
  | 0, _, _, h => .ok h
  | _ + 1, _, _, h => by
    unfold scanOver
    split
    · exact .error
    case h_2 e => exact wf_scanOver ((wf_fetchFrom h).of e)

theorem wf_bodyBytes : ∀ {n va len : Nat} {s : State}, Wf s → OkPairWf (bodyBytes s n va len)
  | 0, _, _, _, h => .ok h
  | _ + 1, _, _, _, h => by
    unfold bodyBytes
    split
    · exact .ok h
    · split
      · exact .error
      case h_2 e =>
        dsimp only
        split
        case h_1 e' => exact .ok ((wf_bodyBytes ((wf_fetchBlock h).of e)).of (a := _) e')
        · exact .error

theorem wf_pinBody (h : Wf s) : OkWf (pinBody s) := by
  unfold pinBody
  split
  · refine .ite ?_ (.ok h)
    split
    · rename_i e
      exact .ok (wf_modCur ((wf_bodyBytes h).of e))
    · exact .error
  · exact .ok h

/-! ### Operations, regions, traps and issue (R24, R25, R306 to R321) -/

theorem wf_youngestOf (h : Wf s) : Wf (youngestOf c gid b s) := wf_modCore h
theorem wf_youngest (h : Wf s) : Wf (youngest s) := wf_youngestOf h
theorem wf_advance (h : Wf s) : Wf (advance n s) := wf_ite (wf_youngest (wf_modCur h)) (wf_modCur h)
theorem wf_transfer (h : Wf s) : Wf (transfer pc s) := wf_ite (wf_youngest (wf_modCur h)) (wf_modCur h)

theorem wf_continuation (h : Wf s) : OkPairWf (continuation s n) := by
  unfold continuation
  split
  · exact wf_scanOver h
  · exact .ok h

theorem wf_addOp (h : Wf s) : Wf (addOp cf o s) := wf_other (wf_modGrp h)
theorem wf_modOp {f : Op → Op} (h : Wf s) : Wf (modOp gid id f s) := wf_modGroup h
theorem wf_unwatch (h : Wf s) : Wf (unwatch g s) := wf_dropWatches h

theorem wf_reportBase (h : Wf s) : Wf (reportBase gid t s) := by
  unfold reportBase
  split
  · exact h
  · exact wf_ite h (wf_ite (wf_ite (wf_modGroup h) h) (wf_modGroup h))

theorem wf_gangTrap {broken : Bool} (h : Wf s) : Wf (gangTrap tid broken s) := by
  unfold gangTrap
  split
  · exact h
  · refine wf_foldl (fun s a h => ?_) ?_
    · split
      · exact h
      · refine wf_reportBase ?_
        refine wf_modGroup ?_
        exact h
    · exact wf_modTeam h

theorem wf_gangBreak (h : Wf s) : Wf (gangBreak g s) := by
  unfold gangBreak
  split
  · exact h
  · exact wf_ite (wf_gangTrap h) h

theorem wf_reportTrap (h : Wf s) : Wf (reportTrap gid t s) := by
  unfold reportTrap
  split
  · exact h
  · exact wf_ite (wf_gangBreak (wf_reportBase h)) (wf_reportBase h)

theorem wf_completeOp (h : Wf s) : Wf (completeOp gid o s) := by
  unfold completeOp
  split
  · exact h
  · refine wf_bump ?_
    split
    · exact wf_ite (wf_ite (wf_modGroup h) (wf_orMstat (wf_modGroup h))) (wf_reportTrap (wf_ite (wf_modGroup h)
          (wf_orMstat (wf_modGroup h))))
    · exact wf_ite (wf_modGroup h) (wf_orMstat (wf_modGroup h))

theorem wf_startRegion (h : Wf s) : Wf (startRegion s) := wf_modGrp h

theorem wf_mergeOne {b : BufStore} (h : Wf s) : Wf (mergeOne b s) := by
  unfold mergeOne
  split
  · exact wf_modTeam h
  · exact wf_ite h (wf_cacheStore h)

theorem wf_sendSpill {ms : List (Nat × FabHdr × List TWord)} (h : Wf s) : Wf (sendSpill ms s) :=
  wf_foldl (fun _ _ h => wf_foldl (fun _ _ h => wf_queueSpill h) h) h

theorem wf_spillOp {bs : List BufStore} (h : Wf s) : Wf (spillOp bs id s) := wf_sendSpill h

theorem wf_endRegion (h : Wf s) : Wf (endRegion s) :=
  wf_startRegion (wf_modGrp (wf_foldl (fun _ _ h => wf_spillOp h) (wf_foldl (fun _ _ h => wf_mergeOne h) h)))

theorem wf_mergeXlate {c p : Nat} : ∀ {l : List BufStore} {s : State}, Wf s → OkWf (mergeXlate c p l s)
  | [], _, h => .ok h
  | _ :: _, _, h => by
    unfold mergeXlate
    split
    · exact wf_mergeXlate h
    · split
      · exact wf_mergeXlate (wf_addTlb h)
      · exact .error

theorem wf_regionGate (h : Wf s) : OkWf (regionGate s) := by
  unfold regionGate
  refine .ite (.ok (wf_endRegion h)) ?_
  split
  · exact .error
  · rename_i e
    split
    · split
      · exact .error
      · exact .ok (wf_endRegion ((wf_mergeXlate h).of e))
    · exact .error

theorem wf_modCount {par : Bool} {f : Nat → Nat} (h : Wf s) : Wf (modCount c par f s) := wf_modCore h

theorem wf_closeSection (h : Wf s) : Wf (closeSection gid s) := by
  unfold closeSection
  split
  · exact h
  · exact wf_ite h (wf_modCount (wf_modGroup h))

theorem wf_nextToken (h : Wf s) : Wf (nextToken s).2 := wf_modMgmt h

theorem wf_tokenFor {c p acc va k : Nat} {b : Bool} {s u : State} (h : Wf s) (e : tokenFor c p acc va s = some (k, b, u)) : Wf u := by
  unfold tokenFor at e
  dsimp only at e
  split at e
  · cases e
    exact h
  · split at e <;> cases e
    exact wf_modCore (wf_nextToken h)

theorem wf_parkUnder (h : Wf s) : Wf (parkUnder gid b token s) := wf_modGroup h

theorem wf_engineStall (h : Wf s) : SomePairWf (engineStall cl c p acc va t s) := by
  unfold engineStall
  split
  · exact .none
  · rename_i e
    exact .ite (.some (wf_tokenFor h e)) (.ite .none (.some (wf_postFault (wf_tokenFor h e))))

theorem wf_startWalk (h : Wf s) : Wf (startWalk va acc lanes s) := wf_modPart h
theorem wf_dropReqs {f : Req → Bool} (h : Wf s) : Wf (dropReqs f s) := wf_modFabric h
theorem wf_dropArgs (h : Wf s) : Wf (dropArgs p reader s) := wf_dropReqs (wf_modPart h)
theorem wf_dropLaunch (h : Wf s) : Wf (dropLaunch p gid s) := wf_dropArgs (wf_dropArgs h)
theorem wf_noteRefused (h : Wf s) : Wf (noteRefused p reader line st s) := wf_modPart h
theorem wf_peerRefusal {c : Option Nat} {t : Option TrapInfo} (h : Wf s) : Wf (peerRefusal p st dev pa acc va c t s) := wf_postFault h
theorem wf_storeRefusal (h : Wf s) : Wf (storeRefusal g b st line va s) := wf_peerRefusal h
theorem wf_noteRecorded (h : Wf s) : Wf (noteRecorded p reader line s) := wf_modPart h

theorem wf_askArgs {ls : List Nat} (h : Wf s) : Wf (askArgs p reader ls s) := by
  unfold askArgs
  refine wf_foldl (fun s a h => ?_) ?_
  · split
    · refine wf_ite h ?_
      refine wf_sendReq ?_
      exact h
    · exact h
  · exact h

theorem wf_abortUnder (h : Wf s) : Wf (abortUnder gid kind acc va token s) := by
  unfold abortUnder
  split
  · exact h
  · exact wf_postFault (wf_modTeam (wf_modGroup (wf_unwatch (wf_dropReqs (wf_dropLaunch (wf_ite (wf_ite h (wf_modCount h))
        (wf_modCount (wf_ite h (wf_modCount h)))))))))

theorem wf_abortMerge (h : Wf s) : Wf (abortMerge va s) := by
  unfold abortMerge
  refine wf_ite h ?_
  split
  · exact h
  · rename_i e
    exact wf_abortUnder (wf_tokenFor h e)

theorem wf_askFills {ls : List (Nat × Nat)} (h : Wf s) : Wf (askFills c p gid ls s) := by
  unfold askFills
  refine wf_foldl (fun s a h => ?_) ?_
  · split
    · refine wf_ite h ?_
      refine wf_sendReq ?_
      exact h
    · exact h
  · exact h

theorem wf_advanceCut (h : Wf s) : Wf (advanceCut c scope s) := wf_ite (wf_modCore h) h
theorem wf_releaseNow (h : Wf s) : Wf (releaseNow scope s) := wf_ite h (wf_releaseAction (wf_advanceCut h))
theorem wf_acquireNow (h : Wf s) : Wf (acquireNow scope s) := wf_acquireAction h
theorem wf_countAway (h : Wf s) : Wf (countAway g s) := wf_ite h (wf_modCount (wf_modWeir h))
theorem wf_settleTeam (h : Wf s) : Wf (settleTeam tid s) := wf_modTeam h

theorem wf_suspendTrapped (h : Wf s) : Wf (suspendTrapped gid kind s) := by
  unfold suspendTrapped
  split
  · exact h
  · exact wf_postFault (wf_settleTeam (wf_modGroup (wf_countAway (wf_releaseAction h))))

theorem wf_enterHandler (h : Wf s) : Wf (enterHandler gid s) := by
  unfold enterHandler
  split
  · exact h
  · split
    · exact h
    · split
      · exact wf_ite (wf_focus h) (wf_ite (wf_suspendTrapped (wf_dropLaunch (wf_writeImage (wf_modGrp (wf_unwatch (wf_focus h))))))
            (wf_ite (wf_suspendTrapped (wf_dropLaunch (wf_writeImage (wf_modGrp (wf_unwatch (wf_focus h)))))) (wf_startRegion
            (wf_youngestOf (wf_modGrp (wf_dropLaunch (wf_writeImage (wf_modGrp (wf_unwatch (wf_focus h))))))))))
      · dsimp only
        split
        · exact wf_abortMerge (wf_focus h)
        · exact wf_askFills (wf_focus h)
        · exact wf_focus h
        · rename_i e
          exact wf_ite ((wf_regionGate (wf_focus h)).of e) (wf_ite (wf_suspendTrapped (wf_dropLaunch (wf_writeImage
              (wf_modGrp (wf_unwatch ((wf_regionGate (wf_focus h)).of e)))))) (wf_ite (wf_suspendTrapped (wf_dropLaunch (wf_writeImage
              (wf_modGrp (wf_unwatch ((wf_regionGate (wf_focus h)).of e)))))) (wf_startRegion (wf_youngestOf
              (wf_modGrp (wf_dropLaunch (wf_writeImage (wf_modGrp (wf_unwatch ((wf_regionGate (wf_focus h)).of e))))))))))

theorem wf_takeTrap (h : Wf s) : Wf (takeTrap code lanes addr detail s) :=
  wf_bump (wf_ite (wf_reportTrap (wf_modCur h)) (wf_enterHandler (wf_reportTrap (wf_modCur h))))

theorem wf_sendWatch {w : SigWait} (h : Wf s) : Wf (sendWatch g id w s) := by
  unfold sendWatch
  split
  · exact h
  · split
    · exact wf_addWatch h
    · exact wf_sendReq h

theorem wf_placeSig (h : Wf s) : Wf (placeSig gid id s) := by
  unfold placeSig
  split
  · exact h
  · split
    · refine wf_ite h ?_
      dsimp only
      split
      · exact wf_sendWatch (wf_modOp (wf_engineTlb h))
      · exact wf_modOp (wf_engineTlb h)
      · split
        · rename_i e
          exact wf_modOp ((wf_engineStall (wf_engineTlb h)).of e)
        · exact wf_engineTlb h
    · exact h

theorem wf_reissueWaits (h : Wf s) : Wf (reissueWaits gid s) := by
  unfold reissueWaits
  split
  · exact h
  · exact wf_foldl (fun _ _ h => wf_placeSig h) (wf_other (wf_modGroup (wf_modGroup h)))

theorem wf_drainGroup (h : Wf s) : Wf (drainGroup gid s) := by
  unfold drainGroup
  refine wf_modGroup ?_
  split
  · exact wf_unwatch h
  · exact h

theorem wf_handlerEnd (h : Wf s) : Wf (handlerEnd gid s) := by
  unfold handlerEnd
  split
  · exact h
  · exact wf_ite (wf_bump (wf_startRegion (wf_focus (wf_reissueWaits (wf_youngestOf (wf_youngestOf
        (wf_modGroup (wf_ctxAccept (wf_unwatch (wf_ite (wf_ite h (wf_modCount h)) (wf_modCount (wf_ite h (wf_modCount h)))))))))))))
        (wf_drainGroup (wf_modGroup h))

theorem wf_holdSlot (h : Wf s) : Wf (holdSlot s) := wf_modCur h

theorem wf_askCode (h : Wf s) : Wf (askCode va pa s) := by
  unfold askCode
  split
  · exact wf_ite h (wf_sendReq h)
  · exact h

theorem wf_parkAtJoin {stack : Bool} (h : Wf s) : Wf (parkAtJoin k stack s) := wf_ite (wf_modOther (wf_modCur h)) (wf_modCur h)

theorem wf_applyStop {e : Stop} (h : Wf s) : Wf (applyStop e s) := by
  unfold applyStop
  split
  · exact wf_takeTrap h
  · exact wf_holdSlot h
  · exact wf_holdSlot (wf_startWalk h)
  · exact wf_modCur (wf_holdSlot h)
  · exact wf_holdSlot (wf_askFills h)
  · exact wf_holdSlot (wf_askArgs h)
  · exact wf_holdSlot (wf_askCode h)
  · exact wf_holdSlot (wf_modCur (wf_releaseAction (wf_advanceCut h)))
  · exact wf_parkAtJoin h
  · exact wf_modCur h
  · exact wf_bump (wf_holdSlot (wf_noteRecorded (wf_storeRefusal h)))
  · exact wf_ite (wf_bump (wf_abortMerge h)) (wf_holdSlot h)

theorem wf_prep {x : Instr} {s : State} (h : Wf s) : OkWf (prep x s) := by
  unfold prep
  split
  · exact .error
  · have hgate : OkWf (if endsBefore s x then regionGate s else .ok s) := .ite (wf_regionGate h) (.ok h)
    split
    · exact .error
    case h_2 e => exact .ite .error (.ok (hgate.of e))

theorem wf_raiseAfter (h : Wf s) : Wf (raiseAfter before t s) := by
  unfold raiseAfter
  split
  · exact wf_modGrp h
  · exact wf_reportTrap h

theorem wf_popsOf (h : Wf s) : Wf (popsOf x before s) := wf_ite h (wf_ite (wf_modGrp h) (wf_raiseAfter (wf_modGrp h)))
theorem wf_countIssue (h : Wf s) : Wf (countIssue s) := wf_other h
theorem wf_finish (h : Wf s) : Wf (finish x before s) := wf_bump (wf_countIssue (wf_ite (wf_startRegion (wf_popsOf h)) (wf_popsOf h)))

theorem wf_issue {x : Instr} {own : State → Option Stop} {eff : State → State} {s : State} (heff : ∀ s, Wf s → Wf (eff s)) (h : Wf s) :
    NextWf (issue x own eff s) := by
  unfold issue
  split
  · exact .next h
  · split
    · exact .next (wf_applyStop h)
    case h_2 e =>
      have hp := (wf_prep h).of e
      split
      · exact .next (wf_applyStop hp)
      · exact .next (wf_finish (heff _ hp))

theorem wf_actDo {act : State → Except Stop State} {s : State} (hact : ∀ s, Wf s → OkWf (act s)) (h : Wf s) : Wf (actDo act s) := by
  unfold actDo
  split
  · exact h
  case h_2 e => exact (hact s h).of e

theorem wf_issueE {x : Instr} {act : State → Except Stop State} {s : State} (hact : ∀ s, Wf s → OkWf (act s)) (h : Wf s) : NextWf
    (issueE x act s) :=
  wf_issue (fun _ h => wf_actDo hact h) h

/-! ### Computational forms -/

theorem wf_fixedEff {o : Out} (h : Wf s) : Wf (fixedEff f q o s) := wf_advance (wf_defer (fun _ h => wf_modGrp h) h)
theorem wf_variableEff {o : Out} (h : Wf s) : Wf (variableEff f q o s) := wf_advance (wf_addOp h)

theorem wf_computeFixed {out : CompInfo → Comp → State → Out} (h : Wf s) : NextWf (computeFixed x out s) := by
  unfold computeFixed
  split
  · exact wf_issue (fun _ h => wf_fixedEff h) h
  · exact .next h

theorem wf_computeVar {out : CompInfo → Comp → State → Out} (h : Wf s) : NextWf (computeVar x q out s) := by
  unfold computeVar
  split
  · exact wf_issue (fun _ h => wf_variableEff h) h
  · exact .next h

/-! ### Words that a slot sees (R172, R174) -/

theorem wf_readOne (h : Wf s) : Wf (readOne c rdis pub pa s).2 := wf_ite2 h (wf_ite2 (wf_cacheRead h) h)
theorem wf_pubLine (h : Wf s) : Wf (pubLine c pub pa s) := wf_ite (wf_ite (wf_accept (wf_flushLine h)) (wf_flushLine h)) h

theorem wf_readAll {c rdis : Nat} {pub : Option Nat} : ∀ {pas : List Nat} {r : List (Nat × TWord) × State}, Wf r.2 →
    Wf (pas.foldl (fun r pa => match readOne c rdis pub pa r.2 with
      | (some t, s) => (r.1 ++ [(pa, t)], s)
      | (none, s) => (r.1, s)) r).2
  | [], _, h => h
  | pa :: pas, r, h => by
    refine wf_readAll (pas := pas) ?_
    dsimp only
    split
    all_goals
      rename_i e
      exact wf_snd (wf_readOne h) e

theorem wf_readWords {c rdis : Nat} {pub : Option Nat} {pas : List Nat} {s : State} (h : Wf s) : Wf (readWords c rdis pub pas s).2 :=
  wf_readAll (wf_foldl (fun _ _ h => wf_pubLine h) h)

theorem wf_askLine (h : Wf s) : Wf (askLine rop pa pu s) := by
  unfold askLine
  split
  · exact wf_sendReq h
  · exact h

theorem wf_askLines {rop : Nat → Nat} {pas : List Nat} (h : Wf s) : Wf (askLines rop pas pu s) := wf_foldl (fun _ _ h => wf_askLine h) h
end

end Sys2Proof.Proofs.CanonicalIssue

/-! PROOF. The canonical form of memory is kept by the memory, barrier, matrix, Flume, headrace and launch instructions (R122 to R206, R329
to R360). -/
namespace Sys2Proof.Proofs.CanonicalOps
open Sys2Proof Sys2Proof.Machine Sys2Proof.Proofs.CanonicalMemory Sys2Proof.Proofs.CanonicalIssue

section
variable {s : State} {gid fl id dev ix ord ty qm va p scope line n c b tid code off pl l st i x1 pa cf d q reader grid lvl rdis : Nat}
  {scalar clus sreq inv : Bool} {f : MemF} {k : AtomKind} {g : Group} {a : AtomOp} {r : AtomReq} {o : Op} {v : Word} {accs : List LaneAcc}
    {x : Instr}
  {ps : List PadAcc} {t : Team} {pu : Purpose}

/-! ### Fences, atomics and signal posts (R186 to R198) -/

theorem wf_fenceAct (h : Wf s) : OkWf (fenceAct f s) := by
  unfold fenceAct
  split
  · exact .error
  · split
    · dsimp only
      split
      · exact .error
      · exact .ite .error .error
    · dsimp only
      split
      · exact .error
      · exact .ite .error (.ok (wf_advance (wf_addOp (wf_ite (wf_acquireNow (wf_ite (wf_releaseNow h) h)) (wf_ite (wf_releaseNow h) h)))))

theorem wf_orAtomFlags (h : Wf s) : Wf (orAtomFlags gid k fl s) := wf_modGroup h
theorem wf_redRecord {old : Word} (h : Wf s) : Wf (redRecord g a r old s) := wf_postFault h

theorem wf_performReq {g : Group} {a : AtomOp} {r : AtomReq} {s : State} (h : Wf s) : Wf (performReq g a r s).2 := by
  have hput (o : Option TWord) : Wf (match o with | some w => homeWrite (accept s r.acc.pa) r.acc.pa w | none => accept s r.acc.pa) := by
    split
    · exact wf_homeWrite (wf_accept h)
    · exact wf_accept h
  exact wf_ite (wf_redRecord (wf_orAtomFlags (hput _))) (wf_orAtomFlags (hput _))

theorem wf_performReqs {g : Group} {a : AtomOp} {held : List Nat} : ∀ {l : List AtomReq} {s : State}, Wf s → Wf (performReqs g a held l s).2
  | [], _, h => h
  | _ :: _, _, h => by
    unfold performReqs
    split
    · split
      · exact h
      · exact wf_performReqs (wf_performReq h)
    · exact wf_performReqs h

theorem wf_setAtom (h : Wf s) : Wf (setAtom g id a s) := by
  unfold setAtom
  refine wf_ite ?_ (wf_modOp h)
  refine wf_modOp ?_
  split
  · exact wf_acquireAction h
  · exact h

theorem wf_performAtomic (h : Wf s) : Wf (performAtomic g o s) := by
  unfold performAtomic
  split
  · exact wf_bump (wf_setAtom (wf_performReqs (wf_foldl (fun _ _ h => wf_flushLine h) h)))
  · exact h

theorem wf_execAtomicPerform (h : Wf s) : NextWf (execAtomicPerform id s) := by
  unfold execAtomicPerform
  split
  · exact .next h
  · split
    · exact .next (wf_ite (wf_performAtomic h) h)
    · exact .next h

theorem wf_nextSeq (h : Wf s) : Wf (nextSeq dev ix s).2 := wf_modFabric h

theorem wf_sendAtom (h : Wf s) : Wf (sendAtom id ord a r s) := by
  unfold sendAtom
  split
  · exact h
  · exact wf_sendReq (wf_ite2 (wf_nextSeq h) h)

theorem wf_takeTicket (h : Wf s) : Wf (takeTicket s).2 := wf_other h

theorem wf_atomEff {ret : Bool} {reqs : List AtomReq} (h : Wf s) : Wf (atomEff f k ty qm ret reqs va s) :=
  wf_foldl (fun _ _ h => wf_sendAtom h) (wf_addOp (wf_ite2 (wf_takeTicket (wf_foldl (fun _ _ h => wf_flushLine h) h))
      (wf_foldl (fun _ _ h => wf_flushLine h) h)))

theorem wf_atomAct {x : Instr} {f : MemF} {k : AtomKind} {ret : Bool} {s : State} (h : Wf s) : OkWf (atomAct x f k ret s) := by
  unfold atomAct
  dsimp only
  split
  · exact .error
  · split
    · exact .error
    · exact .ok (wf_advance (wf_atomEff (wf_ite (wf_releaseNow h) h)))

theorem wf_sigpAct (h : Wf s) : OkWf (sigpAct f s) := by
  unfold sigpAct
  split
  · dsimp only
    split <;> exact .error
  · split
    · dsimp only
      split
      · exact .error
      · exact .ok (wf_advance (wf_atomEff (wf_releaseNow h)))
    · dsimp only
      split
      · exact .error
      · exact .ok (wf_advance (wf_atomEff h))

/-! ### Translation invalidations (R315) -/

theorem wf_dropTlbs (h : Wf s) : Wf (dropTlbs p v s) := wf_other h
theorem wf_startInv (h : Wf s) : Wf (startInv p v s) := wf_modPart (wf_dropTlbs h)

theorem wf_nextInv {p : Nat} : ∀ {n : Nat} {s : State}, Wf s → Wf (nextInv p n s)
  | 0, _, h => h
  | _ + 1, _, h => by
    unfold nextInv
    split
    · exact h
    · exact wf_ite h (wf_nextInv (wf_startInv (wf_modPart h)))

theorem wf_tlbInvalidate (h : Wf s) : Wf (tlbInvalidate p v s) := wf_bump (wf_ite (wf_modPart h) (wf_startInv h))
theorem wf_settleInv (h : Wf s) : Wf (settleInv p s) := wf_ite (wf_bump (wf_nextInv (wf_modPart h))) h

/-! ### Loads and stores (R169 to R178) -/

theorem wf_loadEff (h : Wf s) : Wf (loadEff f scalar accs s) := by
  unfold loadEff
  refine wf_ite ?_ (wf_askLines (wf_addOp (wf_readWords h)))
  split
  · split
    · exact wf_acquireNow (wf_addOp (wf_readWords h))
    · exact wf_addOp (wf_readWords h)
  · split
    · exact wf_acquireNow (wf_addOp (wf_readWords h))
    · exact wf_addOp (wf_readWords h)

theorem wf_loadAct (h : Wf s) : OkWf (loadAct x f scalar s) := by
  unfold loadAct
  split
  · exact .error
  · split
    · dsimp only
      split
      · exact .error
      · exact .ok (wf_advance (wf_loadEff h))
    · dsimp only
      split
      · exact .error
      · exact .ok (wf_advance (wf_loadEff h))

theorem wf_relaxedStore (h : Wf s) : Wf (relaxedStore f scalar accs s) := wf_modGrp (wf_addOp h)

theorem wf_performAt (h : Wf s) : Wf (performAt scope line s) := wf_ite (wf_dieWriteBack (wf_ite (wf_l1WriteBack h) h))
    (wf_ite (wf_l1WriteBack h) h)

theorem wf_releaseStore (h : Wf s) : Wf (releaseStore f scalar accs s) :=
  wf_addOp (wf_foldl (fun _ _ h => wf_performAt h) (wf_foldl (fun _ _ h => wf_cacheStore h) (wf_releaseNow h)))

theorem wf_dropRefused {no : List (LaneAcc × Nat)} (h : Wf s) : Wf (dropRefused no s) := wf_ite h (wf_dropArgs h)

theorem wf_storeAct (h : Wf s) : OkWf (storeAct x f scalar s) := by
  unfold storeAct
  split
  · exact .error
  · split
    · exact .error
    · refine .ite (.ok (wf_advance (wf_relaxedStore h))) ?_
      split
      · exact .error
      · dsimp only
        split
        · split
          · exact .error
          · exact .ite .error (.ok (wf_advance (wf_dropRefused (wf_releaseStore h))))
        · exact .error

theorem wf_padLoad (h : Wf s) : Wf (padLoad f ps s) := wf_addOp h

theorem wf_padLoadAct (h : Wf s) : OkWf (padLoadAct x f clus s) := by
  unfold padLoadAct
  split
  · exact .error
  · refine .ite .error ?_
    refine .ok ?_
    refine wf_advance ?_
    split
    · exact wf_acquireNow (wf_padLoad h)
    · exact wf_padLoad h

theorem wf_padStore (h : Wf s) : Wf (padStore f ps s) := wf_modGrp (wf_addOp h)
theorem wf_padRelease (h : Wf s) : Wf (padRelease f ps s) := wf_addOp (wf_foldl (fun _ _ h => wf_modTeam h) (wf_releaseNow h))

theorem wf_padStoreAct (h : Wf s) : OkWf (padStoreAct x f clus s) := by
  unfold padStoreAct
  split
  · exact .error
  · refine .ite .error ?_
    refine .ite (.ok (wf_advance (wf_padStore h))) ?_
    split
    · exact .error
    · exact .ok (wf_advance (wf_padRelease h))

/-! ### System registers and instruction-cache invalidation (R122 to R127) -/

theorem wf_gangSet (h : Wf s) : Wf (gangSet v s) := wf_modTeam (wf_gangTrap h)
theorem wf_gangAct (h : Wf s) : OkWf (gangAct v s) := .ite .error (.ok (wf_defer (fun _ h => wf_gangSet h) h))

theorem wf_settle {l : List Late} {s : State} (h : Wf s) : Wf (settle l s) := by
  refine wf_foldl (fun s x h => ?bank) (wf_foldl (fun s x h => ?write) (wf_modGrp h))
  case bank =>
    split
    · exact wf_modTeam h
    · exact h
  case write =>
    cases x with
    | result sl ws q fl => exact h
    | bank n => exact h
    | mclr =>
      dsimp only
      exact wf_modTeam h
    | sysw n v =>
      obtain rfl | rfl | hn | hn : n = 0x10 ∨ n = 0x11 ∨ n < 0x10 ∨ 0x12 ≤ n := by omega
      · exact wf_gangSet h
      · exact wf_modTeam h
      · interval_cases n <;> exact h
      · obtain ⟨k, rfl⟩ := Nat.exists_eq_add_of_le' hn
        exact h

theorem wf_sysrAct {f : Ctl} (h : Wf s) : OkWf (sysrAct f s) := .ite .error (.ok (wf_advance (wf_writeS h)))

theorem wf_sysWrite (h : Wf s) : OkWf (sysWrite n v s) := by
  unfold sysWrite
  split
  · exact wf_gangAct h
  · exact .ok (wf_defer (fun _ h => wf_modTeam h) h)
  · exact .ok (wf_ite (wf_defer (fun _ h => wf_modGrp h) h) (wf_wakeStack (wf_defer (fun _ h => wf_modGrp h) h)))
  · exact .ok (wf_defer (fun _ h => wf_modGrp h) h)

theorem wf_syswAct {f : Ctl} (h : Wf s) : OkWf (syswAct f s) := by
  unfold syswAct
  split
  · exact .error
  · rename_i e
    exact .ok (wf_advance ((wf_sysWrite h).of e))

theorem wf_execTime {f : Ctl} (h : Wf s) : NextWf (execTime f s) := wf_issue (fun _ h => wf_advance (wf_writeS h)) h
theorem wf_execIdx {f : Ctl} (h : Wf s) : NextWf (execIdx f s) := wf_issue (fun _ h => wf_advance (wf_writeS h)) h
theorem wf_staleCode {c : Option Nat} (h : Wf s) : Wf (staleCode p c b n s) := wf_modFabric h

theorem wf_dropCode {c : Option Nat} (h : Wf s) : Wf (dropCode p c b n s) := by
  unfold dropCode
  refine wf_mapGroups ?_
  refine wf_staleCode ?_
  split
  · exact wf_modCore h
  · exact wf_other h

theorem wf_icinvAct {f : Ctl} (h : Wf s) : OkWf (icinvAct f s) := .ite .error (.ok (wf_advance (wf_addOp (wf_dropCode h))))

/-! ### The matrix engine (R329 to R346) -/

theorem wf_leaseDone (h : Wf s) : Wf (leaseDone tid s) := wf_mapGroups h

theorem wf_expireNow (h : Wf s) : Wf (expireNow c s) := by
  unfold expireNow
  split
  · exact wf_ite (wf_modCore h) h
  · exact h

theorem wf_giveLease (h : Wf s) : Wf (giveLease c tid s) := wf_bump (wf_expireNow (wf_leaseDone (wf_modTeam (wf_modCore h))))

theorem wf_grantHead (h : Wf s) : Wf (grantHead c s) := by
  unfold grantHead
  split
  · exact wf_giveLease h
  · exact h

theorem wf_execLeaseGrant (h : Wf s) : NextWf (execLeaseGrant c s) := .next (wf_grantHead h)
theorem wf_askLease (h : Wf s) : Wf (askLease c tid n s) := wf_expireNow (wf_modCore (wf_modTeam h))
theorem wf_dropLease (h : Wf s) : Wf (dropLease c tid s) := wf_modCore (wf_modTeam h)

theorem wf_execLeaseExpire (h : Wf s) : NextWf (execLeaseExpire c s) := by
  unfold execLeaseExpire
  split
  · exact .next (wf_grantHead (wf_dropLease h))
  · exact .next h

theorem wf_leaseEff {f : Ctl} (h : Wf s) : Wf (leaseEff f s) :=
  wf_ite (wf_advance (wf_addOp (wf_modTeam h))) (wf_grantHead (wf_advance (wf_addOp (wf_askLease h))))

theorem wf_execLease {f : Ctl} (h : Wf s) : NextWf (execLease f s) := wf_issue (fun _ h => wf_leaseEff h) h
theorem wf_releaseLease (h : Wf s) : Wf (releaseLease c tid s) := wf_leaseDone (wf_modCore (wf_modTeam (wf_dropLease h)))
theorem wf_relsEff {f : Ctl} (h : Wf s) : Wf (relsEff f s) := wf_grantHead (wf_advance (wf_addOp (wf_releaseLease h)))
theorem wf_execRels {f : Ctl} (h : Wf s) : NextWf (execRels f s) := wf_issue (fun _ h => wf_relsEff h) h

theorem wf_gangIssue {f : Ctl} (h : Wf s) : OkWf (gangIssue f s) := by
  unfold gangIssue
  split
  · exact .error
  · rename_i e
    exact .ok (wf_advance (wf_addOp ((wf_gangAct h).of e)))

theorem wf_memberOn {a : Frag} (h : Wf s) : Wf (memberOn a s).2 := by
  unfold memberOn
  split
  · split
    · exact h
    · exact wf_ite (wf_youngestOf (wf_other (wf_modGroup h))) (wf_other (wf_modGroup h))
  · split
    · exact h
    · exact wf_ite (wf_youngestOf (wf_other (wf_modGroup h))) (wf_other (wf_modGroup h))

theorem wf_membersOn : ∀ {l : List Frag} {s : State}, Wf s → Wf (membersOn l s).2
  | [], _, h => h
  | _ :: _, _, h => by
    unfold membersOn
    exact wf_membersOn (wf_memberOn h)

theorem wf_unparkMember {a : Frag} (h : Wf s) : Wf (unparkMember a s) := wf_modGroup h

theorem wf_mmaEff {f : Ctl} (h : Wf s) : Wf (mmaEff f s) := by
  unfold mmaEff
  split
  · exact h
  · exact wf_ite (wf_modCur (wf_modTeam h)) (wf_modTeam (wf_foldl (fun _ _ h => wf_unparkMember h) (wf_other h)))

theorem wf_execMma {f : Ctl} (h : Wf s) : NextWf (execMma f s) := wf_issue (fun _ h => wf_mmaEff h) h
theorem wf_jointEnd {fs : List Frag} (h : Wf s) : Wf (jointEnd fs s) := wf_foldl (fun _ _ h => wf_modOp h) h
theorem wf_jointFail {x : Joint} (h : Wf s) : Wf (jointFail x code s) := wf_foldl (fun _ _ h => wf_reportBase (wf_modGroup h)) h

theorem wf_startJoint {x : Joint} (h : Wf s) : Wf (startJoint tid t x s) := by
  unfold startJoint
  split
  · exact wf_bump (wf_gangTrap (wf_jointFail (wf_expireNow (wf_modTeam h))))
  · exact wf_bump (wf_jointEnd (wf_orMstat (wf_modTeam (wf_membersOn (wf_expireNow (wf_modTeam h))))))

theorem wf_execJointMmaStart (h : Wf s) : NextWf (execJointMmaStart tid s) := by
  unfold execJointMmaStart
  split
  · split
    · exact .next (wf_startJoint h)
    · exact .next h
  · exact .next h

theorem wf_mzeroEff {f : Ctl} (h : Wf s) : Wf (mzeroEff f s) := wf_advance (wf_addOp (wf_modTeam h))
theorem wf_execMzero {f : Ctl} (h : Wf s) : NextWf (execMzero f s) := wf_issue (fun _ h => wf_mzeroEff h) h
theorem wf_mdrnEff {f : Ctl} (h : Wf s) : Wf (mdrnEff f s) := wf_advance (wf_addOp h)
theorem wf_execMdrn {f : Ctl} (h : Wf s) : NextWf (execMdrn f s) := wf_issue (fun _ h => wf_mdrnEff h) h

theorem wf_mstatEff {f : Ctl} (h : Wf s) : Wf (mstatEff f s) :=
  wf_advance (wf_addOp (wf_ite (wf_defer (fun _ h => wf_modTeam h) (wf_writeS h)) (wf_writeS h)))

theorem wf_execMstat {f : Ctl} (h : Wf s) : NextWf (execMstat f s) := wf_issue (fun _ h => wf_mstatEff h) h

/-! ### Reads of engines (R347 to R349) -/

theorem wf_engineRead {nd : Need} {c p own va : Nat} {count : Bool} {s t : State} {w : SrcWord} (h : Wf s)
    (e : engineRead nd c p own va count s = .ok w t) : Wf t := by
  unfold engineRead at e
  split at e
  · cases e
  · dsimp only at e
    split at e
    · cases e
    · cases e
    · split at e <;> cases e
      exact wf_ite (wf_accept (wf_engineTlb h)) (wf_engineTlb h)

theorem wf_engineReads {nd : Need} {c p own : Nat} : ∀ {l : List Nat} {got : List SrcWord} {s : State}, Wf s → Wf (engineReads nd c p own l
    got s).2.2
  | [], _, _, h => h
  | _ :: _, _, _, h => by
    unfold engineReads
    split
    · exact wf_engineReads h
    · split
      case h_1 e => exact wf_engineReads (wf_engineRead h e)
      all_goals exact h

theorem wf_engineAsk {got : List SrcWord} (h : Wf s) : Wf (engineAsk c p gid pu got s) := by
  unfold engineAsk
  refine wf_foldl (fun s a h => ?_) ?_
  · split
    · refine wf_ite h ?_
      refine wf_sendReq ?_
      exact h
    · exact h
  · exact h

theorem wf_ldfrFail {f : Ctl} (h : Wf s) : Wf (ldfrFail f code off s) := wf_advance (wf_addOp h)

theorem wf_ldfrAct {f : Ctl} (h : Wf s) : OkWf (ldfrAct f s) := by
  unfold ldfrAct
  refine .ite .error ?_
  refine .ite .error ?_
  refine .ite .error ?_
  refine .ite .error ?_
  refine .ite (.ok (wf_ldfrFail h)) ?_
  refine .ite .error ?_
  refine .ite (.ok (wf_ldfrFail h)) ?_
  dsimp only
  split
  · exact .error
  · exact .ok (wf_advance (wf_addOp (wf_defer (fun _ h => wf_modTeam h) h)))

/-! ### The Flume (R350 to R358, R376 to R378) -/

theorem wf_wakePresence (h : Wf s) : Wf (wakePresence tid line s) := wf_bump (wf_mapGroups h)

theorem wf_setPresence {v : Bool} (h : Wf s) : Wf (setPresence tid line v s) := by
  unfold setPresence
  split
  · exact h
  · exact wf_ite (wf_ctxPut (wf_ctxAccept h)) (wf_ite (wf_wakePresence (wf_modTeam h)) (wf_modTeam h))

theorem wf_flumeStall {f : Flume} (h : Wf s) : Wf (flumeStall f va s).2 := by
  unfold flumeStall
  split
  · rename_i e
    exact (wf_engineStall h).of e
  · exact h

theorem wf_putTarget {w : TWord} (h : Wf s) : Wf (putTarget t off w s) := wf_ite (wf_ctxPut h) (wf_modTeam h)

theorem wf_claimLine {f : Flume} (h : Wf s) : Wf (claimLine f pl s).2 := by
  unfold claimLine
  refine wf_ite2 h ?_
  split
  · exact wf_sendReq (wf_flushLine h)
  · exact wf_ite2 h (wf_other (wf_flushLine h))

theorem wf_claimLines {f : Flume} : ∀ {l : List FLine} {s : State}, Wf s → Wf (claimLines f l s).2.2
  | [], _, h => h
  | x :: _, s, h => by
    unfold claimLines
    split
    · exact wf_claimLines h
    · dsimp only
      split
      · exact h
      · have ht := wf_engineTlb (c := f.core) (p := f.partn) (va := x.line * 128) h
        split
        · exact ht
        · exact ht
        · split <;> rename_i e
          · exact wf_snd (wf_ite2 ht (wf_claimLine ht)) e
          · exact wf_claimLines (wf_snd (wf_ite2 ht (wf_claimLine ht)) e)

theorem wf_dropClaims (h : Wf s) : Wf (dropClaims id s) := wf_foldl (fun _ _ h => wf_unclaim h) h

theorem wf_padPut {f : Flume} {c : Ccb} {x : FLine} (h : Wf s) : Wf (padPut f c x s).2 := by
  unfold padPut
  split
  · exact h
  · refine wf_setPresence ?_
    refine wf_foldl (fun s a h => ?_) ?_
    · split
      · refine wf_putTarget ?_
        exact h
      · exact h
    · exact wf_ite (wf_ctxAccept h) h

theorem wf_padLine {f : Flume} {c : Ccb} {x : FLine} (h : Wf s) : Wf (padLine f c x s).2 := by
  unfold padLine
  split
  · exact wf_flumeStall h
  · exact h
  · exact wf_padPut h

theorem wf_homeLine {f : Flume} {c : Ccb} {x : FLine} (h : Wf s) : Wf (homeLine f c x pl s).2 := by
  unfold homeLine
  refine wf_unclaim ?_
  refine wf_orMstat ?_
  refine wf_foldl (fun s a h => ?_) ?_
  · split
    · refine wf_homeWrite ?_
      exact h
    · exact h
  · exact wf_accept h

theorem wf_peerLineOut {f : Flume} {c : Ccb} {x : FLine} (h : Wf s) : Wf (peerLineOut f c x pl dev l s).2 := wf_sendReq (wf_orMstat h)

theorem wf_flumeLine {f : Flume} {c : Ccb} {x : FLine} (h : Wf s) : Wf (flumeLine f c x s).2 := by
  unfold flumeLine
  split
  · exact wf_padLine h
  · split
    · exact wf_ite2 h (wf_sendReq h)
    · split
      · exact wf_homeLine h
      · exact wf_peerLineOut h

theorem wf_freePeerLine (h : Wf s) : Wf (freePeerLine c p gid id pl s) := by
  unfold freePeerLine
  split
  · exact wf_sendReq h
  · exact h

theorem wf_flumeFail {f : Flume} (h : Wf s) : Wf (flumeFail f st s).2 := wf_foldl (fun _ _ h => wf_freePeerLine h) (wf_dropClaims h)

theorem wf_recordWord {f : Flume} {w : Word} (h : Wf s) : Wf (recordWord f i w s).2 := by
  unfold recordWord
  split
  · exact h
  · split
    · exact wf_homeWrite h
    · exact wf_sendReq h

theorem wf_clearTarget {f : Flume} {x : FLine} (h : Wf s) : Wf (clearTarget f x s) := by
  unfold clearTarget
  split
  · exact wf_setPresence h
  · exact h

theorem wf_flumeBegin {f : Flume} (h : Wf s) : Wf (flumeBegin f s).2 := by
  unfold flumeBegin
  split
  · split
    · split
      · dsimp only
        split
        · exact wf_flumeStall h
        · exact h
        · exact wf_ite2 (wf_ite (wf_foldl (fun _ _ h => wf_clearTarget h) (wf_recordWord (wf_accept h))) (wf_recordWord (wf_accept h)))
              (wf_recordWord (wf_accept h))
      · dsimp only
        split
        · exact wf_flumeStall h
        · exact h
        · exact wf_ite2 (wf_ite (wf_foldl (fun _ _ h => wf_clearTarget h) (wf_recordWord h)) (wf_recordWord h)) (wf_recordWord h)
    · split
      · dsimp only
        split
        · exact wf_flumeStall h
        · exact h
        · exact wf_ite2 (wf_ite (wf_foldl (fun _ _ h => wf_clearTarget h) (wf_recordWord (wf_accept h))) (wf_recordWord (wf_accept h)))
              (wf_recordWord (wf_accept h))
      · dsimp only
        split
        · exact wf_flumeStall h
        · exact h
        · exact wf_ite2 (wf_ite (wf_foldl (fun _ _ h => wf_clearTarget h) (wf_recordWord h)) (wf_recordWord h)) (wf_recordWord h)
  · split
    · split
      · dsimp only
        split
        · exact wf_flumeStall h
        · exact h
        · exact wf_ite2 (wf_ite (wf_foldl (fun _ _ h => wf_clearTarget h) (wf_recordWord (wf_accept h))) (wf_recordWord (wf_accept h)))
              (wf_recordWord (wf_accept h))
      · dsimp only
        split
        · exact wf_flumeStall h
        · exact h
        · exact wf_ite2 (wf_ite (wf_foldl (fun _ _ h => wf_clearTarget h) (wf_recordWord h)) (wf_recordWord h)) (wf_recordWord h)
    · split
      · dsimp only
        split
        · exact wf_flumeStall h
        · exact h
        · exact wf_ite2 (wf_ite (wf_foldl (fun _ _ h => wf_clearTarget h) (wf_recordWord (wf_accept h))) (wf_recordWord (wf_accept h)))
              (wf_recordWord (wf_accept h))
      · dsimp only
        split
        · exact wf_flumeStall h
        · exact h
        · exact wf_ite2 (wf_ite (wf_foldl (fun _ _ h => wf_clearTarget h) (wf_recordWord h)) (wf_recordWord h)) (wf_recordWord h)

theorem wf_flumeWork {f : Flume} (h : Wf s) : Wf (flumeWork f s).2 := by
  unfold flumeWork
  refine wf_ite2 h ?_
  split
  · split
    · rename_i e
      exact wf_ite2 (wf_flumeBegin (wf_snd2 (wf_engineReads h) e)) (wf_engineAsk (wf_snd2 (wf_engineReads h) e))
    · rename_i e
      exact wf_flumeStall (wf_snd2 (wf_engineReads h) e)
    · rename_i e
      exact wf_flumeFail (wf_snd2 (wf_engineReads h) e)
    · rename_i e
      exact wf_snd2 (wf_engineReads h) e
  · refine wf_ite2 h ?_
    split
    · rename_i e
      exact wf_flumeStall (wf_snd2 (wf_claimLines h) e)
    · rename_i e
      exact wf_flumeFail (wf_snd2 (wf_claimLines h) e)
    · rename_i e
      dsimp only
      split
      · rename_i e'
        exact wf_flumeStall (wf_snd2 (wf_engineReads (wf_snd2 (wf_claimLines h) e)) e')
      · rename_i e'
        exact wf_flumeFail (wf_snd2 (wf_engineReads (wf_snd2 (wf_claimLines h) e)) e')
      · rename_i e'
        exact wf_snd2 (wf_engineReads (wf_snd2 (wf_claimLines h) e)) e'
      · rename_i e'
        refine wf_ite2 (wf_engineAsk (wf_snd2 (wf_engineReads (wf_snd2 (wf_claimLines h) e)) e')) ?_
        split
        · exact wf_flumeLine (wf_snd2 (wf_engineReads (wf_snd2 (wf_claimLines h) e)) e')
        · exact wf_snd2 (wf_engineReads (wf_snd2 (wf_claimLines h) e)) e'
  · exact h

theorem wf_putFlume {f : Flume} (h : Wf s) : Wf (putFlume f s) := wf_other h
theorem wf_modFlume {g : Flume → Flume} (h : Wf s) : Wf (modFlume id g s) := wf_other h

theorem wf_execFlumeLineArrival (h : Wf s) : NextWf (execFlumeLineArrival id x1 s) := by
  unfold execFlumeLineArrival
  split
  · exact .next (wf_bump (wf_freeLines (wf_putFlume (wf_flumeWork h))))
  · exact .next h

theorem wf_signalHere {name : Option Nat} (h : Wf s) : Wf (signalHere p name va pa sreq s) := by
  unfold signalHere
  refine wf_ite ?_ ?_
  · refine wf_postFault ?_
    split
    · exact wf_homeWrite (wf_accept h)
    · exact wf_accept h
  · split
    · exact wf_homeWrite (wf_accept h)
    · exact wf_accept h

theorem wf_postSignal {c : Option (Nat × Nat)} (h : Wf s) : Wf (postSignal p gid c va pa sreq pu s) := by
  unfold postSignal
  split
  · exact wf_signalHere h
  · exact wf_sendReq h

theorem wf_flwtDone {f : Flume} (h : Wf s) : Wf (flwtDone f s) := wf_mapGroups h

theorem wf_flumeFinish {f : Flume} (h : Wf s) : Wf (flumeFinish f s) := by
  unfold flumeFinish
  split
  · dsimp only
    split
    · exact wf_completeOp (wf_flwtDone (wf_dropClaims (wf_other h)))
    · exact wf_flwtDone (wf_dropClaims (wf_other h))
  · dsimp only
    split
    · exact wf_completeOp (wf_flwtDone (wf_dropClaims (wf_other h)))
    · exact wf_flwtDone (wf_dropClaims (wf_other h))

theorem wf_flumeSigTlb {f : Flume} (h : Wf s) : Wf (flumeSigTlb f s) := by
  unfold flumeSigTlb
  split
  · exact wf_ite (wf_engineTlb h) h
  · exact h

theorem wf_flumeRecord {f : Flume} (h : Wf s) : Wf (flumeRecord f s).2 := by
  unfold flumeRecord
  dsimp only
  split
  · exact wf_accept (wf_recordWord (wf_recordWord (wf_flumeSigTlb h)))
  · exact wf_recordWord (wf_recordWord (wf_flumeSigTlb h))

theorem wf_flumeSignal {f : Flume} (h : Wf s) : Wf (flumeSignal f s).2 := by
  unfold flumeSignal
  split
  · dsimp only
    split
    · exact h
    · exact wf_flumeStall (wf_flumeSigTlb h)
    · exact wf_flumeRecord (wf_flumeSigTlb h)
    · exact wf_ite2 h (wf_postSignal (wf_flushLine (wf_flumeSigTlb h)))
  · dsimp only
    split
    · exact h
    · exact wf_flumeStall (wf_flumeSigTlb h)
    · exact wf_flumeSigTlb h
    · exact wf_ite2 h (wf_postSignal (wf_flushLine (wf_flumeSigTlb h)))

theorem wf_flumeEnd : ∀ {n : Nat} {f : Flume} {s : State}, Wf s → Wf (flumeEnd n f s)
  | 0, _, _, h => wf_putFlume h
  | _ + 1, _, _, h => by
    unfold flumeEnd
    split
    · exact wf_putFlume h
    · split
      · exact wf_putFlume h
      · exact wf_ite (wf_flumeEnd (wf_flumeRecord h)) (wf_putFlume h)
      · exact wf_ite (wf_putFlume (wf_flwtDone h)) (wf_flumeEnd (wf_flumeSignal (wf_flwtDone h)))
      · exact wf_flumeFinish h

theorem wf_execFlumeComplete (h : Wf s) : NextWf (execFlumeComplete id s) := by
  unfold execFlumeComplete
  split
  · exact .next (wf_ite (wf_settleInv (wf_bump (wf_freeLines (wf_flumeEnd h)))) h)
  · exact .next h

theorem wf_flumeAct {f : Ctl} {k : FlumeKind} (h : Wf s) : OkWf (flumeAct f k s) := by
  unfold flumeAct
  dsimp only
  split
  · exact .error
  · exact .ite .error (.ite .error (.ok (wf_advance (wf_other (wf_addOp h)))))

theorem wf_flwtAct {f : Ctl} (h : Wf s) : OkWf (flwtAct f s) := by
  unfold flwtAct
  split
  · dsimp only
    split <;> exact .error
  · dsimp only
    split
    · exact .error
    · exact .ok (wf_advance (wf_addOp h))

theorem wf_readAtHome (h : Wf s) : Wf (readAtHome cf d va pa s) := by
  unfold readAtHome
  split
  · exact wf_askLines (wf_addOp h)
  · exact wf_addOp (wf_accept h)

theorem wf_flstAct {f : Ctl} (h : Wf s) : OkWf (flstAct f s) := by
  unfold flstAct
  split
  · dsimp only
    split
    · exact .error
    · split <;> exact .error
  · dsimp only
    split
    · exact .error
    · split
      · split
        · exact .error
        · exact .ite (.ok (wf_advance (wf_addOp h))) (.ok (wf_advance (wf_readAtHome h)))
      · exact .error

/-! ### The headrace (R359, R360, R380) -/

theorem wf_hrstAct {f : Ctl} (h : Wf s) : OkWf (hrstAct f s) := by
  unfold hrstAct
  refine .ite .error ?_
  split
  · exact .error
  · split
    · exact .error
    · dsimp only
      split
      · exact .error
      · exact .ok (wf_advance (wf_ite (wf_accept (wf_addOp h)) (wf_askLines (wf_addOp h))))

theorem wf_hrstDone {g : Gather} (h : Wf s) : Wf (hrstDone gid o g q s) := wf_ite (wf_completeOp (wf_modGroup h)) (wf_completeOp h)
theorem wf_dropQueue (h : Wf s) : Wf (dropQueue gid q s) := wf_modGroup (wf_dropReqs h)

theorem wf_queueWork {k : Nat} {q : Queue} (h : Wf s) : Wf (queueWork g k q s).2 := by
  unfold queueWork
  refine wf_ite2 h ?_
  split
  · rename_i e
    exact wf_ite2 (wf_snd2 (wf_engineReads h) e) (wf_engineAsk (wf_snd2 (wf_engineReads h) e))
  · rename_i e
    split
    · rename_i e'
      exact (wf_engineStall (wf_snd2 (wf_engineReads h) e)).of e'
    · exact wf_snd2 (wf_engineReads h) e
  · rename_i e
    exact wf_snd2 (wf_engineReads h) e
  · rename_i e
    exact wf_snd2 (wf_engineReads h) e

theorem wf_execHeadraceFetchReturn {q : BitVec 2} (h : Wf s) : NextWf (execHeadraceFetchReturn gid q s) := by
  unfold execHeadraceFetchReturn
  split
  · exact .next h
  · split
    · exact .next h
    · dsimp only
      split
      · rename_i e
        exact .next (wf_bump (wf_modGroup (wf_snd (wf_queueWork (wf_modCore h)) e)))
      · rename_i e
        exact .next (wf_settleInv (wf_bump (wf_reportTrap (wf_dropQueue (wf_snd (wf_queueWork (wf_modCore h)) e)))))

theorem wf_hrspEff {f : Ctl} (h : Wf s) : Wf (hrspEff f s) := by
  unfold hrspEff
  refine wf_advance ?_
  refine wf_addOp ?_
  split
  · exact h
  · exact wf_ite (wf_modGrp (wf_freeLanes (wf_dropQueue h))) (wf_dropQueue h)

theorem wf_execHrsp {f : Ctl} (h : Wf s) : NextWf (execHrsp f s) := wf_issue (fun _ h => wf_hrspEff h) h
theorem wf_hrqsEff {f : Ctl} (h : Wf s) : Wf (hrqsEff f s) := wf_advance (wf_addOp h)
theorem wf_execHrqs {f : Ctl} (h : Wf s) : NextWf (execHrqs f s) := wf_issue (fun _ h => wf_hrqsEff h) h

/-! ### LAUNCH (R209, R216) -/

theorem wf_acceptLines {pas : List Nat} (h : Wf s) : Wf (acceptLines pas s) := wf_foldl (fun _ _ h => wf_accept h) h

theorem wf_makeSnap {k : Packet} (h : Wf s) : Wf (makeSnap p reader n k s) := by
  unfold makeSnap
  dsimp only
  split
  · exact wf_modPart h
  · exact wf_foldl (fun _ _ h => wf_putHome h) (wf_acceptLines (wf_modPart h))

theorem wf_launchDone {f : Ctl} (h : Wf s) : Wf (launchDone f st s) := wf_advance (wf_addOp (wf_dropArgs h))

theorem wf_launchEnter {f : Ctl} {k : Packet} (h : Wf s) : OkWf (launchEnter f k s) := by
  unfold launchEnter
  dsimp only
  split
  · exact .ok (wf_launchDone h)
  · refine .ite (.ok (wf_launchDone h)) ?_
    refine .ite (.ok (wf_launchDone h)) ?_
    refine .ite .error ?_
    split
    · exact .error
    · exact .ok (wf_launchDone (wf_modPart (wf_makeSnap h)))

theorem wf_launchRead {f : Ctl} (h : Wf s) : OkWf (launchRead f pa s) := by
  unfold launchRead
  refine .ite (.ok (wf_launchDone (wf_accept h))) ?_
  refine .ite (.ok (wf_launchDone (wf_accept h))) ?_
  split
  · exact .error
  · split
    · exact wf_launchEnter (wf_accept h)
    · exact .error

theorem wf_launchAct {f : Ctl} (h : Wf s) : OkWf (launchAct f s) := by
  unfold launchAct
  refine .ite .error ?_
  refine .ite .error ?_
  split
  · exact .error
  · split
    · exact .error
    · exact .ok (wf_launchDone (wf_releaseNow h))
  · split
    · exact .error
    · exact .ite (.ok (wf_launchDone (wf_releaseNow h))) (.ite .error (.ite (wf_launchRead (wf_releaseNow h)) .error))

/-! ### Placement -/

theorem wf_ranOn (h : Wf s) : Wf (ranOn grid c s) := wf_modGrid h

/-! ### Validity, prefetch, cache control, residency and presence (R179 to R185) -/

theorem wf_validAll : ∀ {pas : List Nat} {r : List (Nat × TWord) × State}, Wf r.2 →
    Wf (pas.foldl (fun r pa => match homeOf r.2 pa with
      | .peer _ _ => r
      | .host => let w := freeWord r.2; (r.1 ++ [(pa, ⟨w.1, 0⟩)], w.2)
      | _ => (r.1 ++ [(pa, ⟨validityWord r.2 pa, 0⟩)], accept r.2 pa)) r).2
  | [], _, h => h
  | pa :: pas, r, h => by
    refine wf_validAll (pas := pas) ?_
    dsimp only
    split
    · exact h
    · exact wf_freeWord h
    · exact wf_accept h

theorem wf_validWords {pas : List Nat} {s : State} (h : Wf s) : Wf (validWords pas s).2 := wf_validAll h

theorem wf_askValid {miss : List Nat} (h : Wf s) : Wf (askValid id accs miss s) := by
  unfold askValid
  refine wf_foldl (fun s a h => ?_) ?_
  · split
    · refine wf_askLine ?_
      exact h
    · exact h
  · exact h

theorem wf_ldvEff (h : Wf s) : Wf (ldvEff f accs s) := by
  unfold ldvEff
  refine wf_ite ?_ (wf_askValid (wf_addOp (wf_validWords h)))
  split
  · exact wf_acquireNow (wf_addOp (wf_validWords h))
  · exact wf_addOp (wf_validWords h)

theorem wf_ldvAct (h : Wf s) : OkWf (ldvAct x f s) := by
  unfold ldvAct
  split
  · exact .error
  · split
    · exact .error
    · exact .ok (wf_advance (wf_ldvEff h))

theorem wf_dropBlock (h : Wf s) : Wf (dropBlock c pa s) := wf_dropFills (wf_modDie (wf_modCore h))

theorem wf_clearOne (h : Wf s) : Wf (clearOne id pa s) := by
  unfold clearOne
  dsimp only
  split
  · exact wf_sendReq (wf_dropBlock h)
  · exact wf_clearBlock (wf_accept (wf_dropBlock h))

theorem wf_clrvAct (h : Wf s) : OkWf (clrvAct f s) := by
  unfold clrvAct
  refine .ite .error ?_
  split
  · exact .error
  · split
    · exact .error
    · exact .ok (wf_advance (wf_addOp (wf_foldl (fun _ _ h => wf_clearOne h) h)))

theorem wf_askPref (h : Wf s) : Wf (askPref lvl rdis ix line s) := by
  unfold askPref
  split
  · exact wf_ite h (wf_sendReq h)
  · exact h

theorem wf_prefetch {lvl rdis pa : Nat} {s : State} (h : Wf s) : Wf (prefetch lvl rdis pa s) := by
  have htouch : Wf (if lvl < 2 then dieTouch (dieOf s.grp.core) (lineNo s pa) rdis s else s) := wf_ite (wf_dieTouch h) h
  unfold prefetch
  dsimp only
  cases peerLine s (lineNo s pa) with
  | some l => exact wf_ite h (wf_ite (wf_ite (wf_l1Take htouch) htouch) (wf_askPref h))
  | none => exact wf_ite h (wf_ite (wf_l1Fill h) (wf_ite (wf_dieFill h) (wf_ite h (wf_accept h))))

theorem wf_prefPas : ∀ {l : List Nat} {s : State}, Wf s → Wf (prefPas l s).2
  | [], _, h => h
  | _ :: _, _, h => by
    unfold prefPas
    split
    · exact wf_prefPas h
    · dsimp only
      split <;> exact wf_prefPas (wf_engineTlb h)

theorem wf_prefAct (h : Wf s) : OkWf (prefAct x f s) := by
  unfold prefAct
  dsimp only
  split
  · exact .error
  · exact .ok (wf_advance (wf_addOp (wf_foldl (fun _ _ h => wf_prefetch h) (wf_prefPas h))))

theorem wf_cleanLine (h : Wf s) : Wf (cleanLine inv scope line s) :=
  wf_ite (wf_ite (wf_dieDrop (wf_dieWriteBack (wf_ite (wf_l1Drop (wf_l1WriteBack h)) (wf_l1WriteBack h)))) (wf_dieWriteBack
      (wf_ite (wf_l1Drop (wf_l1WriteBack h)) (wf_l1WriteBack h)))) (wf_ite (wf_l1Drop (wf_l1WriteBack h)) (wf_l1WriteBack h))

theorem wf_cleanAct (h : Wf s) : OkWf (cleanAct f inv s) := by
  unfold cleanAct
  refine .ite .error ?_
  split
  · exact .error
  · dsimp only
    split
    · exact .error
    · exact .ok (wf_advance (wf_addOp (wf_foldl (fun _ _ h => wf_cleanLine h) h)))

theorem wf_pinAll {gs : List Nat} (h : Wf s) : Wf (pinAll gs s) := wf_foldl (fun _ _ h => wf_ite h (wf_other h)) h

theorem wf_llckResult {gs : List (Nat × Bool)} (h : Wf s) : Wf (llckResult s gs).2 := wf_ite2 h (wf_ite2 (wf_freeWord h)
    (wf_ite (wf_pinAll h) h))

theorem wf_llckAct (h : Wf s) : OkWf (llckAct f s) := by
  unfold llckAct
  refine .ite .error ?_
  split
  · exact .error
  · exact .ite .error (.ok (wf_advance (wf_addOp (wf_llckResult h))))

theorem wf_lunlAct (h : Wf s) : OkWf (lunlAct f s) := by
  unfold lunlAct
  split
  · dsimp only
    split
    · exact .error
    · exact .ite .error .error
  · dsimp only
    split
    · exact .error
    · exact .ite .error (.ok (wf_advance (wf_addOp (wf_other h))))

theorem wf_presQueryAct (h : Wf s) : OkWf (presQueryAct f s) := by
  unfold presQueryAct
  split
  · exact .error
  · exact .ok (wf_advance (wf_addOp h))

theorem wf_presAct {set : Bool} (h : Wf s) : OkWf (presAct f set s) := by
  unfold presAct
  split
  · exact .error
  · exact .ok (wf_advance (wf_addOp h))

/-! ### Barriers and signal waits (R193 to R198) -/

theorem wf_barMod {k : Nat} {f : Barrier → Barrier} (h : Wf s) : Wf (barMod clus k f s) := wf_ite (wf_modCluster h) (wf_modTeam h)

theorem wf_barvAct (h : Wf s) : OkWf (barvAct f s) := by
  unfold barvAct
  split
  · exact .error
  · exact .ite .error (.ok (wf_advance (wf_addOp (wf_barMod (wf_ite (wf_releaseNow h) h)))))

theorem wf_barwAct {p : Bool} (h : Wf s) : OkWf (barwAct f p s) := .ite .error (.ite .error
    (.ok (wf_advance (wf_addOp (wf_ite (wf_orMstat h) h)))))

theorem wf_barsAct (h : Wf s) : OkWf (barsAct f s) := .ite .error (.ok (wf_advance (wf_addOp (wf_ite h (wf_barMod h)))))

theorem wf_sigwAct (h : Wf s) : OkWf (sigwAct f s) := by
  unfold sigwAct
  split
  · exact .error
  · split
    · exact .error
    · exact .ok (wf_advance (wf_sendWatch (wf_addOp h)))

theorem wf_sigwEnd (h : Wf s) : Wf (sigwEnd g o v s) := by
  unfold sigwEnd
  split
  · exact wf_bump (wf_dropWatches (wf_modOp (wf_ite (wf_acquireAction h) h)))
  · exact h

theorem wf_execSigwSatisfied (h : Wf s) : NextWf (execSigwSatisfied id s) := by
  unfold execSigwSatisfied
  split
  · exact .next h
  · split
    · split
      · exact .next (wf_sigwEnd h)
      · exact .next h
    · exact .next h

/-! ### Reader sections, publication and retirement (R199 to R206) -/

theorem wf_rdsbEff (h : Wf s) : Wf (rdsbEff f s) := wf_advance (wf_addOp (wf_modGrp (wf_ite (wf_modCount (wf_modGrp h)) h)))
theorem wf_execRdsb (h : Wf s) : NextWf (execRdsb f s) := wf_issue (fun _ h => wf_rdsbEff h) h
theorem wf_rdseEff (h : Wf s) : Wf (rdseEff f s) := wf_advance (wf_addOp (wf_modGrp (wf_ite (wf_modCount h) h)))
theorem wf_execRdse (h : Wf s) : NextWf (execRdse f s) := wf_issue (fun _ h => wf_rdseEff h) h

theorem wf_publish (h : Wf s) : Wf (publish id pa v s) := by
  unfold publish
  dsimp only
  split
  · exact wf_sendReq (wf_flushLine h)
  · exact wf_homeWrite (wf_accept (wf_flushLine h))

theorem wf_publAct (h : Wf s) : OkWf (publAct f s) := by
  unfold publAct
  dsimp only
  split
  · exact .error
  · split
    · exact .error
    · exact .ok (wf_advance (wf_addOp (wf_foldl (fun _ _ h => wf_publish h) (wf_releaseNow h))))

theorem wf_passDemand {before : Bool} (h : Wf s) : Wf (passDemand before s) := wf_ite h (wf_foldl (fun _ _ h => wf_sendCtl h) h)

theorem wf_reportSelf (h : Wf s) : Wf (reportSelf s) :=
  wf_ite (wf_modWeir h) (wf_ite (wf_passDemand (wf_modWeir (wf_modWeir h))) (wf_sendCtl (wf_modWeir h)))

theorem wf_retqEnter {pod ok : Bool} {sig : Option Nat} (h : Wf s) : Wf (retqEnter s pod ok va v sig).2 :=
  wf_ite2 h (wf_ite2 h (wf_ite (wf_reportSelf (wf_modWeir h)) (wf_modWeir h)))

theorem wf_retqDone (h : Wf s) : Wf (retqDone f st s) := wf_advance (wf_addOp h)

theorem wf_retqAct (h : Wf s) : OkWf (retqAct f s) := by
  unfold retqAct
  refine .ite .error ?_
  refine .ite .error ?_
  refine .ite .error ?_
  refine .ite (.ok (wf_retqDone h)) ?_
  split
  · exact .error
  · exact .error
  · exact .ok (wf_retqDone (wf_retqEnter h))

theorem wf_gpwtAct (h : Wf s) : OkWf (gpwtAct f s) := .ite .error (.ok (wf_advance (wf_addOp h)))
theorem wf_rootEpoch (h : Wf s) : Wf (rootEpoch s).2 := wf_ite2 (wf_freeWord h) (wf_ite2 h (wf_modWeir (wf_freeWord h)))
theorem wf_epochRead (h : Wf s) : Wf (epochRead f s).2 := wf_ite2 h (wf_ite2 h (wf_ite2 (wf_rootEpoch h) (wf_freeWord h)))
theorem wf_gpqyAct (h : Wf s) : OkWf (gpqyAct f s) := .ite .error (.ok (wf_advance (wf_addOp (wf_epochRead h))))
end

end Sys2Proof.Proofs.CanonicalOps

/-! PROOF. The canonical form of memory is kept by the device's other agents: lives of groups, peers, the Weir, the distributor, links, the
management block (R217 to R305, R387 to R451). -/
namespace Sys2Proof.Proofs.CanonicalDevice
open Sys2Proof Sys2Proof.Machine Sys2Proof.Proofs.CanonicalMemory Sys2Proof.Proofs.CanonicalIssue Sys2Proof.Proofs.CanonicalOps

section
variable {s : State}
  {o id tid line mask gid c cid p va pa lcnt pn kind k page pool ticket base granules f lane fl lvl rdis ix l st acc block m thr snap pri
    reason seq index place ctx vdie fn comb rseq nrep tdet ecls ctr esn n off target master sl stp : Nat}
  {d x1 : List TWord} {g : Group} {v : Word} {t : Team} {x : Flit} {hd : FabHdr} {cs : List Nat} {r : Req} {dev : BitVec 4} {i : HostAcc}
    {rx : Bool}
  {bs : List Byte}

/-! ### The life of groups, teams and grids (R229 to R231, R395) -/

theorem wf_finishOp {o : Op} (h : Wf s) : Wf (finishOp g o s) := by
  unfold finishOp
  split
  · exact wf_completeOp (wf_other h)
  · exact wf_completeOp h

theorem wf_execOperationComplete (h : Wf s) : NextWf (execOperationComplete id s) := by
  unfold execOperationComplete
  split
  · exact .next (wf_ite (wf_finishOp h) h)
  · exact .next h

theorem wf_presApply {v : Bool} (h : Wf s) : Wf (presApply tid line mask v s) := wf_foldl (fun _ _ h => wf_ite (wf_setPresence h) h) h

theorem wf_finishMem {o : Op} (h : Wf s) : Wf (finishMem g o s) := by
  unfold finishMem
  split
  · exact wf_completeOp (wf_ite (wf_acquireAction h) h)
  · split
    · exact wf_completeOp h
    · exact h
  · exact wf_completeOp (wf_presApply h)
  · exact wf_hrstDone h
  · exact wf_completeOp h

theorem wf_execMemoryOpComplete (h : Wf s) : NextWf (execMemoryOpComplete id s) := by
  unfold execMemoryOpComplete
  split
  · exact .next (wf_ite (wf_settleInv (wf_finishMem h)) h)
  · exact .next h

theorem wf_execTrapReport (h : Wf s) : NextWf (execTrapReport gid s) := by
  unfold execTrapReport
  split
  · split
    · exact .next (wf_ite (wf_bump (wf_enterHandler (wf_reportTrap (wf_modGroup h)))) h)
    · exact .next h
  · exact .next h

theorem wf_execTrapHandlerEntry (h : Wf s) : NextWf (execTrapHandlerEntry gid s) := by
  unfold execTrapHandlerEntry
  split
  · exact .next (wf_ite (wf_bump (wf_enterHandler h)) h)
  · exact .next h

theorem wf_execRegionAbort (h : Wf s) : NextWf (execRegionAbort gid s) := by
  unfold execRegionAbort
  split
  · split
    · exact .next (wf_settleInv (wf_bump (wf_abortUnder h)))
    · exact .next h
  · exact .next h

theorem wf_dropAge (h : Wf s) : Wf (dropAge c gid s) := wf_modCore h

theorem wf_leaveJoint (h : Wf s) : Wf (leaveJoint g s) := by
  unfold leaveJoint
  split
  · exact h
  · exact wf_jointFail (wf_modTeam h)

theorem wf_removeGroup (h : Wf s) : Wf (removeGroup g s) :=
  wf_other (wf_modGroup (wf_modPart (wf_dropReqs (wf_dropAge (wf_dropLaunch (wf_unwatch (wf_leaveJoint (wf_gangBreak (wf_closeSection
      h)))))))))

theorem wf_lowerBarriers (h : Wf s) : Wf (lowerBarriers g s) := wf_modCluster (wf_modTeam h)
theorem wf_dropRequests {c : Cluster} (h : Wf s) : Wf (dropRequests c s) := wf_modPart h

theorem wf_clusterEnd (h : Wf s) : Wf (clusterEnd cid s) := by
  unfold clusterEnd
  split
  · exact h
  · exact wf_ite (wf_other (wf_dropRequests h)) h

theorem wf_removeTeam (h : Wf s) : Wf (removeTeam t s) :=
  wf_modGrid (wf_other (wf_modTeam (wf_modPart (wf_mapGroups (wf_grantHead (wf_releaseLease h))))))

theorem wf_retireGroup (h : Wf s) : Wf (retireGroup g s) := by
  unfold retireGroup
  dsimp only
  split
  · exact wf_modTeam (wf_lowerBarriers (wf_removeGroup h))
  · exact wf_ite (wf_clusterEnd (wf_removeTeam (wf_modTeam (wf_lowerBarriers (wf_removeGroup h))))) (wf_settleTeam
        (wf_modTeam (wf_lowerBarriers (wf_removeGroup h))))

theorem wf_execGroupRetire (h : Wf s) : NextWf (execGroupRetire gid s) := by
  unfold execGroupRetire
  split
  · exact .next (wf_ite (wf_handlerEnd h) (wf_ite (wf_settleInv (wf_bump (wf_retireGroup h))) h))
  · exact .next h

theorem wf_gridRelease {x : Grid} (h : Wf s) : Wf (gridRelease x s) :=
  wf_modGrid (wf_foldl (fun _ _ h => wf_releaseDie h) (wf_foldl (fun _ _ h => wf_releaseL1 (wf_advanceCut h)) h))

theorem wf_gridGone {x : Grid} (h : Wf s) : Wf (gridGone x s) := wf_other (wf_modPart h)
theorem wf_deviceMiss (h : Wf s) : Wf (deviceMiss p va s).2 := wf_postFault (wf_nextToken h)

theorem wf_gridSignal {x : Grid} (h : Wf s) : Wf (gridSignal x s) := by
  unfold gridSignal
  refine wf_ite (wf_gridGone h) ?_
  split
  · exact wf_ite h (wf_modGrid (wf_deviceMiss h))
  · exact wf_gridGone h
  · exact wf_ite h (wf_ite (wf_modGrid (wf_postSignal h)) (wf_gridGone (wf_postSignal h)))

theorem wf_execGridComplete (h : Wf s) : NextWf (execGridComplete id s) := by
  unfold execGridComplete
  split
  · exact .next (wf_ite h (wf_ite (wf_bump (wf_ite (wf_gridSignal (wf_gridRelease h)) (wf_gridRelease h))) (wf_bump (wf_gridSignal h))))
  · exact .next h

theorem wf_execHomeWritePerform {d : Nat} (h : Wf s) : NextWf (execHomeWritePerform d line s) := by
  unfold execHomeWritePerform
  split
  · exact .next (wf_ite (wf_bump (wf_dieDrop (wf_dieWriteBack h))) h)
  · exact .next h

theorem wf_execSlotUrgent {b : Bool} (h : Wf s) : NextWf (execSlotUrgent gid b s) := .next (wf_modGroup h)

/-! ### Requests of peers (R419) -/

theorem wf_noteCut (h : Wf s) : Wf (noteCut hd s) := wf_ite (wf_modFabric h) h
theorem wf_writeMasked (h : Wf s) : Wf (writeMasked pa mask d s) := wf_foldl (fun _ _ h => wf_ite (wf_homeWrite h) h) h
theorem wf_readDo (h : Wf s) : Wf (readDo hd x1 s) := wf_sendRsp (wf_accept h)

theorem wf_wrlDo (h : Wf s) : Wf (wrlDo hd d s) := wf_sendRsp (wf_ite (wf_unclaim (wf_writeMasked (wf_accept h))) (wf_writeMasked
    (wf_accept h)))

theorem wf_atmDo {ret : Bool} (h : Wf s) : Wf (atmDo ret hd d s) := by
  unfold atmDo
  refine wf_ite ?_ ?_
  · refine wf_sendRsp ?_
    refine wf_ite ?_ ?_
    · refine wf_modFabric ?_
      split
      · exact wf_homeWrite (wf_accept h)
      · exact wf_accept h
    · split
      · exact wf_homeWrite (wf_accept h)
      · exact wf_accept h
  · refine wf_sendRsp ?_
    refine wf_ite ?_ ?_
    · refine wf_modFabric ?_
      split
      · exact wf_homeWrite (wf_accept h)
      · exact wf_accept h
    · split
      · exact wf_homeWrite (wf_accept h)
      · exact wf_accept h

theorem wf_clbDo (h : Wf s) : Wf (clbDo hd x1 s) := wf_sendRsp (wf_foldl (fun _ _ h => wf_ite (wf_clearBlock (wf_accept h)) h) h)
theorem wf_vldDo (h : Wf s) : Wf (vldDo hd x1 s) := wf_sendRsp (wf_accept h)
theorem wf_watDo (h : Wf s) : Wf (watDo hd x1 s) := wf_sendRsp (wf_dropWatches h)
theorem wf_clmDo (h : Wf s) : Wf (clmDo hd x1 s) := wf_sendRsp (wf_other h)
theorem wf_keepHeld (h : Wf s) : Wf (keepHeld hd d s) := wf_ite (wf_addWatch (wf_modFabric h)) (wf_modFabric h)

theorem wf_serve {h : FabHdr} {d : List TWord} {perform : FabHdr → List TWord → State → State} {s : State} (hp : ∀ h d s, Wf s → Wf
    (perform h d s))
    (hs : Wf s) : Wf (serve h d perform s) := by
  have hcut : Wf (if s.fabric.held.contains (h, d) then s else noteCut h s) := wf_ite hs (wf_noteCut hs)
  unfold serve
  dsimp only
  split
  · exact wf_bump (wf_sendRsp (wf_modFabric hcut))
  · exact wf_ite (wf_ite hcut (wf_keepHeld hcut)) (wf_ite (wf_modFabric hcut) (wf_bump (hp _ _ _ (wf_modFabric hcut))))

theorem wf_execRdl (h : Wf s) : NextWf (execRdl hd d s) := .next (wf_serve (fun _ _ _ h => wf_readDo h) h)
theorem wf_execRdh (h : Wf s) : NextWf (execRdh hd d s) := .next (wf_serve (fun _ _ _ h => wf_readDo h) h)
theorem wf_execWrl (h : Wf s) : NextWf (execWrl hd d s) := .next (wf_serve (fun _ _ _ h => wf_wrlDo h) h)
theorem wf_execAtm (h : Wf s) : NextWf (execAtm hd d s) := .next (wf_serve (fun _ _ _ h => wf_atmDo h) h)
theorem wf_execFabricRed (h : Wf s) : NextWf (execFabricRed hd d s) := .next (wf_serve (fun _ _ _ h => wf_atmDo h) h)
theorem wf_execClb (h : Wf s) : NextWf (execClb hd d s) := .next (wf_serve (fun _ _ _ h => wf_clbDo h) h)
theorem wf_execVld (h : Wf s) : NextWf (execVld hd d s) := .next (wf_serve (fun _ _ _ h => wf_vldDo h) h)
theorem wf_execWat (h : Wf s) : NextWf (execWat hd d s) := .next (wf_serve (fun _ _ _ h => wf_watDo h) h)
theorem wf_execClm (h : Wf s) : NextWf (execClm hd d s) := .next (wf_serve (fun _ _ _ h => wf_clmDo h) h)

theorem wf_serveStep (h : Wf s) : NextWf (serveStep hd d s) := by
  unfold serveStep
  split
  · exact wf_execRdl h
  · exact wf_execRdh h
  · exact wf_execWrl h
  · exact wf_execAtm h
  · exact wf_execFabricRed h
  · exact wf_execClb h
  · exact wf_execVld h
  · exact wf_execWat h
  · exact wf_execClm h
  · exact .next (wf_bump (wf_sendRsp h))

theorem wf_spillBlock {b : Nat} (h : Wf s) : Wf (spillBlock pa mask b d s) :=
  wf_ite h (wf_ite (wf_clearBlock h) (wf_foldl (fun _ _ h => wf_homeWrite h) h))

theorem wf_wrsDo (h : Wf s) : Wf (wrsDo hd d s) :=
  wf_ite h (wf_ite (wf_noteCut h) (wf_foldl (fun _ _ h => wf_spillBlock h) (wf_accept (wf_noteCut h))))

theorem wf_spillArrive : ∀ {l : List (FabHdr × List TWord)} {s : State}, Wf s → Wf (spillArrive l s).2
  | [], _, h => h
  | _ :: _, _, h => by
    unfold spillArrive
    split
    · exact wf_spillArrive h
    · exact wf_spillArrive (wf_noteCut h)

theorem wf_dropSpill (h : Wf s) : Wf (dropSpill hd d s) := wf_modFabric h
theorem wf_execWrs (h : Wf s) : NextWf (execWrs hd d s) := .next (wf_ite h (wf_bump (wf_wrsDo (wf_dropSpill h))))

/-! ### Pre-emption and resumption (R322 to R325) -/

theorem wf_stopCluster (h : Wf s) : Wf (stopCluster cid s) := wf_modCluster (wf_mapGroups h)
theorem wf_beginPreempt {c : Cluster} (h : Wf s) : Wf (beginPreempt c s) := wf_ite (wf_modCluster h) (wf_stopCluster (wf_modCluster h))

theorem wf_execPreempt {p : BitVec 4} (h : Wf s) : NextWf (execPreempt p v s) := by
  unfold execPreempt
  split
  · exact .next (wf_ite h (wf_modPart h))
  · dsimp only
    split
    · exact .next h
    · split
      · exact .next (wf_ite (wf_bump (wf_ite (wf_modPart h) (wf_beginPreempt (wf_modPart h)))) (wf_modPart h))
      · exact .next (wf_modPart h)

theorem wf_execPreemptDeferExpire {p : BitVec 4} (h : Wf s) : NextWf (execPreemptDeferExpire p v s) := by
  unfold execPreemptDeferExpire
  split
  · exact .next (wf_ite (wf_bump (wf_stopCluster h)) h)
  · exact .next h

theorem wf_teamAccept (h : Wf s) : Wf (teamAccept t s) := wf_ctxAccept (wf_ctxAccept h)
theorem wf_writeTeam {c : Cluster} (h : Wf s) : Wf (writeTeam t c lcnt pn s) := wf_foldl (fun _ _ h => wf_ctxPut h) (wf_teamAccept h)

theorem wf_saveRegion (h : Wf s) : SomeWf (saveRegion g s) := by
  unfold saveRegion
  dsimp only
  split
  · rename_i e
    exact .some ((wf_regionGate (wf_focus h)).of e)
  · exact .ite (.some (wf_abortMerge (wf_focus h))) .none
  · exact .ite .none (.some (wf_askFills (wf_focus h)))
  · exact .none

theorem wf_pruneWaits (h : Wf s) : Wf (pruneWaits c s) := wf_modCore h
theorem wf_endLeases (h : Wf s) : Wf (endLeases g s) := wf_foldl (fun _ _ h => wf_completeOp h) h

theorem wf_saveGroup (h : Wf s) : Wf (saveGroup g s) := by
  unfold saveGroup
  refine wf_modGroup ?_
  split
  · exact wf_writeImage (wf_modGroup (wf_unwatch (wf_dropReqs (wf_modPart (wf_dropLaunch (wf_dropAge (wf_countAway h)))))))
  · exact wf_modGroup (wf_unwatch (wf_dropReqs (wf_modPart (wf_dropLaunch (wf_dropAge (wf_countAway h))))))

theorem wf_saveTeam {c : Cluster} (h : Wf s) : Wf (saveTeam t c s) :=
  wf_pruneWaits (wf_modTeam (wf_grantHead (wf_dropLease (wf_modCore (wf_writeTeam (wf_foldl (fun _ _ h => wf_saveGroup h)
      (wf_foldl (fun _ _ h => wf_endLeases h) h)))))))

theorem wf_clusterRecord {c : Cluster} (h : Wf s) : Wf (clusterRecord kind c s) := wf_postFault h
theorem wf_closeAway (h : Wf s) : Wf (closeAway g s) := wf_ite h (wf_modWeir h)

theorem wf_removeCluster {c : Cluster} (h : Wf s) : Wf (removeCluster c s) :=
  wf_other (wf_foldl (fun _ _ h => wf_removeTeam h) (wf_foldl (fun _ _ h => wf_removeGroup (wf_modGroup (wf_closeAway h)))
      (wf_modPart (wf_clusterRecord h))))

theorem wf_clusterSaved {c : Cluster} (h : Wf s) : Wf (clusterSaved c s) := wf_modPart (wf_clusterRecord (wf_modCluster h))

theorem wf_saveNext (h : Wf s) : SomeWf (saveNext s tid) := by
  unfold saveNext
  split
  · exact .none
  · split
    · exact .none
    · refine .ite .none ?_
      refine .ite (.ite (.some (wf_clusterSaved h)) .none) ?_
      refine .ite .none ?_
      split
      · exact wf_saveRegion h
      · exact .ite .none (.ite (.ite .none (.some (wf_modTeam (wf_releaseAction h)))) (.ite .none (.some (wf_saveTeam h))))

theorem wf_execTeamSave (h : Wf s) : NextWf (execTeamSave tid s) := by
  unfold execTeamSave
  split
  · rename_i e
    exact .next (wf_bump ((wf_saveNext h).of e))
  · exact .next h

theorem wf_countBack (h : Wf s) : Wf (countBack g s) := wf_ite h (wf_modWeir (wf_modCount h))

theorem wf_resumeGroup (h : Wf s) : Wf (resumeGroup c g s) := by
  unfold resumeGroup
  refine wf_youngestOf ?_
  refine wf_youngestOf ?_
  refine wf_modGroup ?_
  refine wf_reissueWaits ?_
  split
  · exact wf_countBack (wf_modGroup h)
  · exact wf_modGroup h

theorem wf_resumeTeam (h : Wf s) : Wf (resumeTeam c t s) := by
  unfold resumeTeam
  split
  · exact wf_foldl (fun _ _ h => wf_resumeGroup h) (wf_modTeam (wf_ctxAccept (wf_ranOn (wf_acquireAction h))))
  · exact wf_grantHead (wf_askLease (wf_modTeam (wf_foldl (fun _ _ h => wf_resumeGroup h)
        (wf_modTeam (wf_ctxAccept (wf_ranOn (wf_acquireAction h)))))))

theorem wf_resumeCluster {c : Cluster} (h : Wf s) : Wf (resumeCluster c cs s) := by
  unfold resumeCluster
  dsimp only
  split
  · exact wf_modCluster (wf_foldl (fun _ _ h => wf_resumeTeam h) (wf_modCluster h))
  · exact wf_foldl (fun _ _ h => wf_resumeTeam h) (wf_modCluster h)

theorem wf_resumeDone {c : Cluster} (h : Wf s) : Wf (resumeDone p c s) := wf_clusterRecord (wf_modPart h)
theorem wf_resumeTrapped (h : Wf s) : Wf (resumeTrapped g s) := wf_settleTeam (wf_resumeGroup (wf_ctxAccept (wf_acquireAction h)))

theorem wf_resumeNext (h : Wf s) : SomeWf (resumeNext p v s) := by
  unfold resumeNext
  split
  · exact .some (wf_modPart h)
  · exact .ite .none (.ite (.ite .none (.map (fun _ => wf_resumeDone (wf_resumeCluster h)))) (.ite (.some (wf_modPart h))
        (.ite .none (.some (wf_resumeDone (wf_foldl (fun _ _ h => wf_resumeTrapped h) h))))))

theorem wf_execResume {p : BitVec 4} (h : Wf s) : NextWf (execResume p v s) := by
  unfold execResume
  split
  · exact .next (wf_ite h (wf_modPart h))
  · dsimp only
    split
    · exact .next h
    · split
      · rename_i e
        exact .next (wf_bump ((wf_resumeNext (wf_modPart h)).of e))
      · exact .next (wf_modPart h)

theorem wf_removeNext (h : Wf s) : Wf (removeNext s) := by
  unfold removeNext
  split
  · exact wf_bump (wf_removeCluster h)
  · exact h

theorem wf_execRemove {p : BitVec 4} (h : Wf s) : NextWf (execRemove p v s) := by
  unfold execRemove
  split
  · exact .next (wf_ite h (wf_modPart h))
  · dsimp only
    split
    · exact .next h
    · split
      · exact .next (wf_modPart h)
      · exact .next (wf_bump (wf_ite (wf_removeNext (wf_modCluster (wf_modPart h))) (wf_ite (wf_modCluster (wf_modPart h)) (wf_beginPreempt
            (wf_modCluster (wf_modPart h))))))

/-! ### Walks and replays (R314 to R318) -/

theorem wf_wakeToken (h : Wf s) : Wf (wakeToken c k s) := wf_bump (wf_modCore (wf_mapGroups (wf_other h)))
theorem wf_replayCore {r : ReplayOf} (h : Wf s) : Wf (replayCore p r c s) := wf_foldl (fun _ _ h => wf_wakeToken h) h
theorem wf_holdReplay (h : Wf s) : Wf (holdReplay p c v s) := wf_modPart h
theorem wf_replayDevice {r : ReplayOf} (h : Wf s) : Wf (replayDevice p r s) := wf_other (wf_modPart (wf_modPart h))

theorem wf_replay (h : Wf s) : Wf (replay p v s) := by
  unfold replay
  split
  · exact h
  · exact wf_bump (wf_replayDevice (wf_foldl (fun _ _ h => wf_ite (wf_holdReplay h) (wf_ite h (wf_replayCore h))) h))

theorem wf_parkWaiter {w : Waiter} (h : Wf s) : Wf (parkWaiter p c w s) := by
  unfold parkWaiter
  split
  · exact h
  · refine wf_ite h ?_
    split
    · exact h
    · rename_i e
      exact wf_ite (wf_parkUnder (wf_tokenFor h e)) (wf_ite h (wf_postFault (wf_parkUnder (wf_tokenFor h e))))

theorem wf_walkReturn {r : WalkReq} (h : Wf s) : Wf (walkReturn p r s) := by
  unfold walkReturn
  refine wf_ite ?_ ?_
  · refine wf_bump ?_
    refine wf_foldl (fun s a h => ?_) ?_
    · split
      · refine wf_replayCore ?_
        exact h
      · exact h
    · exact wf_ite (wf_engineTlb (wf_modPart h)) (wf_foldl (fun _ _ h => wf_parkWaiter h) (wf_modPart h))
  · refine wf_foldl (fun s a h => ?_) ?_
    · split
      · refine wf_replayCore ?_
        exact h
      · exact h
    · exact wf_ite (wf_engineTlb (wf_modPart h)) (wf_foldl (fun _ _ h => wf_parkWaiter h) (wf_modPart h))

theorem wf_execWalkComplete {p : BitVec 4} (h : Wf s) : NextWf (execWalkComplete p page s) :=
  .next (wf_ite h (wf_foldl (fun _ _ h => wf_walkReturn h) h))

/-! ### The Weir (R290 to R305) -/

theorem wf_execWeirAttempt (h : Wf s) : NextWf (execWeirAttempt s) := .next (wf_ite (wf_modWeir h) h)

theorem wf_execWeirSumDone (h : Wf s) : NextWf (execWeirSumDone s) := by
  unfold execWeirSumDone
  split
  · exact .next (wf_bump (wf_ite (wf_reportSelf (wf_modWeir h)) (wf_modWeir h)))
  · exact .next h

theorem wf_execWeirAdopted (h : Wf s) : NextWf (execWeirAdopted cs s) := by
  unfold execWeirAdopted
  split
  · exact .next (wf_ite (wf_modWeir (wf_foldl (fun _ _ h => wf_modCore h) h)) (wf_foldl (fun _ _ h => wf_modCore h) h))
  · exact .next h

theorem wf_scrubLines {ls : List Nat} (h : Wf s) : Wf (scrubLines ls s) := wf_foldl (fun _ _ h => wf_scrubLine h) h

theorem wf_execWeirFree (h : Wf s) : NextWf (execWeirFree s) := by
  unfold execWeirFree
  split
  · split
    · exact .next h
    · exact .next (wf_bump (wf_modWeir (wf_foldl (fun _ _ h => wf_sendCtl h) (wf_scrubLines h))))
  · exact .next h

theorem wf_tailPast (h : Wf s) : Wf (tailPast p pool s) := wf_modPart h
theorem wf_appendRun {pu : Purpose} {r : Word × Nat} (h : Wf s) : Wf (appendRun p pool pu r s) := wf_putHome h

theorem wf_appendRuns {p pool : Nat} {pu : Purpose} : ∀ {l : List (Word × Nat)} {s : State}, Wf s → Wf (appendRuns p pool pu l s).2
  | [], _, h => h
  | _ :: _, _, h => by
    unfold appendRuns
    split
    · exact h
    · split
      · exact wf_appendRun h
      · exact wf_appendRuns (wf_tailPast (wf_appendRun h))

theorem wf_appendedAway (h : Wf s) : Wf (appendedAway ticket s) := by
  unfold appendedAway
  split
  · exact wf_ite (wf_modWeir (wf_tailPast h)) h
  · exact h

theorem wf_entryFreed (h : Wf s) : Wf (entryFreed s) := by
  unfold entryFreed
  split
  · exact h
  · exact wf_ite (wf_reportSelf (wf_modWeir h)) (wf_modWeir h)

theorem wf_entryPost {e : Retire} (h : Wf s) : Wf (entryPost e s) := by
  unfold entryPost
  split
  · exact wf_entryFreed h
  · exact wf_ite (wf_modWeir (wf_postSignal h)) (wf_entryFreed (wf_postSignal h))

theorem wf_postedEntry (h : Wf s) : Wf (postedEntry ticket s) := wf_ite (wf_entryFreed h) h

theorem wf_execWeirAppend (h : Wf s) : NextWf (execWeirAppend s) := by
  unfold execWeirAppend
  split
  · split
    · exact .next (wf_ite (wf_bump (wf_entryPost h)) (wf_modWeir (wf_appendRuns h)))
    · exact .next h
  · exact .next h

theorem wf_execGraceStall (h : Wf s) : NextWf (execGraceStall s) := by
  unfold execGraceStall
  split
  · exact .next h
  · exact .next (wf_modWeir (wf_postEvent h))

theorem wf_weirElapse (h : Wf s) : Wf (weirElapse s) := wf_other h

theorem wf_execPodAdvance (h : Wf s) : NextWf (execPodAdvance s) :=
  .next (wf_ite (wf_bump (wf_reportSelf (wf_foldl (fun _ _ h => wf_sendCtl h) (wf_modWeir h)))) h)

theorem wf_execAdopt {p : Word} (h : Wf s) : NextWf (execAdopt p s) := .next (wf_ite (wf_bump (wf_reportSelf (wf_modWeir h))) h)

theorem wf_execReport {p e : Word} {demand : Bool} (h : Wf s) : NextWf (execReport dev p e demand s) :=
  .next (wf_ite h (wf_ite (wf_passDemand (wf_modWeir h)) (wf_ite (wf_modWeir h) h)))

theorem wf_execScrub (h : Wf s) : NextWf (execScrub dev base granules ticket s) :=
  .next (wf_bump (wf_sendCtl (wf_foldl (fun _ _ h => wf_dropFills h) (wf_other h))))

theorem wf_execScrubDone (h : Wf s) : NextWf (execScrubDone dev ticket s) := by
  unfold execScrubDone
  split
  · exact .next (wf_ite (wf_modWeir h) h)
  · exact .next h

/-! ### Answers of peers (R419) -/

theorem wf_settleReq (h : Wf s) : Wf (settleReq r s) := wf_other (wf_modFabric h)
theorem wf_afterAnswer (h : Wf s) : Wf (afterAnswer r s) := wf_bump (wf_settleInv (wf_pumpReqs h))

theorem wf_gatherStep {f : Gather → Gather} (h : Wf s) : Wf (gatherStep gid id f s) := by
  unfold gatherStep
  split
  · exact h
  · split
    · refine wf_ite ?_ (wf_modOp h)
      refine wf_modOp ?_
      split
      · exact wf_acquireAction h
      · exact h
    · exact wf_modOp h
    · exact h

theorem wf_atomStep {f : AtomOp → AtomReq → AtomReq} (h : Wf s) : Wf (atomStep gid id lane fl f s) := by
  unfold atomStep
  split
  · exact h
  · split
    · exact wf_setAtom (wf_orAtomFlags h)
    · exact h

theorem wf_flumeGot (h : Wf s) : Wf (flumeGot id line d s) := wf_modFlume h

theorem wf_loadFill (h : Wf s) : Wf (loadFill r id d s) := by
  unfold loadFill
  split
  · exact h
  · split
    · exact wf_peerFillL1 h
    · exact h

theorem wf_prefFill (h : Wf s) : Wf (prefFill c lvl rdis ix line d s) := wf_ite (wf_peerFillL1 h) (wf_ite (wf_peerFill h) h)

theorem wf_applyData (h : Wf s) : Wf (applyData r d s) := by
  unfold applyData
  split
  · exact wf_ite h (wf_keepFill h)
  · exact wf_ite h (wf_prefFill h)
  · exact wf_gatherStep (wf_ite (wf_loadFill h) h)
  · exact wf_gatherStep h
  · exact wf_atomStep h
  · split
    · split
      · exact wf_sigwEnd h
      · exact h
    · exact h
  · exact wf_modPart h
  · exact wf_modPart h
  · exact wf_flumeGot h
  · exact wf_modFlume h
  · exact wf_modGroup h
  · exact wf_ite h (wf_icachePut h)
  · exact h

theorem wf_execRdata (h : Wf s) : NextWf (execRdata hd d s) := by
  unfold execRdata
  split
  · exact .next (wf_ite (wf_afterAnswer (wf_applyData (wf_settleReq h))) h)
  · exact .next h

theorem wf_claimGranted (h : Wf s) : Wf (claimGranted r id s) := by
  unfold claimGranted
  dsimp only
  split
  · exact wf_modFlume h
  · exact wf_freePeerLine h

theorem wf_signalBad {name : Option Nat} (h : Wf s) : Wf (signalBad r name va s) := wf_postFault (wf_freeWord h)

theorem wf_redDone (h : Wf s) : Wf (redDone gid id l hd s) := by
  unfold redDone
  split
  · exact h
  · split
    · split
      · exact wf_ite (wf_redRecord (wf_freeWord h)) h
      · exact h
    · exact h

theorem wf_gridPosted {bad : Bool} (h : Wf s) : Wf (gridPosted r id bad s) := by
  unfold gridPosted
  split
  · exact wf_gridGone (wf_ite (wf_signalBad h) h)
  · exact h

theorem wf_flumePosted (h : Wf s) : Wf (flumePosted r id hd s) := by
  unfold flumePosted
  split
  · exact wf_ite (wf_signalBad h) h
  · exact h

theorem wf_applyDone (h : Wf s) : Wf (applyDone r hd s) := by
  unfold applyDone
  split
  · exact wf_atomStep (wf_redDone h)
  · exact wf_flushLine h
  · exact wf_claimGranted h
  · exact wf_flumePosted h
  · exact wf_appendedAway h
  · exact wf_postedEntry (wf_ite (wf_signalBad h) h)
  · exact wf_gridPosted h
  · exact h

theorem wf_refusedRecord {c : Option Nat} {t : Option TrapInfo} (h : Wf s) : Wf (refusedRecord r st acc va c t s) := wf_peerRefusal h

theorem wf_fillRefused (h : Wf s) : Wf (fillRefused r st s) := by
  unfold fillRefused
  split
  · exact wf_storeRefusal (wf_modGroup h)
  · split
    · exact h
    · exact wf_foldl (fun _ _ h => wf_ite (wf_noteRefused h) h) h

theorem wf_writeRefused (h : Wf s) : Wf (writeRefused r st acc s) := wf_refusedRecord h

theorem wf_atomRefused (h : Wf s) : Wf (atomRefused r id l st s) := by
  unfold atomRefused
  split
  · split
    · exact wf_atomStep (wf_ite h (wf_refusedRecord h))
    · exact h
  · exact h

theorem wf_flumeRefused (h : Wf s) : Wf (flumeRefused r id s) := by
  unfold flumeRefused
  split
  · exact h
  · exact wf_ite (wf_freeLines (wf_putFlume (wf_flumeFail h))) (wf_ite (wf_putFlume (wf_flumeRecord h)) (wf_modFlume h))

theorem wf_fetchRefused (h : Wf s) : Wf (fetchRefused c p block s) :=
  wf_foldl (fun _ _ h => wf_ite (wf_foldl (fun _ _ h => wf_ite (wf_reportTrap (wf_modGroup h)) h) h) h) h

theorem wf_applyRefusal (h : Wf s) : Wf (applyRefusal r st s) := by
  unfold applyRefusal
  split
  · exact wf_fillRefused h
  · exact h
  · exact wf_gatherStep h
  · exact wf_gatherStep h
  · exact wf_atomRefused h
  · exact wf_writeRefused h
  · exact wf_writeRefused h
  · split
    · exact wf_modOp h
    · exact h
  · exact h
  · exact wf_noteRefused h
  · exact wf_appendedAway (wf_refusedRecord h)
  · exact wf_postedEntry (wf_refusedRecord h)
  · split
    · exact wf_gridGone (wf_refusedRecord h)
    · exact h
  · exact wf_flumeRefused h
  · exact wf_flumeRefused h
  · exact wf_flumeRefused h
  · exact wf_flumeRefused h
  · split
    · split
      · exact wf_reportTrap (wf_dropQueue h)
      · exact h
    · exact h
  · exact wf_fetchRefused h
  · exact h

theorem wf_keepAnswer (h : Wf s) : Wf (keepAnswer hd d s) := wf_modFabric h

theorem wf_execRdone (h : Wf s) : NextWf (execRdone hd d s) := by
  unfold execRdone
  split
  · exact .next (wf_ite h (wf_ite (wf_keepAnswer h) (wf_afterAnswer (wf_applyDone (wf_settleReq h)))))
  · exact .next h

theorem wf_resend (h : Wf s) : Wf (resend r s) := wf_sendAgain (wf_modFabric h)

theorem wf_execRnack (h : Wf s) : NextWf (execRnack hd d s) := by
  unfold execRnack
  split
  · exact .next (wf_ite (wf_ite (wf_afterAnswer (wf_settleReq h)) (wf_bump (wf_resend h))) (wf_ite (wf_ite (wf_keepAnswer h)
        (wf_afterAnswer (wf_applyRefusal (wf_settleReq h)))) h))
  · exact .next h

/-! ### Packets, grids and teams (R387 to R401) -/

theorem wf_modHq {f : HostQueue → HostQueue} (h : Wf s) : Wf (modHq p k f s) := wf_modPart h
theorem wf_hostHold (h : Wf s) : Wf (hostHold i s) := wf_other h
theorem wf_doorbell (h : Wf s) : Wf (doorbell p k v s) := wf_bump (wf_modHq h)
theorem wf_doorDo (h : Wf s) : Wf (doorDo p k v s) := wf_ite (wf_doorbell h) (wf_other h)
theorem wf_execHqidxHalt {p : BitVec 4} {k : BitVec 6} (h : Wf s) : NextWf (execHqidxHalt p k v s) := .next (wf_bump (wf_modHq h))
theorem wf_askDep {dev : Nat} (h : Wf s) : Wf (askDep p m va thr dev line ix s) := wf_sendReq h
theorem wf_latchDep (h : Wf s) : Wf (latchDep p m va thr s) := wf_modPart h
theorem wf_dropDeps (h : Wf s) : Wf (dropDeps p m s) := wf_dropReqs (wf_modPart h)

theorem wf_depWork {s : State} {p m : Nat} {k : Packet} {stall : Nat → State → State} (h : Wf s) (hstall : ∀ va s, Wf s → Wf (stall va s)) :
    SomeWf (depWork s p m k stall) := by
  unfold depWork
  split
  · exact .some (wf_latchDep h)
  · exact .ite (.some (hstall _ _ h)) .none
  · exact .some (wf_askDep h)
  · exact .none

theorem wf_createGrid {k : Packet} (h : Wf s) : Wf (createGrid p snap pri k s) := wf_other (wf_fresh h)
theorem wf_dropHead (h : Wf s) : Wf (dropHead p k s) := wf_dropDeps (wf_dropArgs h)
theorem wf_refusePacket (h : Wf s) : Wf (refusePacket p k reason s) := wf_postEvent (wf_modHq (wf_dropHead (wf_accept h)))
theorem wf_stallQueue (h : Wf s) : Wf (stallQueue p k va s) := wf_modHq (wf_deviceMiss h)

theorem wf_argsWork {pk : Packet} (h : Wf s) : SomeWf (argsWork s p k pk) := by
  unfold argsWork
  split
  · exact .none
  · split
    · exact .ite (.some (wf_stallQueue h)) .none
    · exact .ite .none (.some (wf_askArgs h))

theorem wf_headWork (h : Wf s) : SomeWf (headWork s p k) := by
  unfold headWork
  split
  · exact .some (wf_refusePacket h)
  · exact .ite .none (.ite (wf_argsWork h) (wf_depWork h (fun _ _ h => wf_stallQueue h)))

theorem wf_takeNext (h : Wf s) : SomeWf (takeNext s p k) := .map (fun _ => wf_dropHead (wf_createGrid
    (wf_modHq (wf_makeSnap (wf_accept h)))))

theorem wf_modLaunch {f : LaunchEnt → LaunchEnt} (h : Wf s) : Wf (modLaunch p seq f s) := wf_modPart h
theorem wf_stallLaunch (h : Wf s) : Wf (stallLaunch p seq va s) := wf_modLaunch (wf_deviceMiss h)

theorem wf_launchWork (h : Wf s) : SomeWf (launchWork s p pri) := by
  unfold launchWork
  split
  · exact .ite .none (wf_depWork h (fun _ _ h => wf_stallLaunch h))
  · exact .none

theorem wf_launchNext (h : Wf s) : SomeWf (launchNext s p pri) := by
  unfold launchNext
  split
  · exact .none
  · exact .ite (.some (wf_dropDeps (wf_createGrid (wf_modPart h)))) .none

theorem wf_memberNext (h : Wf s) : SomeWf (memberNext s p pri m) := .ite (wf_launchNext h) (.ite (wf_takeNext h) .none)

theorem wf_takeTurn {s t : State} {p pri m : Nat} (h : Wf s) (e : takeTurn s p = some (pri, m, t)) : Wf t := by
  unfold takeTurn at e
  obtain ⟨pri', _, e⟩ := List.exists_of_findSome?_eq_some e
  obtain ⟨i, _, e⟩ := List.exists_of_findSome?_eq_some e
  obtain ⟨u, hu, e⟩ := Option.map_eq_some_iff.1 e
  cases e
  exact (wf_memberNext h).of hu

theorem wf_turnPast (h : Wf s) : Wf (turnPast p pri m s) := wf_modPart h

theorem wf_execPacketTake {p : BitVec 4} {k : BitVec 6} (h : Wf s) : NextWf (execPacketTake p k s) := by
  unfold execPacketTake
  split
  · rename_i e
    exact .next (wf_bump ((wf_headWork h).of e))
  · split
    · rename_i e'
      exact .next (wf_ite (wf_bump (wf_turnPast (wf_takeTurn h e'))) h)
    · exact .next h

theorem wf_launchDue (h : Wf s) : SomeWf (launchDue s p) := .findSome (fun _ => wf_launchWork h)

theorem wf_execLaunchQueueTake {p : BitVec 4} (h : Wf s) : NextWf (execLaunchQueueTake p s) := by
  unfold execLaunchQueueTake
  split
  · rename_i e
    exact .next (wf_bump ((wf_launchDue h).of e))
  · split
    · rename_i e'
      exact .next (wf_ite (wf_bump (wf_turnPast (wf_takeTurn h e'))) h)
    · exact .next h

theorem wf_startGroup {g : Grid} {i : Nat} (h : Wf s) : Wf (startGroup g t i s) := wf_youngestOf (wf_modPart (wf_other (wf_fresh h)))

theorem wf_startTeam {g : Grid} (h : Wf s) : Wf (startTeam g cid index place c ctx s) :=
  wf_ranOn (wf_modCluster (wf_foldl (fun _ _ h => wf_startGroup h) (wf_modPart (wf_other (wf_fresh (wf_acquireAction h))))))

theorem wf_startCluster {g : Grid} (h : Wf s) : Wf (startCluster g vdie ctx cs s) :=
  wf_modGrid (wf_foldl (fun _ _ h => wf_startTeam h) (wf_other (wf_fresh h)))

theorem wf_execClusterStart (h : Wf s) : NextWf (execClusterStart id s) := by
  unfold execClusterStart
  split
  · split
    · exact .next (wf_bump (wf_startCluster h))
    · exact .next h
  · exact .next h

theorem wf_modField {g : List Tcb → List Tcb} (h : Wf s) : Wf (modField f g s) := wf_modDistr h

theorem wf_execTcbSend (h : Wf s) : NextWf (execTcbSend id s) := by
  unfold execTcbSend
  split
  · split
    · exact .next (wf_ite (wf_modGrid (wf_modField h)) h)
    · exact .next h
  · exact .next h

theorem wf_execTeamStart (h : Wf s) : NextWf (execTeamStart f s) := by
  unfold execTeamStart
  split
  · split
    · exact .next (wf_bump (wf_startCluster (wf_modField h)))
    · exact .next h
  · exact .next h

theorem wf_execStealRequest (h : Wf s) : NextWf (execStealRequest f s) := by
  unfold execStealRequest
  split
  · exact .next h
  · split
    · exact .next h
    · exact .next (wf_modDistr (wf_modField h))

theorem wf_execTcbArrival (h : Wf s) : NextWf (execTcbArrival f s) := by
  unfold execTcbArrival
  split
  · exact .next (wf_ite (wf_modField (wf_modDistr h)) h)
  · exact .next h

/-! ### Attestation (R445 to R447) -/

theorem wf_modMailbox {f : Vector Word 8 → Vector Word 8} (h : Wf s) : Wf (modMailbox fn f s) := wf_ite (wf_modMgmt h)
    (wf_ite h (wf_modPart h))

theorem wf_attestLine {l : List (Nat × Byte)} (h : Wf s) : Wf (attestLine fn l line s).2 := by
  unfold attestLine
  split
  · exact wf_sendReq h
  · exact wf_foldl (fun _ _ h => wf_homeWrite h) (wf_accept h)

theorem wf_attestLines {fn : Nat} {l : List (Nat × Byte)} : ∀ {ls : List Nat} {r : List Nat × State}, Wf r.2 →
    Wf (ls.foldl (fun a line => let r := attestLine fn l line a.2; (a.1 ++ r.1, r.2)) r).2
  | [], _, h => h
  | _ :: ls, _, h => wf_attestLines (ls := ls) (wf_attestLine h)

theorem wf_attestWrite {fn : Nat} {l : List (Nat × Byte)} {s : State} (h : Wf s) : Wf (attestWrite fn l s).2 := wf_attestLines h

theorem wf_attestDone {w : Word} (h : Wf s) : Wf (attestDone fn w s) := wf_bump (wf_modMailbox (wf_dropArgs (wf_modMgmt h)))

theorem wf_attestNext (h : Wf s) : SomeWf (attestNext s) := by
  unfold attestNext
  split
  · exact .none
  · split
    · exact .ite (.some (wf_attestDone h)) .none
    · exact .ite .none (.ite (.ite .none (.some (wf_askArgs h))) (.some (wf_ite (wf_attestDone (wf_attestWrite h))
          (wf_modMgmt (wf_attestWrite h)))))

theorem wf_attest (h : Wf s) : Wf (attest fn s) := wf_getD (wf_attestNext (wf_ite h (wf_modMgmt h))) (wf_ite h (wf_modMgmt h))
theorem wf_attestPeer {dev : Nat} {bytes : List Byte} (h : Wf s) : Wf (attestPeer dev bytes s) := wf_attest (wf_modMgmt h)

/-! ### Links (R405 to R433) -/

theorem wf_linkEvent (h : Wf s) : Wf (linkEvent kind k rx comb rseq nrep tdet s) := wf_postEvent h
theorem wf_bindLine {dev : Nat} (h : Wf s) : Wf (bindLine dev line k s) := wf_modFabric h

theorem wf_reroute : ∀ {l : List FabItem} {bound : List ((Nat × Nat) × Nat)} {s : State}, Wf s → Wf (reroute l bound s)
  | [], _, _, h => h
  | _ :: _, _, _, h => by
    unfold reroute
    split
    · exact wf_reroute (wf_transmitItem h)
    · split
      · exact wf_reroute (wf_transmitItem h)
      · exact wf_reroute (wf_transmitItem (wf_bindLine h))

theorem wf_settleDown (h : Wf s) : Wf (settleDown k seq s) := wf_reroute (wf_modLink h)

theorem wf_linkDown (h : Wf s) : Wf (linkDown k s) := by
  unfold linkDown
  refine wf_ite h ?_
  refine wf_bump ?_
  split
  · exact wf_settleDown (wf_ite (wf_modLink (wf_linkEvent (wf_modLink h))) (wf_transmitItem (wf_linkEvent (wf_modLink h))))
  · exact wf_ite (wf_modLink (wf_linkEvent (wf_modLink h))) (wf_transmitItem (wf_linkEvent (wf_modLink h)))

theorem wf_replayKept (h : Wf s) : Wf (replayKept k s) := wf_ite (wf_linkDown h) (wf_modLink h)
theorem wf_execReplayTimeout (h : Wf s) : NextWf (execReplayTimeout k s) := .next (wf_ite (wf_replayKept h) h)
theorem wf_noteControl (h : Wf s) : Wf (noteControl k x s) := wf_ite (wf_replayKept (wf_modLink h)) (wf_modLink h)
theorem wf_authFail (h : Wf s) : Wf (authFail k ecls ctr s) := wf_linkEvent (wf_linkDown h)

theorem wf_rxWindow {kph : Bool} (h : Wf s) : Wf (rxWindow k esn kph x s) := by
  unfold rxWindow
  refine wf_ite ?_ (wf_modLink h)
  split
  · exact wf_authFail (wf_modLink h)
  · exact wf_modLink h

theorem wf_checkEntry (h : Wf s) : Wf (checkEntry k n s) := by
  unfold checkEntry
  dsimp only
  split
  · exact h
  · split
    · exact h
    · exact wf_ite (wf_modLink h) (wf_authFail h)

theorem wf_takeItems {items : List FabItem} (h : Wf s) : Wf (takeItems k items s) := wf_modLink (wf_modFabric h)
theorem wf_dropSpares {away : Nat → Bool} (h : Wf s) : Wf (dropSpares k away s) := wf_modLink (wf_modFabric h)
theorem wf_freeSpares {seen : Word} (h : Wf s) : Wf (freeSpares k rx seen s) := wf_dropSpares h

theorem wf_restripeRx (h : Wf s) : Wf (restripeRx k esn s) := by
  unfold restripeRx
  split
  · exact wf_modLink (wf_freeSpares h)
  · exact h

theorem wf_execNumberedFlitReceive (h : Wf s) : NextWf (execNumberedFlitReceive k x s) := by
  unfold execNumberedFlitReceive
  dsimp only
  split
  · exact .next h
  · split
    · exact .next (wf_modLink h)
    · exact .next (wf_bump (wf_restripeRx (wf_noteControl (wf_takeItems (wf_rxWindow (wf_modLink h))))))

theorem wf_execControlFlitReceive (h : Wf s) : NextWf (execControlFlitReceive k x s) := by
  unfold execControlFlitReceive
  dsimp only
  split
  · exact .next h
  · split
    · exact .next h
    · exact .next (wf_ite h (wf_bump (wf_foldl (fun _ _ h => wf_checkEntry h) (wf_noteControl (wf_modLink h)))))

theorem wf_execSpillwayFlitReceive (h : Wf s) : NextWf (execSpillwayFlitReceive k x s) := by
  unfold execSpillwayFlitReceive
  dsimp only
  split
  · exact .next h
  · split
    · exact .next h
    · exact .next (wf_ite (wf_noteControl (wf_modLink h)) (wf_ite (wf_modLink (wf_modLink (wf_noteControl (wf_modLink h))))
          (wf_ite (wf_noteControl (wf_modLink h)) (wf_modLink (wf_modFabric (wf_spillArrive (wf_noteControl (wf_modLink h))))))))

theorem wf_relaySpill {ms : List (FabHdr × List TWord)} (h : Wf s) : Wf (relaySpill ms s) := wf_ite (wf_modFabric h) (wf_queueSpill h)

theorem wf_relayItem {i : FabItem} (h : Wf s) : Wf (relayItem i s) := by
  unfold relayItem
  split
  · exact wf_transmitItem h
  · exact wf_ite (wf_sendRsp h) (wf_transmit h)

theorem wf_execRelayForward (h : Wf s) : NextWf (execRelayForward k s) := by
  unfold execRelayForward
  split
  · exact .next h
  · exact .next (wf_bump (wf_ite (wf_relaySpill (wf_modLink h)) (wf_foldl (fun _ _ h => wf_relayItem h) (wf_modLink h))))

theorem wf_execLinkDownExchange {seq : BitVec 12} (h : Wf s) : NextWf (execLinkDownExchange k seq s) :=
  .next (wf_bump (wf_ite (wf_modLink h) (wf_settleDown h)))

theorem wf_assignSpares (h : Wf s) : Wf (assignSpares k rx tdet s) := by
  unfold assignSpares
  refine wf_foldl (fun s a h => ?_) ?_
  · split
    · refine wf_modLink ?_
      refine wf_modFabric ?_
      exact h
    · exact h
  · exact h

theorem wf_restripeEnd (h : Wf s) : Wf (restripeEnd k s) := by
  unfold restripeEnd
  split
  · exact h
  · exact wf_ite (wf_bump (wf_assignSpares (wf_modLink h))) (wf_bump (wf_ite (wf_assignSpares (wf_linkEvent (wf_modLink h))) (wf_replayKept
        (wf_assignSpares (wf_linkEvent (wf_modLink h))))))

theorem wf_execSpareTrained {i : BitVec 3} (h : Wf s) : NextWf (execSpareTrained i s) := by
  unfold execSpareTrained
  dsimp only
  split
  · exact .next (wf_ite (wf_bump (wf_linkEvent (wf_modLink h))) h)
  · exact .next h

theorem wf_execChannelsLit {lit : Word} (h : Wf s) : NextWf (execChannelsLit k lit s) := .next (wf_ite h (wf_bump (wf_modLink h)))

theorem wf_restoredEnd (h : Wf s) : Wf (restoredEnd k s) := by
  unfold restoredEnd
  split
  · exact h
  · exact wf_bump (wf_linkEvent (wf_freeSpares (wf_modLink h)))

theorem wf_trainLink (h : Wf s) : Wf (trainLink k s) := wf_modLink (wf_dropSpares h)

theorem wf_execLinkctlRetrain (h : Wf s) : NextWf (execLinkctlRetrain k v s) :=
  .next (wf_ite h (wf_ite (wf_modLink h) (wf_bump (wf_modLink (wf_linkDown (wf_modLink h))))))

theorem wf_trainEnd (h : Wf s) : Wf (trainEnd k s) := wf_ite h (wf_ite (wf_bump (wf_linkEvent (wf_trainLink h))) (wf_modLink h))

theorem wf_execLinkctlRotate (h : Wf s) : NextWf (execLinkctlRotate k v s) :=
  .next (wf_ite h (wf_ite (wf_modLink h) (wf_ite (wf_modLink h) (wf_bump (wf_modLink h)))))

theorem wf_execRotationComplete (h : Wf s) : NextWf (execRotationComplete k s) :=
  .next (wf_ite (wf_linkEvent (wf_modLink h)) (wf_ite (wf_linkEvent (wf_modLink h)) h))

theorem wf_execKeyLimit {c : BitVec 2} (h : Wf s) : NextWf (execKeyLimit k c s) := .next (wf_ite (wf_linkEvent (wf_modLink h)) h)
theorem wf_execKeyloadTransmit (h : Wf s) : NextWf (execKeyloadTransmit k s) := .next (wf_bump (wf_modLink h))
theorem wf_execKeyloadReceive (h : Wf s) : NextWf (execKeyloadReceive k s) := .next (wf_bump (wf_modLink h))

theorem wf_segStep {c : CtlSeg} (h : Wf s) : NextWf (segStep c s) := by
  unfold segStep
  split
  · exact wf_execAdopt h
  · exact wf_execReport h
  · exact wf_execScrub h
  · exact wf_execScrubDone h
  · exact wf_execLinkDownExchange h
  · exact wf_execChannelsLit h
  · exact .next (wf_attestPeer h)
  · exact .next h

theorem wf_itemStep {i : FabItem} (h : Wf s) : NextWf (itemStep i s) := by
  unfold itemStep
  split
  · exact wf_segStep h
  · exact .ite (wf_execRdata h) (.ite (wf_execRdone h) (.ite (wf_execRnack h) (.ite (.next h) (wf_serveStep h))))

/-! ### Changes of the map (R248) -/

theorem wf_execMapChange {p : BitVec 4} (h : Wf s) : NextWf (execMapChange p off v s) := .next (wf_bump (wf_modPart h))

theorem wf_settlePin (h : Wf s) : Wf (settlePin line s) := by
  unfold settlePin
  split
  · exact h
  · exact wf_ite h (wf_postEvent (wf_other h))

theorem wf_modChange {f : MapChange → MapChange} (h : Wf s) : Wf (modChange p f s) := wf_modPart h
theorem wf_tellRequesters (h : Wf s) : Wf (tellRequesters p s) := wf_bump (wf_freeLines (wf_modPart h))
theorem wf_handOver (h : Wf s) : Wf (handOver p s) := wf_bump (wf_freeLines (wf_foldl (fun _ _ h => wf_settlePin h) (wf_modChange h)))

theorem wf_changeNext (h : Wf s) : SomeWf (changeNext p s) := by
  unfold changeNext
  split
  · exact .none
  · refine .ite (.some (wf_tellRequesters h)) ?_
    split
    · exact .some (wf_handOver h)
    · exact .map (fun _ => wf_bump (wf_freeLines (wf_settlePin (wf_modChange h))))

theorem wf_execMapChangeComplete {p : BitVec 4} (h : Wf s) : NextWf (execMapChangeComplete p s) := by
  unfold execMapChangeComplete
  dsimp only
  split
  · split
    · refine .next ?_
      refine wf_bump ?_
      split
      · exact wf_modPart (wf_freeLines (wf_modPart (wf_postFault h)))
      · exact wf_freeLines (wf_modPart (wf_postFault h))
    · exact .next h
  · exact .next h

/-! ### The management block (R434 to R445) -/

theorem wf_after {s : State} {o : StepOut} (h : Wf s) (k : NextWf o) : Wf (after s o) := by
  cases k with
  | next k => exact k
  | fault => exact h
  | refused => exact h

theorem wf_writeBackFor (h : Wf s) : Wf (writeBackFor p s) :=
  wf_foldl (fun _ _ h => wf_ite (wf_releaseDie h) h) (wf_foldl (fun _ _ h => wf_ite (wf_releaseL1 h) h) h)

theorem wf_putEntry {u : Nat × Nat × Nat × BitVec 128} (h : Wf s) : Wf (putEntry u s) := wf_modMgmt h

theorem wf_execAccessTableUpdate {v : BitVec 128} (h : Wf s) : NextWf (execAccessTableUpdate target master sl v s) :=
  .next (wf_ite (wf_modMgmt (wf_ite (wf_bump (wf_writeBackFor h)) h)) (wf_bump (wf_putEntry
      (wf_modMgmt (wf_ite (wf_bump (wf_writeBackFor h)) h)))))

theorem wf_execVdmapWrite {vd : BitVec 3} (h : Wf s) : NextWf (execVdmapWrite vd v s) := .next (wf_bump (wf_modMgmt h))
theorem wf_extend {hd : BitVec 384} (h : Wf s) : Wf (extend stp k hd s) := wf_modMgmt h
theorem wf_execMrext (h : Wf s) : NextWf (execMrext v s) := .next (wf_ite (wf_extend h) h)
theorem wf_execStepclr (h : Wf s) : NextWf (execStepclr v s) := .next (wf_ite (wf_modMgmt h) h)

theorem wf_mailboxWrite {i : Nat} (h : Wf s) : Wf (mailboxWrite fn i v s) :=
  wf_ite (wf_ite (wf_attest (wf_modMailbox h)) h) (wf_ite (wf_modMailbox h) (wf_ite h (wf_modMailbox h)))

theorem wf_sysPartWrite (h : Wf s) : Wf (sysPartWrite p o v s) :=
  wf_ite (wf_after h (wf_execMapChange h)) (wf_ite (wf_bump (wf_modPart h)) (wf_ite (wf_bump (wf_modPart h)) (wf_ite (wf_tlbInvalidate h)
      (wf_ite (wf_replay h) (wf_ite (wf_drainFaults (wf_bump (wf_modPart h))) (wf_ite (wf_drainFaults (wf_bump (wf_modPart h)))
      (wf_ite (wf_bump (wf_modPart h)) (wf_ite (wf_bump (wf_modPart h)) (wf_ite (wf_after h (wf_execPreempt h))
      (wf_ite (wf_after h (wf_execResume h)) (wf_ite (wf_after h (wf_execRemove h)) (wf_ite (wf_bump (wf_modPart h))
      (wf_ite (wf_bump (wf_modPart h)) (wf_ite (wf_bump (wf_modPart h)) (wf_ite (wf_bump (wf_modPart h)) (wf_ite (wf_bump (wf_modPart h))
      (wf_ite (wf_bump (wf_modPart h)) (wf_ite (wf_ite (wf_bump (wf_modHq h)) (wf_ite (wf_after h (wf_execHqidxHalt h)) h))
      h))))))))))))))))))

theorem wf_heqWrite {idx : Bool} (h : Wf s) : Wf (heqWrite fn idx v s) := wf_modHeq h

theorem wf_fnPartWrite (h : Wf s) : Wf (fnPartWrite p o v s) :=
  wf_ite (wf_doorbell h) (wf_ite (wf_heqWrite h) (wf_ite (wf_heqWrite h) (wf_ite (wf_mailboxWrite h) h)))

theorem wf_keyWrite {r : Nat} (h : Wf s) : Wf (keyWrite k r v s) :=
  wf_ite (wf_modLink h) (wf_ite (wf_modLink h) (wf_ite (wf_ite (wf_after (wf_ite (wf_after h (wf_execKeyloadTransmit h)) h)
      (wf_execKeyloadReceive (wf_ite (wf_after h (wf_execKeyloadTransmit h)) h))) (wf_ite (wf_after h (wf_execKeyloadTransmit h)) h)) h))

theorem wf_linkctlWrite (h : Wf s) : Wf (linkctlWrite k v s) :=
  wf_ite (wf_after h (wf_execLinkctlRetrain h)) (wf_ite (wf_after h (wf_execLinkctlRotate h)) (wf_modLink h))

theorem wf_devWrite (h : Wf s) : Wf (devWrite o v s) :=
  wf_ite (wf_bump (wf_modWeir h)) (wf_ite (wf_modMgmt h) (wf_ite (wf_linkctlWrite h) (wf_ite (wf_keyWrite h) (wf_ite (wf_modMgmt h)
      (wf_ite (wf_after h (wf_execMrext h)) (wf_ite (wf_after h (wf_execStepclr h)) (wf_ite (wf_heqWrite h) (wf_ite (wf_heqWrite h)
      (wf_ite (wf_mailboxWrite h) h)))))))))

theorem wf_regWrite (h : Wf s) : Wf (regWrite master off v s) := by
  unfold regWrite
  split
  · exact wf_ite (wf_fnPartWrite h) (wf_sysPartWrite h)
  · exact wf_ite (wf_ite (wf_after h (wf_execVdmapWrite h)) h) (wf_ite (wf_devWrite h) h)

theorem wf_registerDo (h : Wf s) : Wf (registerDo master off n v s) := wf_ite (wf_other h) (wf_regWrite h)

/-! ### The host port (R277 to R279) -/

theorem wf_hostAccept (h : Wf s) : Wf (hostAccept pa n s) := wf_foldl (fun _ _ h => wf_accept h) h

theorem wf_hostPut (h : Wf s) : Wf (hostPut pa bs s) :=
  wf_foldl (fun _ _ h => wf_setValid (wf_sigNote (wf_writeMark h))) (wf_writeBytes (wf_hostAccept h))

theorem wf_putPieces : ∀ {l : List (Nat × Nat)} {bs : List Byte} {s : State}, Wf s → Wf (putPieces l bs s)
  | [], _, _, h => h
  | _ :: _, _, _, h => by
    unfold putPieces
    exact wf_putPieces (wf_hostPut h)

theorem wf_unsupported (h : Wf s) : Wf (unsupported fn s) := wf_other h

theorem wf_hostReadDo {sp : HostSpace} (h : Wf s) : Wf (hostReadDo fn sp pa n s) := by
  unfold hostReadDo
  split
  · split
    · exact wf_other h
    · exact wf_unsupported h
  · split
    · exact wf_unsupported h
    · exact wf_other (wf_foldl (fun _ _ h => wf_hostAccept h) h)

theorem wf_hostWriteDo {bar2 : Bool} (h : Wf s) : Wf (hostWriteDo fn bar2 pa bs s) := by
  unfold hostWriteDo
  split
  · exact wf_unsupported h
  · exact wf_bump (wf_putPieces h)

theorem wf_hostStep (h : Wf s) : Wf (hostStep i s) := by
  unfold hostStep
  split
  · exact wf_hostWriteDo (wf_other h)
  · exact wf_hostReadDo (wf_other h)
  · exact wf_bump (wf_registerDo (wf_other h))
  · exact wf_doorDo (wf_other h)

end

end Sys2Proof.Proofs.CanonicalDevice

/-! PROOF. The canonical form of memory is kept by control instructions, by start, by every instruction and every agent, and so by every
step (R402, R403). -/
namespace Sys2Proof.Proofs.CanonicalStep
open Sys2Proof Sys2Proof.Machine Sys2Proof.Proofs.CanonicalMemory Sys2Proof.Proofs.CanonicalIssue Sys2Proof.Proofs.CanonicalOps
    Sys2Proof.Proofs.CanonicalDevice

section
variable {s : State} {pc i n hdr idx stp u : Nat} {f : Ctl} {c : CfgRecord} {r : StepRec}

/-! ### Branches, the divergence stack and loops (R105 to R121) -/

theorem wf_headerAct {hd : Header} (h : Wf s) : OkWf (headerAct hd s) := by
  unfold headerAct
  refine .ite .error ?_
  refine .ite .error ?_
  split
  · exact .error
  · exact .error
  · refine .ite ?_ (.ok (wf_youngest (wf_modCur h)))
    split
    · exact .error
    · rename_i e
      exact .ok (wf_youngest (wf_modCur ((wf_scanOver h).of e)))

theorem wf_execNop (h : Wf s) : NextWf (execNop f s) := wf_issue (fun _ h => wf_advance h) h
theorem wf_execBrk (h : Wf s) : NextWf (execBrk f s) := wf_issue (fun _ h => h) h
theorem wf_execTrap (h : Wf s) : NextWf (execTrap f s) := wf_issue (fun _ h => h) h
theorem wf_execWaitf (h : Wf s) : NextWf (execWaitf f s) := wf_issue (fun _ h => wf_advance h) h
theorem wf_execYield (h : Wf s) : NextWf (execYield f s) := wf_issue (fun _ h => wf_youngest (wf_advance h)) h
theorem wf_jump (h : Wf s) : OkWf (jump pc s) := .ite .error (.ok (wf_transfer h))
theorem wf_branchAct {taken : State → Bool} (h : Wf s) : OkWf (branchAct f taken s) := .ite (wf_jump h) (.ok (wf_advance h))

theorem wf_callAct (h : Wf s) : OkWf (callAct f s) := by
  unfold callAct
  split
  · exact .error
  · rename_i e
    exact wf_jump (wf_writeS ((wf_continuation h).of e))

theorem wf_dvRead (h : Wf s) : OkPairWf (dvRead i s) := by
  unfold dvRead
  split
  · exact .error
  · exact .ite .error (.ite .error (.ok (wf_cacheRead (wf_cacheRead h))))

theorem wf_dvWrite {e : DvEntry} (h : Wf s) : OkWf (dvWrite i e s) := by
  unfold dvWrite
  split
  · exact .error
  · exact .ok (wf_cacheWrite (wf_cacheWrite h))

theorem wf_wakeJoin (h : Wf s) : Wf (wakeJoin s) := wf_modOther h
theorem wf_setDepth (h : Wf s) : Wf (setDepth n s) := wf_wakeStack (wf_modGrp h)
theorem wf_setExec {m : BitVec 32} (h : Wf s) : Wf (setExec m s) := wf_modCur h

theorem wf_splitAct (h : Wf s) : OkWf (splitAct f s) := by
  unfold splitAct
  refine .ite .error ?_
  refine .ite (.ok (wf_advance h)) ?_
  refine .ite (wf_jump h) ?_
  split
  · exact .error
  · rename_i e
    refine .ite .error ?_
    refine .ite (.ite .error (.ok (wf_youngestOf (wf_transfer (wf_modCur (wf_modOther ((wf_continuation h).of e))))))) ?_
    refine .ite .error ?_
    split
    · exact .error
    · rename_i e'
      exact .ok (wf_transfer (wf_setExec (wf_setDepth ((wf_dvWrite ((wf_continuation h).of e)).of e'))))

theorem wf_joinStack (h : Wf s) : OkWf (joinStack f s) := by
  unfold joinStack
  refine .ite (.ok (wf_advance h)) ?_
  split
  · exact .error
  · rename_i e
    refine .ite ?_ .error
    refine .ite (.ok (wf_advance ((wf_dvRead h).of e))) ?_
    refine .ite ?_ (.ite (.ok (wf_advance (wf_setExec (wf_setDepth ((wf_dvRead h).of e)))))
        (wf_jump (wf_setExec (wf_setDepth ((wf_dvRead h).of e)))))
    split
    · exact .error
    · rename_i e'
      refine .ite .error ?_
      split
      · exact .error
      · rename_i e''
        exact .ok (wf_transfer (wf_setExec (wf_wakeStack ((wf_dvWrite ((wf_continuation ((wf_dvRead h).of e)).of e')).of e''))))

theorem wf_joinAct (h : Wf s) : OkWf (joinAct f s) := .ite .error (.ite (.ite (.ok (wf_advance (wf_modCur (wf_modOther h)))) .error)
    (wf_joinStack h))

theorem wf_endSlot (h : Wf s) : Wf (endSlot s) :=
  wf_ite (wf_wakeJoin (wf_modCur h)) (wf_ite (wf_ite (wf_handlerEnd (wf_wakeJoin (wf_modCur h))) (wf_wakeJoin (wf_modCur h)))
      (wf_drainGroup (wf_wakeJoin (wf_modCur h))))

theorem wf_exitScan : ∀ {n : Nat} {s : State}, Wf s → OkWf (exitScan n s)
  | 0, _, h => .ok (wf_endSlot h)
  | _ + 1, _, h => by
    unfold exitScan
    dsimp only
    split
    · exact .ok (wf_endSlot h)
    · split
      · exact .error
      case h_2 e =>
        have hr := (wf_dvRead h).of e
        split
        · exact .ok (wf_endSlot hr)
        · split
          · split
            · exact .error
            · split
              · exact .error
              case h_2 e => exact .ok (wf_transfer (wf_setExec (wf_wakeStack ((wf_dvWrite hr).of e))))
          · exact .ite (wf_exitScan (wf_setDepth hr)) (wf_jump (wf_setExec (wf_setDepth hr)))

theorem wf_loopEff (h : Wf s) : Wf (loopEff f s) := wf_advance (wf_modCur h)
theorem wf_execLoop (h : Wf s) : NextWf (execLoop f s) := wf_issue (fun _ h => wf_loopEff h) h

theorem wf_repAct (h : Wf s) : OkWf (repAct f s) := by
  unfold repAct
  refine .ite .error ?_
  split
  · exact .ite (.ok (wf_modCur (wf_advance h))) .error
  · rename_i e
    exact .ite .error (.ok (wf_modCur (wf_advance (wf_fetchWords h e))))

/-! ### Which slot issues (R402, R403) -/

theorem wf_addrOf (h : Wf s) : OkPairWf (addrOf s hdr idx) := wf_scanOver h

theorem wf_replaceRep {c : Clause} (h : Wf s) : OkWf (replaceRep c s) := by
  unfold replaceRep
  split
  · exact .ok h
  · split
    · exact .error
    · rename_i e
      split
      · exact .error
      · rename_i e'
        split <;> exact .ok (wf_modCur (wf_fetchWords ((wf_addrOf h).of e) e'))

theorem wf_replace (h : Wf s) : OkWf (replace s) := by
  unfold replace
  split
  · refine .ite .error ?_
    split
    · exact .error
    · rename_i e
      split
      · split
        · exact .error
        · rename_i e'
          exact wf_replaceRep (wf_modCur ((wf_addrOf (wf_fetchWords h e)).of e'))
      · exact .error
  · exact .ok h

theorem wf_frontWord (h : Wf s) : OkPairWf (frontWord s) := by
  unfold frontWord
  refine .ite .error ?_
  split
  · exact .error
  · rename_i e
    split
    · exact .error
    · rename_i e'
      refine .ite .error ?_
      split
      · exact .error
      · refine .ite .error ?_
        split
        · dsimp only
          split
          · exact .ok (wf_fetchWords ((wf_pinBody h).of e) e')
          · exact .error
        · dsimp only
          split
          · exact .ok (wf_fetchWords ((wf_pinBody h).of e) e')
          · exact .error

theorem wf_picked {x : Nat × Bool} (h : Wf s) : Wf (picked x s) :=
  wf_ite (wf_modGrp (wf_reissueWaits (wf_modGrp (wf_other (wf_focus (wf_other h)))))) (wf_other (wf_focus (wf_other h)))

/-! ### Start (R446 to R451) -/

theorem wf_putStep (h : Wf s) : Wf (putStep stp u r s) := wf_modMgmt h
theorem wf_stepDone (h : Wf s) : Wf (stepDone stp u r s) := wf_extend (wf_putStep h)

theorem wf_attempt {stp u : Nat} {r : StepRec} {go : Bool} {work : StepRec → State → State} {s : State} (hw : ∀ r s, Wf s → Wf (work r s))
    (h : Wf s) :
    Wf (attempt stp u r go work s).2 :=
  wf_ite2 (wf_putStep h) (wf_stepDone (hw _ _ (wf_putStep h)))

theorem wf_runStep {stp u : Nat} {opt alt goes : Bool} {ok : Bool → Bool} {work : StepRec → State → State} {s : State}
    (hw : ∀ r s, Wf s → Wf (work r s)) (h : Wf s) : Wf (runStep stp u opt alt goes ok work s).2 := by
  unfold runStep
  split
  · exact h
  · exact wf_stepDone h
  · exact wf_ite2 (wf_attempt hw h) (wf_attempt hw h)
  · exact wf_ite2 (wf_attempt hw h) (wf_attempt hw h)

theorem wf_noWork {x0 : StepRec} (h : Wf s) : Wf (noWork x0 s) := h

theorem wf_runUnits {stp : Nat} {opt alt : Bool} {ok : Nat → Bool → Bool} {work : Nat → StepRec → State → State} (hw : ∀ u r s, Wf s → Wf
    (work u r s)) :
    ∀ {l : List Nat} {s : State}, Wf s → Wf (runUnits stp opt alt ok work l s).2
  | [], _, h => h
  | _ :: _, _, h => by
    unfold runUnits
    split
    case h_1 e => exact wf_runUnits hw (wf_snd (wf_runStep (hw _) h) e)
    case h_2 e => exact wf_snd (wf_runStep (hw _) h) e

theorem wf_applyPart {x : CfgPart} (h : Wf s) : Wf (applyPart c x s) := wf_modPart h

theorem wf_applyConfig (h : Wf s) : Wf (applyConfig c s) :=
  wf_foldl (fun _ _ h => wf_extend h) (wf_extend (wf_foldl (fun _ _ h => wf_applyPart h) (wf_modMgmt h)))

theorem wf_configStep (h : Wf s) : Wf (configStep s).2.2 := wf_runStep (fun _ _ h => wf_applyConfig (wf_ite (wf_modMgmt h) h)) h

theorem wf_firmwareStep {s : State} (h : Wf s) : Wf (firmwareStep s).2 := by
  refine wf_runStep (fun r s h => ?_) h
  split
  · exact wf_extend h
  · exact wf_extend h
  · exact h

theorem wf_mapDies (h : Wf s) : Wf (mapDies s) := wf_modMgmt h
theorem wf_linkSteps (h : Wf s) : Wf (linkSteps s).2 := wf_runUnits (fun _ _ _ h => wf_ite (wf_trainLink h) h) h
theorem wf_sortingLive (h : Wf s) : Wf (sortingLive s) := wf_foldl (fun _ _ h => wf_modCore h) h

theorem wf_groupsStep (h : Wf s) : Wf (groupsStep c s).2 :=
  wf_runStep (fun _ _ h => wf_ite (wf_sortingLive (wf_modMgmt (wf_foldl (fun _ _ h => wf_extend h) h))) h) h

theorem wf_coldState {s : State} : Wf (coldState s) := wf_other (s := State.reset) rfl

theorem wf_andThen {r : Bool × State} {f : State → Bool × State} (h : Wf r.2) (hf : ∀ s, Wf s → Wf (f s).2) : Wf (andThen r f).2 :=
  wf_ite2 (hf _ h) h

theorem wf_startUnits (h : Wf s) : Wf (startUnits c s).2 :=
  wf_andThen (wf_andThen (wf_andThen (wf_andThen (wf_runUnits (fun _ _ _ h => wf_noWork h) h) (fun _ h => wf_runUnits (fun _ _ _ h =>
      wf_noWork h) h)) (fun _ h => wf_linkSteps (wf_mapDies h))) (fun _ h => wf_groupsStep h)) (fun _ h => wf_runStep
      (fun _ _ h => wf_noWork h) h)

theorem wf_start (h : Wf s) : Wf (start s) :=
  wf_modMgmt (wf_andThen (wf_firmwareStep h) (fun _ h => wf_andThen (wf_configStep h) (fun _ h => wf_startUnits h)))

theorem wf_execDeviceReset {s : State} : NextWf (execDeviceReset s) := .next (wf_start wf_coldState)

/-! ### ScalarFloat -/

theorem wf_scalarFloat {x : Instr} {flt rat : CompInfo → Comp → State → Out} (h : Wf s) : NextWf (scalarFloat x flt rat s) := by
  unfold scalarFloat
  split
  · exact .ite (wf_computeVar h) (wf_computeFixed h)
  · exact .next h

/-! ### Cycle -/

theorem wf_countWaits {c : Nat} {picks : List (Nat × Bool)} {before : State} (h : Wf s) : Wf (countWaits c picks before s) := wf_mapGroups h

/-! ### Step -/

theorem wf_elapse (h : Wf s) : Wf (elapse s) := wf_weirElapse (wf_other h)
end

/-! ### Every instruction and every event -/

theorem wf_exec {i : Instr} {s : State} (h : Wf s) : NextWf (exec i s) := by
  unfold exec
  cases i with
  | clauseHeader _ => exact wf_issueE (fun _ h => wf_headerAct h) h
  | nop _ => exact wf_execNop h
  | brk _ => exact wf_execBrk h
  | trap _ => exact wf_execTrap h
  | exit _ => exact wf_issueE (fun _ h => wf_exitScan h) h
  | bra _ | braNz _ | braZ _ | braEz _ => exact wf_issueE (fun _ h => wf_branchAct h) h
  | brx _ | ret _ => exact wf_issueE (fun _ h => wf_jump h) h
  | call _ => exact wf_issueE (fun _ h => wf_callAct h) h
  | split _ => exact wf_issueE (fun _ h => wf_splitAct h) h
  | join _ => exact wf_issueE (fun _ h => wf_joinAct h) h
  | loop _ => exact wf_execLoop h
  | rep _ => exact wf_issueE (fun _ h => wf_repAct h) h
  | waitf _ => exact wf_execWaitf h
  | yield _ => exact wf_execYield h
  | sadd _ | ssub _ | sand _ | sor _ | sxor _ | sshl _ | sshr _ | ssar _ | smin _ | smax _ | smul _ | smulh _ | spopc _ | sclz _ | sffs _
    | snot _ | smad _ | sbfx _ | sbfi _ | ssel _ | scmp _ | smov _ | smovi _ | slea _ | vadd _ | vsub _ | vand _ | vor _ | vxor _ | vshl _
    | vshr _ | vsar _ | vmin _ | vmax _ | vmul _ | vmulh _ | vpopc _ | vclz _ | vabs _ | vnot _ | vmad _ | vbfx _ | vbfi _ | vsel _
    | vcmp _ | vmov _ | vmovAmax _ | vmovi _ | vadds _ | vsubs _ | vfadd _ | vfsub _ | vfmul _ | vfmin _ | vfmax _ | vfabs _ | vfneg _
    | vfcls _ | vffma _ | vfcmp _ | vfrcp _ | vfrsq _ | vfexp2 _ | vflog2 _ | vfsin _ | vfcos _ | vfsqrt _ | vftanh _ | vcvt _ | vpack _
    | vunpk _ | vdoth _ | vdotb _ | vdotn _ | vshfl _ | vshfi _ | vrfal _ | vrdln _ | vwrln _ | vredu _ | vscan _ | vmatch _ | vredm _ =>
        exact wf_computeFixed h
  | sdiv _ | srem _ | vfdiv _ | vqadd _ | vqsub _ | vqmul _ | vqdiv _ | vqcmp _ | vqcvt _ | vqrnd _ | vqfma _ => exact wf_computeVar h
  | sfadd _ | sfsub _ | sfmul _ | sfdiv _ | sfmin _ | sfmax _ | sffma _ | sfcmp _ | sfcvt _ => exact wf_scalarFloat h
  | sysr _ => exact wf_issueE (fun _ h => wf_sysrAct h) h
  | sysw _ => exact wf_issueE (fun _ h => wf_syswAct h) h
  | time _ => exact wf_execTime h
  | idx _ => exact wf_execIdx h
  | launch _ => exact wf_issueE (fun _ h => wf_launchAct h) h
  | icinv _ => exact wf_issueE (fun _ h => wf_icinvAct h) h
  | ld _ | ldu _ => exact wf_issueE (fun _ h => wf_loadAct h) h
  | st _ | stu _ => exact wf_issueE (fun _ h => wf_storeAct h) h
  | lds _ | ldc _ => exact wf_issueE (fun _ h => wf_padLoadAct h) h
  | sts _ | stc _ => exact wf_issueE (fun _ h => wf_padStoreAct h) h
  | ldv _ => exact wf_issueE (fun _ h => wf_ldvAct h) h
  | clrv _ => exact wf_issueE (fun _ h => wf_clrvAct h) h
  | pref _ => exact wf_issueE (fun _ h => wf_prefAct h) h
  | cinv _ | cwb _ => exact wf_issueE (fun _ h => wf_cleanAct h) h
  | llck _ => exact wf_issueE (fun _ h => wf_llckAct h) h
  | lunl _ => exact wf_issueE (fun _ h => wf_lunlAct h) h
  | presQuery _ => exact wf_issueE (fun _ h => wf_presQueryAct h) h
  | presSet _ | presClr _ => exact wf_issueE (fun _ h => wf_presAct h) h
  | fence _ => exact wf_issueE (fun _ h => wf_fenceAct h) h
  | rdsb _ => exact wf_execRdsb h
  | rdse _ => exact wf_execRdse h
  | publ _ => exact wf_issueE (fun _ h => wf_publAct h) h
  | retq _ => exact wf_issueE (fun _ h => wf_retqAct h) h
  | gpwt _ => exact wf_issueE (fun _ h => wf_gpwtAct h) h
  | gpqy _ => exact wf_issueE (fun _ h => wf_gpqyAct h) h
  | atomAdd _ | atomMin _ | atomMax _ | atomAnd _ | atomOr _ | atomXor _ | atomXchg _ | atomFaddF32 _ | atomFaddBf16 _ | atomQadd _
    | redAdd _ | redMin _ | redMax _ | redAnd _ | redOr _ | redXor _ | redXchg _ | redFaddF32 _ | redFaddBf16 _ | redQadd _ | acas _ =>
        exact wf_issueE (fun _ h => wf_atomAct h) h
  | barv _ => exact wf_issueE (fun _ h => wf_barvAct h) h
  | barw _ | barwP _ => exact wf_issueE (fun _ h => wf_barwAct h) h
  | bars _ => exact wf_issueE (fun _ h => wf_barsAct h) h
  | sigp _ => exact wf_issueE (fun _ h => wf_sigpAct h) h
  | sigw _ => exact wf_issueE (fun _ h => wf_sigwAct h) h
  | sigwSatisfied _ => exact wf_execSigwSatisfied h
  | lease _ => exact wf_execLease h
  | rels _ => exact wf_execRels h
  | gang _ => exact wf_issueE (fun _ h => wf_gangIssue h) h
  | mma _ => exact wf_execMma h
  | mzero _ => exact wf_execMzero h
  | mdrn _ => exact wf_execMdrn h
  | ldfr _ => exact wf_issueE (fun _ h => wf_ldfrAct h) h
  | mstat _ => exact wf_execMstat h
  | flcp _ | flmc _ | flrd _ => exact wf_issueE (fun _ h => wf_flumeAct h) h
  | flwt _ => exact wf_issueE (fun _ h => wf_flwtAct h) h
  | flst _ => exact wf_issueE (fun _ h => wf_flstAct h) h
  | hrst _ => exact wf_issueE (fun _ h => wf_hrstAct h) h
  | hrsp _ => exact wf_execHrsp h
  | hrqs _ => exact wf_execHrqs h
  | walkComplete _ _ => exact wf_execWalkComplete h
  | operationComplete _ => exact wf_execOperationComplete h
  | memoryOpComplete _ => exact wf_execMemoryOpComplete h
  | atomicPerform _ => exact wf_execAtomicPerform h
  | homeWritePerform _ _ => exact wf_execHomeWritePerform h
  | staleMapRetry _ _ => exact .next (wf_bump (wf_freeLines (wf_modPart h)))
  | trapReport _ => exact wf_execTrapReport h
  | trapHandlerEntry _ => exact wf_execTrapHandlerEntry h
  | groupRetire _ => exact wf_execGroupRetire h
  | gridComplete _ => exact wf_execGridComplete h
  | regionAbort _ => exact wf_execRegionAbort h
  | preempt _ _ => exact wf_execPreempt h
  | preemptDeferExpire _ _ => exact wf_execPreemptDeferExpire h
  | teamSave _ => exact wf_execTeamSave h
  | resume _ _ => exact wf_execResume h
  | remove _ _ => exact wf_execRemove h
  | replayPage _ _ | replayToken _ _ => exact .next (wf_replay h)
  | tlbInvalidatePage _ _ | tlbInvalidateAll _ _ => exact .next (wf_tlbInvalidate h)
  | weirAttempt => exact wf_execWeirAttempt h
  | weirSumDone => exact wf_execWeirSumDone h
  | weirAdopted _ => exact wf_execWeirAdopted h
  | weirFree => exact wf_execWeirFree h
  | weirAppend => exact wf_execWeirAppend h
  | graceStall => exact wf_execGraceStall h
  | podAdvance => exact wf_execPodAdvance h
  | mapChange _ _ _ => exact wf_execMapChange h
  | mapLineHandover _ _ => exact .next (wf_ite (wf_bump (wf_freeLines (wf_settlePin (wf_modChange h)))) h)
  | mapChangeComplete _ => exact wf_execMapChangeComplete h
  | stackUncorrectable _ _ => exact .next (wf_ite (wf_bump (wf_postEvent (wf_foldl (fun _ _ h => wf_writeBytes h) h))) h)
  | hostWrite _ _ _ => exact .next (wf_ite (wf_bump (wf_hostPut h)) (wf_ite (wf_hostHold h) (wf_hostWriteDo h)))
  | hostRead _ _ _ _ => exact .next (wf_ite (wf_hostHold h) (wf_hostReadDo h))
  | hqdoor _ _ _ => exact .next (wf_ite (wf_hostHold h) (wf_doorDo h))
  | hqidxHalt _ _ _ => exact wf_execHqidxHalt h
  | packetTake _ _ => exact wf_execPacketTake h
  | launchQueueTake _ => exact wf_execLaunchQueueTake h
  | teamStart _ => exact wf_execTeamStart h
  | clusterStart _ => exact wf_execClusterStart h
  | tcbSend _ => exact wf_execTcbSend h
  | stealRequest _ => exact wf_execStealRequest h
  | tcbArrival _ => exact wf_execTcbArrival h
  | slotUrgent _ _ => exact wf_execSlotUrgent h
  | leaseGrant _ => exact wf_execLeaseGrant h
  | leaseExpire _ => exact wf_execLeaseExpire h
  | jointMmaStart _ => exact wf_execJointMmaStart h
  | flumeLineArrival _ _ => exact wf_execFlumeLineArrival h
  | flumeComplete _ => exact wf_execFlumeComplete h
  | headraceFetchReturn _ _ => exact wf_execHeadraceFetchReturn h
  | numberedFlitReceive _ _ => exact wf_execNumberedFlitReceive h
  | controlFlitReceive _ _ => exact wf_execControlFlitReceive h
  | replayTimeout _ => exact wf_execReplayTimeout h
  | relayForward _ => exact wf_execRelayForward h
  | rdl _ _ => exact wf_execRdl h
  | rdh _ _ => exact wf_execRdh h
  | wrl _ _ => exact wf_execWrl h
  | wrs _ _ => exact wf_execWrs h
  | atm _ _ => exact wf_execAtm h
  | fabricRed _ _ => exact wf_execFabricRed h
  | clb _ _ => exact wf_execClb h
  | vld _ _ => exact wf_execVld h
  | wat _ _ => exact wf_execWat h
  | clm _ _ => exact wf_execClm h
  | rdata _ _ => exact wf_execRdata h
  | rdone _ _ => exact wf_execRdone h
  | rnack _ _ => exact wf_execRnack h
  | adopt _ => exact wf_execAdopt h
  | report _ _ _ _ => exact wf_execReport h
  | scrub _ _ _ _ => exact wf_execScrub h
  | scrubDone _ _ => exact wf_execScrubDone h
  | linkDownExchange _ _ => exact wf_execLinkDownExchange h
  | channelsLit _ _ => exact wf_execChannelsLit h
  | lossOfLight _ _ _ => exact .next (wf_ite (wf_modLink h) (wf_ite (wf_linkDown (wf_modLink h)) (wf_bump (wf_modLink (wf_modLink h)))))
  | spareTrained _ => exact wf_execSpareTrained h
  | channelLightReturn _ _ _ => exact .next (wf_ite (wf_modLink h) (wf_ite (wf_modLink h) (wf_bump (wf_modLink (wf_modLink h)))))
  | keyLimit _ _ => exact wf_execKeyLimit h
  | linkctlRetrain _ _ => exact wf_execLinkctlRetrain h
  | linkctlRotate _ _ => exact wf_execLinkctlRotate h
  | rotationComplete _ => exact wf_execRotationComplete h
  | keyloadTransmit _ => exact wf_execKeyloadTransmit h
  | keyloadReceive _ => exact wf_execKeyloadReceive h
  | accessTableUpdate _ _ _ _ => exact wf_execAccessTableUpdate h
  | vdmapWrite _ _ => exact wf_execVdmapWrite h
  | attestRequest _ => exact .next (wf_ite (wf_attest h) h)
  | mrext _ => exact wf_execMrext h
  | stepclr _ => exact wf_execStepclr h
  | deviceReset => exact wf_execDeviceReset
  | registerWrite _ _ _ => exact .next (wf_ite (wf_hostHold h) (wf_registerDo h))
  | spillwayFlitReceive _ _ => exact wf_execSpillwayFlitReceive h

/-! ### The other agents (log entry 16) -/

/-- Where a step of an agent is due, its next state is well-formed. -/
def DueWf (r : Option StepOut) : Prop := ∀ o, r = some o → NextWf o

theorem DueWf.none : DueWf none := fun _ e => by cases e

theorem DueWf.some {o : StepOut} (h : NextWf o) : DueWf (some o) := fun _ e => by
  cases e
  exact h

theorem DueWf.due {b : Bool} {o : StepOut} (h : NextWf o) : DueWf (due b o) := by
  cases b
  · exact DueWf.none
  · exact DueWf.some h

theorem DueWf.map {α : Type} {o : Option α} {f : α → StepOut} (h : ∀ a, NextWf (f a)) : DueWf (o.map f) := by
  cases o with
  | none => exact DueWf.none
  | some a => exact DueWf.some (h a)

theorem DueWf.bind {α : Type} {o : Option α} {f : α → Option StepOut} (h : ∀ a, DueWf (f a)) : DueWf (o.bind f) := by
  cases o with
  | none => exact DueWf.none
  | some a => exact h a

theorem DueWf.findSome {α : Type} {f : α → Option StepOut} {l : List α} (h : ∀ a, DueWf (f a)) : DueWf (l.findSome? f) := by
  intro o e
  obtain ⟨a, _, ha⟩ := List.exists_of_findSome?_eq_some e
  exact h a o ha

theorem DueWf.next {o : Option State} (h : SomeWf o) : DueWf (o.map .next) := by
  cases h with
  | some h => exact DueWf.some (.next h)
  | none => exact DueWf.none

section
variable {s : State} (h : Wf s)
include h

omit h in
theorem wf_agReset : DueWf (agReset s) := .due wf_execDeviceReset
theorem wf_agTable : DueWf (agTable s) := .map fun _ => wf_execAccessTableUpdate h
theorem wf_agAttest : DueWf (agAttest s) := .next (wf_attestNext h)

theorem wf_agRecord : DueWf (agRecord s) := by
  unfold agRecord
  split
  · exact .some (.next (wf_bump (wf_drainFaults h)))
  · exact .map fun _ => .next (wf_evDrain h)

theorem wf_agHost : DueWf (agHost s) := .map fun _ => .next (wf_hostStep h)
theorem wf_agInbox : DueWf (agInbox s) := .map fun _ => wf_itemStep (wf_modFabric h)
theorem wf_agHeld : DueWf (agHeld s) := .map fun _ => wf_serveStep h
theorem wf_agSpill : DueWf (agSpill s) := .map fun _ => wf_execWrs h
theorem wf_agRelay : DueWf (agRelay s) := .map fun _ => wf_execRelayForward h
theorem wf_agReplay : DueWf (agReplay s) := .map fun _ => wf_execReplayTimeout h
theorem wf_agLink : DueWf (agLink s) := .map fun _ => .next (wf_sendNext h)

theorem wf_agRestripe : DueWf (agRestripe s) := by
  unfold agRestripe
  split
  · exact .some (.next (wf_restripeEnd h))
  · exact .map fun _ => .next (wf_restoredEnd h)

theorem wf_agTrain : DueWf (agTrain s) := .map fun _ => .next (wf_trainEnd h)
theorem wf_agRotated : DueWf (agRotated s) := .map fun _ => wf_execRotationComplete h
theorem wf_agRotate : DueWf (agRotate s) := .map fun _ => wf_execLinkctlRotate h
theorem wf_agKey : DueWf (agKey s) := .findSome fun _ => .map fun _ => wf_execKeyLimit h
theorem wf_agTrap : DueWf (agTrap s) := .map fun _ => wf_execTrapReport h
theorem wf_agEntry : DueWf (agEntry s) := .map fun _ => wf_execTrapHandlerEntry h
theorem wf_agAbort : DueWf (agAbort s) := .map fun _ => wf_execRegionAbort h
theorem wf_agAtomic : DueWf (agAtomic s) := .map fun _ => wf_execAtomicPerform h
theorem wf_agUrgent : DueWf (agUrgent s) := .findSome fun _ => .map fun _ => wf_execSlotUrgent h

theorem wf_agTrapped : DueWf (agTrapped s) :=
  .findSome fun _ => .map fun _ => .ite (wf_execMemoryOpComplete h) (wf_execOperationComplete h)

theorem wf_agSigw : DueWf (agSigw s) := by
  unfold agSigw
  split
  · exact .some (wf_execSigwSatisfied h)
  · exact .map fun _ => .next (wf_bump (wf_placeSig h))

theorem wf_agInv : DueWf (agInv s) := .map fun _ => .next (wf_settleInv h)
theorem wf_agMem : DueWf (agMem s) := .map fun _ => wf_execMemoryOpComplete h
theorem wf_agOp : DueWf (agOp s) := .map fun _ => wf_execOperationComplete h
theorem wf_agWalk : DueWf (agWalk s) := .findSome fun _ => .map fun _ => wf_execWalkComplete h
theorem wf_agRetire : DueWf (agRetire s) := .map fun _ => wf_execGroupRetire h
theorem wf_agFetch : DueWf (agFetch s) := .bind fun _ => .map fun _ => wf_execHeadraceFetchReturn h
theorem wf_agFlume : DueWf (agFlume s) := .map fun _ => wf_execFlumeLineArrival h
theorem wf_agFlumeEnd : DueWf (agFlumeEnd s) := .map fun _ => wf_execFlumeComplete h
theorem wf_agJoint : DueWf (agJoint s) := .map fun _ => wf_execJointMmaStart h
theorem wf_agExpire : DueWf (agExpire s) := .map fun _ => wf_execLeaseExpire h
theorem wf_agGrant : DueWf (agGrant s) := .map fun _ => wf_execLeaseGrant h

theorem wf_agEpoch : DueWf (agEpoch s) := by
  unfold agEpoch
  split
  · exact .due (wf_execWeirAttempt h)
  · exact .some (wf_execWeirSumDone h)
  · exact .some (wf_execWeirAdopted h)

theorem wf_agFree : DueWf (agFree s) := by
  unfold agFree
  split
  · exact .some (wf_execWeirFree h)
  · exact .due (wf_execWeirAppend h)

theorem wf_agStall : DueWf (agStall s) := .due (wf_execGraceStall h)
theorem wf_agPod : DueWf (agPod s) := .due (wf_execPodAdvance h)

theorem wf_agMap : DueWf (agMap s) := by
  unfold agMap
  split
  · exact .some (wf_execMapChangeComplete h)
  · exact .next (.findSome fun _ => wf_changeNext h)

theorem wf_agDefer : DueWf (agDefer s) := .map fun _ => wf_execPreemptDeferExpire h
theorem wf_agSave : DueWf (agSave s) := .map fun _ => wf_execTeamSave h
theorem wf_agRemove : DueWf (agRemove s) := .due (.next (wf_removeNext h))
theorem wf_agResume : DueWf (agResume s) := .map fun _ => wf_execResume h

theorem wf_agHead : DueWf (agHead s) := by
  refine .findSome fun _ => ?_
  split
  · exact .some (wf_execPacketTake h)
  · exact .due (wf_execLaunchQueueTake h)

theorem wf_agTake : DueWf (agTake s) :=
  .findSome fun _ => .map fun _ => .ite (wf_execLaunchQueueTake (wf_modDistr h)) (wf_execPacketTake (wf_modDistr h))

theorem wf_agPlace : DueWf (agPlace s) := by
  refine .bind fun _ => ?_
  split
  · exact .map fun _ => wf_execTeamStart h
  · exact .some (wf_execClusterStart h)

theorem wf_agArrival : DueWf (agArrival s) := .map fun _ => wf_execTcbArrival h
theorem wf_agTcb : DueWf (agTcb s) := .map fun _ => wf_execTcbSend h
theorem wf_agSteal : DueWf (agSteal s) := .map fun _ => wf_execStealRequest h
theorem wf_agGrid : DueWf (agGrid s) := .map fun _ => wf_execGridComplete h

theorem wf_agents : ∀ f ∈ agents, DueWf (f s) := by
  simp only [agents, List.forall_mem_cons, List.not_mem_nil, false_imp_iff, implies_true, and_true]
  exact ⟨wf_agReset, wf_agInbox h, wf_agUrgent h, wf_agTrap h, wf_agEntry h, wf_agTrapped h, wf_agAtomic h, wf_agSigw h, wf_agInv h,
      wf_agMem h,
    wf_agOp h, wf_agWalk h, wf_agRetire h, wf_agAbort h, wf_agFetch h, wf_agFlumeEnd h, wf_agFlume h, wf_agJoint h, wf_agExpire h,
        wf_agGrant h,
    wf_agEpoch h, wf_agFree h, wf_agStall h, wf_agPod h, wf_agMap h, wf_agDefer h, wf_agSave h, wf_agRemove h, wf_agResume h, wf_agGrid h,
    wf_agPlace h, wf_agArrival h, wf_agTcb h, wf_agSteal h, wf_agHead h, wf_agTake h, wf_agHeld h, wf_agSpill h, wf_agHost h, wf_agRecord h,
    wf_agTable h, wf_agAttest h, wf_agRestripe h, wf_agTrain h, wf_agRelay h, wf_agReplay h, wf_agLink h, wf_agRotated h, wf_agRotate h,
        wf_agKey h⟩

theorem wf_agent : DueWf (agent s) := by
  intro o e
  obtain ⟨f, hf, ho⟩ := List.exists_of_findSome?_eq_some e
  exact wf_agents h f hf o ho

end

/-! ### A cycle of a core (R402, R403) -/

/-- The state that the front end hands on, or leaves at a stop, is well-formed. -/
inductive FrontWf : Front → Prop
  | run {i : Instr} {s : State} (h : Wf s) : FrontWf (.run i s)
  | stopped {s : State} (h : Wf s) : FrontWf (.stopped s)

theorem wf_frontEnd {s : State} (h : Wf s) : FrontWf (frontEnd s) := by
  unfold frontEnd
  split
  · exact .stopped (wf_applyStop h)
  case h_2 e =>
    have hr := (wf_replace h).of e
    split
    case h_1 e => exact .run ((wf_frontWord hr).of e)
    · exact .stopped (wf_applyStop hr)

section
variable {x y : Nat × Bool} {s : State} (h : Wf s)
include h

theorem wf_issueSlot : NextWf (issueSlot x s) := by
  unfold issueSlot
  cases hf : frontEnd (picked x s) with
  | run i t =>
    have hw := wf_frontEnd (wf_picked (x := x) h)
    rw [hf] at hw
    cases hw with
    | run h => exact wf_exec h
  | stopped t =>
    have hw := wf_frontEnd (wf_picked (x := x) h)
    rw [hf] at hw
    cases hw with
    | stopped h => exact .next h

theorem wf_issueBoth : NextWf (issueBoth x y s) := by
  unfold issueBoth
  split
  case h_1 e =>
    have hx := wf_modGroup (gid := x.1) (f := fun g => g.modSlot x.2 (fun z => { z with exec := (slotOf s x).exec }))
        ((wf_issueSlot (wf_other h)).of e)
    dsimp only
    split
    case h_1 e => exact .next (wf_settle (wf_other (wf_modGroup ((wf_issueSlot hx).of e))))
    · exact wf_issueSlot hx
  · exact wf_issueSlot (wf_other h)

theorem wf_issueApart : NextWf (issueApart x y s) := by
  unfold issueApart
  split
  case h_1 e =>
    have hx := (wf_issueSlot h).of e
    split
    · exact .ite (wf_issueSlot hx) (.next hx)
    · exact .next hx
  · exact wf_issueSlot h

theorem wf_issueTwo : NextWf (issueTwo x y s) := .ite (wf_issueApart h) (.ite (wf_issueBoth h) (wf_issueBoth h))

theorem wf_cycleOf : NextWf (cycleOf x s) := by
  have hissue : NextWf (match partner x s with
      | some y => (issueTwo x y s, [x, y])
      | none => (issueSlot x s, [x])).1 := by
    split
    · exact wf_issueTwo h
    · exact wf_issueSlot h
  unfold cycleOf
  dsimp only
  split
  case h_1 e _ =>
    have ht := hissue.of e
    exact .ite (.next ht) (.next (wf_countWaits ht))
  · exact hissue

end

theorem wf_cycle : ∀ {n : Nat} {tried : List (Nat × Bool × Nat)} {x : Nat × Bool} {s : State}, Wf s → NextWf (cycle n tried x s)
  | 0, _, _, _, h => wf_cycleOf h
  | _ + 1, _, _, _, h => by
    unfold cycle
    split
    case h_1 e _ =>
      have ht := (wf_cycleOf h).of e
      split
      · dsimp only
        split
        · exact wf_cycle ht
        · exact .next ht
      · exact .next ht
    · exact wf_cycleOf h

/-! ### A step -/

theorem wf_turnStep {s : State} (h : Wf s) : NextWf (turnStep s) := by
  have hagent : DueWf (agent { s with turn := false }) := wf_agent (wf_other h)
  unfold turnStep
  split
  case h_1 e =>
    split at e
    · exact hagent _ e
    · cases e
  · split
    · exact wf_cycle h
    · cases ha : agent { s with turn := false } with
      | none => exact .next (wf_other h)
      | some o => exact hagent o ha

theorem wf_step {s : State} (h : Wf s) : NextWf (step s) := by
  unfold step
  dsimp only
  split
  · exact wf_exec (wf_other (wf_elapse h))
  · exact wf_turnStep (wf_elapse h)

/-- Settles O35: every function that a step is made of keeps the canonical form, down to the writes of a byte, a postmark and a validity
    bit. -/
theorem memoryStaysCanonical : Obligations.MemoryStaysCanonical := by
  unfold Obligations.MemoryStaysCanonical
  intro s t h hstep
  exact (wf_step h).of hstep

end Sys2Proof.Proofs.CanonicalStep

/-! PROOF. The postmark code (R84) is linear: the codes of two words differ by the code, begun at 0, of the bits in which the words differ. -/
namespace Sys2Proof.Proofs.Postmarks
open Sys2Proof Sys2Proof.Machine

/-- The CRC register after the bits `f i`, for `i` in a list, begun at `c`. -/
def crc (c : Nat) (f : Nat → Bool) (l : List Nat) : Nat := l.foldl (fun c i => markStep c (f i)) c

/-- The code of a word's postmark: its bits 63 down to 0, begun at 0x7F. -/
def code (w : Word) : Nat := crc 0x7F (fun i => w.getLsbD (63 - i)) (List.range 64)

/-- The code that bits turned over add to the code of a word. -/
def syndrome (m : Word) : Nat := crc 0 (fun i => m.getLsbD (63 - i)) (List.range 64)

theorem postmark_eq (w : Word) : postmark w = BitVec.ofNat 8 (0x80 ||| code w) := rfl

/-! ### Linearity -/

theorem markStep_eq (c : Nat) (b : Bool) : markStep c b = ((c <<< 1) % 128) ^^^ (if c.testBit 6 != b then 0x09 else 0) := by
  unfold markStep
  cases c.testBit 6 != b <;> simp

theorem markStep_xor (c d : Nat) (a b : Bool) : markStep (c ^^^ d) (a ^^ b) = markStep c a ^^^ markStep d b := by
  have hshift : ((c ^^^ d) <<< 1) % 2 ^ 7 = ((c <<< 1) % 2 ^ 7) ^^^ ((d <<< 1) % 2 ^ 7) := by
    rw [Nat.shiftLeft_xor_distrib, Nat.xor_mod_two_pow]
  have hfeed : (if (c ^^^ d).testBit 6 != (a ^^ b) then 0x09 else 0) 
      = (if c.testBit 6 != a then 0x09 else 0) ^^^ (if d.testBit 6 != b then 0x09 else 0) := by
    rw [Nat.testBit_xor]
    cases c.testBit 6 <;> cases d.testBit 6 <;> cases a <;> cases b <;> rfl
  rw [markStep_eq, markStep_eq, markStep_eq, show (128 : Nat) = 2 ^ 7 from rfl, hshift, hfeed]
  ac_rfl

theorem crc_xor (f g : Nat → Bool) : ∀ (l : List Nat) (c d : Nat), crc (c ^^^ d) (fun i => f i ^^ g i) l = crc c f l ^^^ crc d g l
  | [], _, _ => rfl
  | i :: l, c, d => by
    have h := crc_xor f g l (markStep c (f i)) (markStep d (g i))
    rwa [← markStep_xor] at h

theorem code_xor (w m : Word) : code (w ^^^ m) = code w ^^^ syndrome m := by
  have h := crc_xor (fun i => w.getLsbD (63 - i)) (fun i => m.getLsbD (63 - i)) (List.range 64) 0x7F 0
  simp only [← BitVec.getLsbD_xor] at h
  exact h

theorem syndrome_xor (m k : Word) : syndrome (m ^^^ k) = syndrome m ^^^ syndrome k := by
  have h := crc_xor (fun i => m.getLsbD (63 - i)) (fun i => k.getLsbD (63 - i)) (List.range 64) 0 0
  simp only [← BitVec.getLsbD_xor] at h
  exact h

/-! ### The marks of two codes -/

theorem markStep_lt (c : Nat) (b : Bool) : markStep c b < 2 ^ 7 := by
  rw [markStep_eq]
  refine Nat.xor_lt_two_pow (Nat.mod_lt _ (by decide)) ?_
  split <;> decide

theorem crc_lt (f : Nat → Bool) : ∀ (l : List Nat) {c : Nat}, c < 2 ^ 7 → crc c f l < 2 ^ 7
  | [], _, h => h
  | i :: l, c, _ => crc_lt f l (markStep_lt c (f i))

theorem postmark_toNat (w : Word) : (postmark w).toNat = 2 ^ 7 + code w := by
  have hc : code w < 2 ^ 7 := crc_lt _ _ (by decide)
  rw [postmark_eq, BitVec.toNat_ofNat, ← Nat.two_pow_add_eq_or_of_lt hc 1]
  omega

theorem postmark_stamp (w : Word) : (postmark w).getLsbD 7 = true := by
  have hc : code w < 2 ^ 7 := crc_lt _ _ (by decide)
  have h := postmark_toNat w
  simp only [BitVec.getLsbD, Nat.testBit_eq_decide_div_mod_eq, h]
  simp; omega

/-- A change of the data is met wherever the turned bits have a syndrome other than 0. -/
theorem mismatch_xor {m : Word} (h : syndrome m ≠ 0) (w : Word) : mismatch false ⟨w ^^^ m, postmark w⟩ = true := by
  have hne : postmark w ≠ postmark (w ^^^ m) := by
    intro he
    have he := congrArg BitVec.toNat he
    rw [postmark_toNat, postmark_toNat, code_xor] at he
    have h0 : code w ^^^ (code w ^^^ syndrome m) = code w ^^^ code w := by rw [← Nat.add_left_cancel he]
    rw [← Nat.xor_assoc, Nat.xor_self, Nat.zero_xor] at h0
    exact h h0
  simp [mismatch, postmark_stamp, hne]

/-! ### The 64 columns -/

/-- The syndrome of each bit alone, bit 0 first: powers of x modulo the generator. -/
def columns : List Nat :=
  [9, 18, 36, 72, 25, 50, 100, 65, 11, 22, 44, 88, 57, 114, 109, 83, 47, 94, 53, 106, 93, 51, 102, 69, 3, 6, 12, 24, 48,
   96, 73, 27, 54, 108, 81, 43, 86, 37, 74, 29, 58, 116, 97, 75, 31, 62, 124, 113, 107, 95, 55, 110, 85, 35, 70, 5, 10,
   20, 40, 80, 41, 82, 45, 90]

theorem map_syndrome_eq_columns : (List.range 64).map (fun i => syndrome (1 <<< i : Word)) = columns := by decide +kernel

theorem columns_nodup : (0 :: columns).Nodup := by decide

theorem syndrome_bit_mem {i : Nat} (hi : i < 64) : syndrome (1 <<< i : Word) ∈ columns := by
  rw [← map_syndrome_eq_columns]
  exact List.mem_map_of_mem (List.mem_range.mpr hi)

theorem syndrome_bit_ne_zero {i : Nat} (hi : i < 64) : syndrome (1 <<< i : Word) ≠ 0 := by
  intro h
  exact (List.nodup_cons.mp columns_nodup).1 (h ▸ syndrome_bit_mem hi)

theorem syndrome_bits_ne {i j : Nat} (hij : i < j) (hj : j < 64) : syndrome (1 <<< i : Word) ≠ syndrome (1 <<< j : Word) := by
  have hnodup := (List.nodup_cons.mp columns_nodup).2
  rw [← map_syndrome_eq_columns] at hnodup
  intro h
  have := List.inj_on_of_nodup_map hnodup (List.mem_range.mpr (hij.trans hj)) (List.mem_range.mpr hj) h
  omega

theorem syndrome_two_bits_ne_zero {i j : Nat} (hij : i < j) (hj : j < 64) : syndrome ((1 <<< i : Word) ^^^ (1 <<< j : Word)) ≠ 0 := by
  rw [syndrome_xor]
  intro h
  exact syndrome_bits_ne hij hj (Nat.xor_eq_zero_iff.mp h)

/-- A turned bit of the code, STAMP apart, is met: the data still have the code that they had. -/
theorem mismatch_code {i : Nat} (hi : i < 7) (w : Word) : mismatch false ⟨w, postmark w ^^^ (1 <<< i)⟩ = true := by
  have hstamp : (postmark w ^^^ (1 <<< i : Mark)).getLsbD 7 = true := by
    rw [BitVec.getLsbD_xor, postmark_stamp]
    interval_cases i <;> rfl
  have hne : postmark w ^^^ (1 <<< i : Mark) ≠ postmark w := by
    intro h
    have h0 : (1 <<< i : Mark) = 0 := by
      rwa [← BitVec.xor_zero (x := postmark w), BitVec.xor_assoc, BitVec.xor_right_inj, BitVec.zero_xor] at h
    interval_cases i <;> exact absurd h0 (by decide)
  simp only [mismatch, hstamp, if_true, bne_iff_ne]
  exact hne

/-- Settles O14: the columns of the code are 64 distinct values other than 0, so that neither one nor two turned bits cancel. -/
theorem postmarkDetects : Obligations.PostmarkDetects := by
  unfold Obligations.PostmarkDetects
  refine ⟨by decide +kernel, fun w i hi => mismatch_xor (syndrome_bit_ne_zero hi) w, fun w i j hij hj => ?_, fun w i hi => mismatch_code hi w⟩
  rw [BitVec.xor_assoc]
  exact mismatch_xor (syndrome_two_bits_ne_zero hij hj) w

end Sys2Proof.Proofs.Postmarks

/-! PROOF. Validity bits (R86, R87, R180, R181, R257): the word of a region, LDV, CLRV, and what a block reads as once it is cleared. -/
namespace Sys2Proof.Proofs.Validity
open Sys2Proof Sys2Proof.Machine Sys2Proof.Proofs.Caches Sys2Proof.Proofs.Control Sys2Proof.Proofs.Loads Sys2Proof.Proofs.HomeWrites

/-! ### The validity word (R180) -/

theorem getLsbD_validityWord (s : State) (pa : Nat) {i : Nat} (hi : i < 64) :
    (validityWord s pa).getLsbD i = readValid s (pa / 4096 * 4096 + 64 * i) := by
  have hbit := Results.testBit_foldl (k := i) (P := fun j => readValid s (pa / 4096 * 4096 + 64 * j) = true ∧ j = i)
    (step := fun a j => if readValid s (pa / 4096 * 4096 + 64 * j) then a ||| (1 <<< j) else a)
    (fun a j => by
      split
      · rename_i h
        rw [Nat.testBit_or, Bool.or_eq_true, Nat.one_shiftLeft, Nat.testBit_two_pow, decide_eq_true_eq]
        simp [h]
      · rename_i h
        simp [h]) (List.range 64) 0
  rw [validityWord, BitVec.getLsbD_ofNat, decide_eq_true hi, Bool.true_and, Bool.eq_iff_iff, hbit]
  simp only [Nat.zero_testBit, Bool.false_eq_true, false_or, List.mem_range]
  exact ⟨fun ⟨_, _, h, e⟩ => e ▸ h, fun h => ⟨i, hi, h, rfl⟩⟩

/-! ### LDV (R180) -/

theorem isSome_assocGet {β : Type} {k : Nat} : ∀ {l : List (Nat × β)}, k ∈ l.map Prod.fst → (assocGet k l).isSome = true
  | (j, v) :: l, h => by
    rw [assocGet]
    split
    · rfl
    · rename_i hne
      exact isSome_assocGet ((List.mem_cons.1 h).resolve_left hne)

/-- One region's word read at its home. -/
def readRegion (r : List (Nat × TWord) × State) (pa : Nat) : List (Nat × TWord) × State :=
  match homeOf r.2 pa with
  | .peer _ _ => r
  | .host => let w := freeWord r.2; (r.1 ++ [(pa, ⟨w.1, 0⟩)], w.2)
  | _ => (r.1 ++ [(pa, ⟨validityWord r.2 pa, 0⟩)], accept r.2 pa)

theorem validWords_eq (pas : List Nat) (s : State) : validWords pas s = pas.foldl readRegion ([], s) := rfl

theorem readRegion_local {r : List (Nat × TWord) × State} {pa : Nat} (h : homeOf r.2 pa = .localMem) :
    readRegion r pa = (r.1 ++ [(pa, ⟨validityWord r.2 pa, 0⟩)], accept r.2 pa) := by rw [readRegion, h]

theorem readRegions_local : ∀ {pas : List Nat} {r : List (Nat × TWord) × State}, (∀ pa ∈ pas, homeOf r.2 pa = .localMem) →
    (pas.foldl readRegion r).1.map Prod.fst = r.1.map Prod.fst ++ pas ∧ MemOnly r.2 (pas.foldl readRegion r).2
  | [], r, _ => ⟨(List.append_nil _).symm, .refl _⟩
  | pa :: pas, r, h => by
    have hm := memOnly_accept r.2 pa
    rw [List.foldl_cons, readRegion_local (h pa (.head _))]
    obtain ⟨hk, hrest⟩ := readRegions_local (pas := pas) (r := (r.1 ++ [(pa, ⟨validityWord r.2 pa, 0⟩)], accept r.2 pa))
      fun q hq => (hm.homeOf_eq q).trans (h q (.tail _ hq))
    exact ⟨by rw [hk]; simp, hm.trans hrest⟩

/-- The accesses of an LDV's lanes: their regions, of which none asks for stamped words. -/
def regionsOf (accs : List LaneAcc) : List LaneAcc := accs.map (fun a => { a with pa := a.pa / 4096 * 4096, sreq := false })

theorem home_of_wordsOf {accs : List LaneAcc} {s : State} (h : ∀ a ∈ regionsOf accs, homeOf s a.pa = .localMem) :
    ∀ pa ∈ wordsOf (regionsOf accs), homeOf s pa = .localMem := by
  intro pa hpa
  obtain ⟨a, ha, rfl⟩ := List.mem_map.1 (List.mem_eraseDups.1 hpa)
  obtain ⟨b, -, rfl⟩ := List.mem_map.1 ha
  rw [show b.pa / 4096 * 4096 / 8 * 8 = b.pa / 4096 * 4096 by omega]
  exact h _ ha

/-- An LDV whose regions are all at home here: what it leaves. -/
theorem ldvEff_local (f : MemF) {accs : List LaneAcc} {s : State} (h : ∀ a ∈ regionsOf accs, homeOf s a.pa = .localMem) :
    let r := validWords (wordsOf (regionsOf accs)) s
    let g := { gatherOf f false true s (regionsOf accs) r.1 [] with ty := 7, nv := false, rdis := 0 }
    ldvEff f accs s = acquired f (addOp f.cf.toNat { loadDone g (Op.new .done) with isLoad := true } r.2) := by
  intro r g
  have hkeys : r.1.map Prod.fst = wordsOf (regionsOf accs) := by
    show (validWords _ s).1.map Prod.fst = _
    rw [validWords_eq]
    exact (readRegions_local (r := ([], s)) (home_of_wordsOf h)).1
  have hmiss : g.missing = [] := by
    refine List.filter_eq_nil_iff.2 fun pa hpa => ?_
    obtain ⟨a, ha, rfl⟩ := List.mem_map.1 (List.mem_eraseDups.1 hpa)
    have hmem : a.pa / 8 * 8 ∈ r.1.map Prod.fst := by
      rw [hkeys]
      exact List.mem_eraseDups.2 (List.mem_map_of_mem (List.mem_of_mem_filter ha))
    rw [← Option.not_isSome, Bool.not_eq_true', Bool.not_eq_false]
    exact isSome_assocGet hmem
  unfold ldvEff
  exact if_pos (List.isEmpty_iff.2 hmiss)

theorem memOnly_validWords {accs : List LaneAcc} {s : State} (h : ∀ a ∈ regionsOf accs, homeOf s a.pa = .localMem) :
    MemOnly s (validWords (wordsOf (regionsOf accs)) s).2 := by
  rw [validWords_eq]
  exact (readRegions_local (r := ([], s)) (home_of_wordsOf h)).2

theorem ldv_runs {f : MemF} {s : State} {accs : List LaneAcc} (h : clear (.ldv f) s = true) :
    let x := Instr.ldv f
    let u := entered x s
    Reaches u ((laneVas u x f).map (fun v => (v.1, v.2 / 64 * 64))) 64 needLoad accs → acquirePending u = false →
    claimHold u (accs.map LaneAcc.pa) = none → (∀ a ∈ regionsOf accs, homeOf u a.pa = .localMem) →
    let r := validWords (wordsOf (regionsOf accs)) u
    let g := { gatherOf f false true u (regionsOf accs) r.1 [] with ty := 7, nv := false, rdis := 0 }
    YieldsIn x s (acquired f r.2) (r.2.grp.leaving x r.2 f.cf.toNat f.len { loadDone g (Op.new .done) with isLoad := true }) := by
  intro x u hr hacq hclaim hhome r g
  have ha : ldvAct x f u = .ok (advance (4 * f.len.words) (ldvEff f accs u)) := by
    unfold ldvAct
    rw [accCheck_reaches hr]
    dsimp only
    rw [hacq, hclaim]
    rfl
  exact yields_load h rfl (memOnly_validWords hhome) (ha.trans (by rw [ldvEff_local f hhome]))

/-! ### CLRV (R181) -/

theorem memOnly_putWord (s : State) (pa : Nat) (w : TWord) : MemOnly s (putWord s pa w) :=
  ((memOnly_writeBytes _ s _).trans (memOnly_writeMark ..)).trans (memOnly_sigNote ..)

theorem memOnly_clearBlock (s : State) (pa : Nat) : MemOnly s (clearBlock s pa) :=
  .trans (.foldl (fun s _ => memOnly_putWord s _ _) _ s) (memOnly_setValid ..)

theorem memOnly_dropBlock (c pa : Nat) (s : State) : MemOnly s (dropBlock c pa s) :=
  .trans (.trans (memOnly_modCore ..) (memOnly_modDie ..)) (memOnly_dropFills ..)

/-- A block cleared at its home here. -/
def clearLocal (c : Nat) (s : State) (pa : Nat) : State := clearBlock (accept (dropBlock c pa s) pa) pa

theorem memOnly_clearLocal (c : Nat) (s : State) (pa : Nat) : MemOnly s (clearLocal c s pa) :=
  ((memOnly_dropBlock c pa s).trans (memOnly_accept ..)).trans (memOnly_clearBlock ..)

theorem window_div (pa : Nat) : (pa - 0x100000000000) / 2 ^ 40 = pa / 2 ^ 40 - 16 := by omega

/-- Local addresses: the first 2^40, and the device's own window of that size (R243). -/
theorem homeOf_eq_local_iff {s : State} {pa : Nat} :
    homeOf s pa = .localMem ↔ pa / 2 ^ 40 = 0 ∨ (16 ≤ pa / 2 ^ 40 ∧ pa / 2 ^ 40 < 32 ∧ pa / 2 ^ 40 - 16 = s.mgmt.device) := by
  unfold homeOf
  rw [window_div]
  generalize s.mgmt.device = d
  simp only [Bool.and_eq_true, decide_eq_true_eq]
  split
  · rename_i hlow
    exact iff_of_true rfl (.inl (by omega))
  · split
    · rename_i hpod
      split
      · rename_i hdev
        exact iff_of_true rfl (.inr ⟨by omega, by omega, hdev⟩)
      · rename_i hdev
        exact iff_of_false nofun (by omega)
    · split <;> exact iff_of_false nofun (by omega)

/-- The one address of a byte lies in the first 2^40 exactly where it is at home here, and is then its offset there. -/
theorem canonPa_lt_iff {s : State} {pa : Nat} : canonPa s pa < 2 ^ 40 ↔ homeOf s pa = .localMem := by
  rw [homeOf_eq_local_iff]
  unfold canonPa
  rw [window_div]
  generalize s.mgmt.device = d
  simp only [Bool.and_eq_true, decide_eq_true_eq]
  split <;> omega

theorem canonPa_local {s : State} {pa : Nat} (h : homeOf s pa = .localMem) : canonPa s pa = pa % 2 ^ 40 := by
  have hlow := canonPa_lt_iff.2 h
  unfold canonPa at hlow ⊢
  split at hlow
  · rename_i hpod
    exact if_pos hpod
  · rename_i hpod
    rw [if_neg hpod, Nat.mod_eq_of_lt hlow]

theorem peerLine_local {s : State} {pa : Nat} (h : homeOf s pa = .localMem) : peerLine s (lineNo s pa) = none := by
  have hlow := canonPa_lt_iff.2 h
  have hl : homeOf s (canonPa s pa / 128 * 128) = .localMem := if_pos (by omega)
  rw [peerLine, lineNo, hl]

theorem clearOne_local {id pa : Nat} {s : State} (h : homeOf s pa = .localMem) : clearOne id pa s = clearLocal s.grp.core s pa := by
  have hd := memOnly_dropBlock s.grp.core pa s
  unfold clearOne
  dsimp only
  rw [hd.peerLine_eq, hd.lineNo_eq, peerLine_local h]
  rfl

theorem clearAll_local (id : Nat) : ∀ {bs : List Nat} {s : State}, (∀ b ∈ bs, homeOf s b = .localMem) →
    bs.foldl (fun s pa => clearOne id pa s) s = bs.foldl (clearLocal s.grp.core) s
  | [], _, _ => rfl
  | b :: bs, s, h => by
    have hm := memOnly_clearLocal s.grp.core s b
    rw [List.foldl_cons, List.foldl_cons, clearOne_local (h b (.head _)), clearAll_local id fun q hq => (hm.homeOf_eq q).trans (h q (.tail _ hq)),
        hm.grp]

/-- No request is sent. -/
theorem reqs_clearLocal (c : Nat) (s : State) (pa : Nat) : (clearLocal c s pa).fabric.reqs.length = s.fabric.reqs.length := by
  have hwrite (l : List Byte) (t : State) (q : Nat) : (writeBytes t q l).fabric = t.fabric := by
    induction l generalizing t q with
    | nil => rfl
    | cons b l ih => exact ih _ _
  have hmark (t : State) (q : Nat) (m : Mark) : (writeMark t q m).fabric = t.fabric := by unfold writeMark; split <;> rfl
  have hvalid (t : State) (q : Nat) (b : Bool) : (setValid t q b).fabric = t.fabric := by unfold setValid; split <;> rfl
  have hput (t : State) (q : Nat) (w : TWord) : (putWord t q w).fabric = t.fabric := (hmark ..).trans (hwrite ..)
  have hfold (l : List Nat) (t : State) : (l.foldl (fun s i => putWord s (pa / 64 * 64 + 8 * i) ⟨0, 0xE0⟩) t).fabric = t.fabric := by
    induction l generalizing t with
    | nil => rfl
    | cons i l ih => exact (ih _).trans (hput ..)
  have haccept (t : State) : (accept t pa).fabric = t.fabric := by
    unfold accept
    split
    · split <;> rfl
    · rfl
  have hclear : (clearLocal c s pa).fabric = (dropBlock c pa s).fabric := (hvalid ..).trans ((hfold ..).trans (haccept _))
  rw [hclear]
  exact List.length_map _

theorem reqs_clearLocals (c : Nat) (bs : List Nat) (s : State) : (bs.foldl (clearLocal c) s).fabric.reqs.length = s.fabric.reqs.length := by
  induction bs generalizing s with
  | nil => rfl
  | cons b bs ih => exact (ih _).trans (reqs_clearLocal c s b)

theorem peerOp_none {va : Nat} {s t : State} (h : t.fabric.reqs.length = s.fabric.reqs.length) : peerOp va s t = Op.new .done := by
  rw [peerOp, tagsSince, List.drop_eq_nil_of_le h.le]
  rfl

theorem clrv_bad_length {f : MemF} {s : State} (h : clear (.clrv f) s = true) :
    let u := entered (.clrv f) s
    let n := (readS u f.d.toNat).toNat
    canonical (baseVa u f) = true → n % 64 ≠ 0 ∨ 2 ^ 32 < n → exec (.clrv f) s = .next (takeTrap 0x04 (BitVec.allOnes 32) (baseVa u f) 0 u) := by
  intro u n hc hn
  have ha : clrvAct f u = .error (laneTrap true 0x04 [(0, baseVa u f)]) := by
    unfold clrvAct
    exact if_pos (by rw [hc]; simpa using hn)
  exact issueE_stop h ha

theorem clrv_runs {f : MemF} {s : State} {ps : List (Nat × Nat)} (h : clear (.clrv f) s = true) :
    let u := entered (.clrv f) s
    let n := (readS u f.d.toNat).toNat
    n % 64 = 0 → n ≤ 2 ^ 32 → rangeCheck u (baseVa u f) n 64 needStore 6 = .ok ps → memHold u (inPieces ps) = none →
      claimHold u (blocksOf ps) = none →
      (∀ b ∈ blocksOf ps, homeOf u b = .localMem) →
      let w := (blocksOf ps).foldl (clearLocal u.grp.core) u
      YieldsIn (.clrv f) s w (w.grp.leaving (.clrv f) w f.cf.toNat f.len { Op.new .done with isWrite := true }) := by
  intro u n hn hmax hrange hhold hclaim hhome w
  have hw : MemOnly u w := .foldl (fun s b => memOnly_clearLocal u.grp.core s b) _ u
  have ha : clrvAct f u = .ok (advance (4 * f.len.words) (addOp f.cf.toNat { Op.new .done with isWrite := true } w)) := by
    have hlen : ¬ (canonical (baseVa u f) && (n % 64 != 0 || decide (2 ^ 32 < n))) = true := by
      simp only [hn, bne_self_eq_false, Bool.false_or, Bool.and_eq_true, decide_eq_true_eq]
      omega
    unfold clrvAct
    dsimp only
    rw [if_neg hlen, hrange]
    dsimp only
    rw [hhold, hclaim, clearAll_local _ hhome, peerOp_none (reqs_clearLocals ..)]
    rfl
  have hwc : w.cur = s.cur := hw.cur.trans (entered_cur h)
  obtain ⟨t, hnext, hg, ho⟩ := ran_leaving (w := w) h rfl ha hw.grp hwc hwc (hw.late.trans (entered_late h)) (addOp_grp ..)
  exact ⟨t, hnext, hg, (outsideSame_addOp ..).trans ho⟩

/-! ### A block cleared (R181, R257) -/

/-- What is read after a loop of writes that put one value in some places. -/
theorem read_foldl {β : Type} {s : State} {read : State → β} {f : State → Nat → State} {hit : Nat → Prop} {v : β} (hm : ∀ t i, MemOnly t (f t i))
    {l : List Nat} (hin : ∀ t, ∀ i ∈ l, MemOnly s t → hit i → read (f t i) = v) (hout : ∀ t, ∀ i ∈ l, MemOnly s t → ¬ hit i → read (f t i) = read t) :
    ((∃ i ∈ l, hit i) → read (l.foldl f s) = v) ∧ ((¬ ∃ i ∈ l, hit i) → read (l.foldl f s) = read s) := by
  induction l using List.reverseRecOn with
  | nil => exact ⟨fun ⟨_, h, _⟩ => absurd h List.not_mem_nil, fun _ => rfl⟩
  | append_singleton l i ih =>
    have hl : MemOnly s (l.foldl f s) := .foldl hm l s
    have hi : i ∈ l ++ [i] := by simp
    obtain ⟨ihin, ihout⟩ := ih (fun t j hj => hin t j (List.mem_append_left _ hj)) (fun t j hj => hout t j (List.mem_append_left _ hj))
    rw [List.foldl_append, List.foldl_cons, List.foldl_nil]
    by_cases hhit : hit i
    · exact ⟨fun _ => hin _ i hi hl hhit, fun hno => absurd ⟨i, hi, hhit⟩ hno⟩
    · rw [hout _ i hi hl hhit]
      refine ⟨fun ⟨j, hj, hj'⟩ => ihin ⟨j, ?_, hj'⟩, fun hno => ihout fun ⟨j, hj, hj'⟩ => hno ⟨j, List.mem_append_left _ hj, hj'⟩⟩
      exact (List.mem_append.1 hj).resolve_right fun e => hhit (List.mem_singleton.1 e ▸ hj')

theorem readByte_putWord (s : State) (p : Nat) (w : TWord) (a : Nat) :
    readByte (putWord s p w) a = readByte (writeBytes s (p / 8 * 8) (bytesOf w.data)) a :=
  readByte_writeMark (writeBytes s (p / 8 * 8) (bytesOf w.data)) p w.mark a

theorem readMark_putWord {s : State} {p : Nat} (hp : homeOf s p ≠ .host) (w : TWord) {a : Nat} (ha : homeOf s a ≠ .host) :
    readMark (putWord s p w) a = if canonPa s a / 8 = canonPa s p / 8 then w.mark else readMark s a := by
  rw [← readMark_homeWrite hp w ha]
  unfold homeWrite setValid
  split <;> rfl

theorem readValid_putWord (s : State) (p : Nat) (w : TWord) (a : Nat) : readValid (putWord s p w) a = readValid s a := by
  have hwrite (l : List Byte) (t : State) (q : Nat) : (writeBytes t q l).valid = t.valid := by
    induction l generalizing t q with
    | nil => rfl
    | cons b l ih => exact ih _ _
  have hmark (t : State) (q : Nat) (m : Mark) : (writeMark t q m).valid = t.valid := by unfold writeMark; split <;> rfl
  exact readValid_congr (s := s) (t := putWord s p w) ((hmark ..).trans (hwrite ..)) (memOnly_putWord s p w).mgmt a

/-- A validity bit cleared, but for host memory. -/
theorem readValid_setValid_false {s : State} {p : Nat} (hp : homeOf s p ≠ .host) (a : Nat) :
    readValid (setValid s p false) a = if canonPa s a / 64 = canonPa s p / 64 then false else readValid s a := by
  rw [readValid, (memOnly_setValid s p false).canonPa_eq, setValid, if_neg hp]
  simp only [Bool.false_eq_true, if_false, readValid, List.contains_eq_mem, mem_delNat]
  split
  · rename_i e
    simp [e]
  · rename_i e
    simp [e]

section
variable {s t : State} {pa i a : Nat} (h : homeOf s pa = .localMem) (hi : i < 8)
include h hi

/-- A block's words lie side by side, at home here too. -/
theorem canonPa_block {j : Nat} (hj : j < 8) :
    homeOf s (pa / 64 * 64 + 8 * i + j) = .localMem ∧ canonPa s (pa / 64 * 64 + 8 * i + j) = canonPa s pa / 64 * 64 + 8 * i + j := by
  have hl : homeOf s (pa / 64 * 64 + 8 * i + j) = .localMem := by
    rw [homeOf_eq_local_iff] at h ⊢
    rwa [show (pa / 64 * 64 + 8 * i + j) / 2 ^ 40 = pa / 2 ^ 40 by omega]
  exact ⟨hl, by rw [canonPa_local hl, canonPa_local h]; omega⟩

theorem readByte_putWord_zero (m : Mark) (hm : MemOnly s t) :
    (canonPa s a / 8 = canonPa s pa / 64 * 8 + i → readByte (putWord t (pa / 64 * 64 + 8 * i) ⟨0, m⟩) a = 0)
    ∧ (canonPa s a / 8 ≠ canonPa s pa / 64 * 8 + i → readByte (putWord t (pa / 64 * 64 + 8 * i) ⟨0, m⟩) a = readByte t a) := by
  have hplace (j : Nat) (hj : j < 8) : canonPa t (pa / 64 * 64 + 8 * i + j) = canonPa s pa / 64 * 64 + 8 * i + j :=
    (hm.canonPa_eq _).trans (canonPa_block h hi hj).2
  rw [readByte_putWord, show (pa / 64 * 64 + 8 * i) / 8 * 8 = pa / 64 * 64 + 8 * i by omega]
  refine ⟨fun hin => ?_, fun hout => ?_⟩
  · have hj : canonPa s a % 8 < 8 := Nat.mod_lt _ (by decide)
    have hw := memOnly_writeBytes (bytesOf (0 : Word)) t (pa / 64 * 64 + 8 * i)
    have he : canonPa t a = canonPa t (pa / 64 * 64 + 8 * i + canonPa s a % 8) := by
      rw [hplace _ hj, hm.canonPa_eq]
      omega
    rw [readByte, hw.canonPa_eq, he, ← hw.canonPa_eq]
    refine (readByte_writeBytes (bs := bytesOf (0 : Word)) (fun j hj => hplace j (by rwa [length_bytesOf] at hj)) (by rwa [length_bytesOf])).trans ?_
    interval_cases canonPa s a % 8 <;> rfl
  · refine readByte_writeBytes_other _ t _ a fun j hj => ?_
    rw [length_bytesOf] at hj
    rw [hplace j hj, hm.canonPa_eq]
    omega

theorem readMark_putWord_block (w : TWord) (hm : MemOnly s t) (ha : homeOf s a ≠ .host) :
    readMark (putWord t (pa / 64 * 64 + 8 * i) w) a = if canonPa s a / 8 = canonPa s pa / 64 * 8 + i then w.mark else readMark t a := by
  obtain ⟨hl, hc⟩ := canonPa_block h hi (j := 0) (by decide)
  rw [Nat.add_zero] at hl hc
  rw [readMark_putWord (by rw [hm.homeOf_eq, hl]; nofun) w (by rwa [hm.homeOf_eq]), hm.canonPa_eq, hm.canonPa_eq, hc, Nat.add_zero,
    show (canonPa s pa / 64 * 64 + 8 * i) / 8 = canonPa s pa / 64 * 8 + i by omega]

end

section
variable {s : State} {pa : Nat} (h : homeOf s pa = .localMem)
include h

/-- The words of a block zeroed at home. -/
def zeroBlock (s : State) (pa : Nat) : State := (List.range 8).foldl (fun s i => putWord s (pa / 64 * 64 + 8 * i) ⟨0, 0xE0⟩) s

omit h in
theorem memOnly_zeroBlock : MemOnly s (zeroBlock s pa) := .foldl (fun s _ => memOnly_putWord s _ _) _ s

omit h in
/-- The words of a block hold the addresses of the block. -/
theorem word_of_block (c d : Nat) : (∃ i ∈ List.range 8, c / 8 = d / 64 * 8 + i) ↔ c / 64 = d / 64 := by
  simp only [List.mem_range]
  exact ⟨fun ⟨i, hi, e⟩ => by omega, fun e => ⟨c / 8 % 8, by omega, by omega⟩⟩

theorem readByte_zeroBlock (a : Nat) :
    (canonPa s a / 64 = canonPa s pa / 64 → readByte (zeroBlock s pa) a = 0)
    ∧ (canonPa s a / 64 ≠ canonPa s pa / 64 → readByte (zeroBlock s pa) a = readByte s a) := by
  have hread := read_foldl (s := s) (read := fun t => readByte t a) (v := 0) (hit := fun i => canonPa s a / 8 = canonPa s pa / 64 * 8 + i)
    (l := List.range 8) (fun t i => memOnly_putWord t (pa / 64 * 64 + 8 * i) ⟨0, 0xE0⟩)
    (fun t i hi hm => (readByte_putWord_zero h (List.mem_range.1 hi) _ hm).1)
        (fun t i hi hm => (readByte_putWord_zero h (List.mem_range.1 hi) _ hm).2)
  rwa [word_of_block] at hread

theorem readMark_zeroBlock {a : Nat} (ha : homeOf s a ≠ .host) :
    (canonPa s a / 64 = canonPa s pa / 64 → readMark (zeroBlock s pa) a = 0xE0)
    ∧ (canonPa s a / 64 ≠ canonPa s pa / 64 → readMark (zeroBlock s pa) a = readMark s a) := by
  have hread := read_foldl (s := s) (read := fun t => readMark t a) (v := 0xE0) (hit := fun i => canonPa s a / 8 = canonPa s pa / 64 * 8 + i)
    (l := List.range 8) (fun t i => memOnly_putWord t (pa / 64 * 64 + 8 * i) ⟨0, 0xE0⟩)
    (fun t i hi hm e => (readMark_putWord_block h (List.mem_range.1 hi) _ hm ha).trans (if_pos e))
    (fun t i hi hm e => (readMark_putWord_block h (List.mem_range.1 hi) _ hm ha).trans (if_neg e))
  rwa [word_of_block] at hread

omit h in
theorem readValid_zeroBlock (a : Nat) : readValid (zeroBlock s pa) a = readValid s a := by
  unfold zeroBlock
  induction List.range 8 generalizing s with
  | nil => rfl
  | cons i l ih => exact ih.trans (readValid_putWord ..)

omit h in
theorem clearBlock_eq : clearBlock s pa = setValid (zeroBlock s pa) pa false := rfl

omit h in
theorem readByte_clearBlock (a : Nat) : readByte (clearBlock s pa) a = readByte (zeroBlock s pa) a := readByte_setValid ..

omit h in
theorem readMark_clearBlock (a : Nat) : readMark (clearBlock s pa) a = readMark (zeroBlock s pa) a := by
  have hmarks (t : State) : (setValid t pa false).marks = t.marks := by unfold setValid; split <;> rfl
  exact readMark_congr (s := zeroBlock s pa) (t := clearBlock s pa) (hmarks _) (memOnly_setValid (zeroBlock s pa) pa false).mgmt a

theorem readValid_clearBlock (a : Nat) : readValid (clearBlock s pa) a = if canonPa s a / 64 = canonPa s pa / 64 then false else readValid s a := by
  have hz : MemOnly s (zeroBlock s pa) := memOnly_zeroBlock
  rw [clearBlock_eq, readValid_setValid_false (by rw [hz.homeOf_eq, h]; nofun), hz.canonPa_eq, hz.canonPa_eq, readValid_zeroBlock]

omit h in
/-- Host memory keeps no postmarks, so that none of it changes (R245). -/
theorem readMark_clearBlock_host {a : Nat} (ha : homeOf s a = .host) : readMark (clearBlock s pa) a = readMark s a := by
  have hm := memOnly_clearBlock s pa
  rw [readMark, readMark, hm.homeOf_eq, ha, if_pos rfl, if_pos rfl]

/-- An address of the block is local. -/
theorem local_of_block {a : Nat} (e : canonPa s a / 64 = canonPa s pa / 64) : homeOf s a = .localMem := by
  have hlow := canonPa_lt_iff.2 h
  exact canonPa_lt_iff.1 (by omega)

theorem clearBlock_reads (a : Nat) :
    (canonPa s a / 64 = canonPa s pa / 64 → readByte (clearBlock s pa) a = 0 ∧ readMark (clearBlock s pa) a = 0xE0
        ∧ readValid (clearBlock s pa) a = false)
    ∧ (canonPa s a / 64 ≠ canonPa s pa / 64 → readByte (clearBlock s pa) a = readByte s a ∧ readMark (clearBlock s pa) a = readMark s a
        ∧ readValid (clearBlock s pa) a = readValid s a) := by
  obtain ⟨hbyte, hbyte'⟩ := readByte_zeroBlock h a
  rw [readByte_clearBlock, readValid_clearBlock h]
  refine ⟨fun e => ⟨hbyte e, ?_, if_pos e⟩, fun e => ⟨hbyte' e, ?_, if_neg e⟩⟩
  · rw [readMark_clearBlock]
    exact (readMark_zeroBlock h (by rw [local_of_block h e]; nofun)).1 e
  · by_cases ha : homeOf s a = .host
    · exact readMark_clearBlock_host ha
    · rw [readMark_clearBlock]
      exact (readMark_zeroBlock h ha).2 e

end

/-- Settles O44: LDV reads, at home, a word for each region; CLRV writes eight zero words of each block there and takes the validity bit away. -/
theorem validity : Obligations.Validity := by
  unfold Obligations.Validity
  exact ⟨fun f s accs h => ldv_runs h, fun s pa i hi => getLsbD_validityWord s pa hi, fun f s ps h => ⟨clrv_bad_length h, clrv_runs h⟩,
    fun s pa a h => clearBlock_reads h a⟩

end Sys2Proof.Proofs.Validity

/-! PROOF. Rationals (R74 to R78): which values have a canonical encoding, that rounding gives one, and that it reads back. -/
namespace Sys2Proof.Proofs.Rationals
open Sys2Proof Sys2Proof.Machine

/-! ### Sizes -/

theorem bitlen_le_iff {n k : Nat} : bitlen n ≤ k ↔ n < 2 ^ k := by
  unfold bitlen
  split
  · rename_i h
    simp [h]
  · rename_i h
    rw [Nat.succ_le_iff, Nat.log2_lt h]

theorem lt_two_pow_bitlen (n : Nat) : n < 2 ^ bitlen n := bitlen_le_iff.1 le_rfl

theorem bitlen_mono {m n : Nat} (h : m ≤ n) : bitlen m ≤ bitlen n := bitlen_le_iff.2 (h.trans_lt (lt_two_pow_bitlen n))

theorem bitlen_pos {n : Nat} (h : n ≠ 0) : 0 < bitlen n := by rw [bitlen, if_neg h]; exact Nat.succ_pos _

/-- The widths of the two formats (R74). -/
theorem format_widths {p : Nat} (hp : p ∈ [26, 57]) : qWidth p - 1 = p + qSlash p ∧ p < 2 ^ qSlash p ∧ 2 ≤ p := by
  simp only [List.mem_cons, List.not_mem_nil, or_false] at hp
  rcases hp with rfl | rfl <;> decide

/-! ### Values with an encoding -/

/-- A value that an encoding of p bits of payload holds: a magnitude n/d in lowest terms that fits, 0 however it is written, and 1/0. -/
def Holds (p : Nat) : QV → Prop
  | .fin n d => n = 0 ∨ (Nat.Coprime n.natAbs d ∧ bitlen n.natAbs + bitlen d ≤ p)
  | _ => True

theorem Holds.mono {b p : Nat} (h : b ≤ p) : ∀ {v : QV}, Holds b v → Holds p v
  | .naq, _ => trivial
  | .inf _, _ => trivial
  | .fin _ _, hv => hv.imp_right fun ⟨hg, hl⟩ => ⟨hg, hl.trans h⟩

/-- A quotient in lowest terms. -/
def Reduced : QV → Prop
  | .fin n d => n = 0 ∨ Nat.Coprime n.natAbs d
  | _ => True

theorem Holds.reduced {p : Nat} : ∀ {v : QV}, Holds p v → Reduced v
  | .naq, _ => trivial
  | .inf _, _ => trivial
  | .fin _ _, hv => hv.imp_right And.left

/-! ### Reading what is written (R75, R76) -/

/-- The fields of an encoding: sign, slash and payload. -/
theorem fields_of_encoding {p q k pay : Nat} (neg : Bool) (hk : k < 2 ^ q) (hpay : pay < 2 ^ p) :
    let x := (if neg then 2 ^ (p + q) else 0) + k * 2 ^ p + pay
    x.testBit (p + q) = neg ∧ (x >>> p) % 2 ^ q = k ∧ x % 2 ^ p = pay := by
  intro x
  have hx : x = 2 ^ p * ((if neg then 2 ^ q else 0) + k) + pay := by
    show (if neg then 2 ^ (p + q) else 0) + k * 2 ^ p + pay = _
    cases neg <;> simp [pow_add] <;> ring
  have hdiv : x / 2 ^ p = (if neg then 2 ^ q else 0) + k := by
    rw [hx, Nat.mul_add_div (Nat.two_pow_pos p), Nat.div_eq_of_lt hpay, Nat.add_zero]
  refine ⟨?_, ?_, ?_⟩
  · rw [Nat.testBit_eq_decide_div_mod_eq, pow_add, ← Nat.div_div_eq_div_mul, hdiv]
    cases neg
    · simp [Nat.div_eq_of_lt hk]
    · simp [Nat.add_div_left _ (Nat.two_pow_pos q), Nat.div_eq_of_lt hk]
  · rw [Nat.shiftRight_eq_div_pow, hdiv]
    cases neg <;> simp [Nat.mod_eq_of_lt hk]
  · rw [hx, Nat.mul_add_mod, Nat.mod_eq_of_lt hpay]

/-- An encoding's payload in its two halves. -/
theorem halves_of_payload {m d j : Nat} (hd : d < 2 ^ j) : (m * 2 ^ j + d) >>> j = m ∧ (m * 2 ^ j + d) % 2 ^ j = d := by
  rw [Nat.shiftRight_eq_div_pow, Nat.mul_comm]
  exact ⟨by rw [Nat.mul_add_div (Nat.two_pow_pos j), Nat.div_eq_of_lt hd, Nat.add_zero], by rw [Nat.mul_add_mod, Nat.mod_eq_of_lt hd]⟩

section
variable {p : Nat} (hp : p ∈ [26, 57])
include hp

/-- `QRead` of an encoding whose halves are n and d. -/
theorem qRead_encoding {n d k : Nat} (neg : Bool) (hk : k ≤ p - 1) (hn : n < 2 ^ k) (hd : d < 2 ^ (p - k)) :
    qRead p ((if neg then 2 ^ (qWidth p - 1) else 0) + k * 2 ^ p + (n * 2 ^ (p - k) + d)) =
      if n = 0 ∧ d = 0 then (.naq, neg || k != 0)
      else if d = 0 then (.inf neg, n != 1 || k != 1)
      else if n = 0 then (.fin 0 1, d != 1 || neg || k != 0)
      else (.fin ((if neg then -1 else 1) * ((n / Nat.gcd n d : Nat) : Int)) (d / Nat.gcd n d), Nat.gcd n d != 1 || decide (bitlen n < k)) := by
  obtain ⟨hw, hslash, hp2⟩ := format_widths hp
  have hpay : n * 2 ^ (p - k) + d < 2 ^ p := by
    calc n * 2 ^ (p - k) + d < n * 2 ^ (p - k) + 2 ^ (p - k) := by omega
      _ = (n + 1) * 2 ^ (p - k) := by ring
      _ ≤ 2 ^ k * 2 ^ (p - k) := Nat.mul_le_mul_right _ hn
      _ = 2 ^ p := by rw [← pow_add]; congr 1; omega
  obtain ⟨hsign, hk', hpay'⟩ := fields_of_encoding neg (show k < 2 ^ qSlash p by omega) hpay
  obtain ⟨hhi, hlo⟩ := halves_of_payload (m := n) hd
  unfold qRead
  simp only [hw, hsign, hk', hpay', hhi, hlo]
  rw [if_neg (by omega)]

theorem qWrite_naq_canonical : (qRead p (qWrite p .naq)).2 = false := by
  have h := qRead_encoding hp (n := 0) (d := 0) (k := 0) false (by omega) (by simp) (Nat.two_pow_pos _)
  simpa [qWrite] using congrArg Prod.snd h

theorem qWrite_inf_canonical (s : Bool) : (qRead p (qWrite p (.inf s))).2 = false := by
  obtain ⟨-, -, hp2⟩ := format_widths hp
  have h := qRead_encoding hp (n := 1) (d := 0) (k := 1) s (by omega) (by simp) (Nat.two_pow_pos _)
  simpa [qWrite] using congrArg Prod.snd h

theorem qRead_qWrite_zero (d : Nat) : qRead p (qWrite p (.fin 0 d)) = (.fin 0 1, false) := by
  obtain ⟨-, -, hp2⟩ := format_widths hp
  have h := qRead_encoding hp (n := 0) (d := 1) (k := 0) false (by omega) (by simp) (Nat.one_lt_two_pow (by omega))
  simpa [qWrite] using h

omit hp in
theorem qWrite_fin {n : Int} (d : Nat) (hn : n ≠ 0) :
    qWrite p (.fin n d) = (if decide (n < 0) then 2 ^ (qWidth p - 1) else 0) + bitlen n.natAbs * 2 ^ p
      + (n.natAbs * 2 ^ (p - bitlen n.natAbs) + d) := by
  rw [qWrite, if_neg hn]
  simp only [decide_eq_true_eq, Nat.add_assoc]

/-- A value other than 0, and of denominator other than 0, reads back as it was written. -/
theorem qRead_qWrite_fin {n : Int} {d : Nat} (hn : n ≠ 0) (hd : d ≠ 0) (hg : Nat.Coprime n.natAbs d) (hl : bitlen n.natAbs + bitlen d ≤ p) :
    qRead p (qWrite p (.fin n d)) = (.fin n d, false) := by
  have ha : n.natAbs ≠ 0 := Int.natAbs_ne_zero.2 hn
  have hdpos := bitlen_pos hd
  rw [qWrite_fin d hn, qRead_encoding hp _ (by omega) (lt_two_pow_bitlen _) (bitlen_le_iff.1 (by omega)), if_neg (by simp [hd]), if_neg hd, if_neg ha,
    hg.gcd_eq_one, Nat.div_one, Nat.div_one]
  have hsign : (if decide (n < 0) = true then (-1 : Int) else 1) * (n.natAbs : Int) = n := by
    split <;> rename_i h <;> simp only [decide_eq_true_eq] at h <;> omega
  rw [hsign]
  simp

/-- Every value that an encoding holds is written canonically. -/
theorem qWrite_canonical : ∀ {v : QV}, Holds p v → (qRead p (qWrite p v)).2 = false
  | .naq, _ => qWrite_naq_canonical hp
  | .inf s, _ => qWrite_inf_canonical hp s
  | .fin n d, h => by
    by_cases hn : n = 0
    · rw [hn, qRead_qWrite_zero hp]
    · obtain ⟨hg, hl⟩ := h.resolve_left hn
      by_cases hd : d = 0
      · have h1 : n.natAbs = 1 := by rwa [hd, Nat.coprime_zero_right] at hg
        rw [← qWrite_inf_canonical hp (decide (n < 0)), qWrite_fin d hn, hd, h1, qWrite, show bitlen 1 = 1 from rfl, Nat.one_mul, Nat.one_mul,
            Nat.add_zero]
      · rw [qRead_qWrite_fin hp hn hd hg hl]

end

/-- What is read is in lowest terms, and an encoding holds it. -/
theorem holds_qRead {p : Nat} (x : Nat) : Holds p (qRead p x).1 := by
  unfold qRead
  extract_lets s k pay n d g
  split
  · trivial
  · rename_i hk
    have hpay : pay < 2 ^ p := Nat.mod_lt _ (Nat.two_pow_pos p)
    split
    · trivial
    · split
      · trivial
      · split
        · exact .inl rfl
        · rename_i hd hn
          have hkp : k ≤ p := by omega
          have hn' : bitlen n ≤ k := by
            rw [bitlen_le_iff]
            show pay >>> (p - k) < 2 ^ k
            rw [Nat.shiftRight_eq_div_pow, Nat.div_lt_iff_lt_mul (Nat.two_pow_pos _), ← pow_add, Nat.add_sub_of_le hkp]
            exact hpay
          have hd' : bitlen d ≤ p - k := bitlen_le_iff.2 (Nat.mod_lt _ (Nat.two_pow_pos _))
          have hmag : (((if s = true then -1 else 1) * ((n / g : Nat) : Int)).natAbs) = n / g := by
            rw [Int.natAbs_mul, Int.natAbs_natCast]
            split <;> simp
          refine .inr ?_
          rw [hmag]
          have hg : 0 < g := Nat.gcd_pos_of_pos_left d (Nat.pos_of_ne_zero hn)
          refine ⟨Nat.coprime_div_gcd_div_gcd hg, ?_⟩
          have h1 := bitlen_mono (Nat.div_le_self n g)
          have h2 := bitlen_mono (Nat.div_le_self d g)
          omega

theorem reduced_qRead (p x : Nat) : Reduced (qRead p x).1 := (holds_qRead x).reduced

/-! ### Exact results are in lowest terms (R80, R104, R150) -/

theorem reduced_mkQ (n : Int) (d : Nat) : Reduced (mkQ n d) := by
  unfold mkQ
  dsimp only
  split
  · exact .inl rfl
  · rename_i hg
    right
    have hdvd : ((Nat.gcd n.natAbs d : Nat) : Int) ∣ n := Int.natCast_dvd.2 (Nat.gcd_dvd_left ..)
    rw [Int.natAbs_ediv_of_dvd hdvd, Int.natAbs_natCast]
    exact Nat.coprime_div_gcd_div_gcd (Nat.pos_of_ne_zero hg)

theorem reduced_zero : Reduced (.fin 0 1) := .inl rfl

theorem reduced_ite {c : Prop} [Decidable c] {r q : QRes} (h : Reduced r.val) (k : Reduced q.val) : Reduced (if c then r else q).val := by
  split
  · exact h
  · exact k

theorem reduced_add : ∀ {a b : QV}, Reduced a → Reduced b → Reduced (a.add b).val
  | .naq, _, _, _ => trivial
  | .inf _, .naq, _, _ => trivial
  | .fin _ _, .naq, _, _ => trivial
  | .inf s, .inf _, _, _ => reduced_ite (r := ⟨.inf s, 0⟩) (q := ⟨.naq, QINV⟩) trivial trivial
  | .inf _, .fin _ _, _, _ => trivial
  | .fin _ _, .inf _, _, _ => trivial
  | .fin _ _, .fin _ _, _, _ => reduced_mkQ ..

theorem reduced_neg : ∀ {a : QV}, Reduced a → Reduced a.neg
  | .naq, _ => trivial
  | .inf _, _ => trivial
  | .fin n d, h => h.imp (fun e => by rw [e, Int.neg_zero]) (fun e => by rwa [Int.natAbs_neg])

theorem reduced_mul : ∀ {a b : QV}, Reduced a → Reduced b → Reduced (a.mul b).val
  | .naq, _, _, _ => trivial
  | .inf _, .naq, _, _ => trivial
  | .fin _ _, .naq, _, _ => trivial
  | .inf _, .inf _, _, _ => trivial
  | .inf s, .fin n _, _, _ => reduced_ite (r := ⟨.naq, QINV⟩) (q := ⟨.inf (s != decide (n < 0)), 0⟩) trivial trivial
  | .fin n _, .inf t, _, _ => reduced_ite (r := ⟨.naq, QINV⟩) (q := ⟨.inf (t != decide (n < 0)), 0⟩) trivial trivial
  | .fin _ _, .fin _ _, _, _ => reduced_mkQ ..

theorem reduced_div : ∀ {a b : QV}, Reduced a → Reduced b → Reduced (a.div b).val
  | .naq, _, _, _ => trivial
  | .inf _, .naq, _, _ => trivial
  | .fin _ _, .naq, _, _ => trivial
  | .inf _, .inf _, _, _ => trivial
  | .inf _, .fin _ _, _, _ => trivial
  | .fin _ _, .inf _, _, _ => reduced_zero
  | .fin n d, .fin m e, _, _ => reduced_ite (c := m = 0) (q := ⟨mkQ (n * e * (if m < 0 then -1 else 1)) (d * m.natAbs), 0⟩)
      (reduced_ite (c := n = 0) (r := ⟨.naq, QINV⟩) (q := ⟨.inf (decide (n < 0)), QZDIV⟩) trivial trivial) (reduced_mkQ ..)

theorem reduced_fma {a b c : QV} (ha : Reduced a) (hb : Reduced b) (hc : Reduced c) : Reduced (QV.fma a b c).val := reduced_add (reduced_mul ha hb) hc

theorem reduced_choice {c : Prop} [Decidable c] {a b : QV} (ha : Reduced a) (hb : Reduced b) : Reduced (if c then a else b) := by
  split
  · exact ha
  · exact hb

theorem reduced_minMax (up : Bool) : ∀ {a b : QV}, Reduced a → Reduced b → Reduced (qMinMax up a b)
  | .naq, _, _, hb => hb
  | .inf _, .naq, ha, _ => ha
  | .fin _ _, .naq, ha, _ => ha
  | .inf _, .inf _, ha, hb => reduced_choice ha hb
  | .inf _, .fin _ _, ha, hb => reduced_choice ha hb
  | .fin _ _, .inf _, ha, hb => reduced_choice ha hb
  | .fin _ _, .fin _ _, ha, hb => reduced_choice ha hb

theorem reduced_fToQ : ∀ x : FV, Reduced (fToQ x).val
  | .nan _ => trivial
  | .inf _ => trivial
  | .fin _ _ _ => reduced_mkQ ..

/-! ### Rounding (R77 to R79) -/

/-- A magnitude n/d in lowest terms that fits, or 0. -/
def Fits (p : Nat) (x : Nat × Nat) : Prop := x.1 = 0 ∨ (Nat.Coprime x.1 x.2 ∧ bitlen x.1 + bitlen x.2 ≤ p)

theorem holds_signedQ {p : Nat} {x : Nat × Nat} (neg : Bool) (h : Fits p x) : Holds p (signedQ neg x) := by
  have hmag : ((if neg = true then (-1 : Int) else 1) * (x.1 : Int)).natAbs = x.1 := by
    rw [Int.natAbs_mul, Int.natAbs_natCast]
    split <;> simp
  refine h.imp (fun e => by rw [e]; simp) (fun e => ?_)
  rwa [hmag]

/-- The search ends where it began, or where the test holds. -/
theorem searchMax_eq_or_test (test : Nat → Bool) : ∀ b acc : Nat, searchMax test b acc = acc ∨ test (searchMax test b acc) = true
  | 0, _ => .inl rfl
  | b + 1, acc => by
    rw [searchMax]
    split
    · rename_i h
      rcases searchMax_eq_or_test test b (acc + 2 ^ b) with e | e
      · exact .inr (by rwa [e])
      · exact .inr e
    · exact searchMax_eq_or_test test b acc

/-- Neighbours in the Stern-Brocot tree that fit: the upper one less the lower one is 1/(ld hd). -/
structure Neighbours (p : Nat) (r : Nat × Nat × Nat × Nat) : Prop where
  det : r.2.2.1 * r.2.1 = r.1 * r.2.2.2 + 1
  lo : bitlen r.1 + bitlen r.2.1 ≤ p
  hi : bitlen r.2.2.1 + bitlen r.2.2.2 ≤ p

theorem neighbours_descend {p : Nat} (xn xd : Nat) : ∀ (fuel : Nat) {r : Nat × Nat × Nat × Nat}, Neighbours p r → Neighbours p
    (descend p xn xd fuel r)
  | 0, _, h => h
  | fuel + 1, (ln, ld, hn, hd), h => by
    obtain ⟨hdet, hlo, hhi⟩ := h
    rw [descend]
    dsimp only at hdet hlo hhi ⊢
    split
    · exact ⟨hdet, hlo, hhi⟩
    · split
      · generalize hk : searchMax _ 64 0 = k
        refine neighbours_descend xn xd fuel ⟨by dsimp only; linarith [Nat.mul_add hn ld (k * hd)], ?_, hhi⟩
        rcases searchMax_eq_or_test _ 64 0 with e | e <;> rw [hk] at e
        · simpa [e] using hlo
        · simpa using (Bool.and_eq_true_iff.1 e).2
      · generalize hk : searchMax _ 64 0 = k
        refine neighbours_descend xn xd fuel ⟨by dsimp only; linarith [Nat.mul_add hn ld (k * hd)], hlo, ?_⟩
        rcases searchMax_eq_or_test _ 64 0 with e | e <;> rw [hk] at e
        · simpa [e] using hhi
        · simpa using (Bool.and_eq_true_iff.1 e).2

theorem coprime_of_det {a b c d : Nat} (h : a * b = c * d + 1) : Nat.Coprime c b ∧ Nat.Coprime a d := by
  have hone {g : Nat} (h1 : g ∣ a * b) (h2 : g ∣ c * d) : g = 1 := Nat.dvd_one.1 ((Nat.dvd_add_right h2).1 (h ▸ h1))
  exact ⟨hone ((Nat.gcd_dvd_right c b).mul_left a) ((Nat.gcd_dvd_left c b).mul_right d),
    hone ((Nat.gcd_dvd_left a d).mul_right b) ((Nat.gcd_dvd_right a d).mul_left c)⟩

theorem Neighbours.fits {p : Nat} {r : Nat × Nat × Nat × Nat} (h : Neighbours p r) : Fits p (r.1, r.2.1) ∧ Fits p (r.2.2.1, r.2.2.2) :=
  ⟨.inr ⟨(coprime_of_det h.det).1, h.lo⟩, .inr ⟨(coprime_of_det h.det).2, h.hi⟩⟩

theorem fits_qTie {p : Nat} {lo hi : Nat × Nat} (hlo : Fits p lo) (hhi : Fits p hi) : Fits p (qTie lo hi) := by
  unfold qTie
  split
  · exact hlo
  · split
    · exact hhi
    · split
      · exact hlo
      · exact hhi

/-- Convergents that follow one another have determinant 1 or -1. -/
theorem fits_lastConvergent {p : Nat} : ∀ (fuel n d : Nat) {prev cur : Nat × Nat},
    (cur.1 * prev.2 = prev.1 * cur.2 + 1 ∨ prev.1 * cur.2 = cur.1 * prev.2 + 1) → Fits p cur → Fits p (lastConvergent p fuel n d prev cur)
  | 0, _, _, _, _, _, h => h
  | fuel + 1, n, d, (pn, pd), (cn, cd), hdet, h => by
    rw [lastConvergent]
    dsimp only at hdet ⊢
    split
    · exact h
    · split
      · rename_i hfit
        generalize n / d = a at hfit ⊢
        have hdet' : (a * cn + pn) * cd = cn * (a * cd + pd) + 1 ∨ cn * (a * cd + pd) = (a * cn + pn) * cd + 1 :=
          hdet.symm.imp (fun e => by linarith) (fun e => by linarith)
        refine fits_lastConvergent fuel d (n % d) hdet' ?_
        simp only [qFits, Bool.or_eq_true, decide_eq_true_eq] at hfit
        exact hfit.imp_right fun hl => ⟨hdet'.elim (fun e => (coprime_of_det e).2) (fun e => (coprime_of_det e).1), hl⟩
      · exact h

theorem fits_greatest {p : Nat} (hp : 2 ≤ p) : Fits p (2 ^ (p - 1) - 1, 1) ∧ Fits p (1, 2 ^ (p - 1) - 1) := by
  have hpow := Nat.two_pow_pos (p - 1)
  have hl : bitlen (2 ^ (p - 1) - 1) ≤ p - 1 := bitlen_le_iff.2 (by omega)
  have h1 : bitlen 1 = 1 := rfl
  exact ⟨.inr ⟨Nat.coprime_one_right _, by dsimp only; omega⟩, .inr ⟨Nat.coprime_one_left _, by dsimp only; omega⟩⟩

/-- Rounding gives a value that the format holds. -/
theorem holds_qRound {p : Nat} (hp : 2 ≤ p) (mode : Nat) : ∀ {v : QV}, Reduced v → Holds p (qRound p mode v).val
  | .naq, _ => trivial
  | .inf _, _ => trivial
  | .fin n d, h => by
    have hn : Neighbours p (descend p n.natAbs d 200 (0, 1, 1, 0)) :=
      neighbours_descend _ _ _ ⟨rfl, (show bitlen 0 + bitlen 1 ≤ p from Nat.le_of_succ_le hp),
          (show bitlen 1 + bitlen 0 ≤ p from Nat.le_of_succ_le hp)⟩
    obtain ⟨hlo, hhi⟩ := hn.fits
    unfold qRound
    dsimp only
    split
    · rename_i hfit
      simp only [qFits, Bool.or_eq_true, decide_eq_true_eq, Int.natAbs_eq_zero] at hfit
      exact or_iff_not_imp_left.2 fun hne => ⟨h.resolve_left hne, hfit.resolve_left hne⟩
    · split
      · split
        · trivial
        · exact holds_signedQ _ (fits_greatest hp).1
      · split
        · split
          · exact .inl rfl
          · exact holds_signedQ _ (fits_greatest hp).2
        · refine holds_signedQ _ ?_
          split
          · split
            · exact hlo
            · split
              · exact hhi
              · exact fits_qTie hlo hhi
          · exact fits_lastConvergent _ _ _ (.inl rfl) (.inr ⟨Nat.coprime_zero_right 1 |>.2 rfl, Nat.le_of_succ_le hp⟩)
          · split
            · exact hlo
            · split
              · exact hhi
              · exact fits_qTie hlo hhi
          · split
            · exact hhi
            · exact hlo
          · split
            · exact hlo
            · exact hhi
          · exact hlo

/-- A value in lowest terms that fits is not rounded. -/
theorem qRound_fits (p mode : Nat) {n : Int} {d : Nat} (h : bitlen n.natAbs + bitlen d ≤ p) : qRound p mode (.fin n d) = ⟨.fin n d, 0⟩ :=
  if_pos (by simp [qFits, h])

/-! ### The results -/

section
variable {p : Nat} (hp : p ∈ [26, 57])
include hp

theorem qFinish_canonical (mode : Nat) {r : QRes} (h : Reduced r.val) : (qRead p (qFinish p mode r).bits).2 = false :=
  qWrite_canonical hp (holds_qRound (format_widths hp).2.2 mode h)

theorem qBin_canonical {op : QV → QV → QRes} (hop : ∀ {x y : QV}, Reduced x → Reduced y → Reduced (op x y).val) (mode a b c : Nat) :
    (qRead p (qBin op p mode a b c).bits).2 = false :=
  qFinish_canonical hp mode (hop (reduced_qRead p a) (reduced_qRead p b))

theorem exact_unrounded (mode : Nat) {n : Int} {k : Nat} (hk : 0 < k) (hg : Nat.Coprime n.natAbs k) (hl : bitlen n.natAbs + bitlen k ≤ p)
    (hz : n ≠ 0 ∨ k = 1) :
    qFinish p mode ⟨.fin n k, 0⟩ = ⟨qWrite p (.fin n k), 0⟩ ∧ qRead p (qWrite p (.fin n k)) = (.fin n k, false) := by
  refine ⟨by simp [qFinish, qRound_fits p mode hl], ?_⟩
  by_cases hn : n = 0
  · rw [hn, hz.resolve_left (not_not_intro hn), qRead_qWrite_zero hp]
  · exact qRead_qWrite_fin hp hn hk.ne' hg hl

end

/-- Settles O13: what rounding chooses is in lowest terms, being a neighbour in the Stern-Brocot tree or a convergent, and fits the payload. -/
theorem rationalResultsAreCanonical : Obligations.RationalResultsAreCanonical := by
  unfold Obligations.RationalResultsAreCanonical
  intro p hp mode _ a b
  refine ⟨?ops, fun n k hk hg hl hz => exact_unrounded hp mode hk hg hl hz, fun up c => ⟨qBin_canonical hp (reduced_minMax up) mode a b c, ?fma⟩,
    fun pb h2 hpb => qWrite_canonical hp ((holds_qRound h2 mode (reduced_qRead p a)).mono hpb),
        fun sty _ => qFinish_canonical hp mode (reduced_fToQ _),
    fun po _ => qFinish_canonical hp mode (reduced_qRead po a), qWrite_canonical hp (holds_qRead a)⟩
  case ops =>
    simp only [List.forall_mem_cons, List.not_mem_nil, false_imp_iff, implies_true, and_true]
    exact ⟨qBin_canonical hp reduced_add mode a b 0, qBin_canonical hp (fun hx hy => reduced_add hx (reduced_neg hy)) mode a b 0,
      qBin_canonical hp reduced_mul mode a b 0, qBin_canonical hp reduced_div mode a b 0⟩
  case fma => exact qFinish_canonical hp mode (reduced_fma (reduced_qRead p a) (reduced_qRead p b) (reduced_qRead p c))

end Sys2Proof.Proofs.Rationals

/-! PROOF. Floating magnitudes (R68): finite encodings count the magnitudes of a format in rising order. -/
namespace Sys2Proof.Proofs.Magnitudes
open Sys2Proof Sys2Proof.Machine

/-- What every floating format has: a mantissa, a bias, and a NaN, where it has one without infinities, above its finite magnitudes. -/
structure Plain (f : Fmt) : Prop where
  mb : 1 ≤ f.mb
  bias : 1 ≤ f.bias
  nan : f.ieee = false → ∀ c, f.nan = some c → f.maxEnc < c

theorem plain_fmtOf (ty : Nat) : Plain (fmtOf ty) := by
  unfold fmtOf
  split <;> exact ⟨by decide, by decide, by decide⟩

/-- The magnitude of mantissa k and exponent E, in units; k may run on to the next exponent's first mantissa. -/
theorem units_enc (f : Fmt) {E k : Nat} (hk : k ≤ 2 * 2 ^ f.mb) (hE : E = 0 ∨ 2 ^ f.mb ≤ k) : f.units (E * 2 ^ f.mb + k) = k * 2 ^ E := by
  have hB := Nat.two_pow_pos f.mb
  unfold Fmt.units
  rw [Nat.shiftRight_eq_div_pow]
  generalize 2 ^ f.mb = B at *
  rcases Nat.lt_or_ge k B with hlow | hhigh
  · obtain rfl : E = 0 := hE.resolve_right (by omega)
    simp [Nat.div_eq_of_lt hlow, Nat.mod_eq_of_lt hlow]
  · rcases Nat.lt_or_ge k (2 * B) with hmid | htop
    · have hy : E * B + k = (k - B) + (E + 1) * B := by rw [Nat.add_mul]; omega
      rw [hy, Nat.add_mul_div_right _ _ hB, Nat.add_mul_mod_self_right, Nat.div_eq_of_lt (by omega), Nat.mod_eq_of_lt (by omega), if_neg (by omega)]
      congr 1 <;> [skip; congr 1] <;> omega
    · obtain rfl : k = 2 * B := by omega
      have hy : E * B + 2 * B = (E + 2) * B := by ring
      rw [hy, Nat.mul_div_cancel _ hB, Nat.mul_mod_left, if_neg (by omega), show E + 2 - 1 = E + 1 by omega]
      ring

/-- Every encoding has its mantissa and exponent. -/
theorem exists_enc (f : Fmt) (y : Nat) : ∃ E k, y = E * 2 ^ f.mb + k ∧ k < 2 * 2 ^ f.mb ∧ (E = 0 ∨ 2 ^ f.mb ≤ k) := by
  have hB := Nat.two_pow_pos f.mb
  generalize 2 ^ f.mb = B at *
  rcases Nat.lt_or_ge y B with hlow | hhigh
  · exact ⟨0, y, by omega, by omega, .inl rfl⟩
  · refine ⟨y / B - 1, y % B + B, ?_, by have := Nat.mod_lt y hB; omega, .inr (by omega)⟩
    have hdiv : 1 ≤ y / B := (Nat.le_div_iff_mul_le hB).2 (by omega)
    have hmod := Nat.div_add_mod' y B
    rw [Nat.sub_mul, Nat.one_mul]
    have := Nat.mul_le_mul_right B hdiv
    omega

theorem units_strictMono (f : Fmt) : StrictMono f.units := by
  refine strictMono_nat_of_lt_succ fun y => ?_
  obtain ⟨E, k, rfl, hk, hE⟩ := exists_enc f y
  rw [Nat.add_assoc, units_enc f hk.le hE, units_enc f (Nat.succ_le_of_lt hk) (hE.imp_right Nat.le_succ_of_le)]
  exact Nat.mul_lt_mul_of_pos_right (Nat.lt_succ_self k) (Nat.two_pow_pos E)

/-- One more is one more unit of the last place. -/
theorem units_succ (f : Fmt) (y : Nat) : f.units (y + 1) = f.units y + 2 ^ (max (y / 2 ^ f.mb) 1 - 1) := by
  have hB := Nat.two_pow_pos f.mb
  rcases Nat.lt_or_ge y (2 ^ f.mb) with hlow | hhigh
  · have hu (k : Nat) (hk : k ≤ 2 ^ f.mb) : f.units k = k := by simpa using units_enc f (E := 0) (k := k) (by omega) (.inl rfl)
    rw [hu y hlow.le, hu (y + 1) hlow, Nat.div_eq_of_lt hlow]
    rfl
  · have hdiv : 1 ≤ y / 2 ^ f.mb := (Nat.le_div_iff_mul_le hB).2 (by omega)
    have hmod := Nat.mod_lt y hB
    have hy : y = (y / 2 ^ f.mb - 1) * 2 ^ f.mb + (y % 2 ^ f.mb + 2 ^ f.mb) := by
      have hdm := Nat.div_add_mod' y (2 ^ f.mb)
      have := Nat.mul_le_mul_right (2 ^ f.mb) hdiv
      rw [Nat.sub_mul, Nat.one_mul]
      omega
    have hu (j : Nat) (hj : j ≤ 1) : f.units (y + j) = (y % 2 ^ f.mb + 2 ^ f.mb + j) * 2 ^ (y / 2 ^ f.mb - 1) := by
      conv_lhs => rw [hy, Nat.add_assoc]
      exact units_enc f (by omega) (.inr (by omega))
    have h0 := hu 0 (by decide)
    rw [Nat.add_zero, Nat.add_zero] at h0
    rw [hu 1 le_rfl, h0, Nat.max_eq_left hdiv]
    ring

theorem units_zero (f : Fmt) : f.units 0 = 0 := by simp [Fmt.units]

theorem units_pos {f : Fmt} {y : Nat} (h : 0 < y) : 0 < f.units y := by
  have := units_strictMono f h
  rwa [units_zero] at this

theorem perOne_eq (f : Fmt) : f.perOne = 2 ^ (f.bias + f.mb - 1) := rfl

/-- R68: a finite encoding stands for its magnitude, with its sign. -/
theorem decodeF_finite {f : Fmt} (hf : Plain f) {a : Nat} (h : a % 2 ^ (f.w - 1) ≤ f.maxEnc) :
    ∃ m E : Nat, decodeF f a = .fin (a.testBit (f.w - 1)) m ((E : Int) - (f.bias + f.mb - 1 : Nat)) ∧ f.units (a % 2 ^ (f.w - 1)) = m * 2 ^ E := by
  obtain ⟨hmb, hbias, hnan⟩ := hf
  unfold decodeF Fmt.units
  dsimp only
  generalize a % 2 ^ (f.w - 1) = mag at h ⊢
  rw [if_neg (by simp; omega), if_neg (fun ⟨hi, hc⟩ => by have := hnan hi _ hc; omega)]
  split
  · exact ⟨mag % 2 ^ f.mb, 0, by congr 1; omega, by simp⟩
  · rename_i hne
    have hpos : 1 ≤ mag >>> f.mb := Nat.pos_of_ne_zero hne
    refine ⟨mag % 2 ^ f.mb + 2 ^ f.mb, mag >>> f.mb - 1, ?_, rfl⟩
    generalize mag >>> f.mb = e at hpos ⊢
    congr 1
    omega

end Sys2Proof.Proofs.Magnitudes

/-! PROOF. Rounding (R67, R70, R71): the quotient rounded down lies beside the exact value, and the rounding code takes it or the next magnitude. -/
namespace Sys2Proof.Proofs.Rounding
open Sys2Proof Sys2Proof.Machine Sys2Proof.Proofs.Magnitudes

/-! ### One of two neighbours -/

/-- The rest of a division by `half` places x/d between the magnitudes c and c + 1. -/
structure Between (u : Nat → Nat) (x d c rest half : Nat) : Prop where
  lo : d * u c ≤ x
  hi : x < d * u (c + 1)
  exact : rest = 0 ↔ d * u c = x
  above : half < 2 * rest ↔ d * u c + d * u (c + 1) < 2 * x
  tie : 2 * rest = half ↔ d * u c + d * u (c + 1) = 2 * x

/-- The magnitude that a rounding code takes. -/
def rounded (rm : Nat) (neg : Bool) (c rest half : Nat) : Nat := if roundUp rm neg (c % 2 == 1) rest half then c + 1 else c

theorem roundUp_down {rm : Nat} {neg : Bool} (h : rm = 1 ∨ (rm = 2 ∧ neg = false) ∨ (rm = 3 ∧ neg = true)) (odd : Bool) (rest half : Nat) :
    roundUp rm neg odd rest half = false := by
  rcases h with rfl | ⟨rfl, rfl⟩ | ⟨rfl, rfl⟩ <;> rfl

theorem roundUp_up {rm : Nat} {neg : Bool} (h : (rm = 2 ∧ neg = true) ∨ (rm = 3 ∧ neg = false)) (odd : Bool) (rest half : Nat) :
    roundUp rm neg odd rest half = (rest != 0) := by
  rcases h with ⟨rfl, rfl⟩ | ⟨rfl, rfl⟩ <;> rfl

theorem roundUp_nearest (neg odd : Bool) (rest half : Nat) :
    roundUp 0 neg odd rest half = true ↔ half < 2 * rest ∨ (2 * rest = half ∧ odd = true) := by
  simp [roundUp]

section
variable {u : Nat → Nat} (hu : StrictMono u) {x d c rest half : Nat} (h : Between u x d c rest half)
include hu h

omit h in
/-- A magnitude is one of the two or lies outside them. -/
theorem le_or_ge_neighbour (y : Nat) : (y ≤ c ∧ d * u y ≤ d * u c) ∨ (c + 1 ≤ y ∧ d * u (c + 1) ≤ d * u y) := by
  rcases Nat.lt_or_ge c y with hy | hy
  · exact .inr ⟨hy, Nat.mul_le_mul_left d (hu.monotone hy)⟩
  · exact .inl ⟨hy, Nat.mul_le_mul_left d (hu.monotone hy)⟩

theorem mul_units_inj {y z : Nat} (e : d * u y = d * u z) : y = z := by
  have hd : 0 < d := by
    rcases Nat.eq_zero_or_pos d with rfl | hd
    · have := h.hi; simp at this
    · exact hd
  exact hu.injective (Nat.eq_of_mul_eq_mul_left hd e)

/-- The nearest magnitude, a tie to the even one. -/
theorem nearest_rounded (neg : Bool) (y : Nat) :
    let r := rounded 0 neg c rest half
    ((d * u r : Int) - x).natAbs ≤ ((d * u y : Int) - x).natAbs
      ∧ (y ≠ r → ((d * u r : Int) - x).natAbs = ((d * u y : Int) - x).natAbs → r % 2 = 0) := by
  intro r
  have hside := le_or_ge_neighbour hu (d := d) (c := c) y
  have hc := mul_units_inj hu h (y := y) (z := c)
  have hc' := mul_units_inj hu h (y := y) (z := c + 1)
  obtain ⟨hlo, hhi, -, habove, htie⟩ := h
  have hup := roundUp_nearest neg (c % 2 == 1) rest half
  simp only [beq_iff_eq] at hup
  show ((d * u r : Int) - x).natAbs ≤ _ ∧ _
  have hr : r = if roundUp 0 neg (c % 2 == 1) rest half then c + 1 else c := rfl
  simp only [← Nat.cast_mul]
  split at hr
  · rename_i e
    have hover := hup.1 e
    rw [hr]
    generalize d * u c = p at *
    generalize d * u (c + 1) = q at *
    generalize d * u y = z at *
    omega
  · rename_i e
    have hnot := mt hup.2 e
    rw [hr]
    generalize d * u c = p at *
    generalize d * u (c + 1) = q at *
    generalize d * u y = z at *
    omega

/-- What the rounding code takes is the neighbour that it names. -/
theorem roundsTo_rounded {rm : Nat} (neg : Bool) : RoundsTo rm neg u x d (rounded rm neg c rest half) := by
  refine ⟨fun hm => ?_, fun hm => ?_, fun hm y => ?_⟩
  · rw [rounded, roundUp_down hm]
    refine ⟨h.lo, fun y hy => ?_⟩
    rcases Nat.lt_or_ge c y with hcy | hcy
    · exact absurd (h.hi.trans_le (Nat.mul_le_mul_left d (hu.monotone hcy))) (Nat.not_lt.2 hy)
    · exact hu.monotone hcy
  · rw [rounded, roundUp_up hm]
    by_cases h0 : rest = 0
    · rw [h0]
      exact ⟨(h.exact.1 h0).ge, fun y hy => by
        rw [← h.exact.1 h0] at hy
        rcases Nat.lt_or_ge y c with hcy | hcy
        · have hd : 0 < d := Nat.pos_of_ne_zero fun e => by have := h.hi; simp [e] at this
          exact absurd hy (Nat.not_le.2 (Nat.mul_lt_mul_of_pos_left (hu hcy) hd))
        · exact hu.monotone hcy⟩
    · rw [if_pos (by simpa using h0)]
      refine ⟨h.hi.le, fun y hy => ?_⟩
      rcases Nat.lt_or_ge c y with hcy | hcy
      · exact hu.monotone hcy
      · have hlt : d * u c < x := lt_of_le_of_ne h.lo (mt h.exact.2 h0)
        exact absurd (hy.trans (Nat.mul_le_mul_left d (hu.monotone hcy))) (Nat.not_le.2 hlt)
  · subst hm
    exact nearest_rounded hu h neg y

omit hu in
/-- It is the value itself exactly where nothing is left. -/
theorem exact_rounded {rm : Nat} (neg : Bool) (hhalf : 0 < half) : rest = 0 ↔ d * u (rounded rm neg c rest half) = x := by
  unfold rounded
  split
  · rename_i hup
    refine iff_of_false (fun h0 => ?_) h.hi.ne'
    subst h0
    unfold roundUp at hup
    split at hup <;> simp at hup
    omega
  · exact h.exact

end

/-! ### Powers of two (R70) -/

/-- n/d lies below 2^z, both scaled by 2^P. -/
def Below (n d : Nat) (z : Int) (P : Nat) : Prop := n * 2 ^ P < d * 2 ^ (z + P).toNat

theorem below_add (n d : Nat) {z : Int} {P : Nat} (t : Nat) (hP : 0 ≤ z + P) : Below n d z (P + t) ↔ Below n d z P := by
  have hz : (z + ((P + t : Nat) : Int)).toNat = (z + P).toNat + t := by omega
  unfold Below
  rw [hz, pow_add, pow_add, ← Nat.mul_assoc, ← Nat.mul_assoc]
  exact Nat.mul_lt_mul_right (Nat.two_pow_pos t)

/-- The scale does not matter. -/
theorem below_scale (n d : Nat) {z : Int} {P Q : Nat} (hP : 0 ≤ z + P) (hQ : 0 ≤ z + Q) : Below n d z P ↔ Below n d z Q := by
  rcases Nat.le_total P Q with h | h
  · obtain ⟨t, rfl⟩ := Nat.exists_eq_add_of_le h
    exact (below_add n d t hP).symm
  · obtain ⟨t, rfl⟩ := Nat.exists_eq_add_of_le h
    exact below_add n d t hQ

theorem Below.mono {n d P : Nat} {y z : Int} (h : Below n d y P) (hyz : y ≤ z) : Below n d z P :=
  h.trans_le (Nat.mul_le_mul_left d (Nat.pow_le_pow_right (by decide) (by omega)))

/-- `ilog2` is the floor of the logarithm. -/
theorem ilog2_spec {n d : Nat} (hn : 0 < n) (hd : 0 < d) {P : Nat} (hP : 0 ≤ ilog2 n d + P) :
    ¬ Below n d (ilog2 n d) P ∧ Below n d (ilog2 n d + 1) P := by
  obtain ⟨hna, hnb⟩ : 2 ^ n.log2 ≤ n ∧ n < 2 ^ (n.log2 + 1) := ⟨Nat.log2_self_le hn.ne', Nat.lt_log2_self⟩
  obtain ⟨hda, hdb⟩ : 2 ^ d.log2 ≤ d ∧ d < 2 ^ (d.log2 + 1) := ⟨Nat.log2_self_le hd.ne', Nat.lt_log2_self⟩
  have htest : n * 2 ^ (-((n.log2 : Int) - d.log2)).toNat < d * 2 ^ ((n.log2 : Int) - d.log2).toNat ↔ Below n d ((n.log2 : Int) - d.log2) d.log2 := by
    refine Iff.trans ?_ (below_scale n d (P := (-((n.log2 : Int) - d.log2)).toNat) (by omega) (by omega))
    rw [Below, show ((n.log2 : Int) - d.log2 + ((-((n.log2 : Int) - d.log2)).toNat : Int)).toNat = ((n.log2 : Int) - d.log2).toNat by omega]
  -- a factor of two below and above the quotient of the leading powers
  have hlow : ¬ Below n d ((n.log2 : Int) - d.log2 - 1) (d.log2 + 1) := by
    rw [Below, show ((n.log2 : Int) - d.log2 - 1 + ((d.log2 + 1 : Nat) : Int)).toNat = n.log2 by omega, Nat.not_lt]
    calc d * 2 ^ n.log2 ≤ 2 ^ (d.log2 + 1) * 2 ^ n.log2 := Nat.mul_le_mul_right _ hdb.le
      _ = 2 ^ n.log2 * 2 ^ (d.log2 + 1) := Nat.mul_comm ..
      _ ≤ n * 2 ^ (d.log2 + 1) := Nat.mul_le_mul_right _ hna
  have hhigh : Below n d ((n.log2 : Int) - d.log2 + 1) d.log2 := by
    rw [Below, show ((n.log2 : Int) - d.log2 + 1 + (d.log2 : Int)).toNat = n.log2 + 1 by omega]
    calc n * 2 ^ d.log2 < 2 ^ (n.log2 + 1) * 2 ^ d.log2 := Nat.mul_lt_mul_of_pos_right hnb (Nat.two_pow_pos _)
      _ = 2 ^ d.log2 * 2 ^ (n.log2 + 1) := Nat.mul_comm ..
      _ ≤ d * 2 ^ (n.log2 + 1) := Nat.mul_le_mul_right _ hda
  unfold ilog2 at hP ⊢
  dsimp only at hP ⊢
  split at hP <;> rename_i ht <;> rw [htest] at ht
  · rw [if_pos (htest.2 ht)]
    refine ⟨mt (below_scale n d hP (by omega)).1 hlow, ?_⟩
    rw [Int.sub_add_cancel]
    exact (below_scale n d (by omega) (by omega)).1 ht
  · rw [if_neg (mt htest.1 ht)]
    exact ⟨mt (below_scale n d hP (by omega)).1 ht, (below_scale n d (by omega) (by omega)).1 hhigh⟩

/-! ### A magnitude rounded (R70, R71) -/

theorem between_of_scale {u : Nat → Nat} {x d c k rest half w : Nat} (hw : 0 < w) (hrest : rest < half) (hx : x * half = (k * half + rest) * w)
    (hlo : d * u c = k * w) (hhi : d * u (c + 1) = (k + 1) * w) : Between u x d c rest half := by
  have hhalf : 0 < half := by omega
  have hx' : x * half = k * w * half + rest * w := by rw [hx]; ring
  obtain ⟨t, rfl⟩ : ∃ t, x = k * w + t := Nat.exists_eq_add_of_le (Nat.le_of_mul_le_mul_right (by rw [hx']; exact Nat.le_add_right ..) hhalf)
  have ht : t * half = rest * w := by linarith
  have hcmp (a b : Nat) : a * half < b * half ↔ a < b := Nat.mul_lt_mul_right hhalf
  have hcmpw (a b : Nat) : a * w < b * w ↔ a < b := Nat.mul_lt_mul_right hw
  have hlt : t < w := by rw [← hcmp, ht, Nat.mul_comm w, hcmpw]; exact hrest
  have hzero : rest = 0 ↔ t = 0 := by
    have h0 : t * half = 0 ↔ rest * w = 0 := by rw [ht]
    simpa [hhalf.ne', hw.ne', iff_comm] using h0
  have habove : half < 2 * rest ↔ w < 2 * t := by rw [← hcmpw, ← hcmp w, Nat.mul_assoc 2 t, ht, Nat.mul_comm half, Nat.mul_assoc]
  have hbelow : 2 * rest < half ↔ 2 * t < w := by rw [← hcmpw, ← hcmp (2 * t), Nat.mul_assoc 2 t, ht, Nat.mul_comm half, Nat.mul_assoc]
  rw [Nat.add_mul, Nat.one_mul] at hhi
  exact ⟨by rw [hlo]; omega, by rw [hhi]; omega, by rw [hlo]; omega, by rw [hlo, hhi]; omega, by rw [hlo, hhi]; omega⟩

/-- The exponent of a magnitude's last place (R70). -/
def lastPlace (f : Fmt) (n d : Nat) : Int := (if ilog2 n d < 1 - (f.bias : Int) then 1 - (f.bias : Int) else ilog2 n d) - f.mb

/-- The numerator and the denominator in units of the last place. -/
def scaledNum (f : Fmt) (n d : Nat) : Nat := n * 2 ^ (-lastPlace f n d).toNat
@[inherit_doc scaledNum] def scaledDen (f : Fmt) (n d : Nat) : Nat := d * 2 ^ (lastPlace f n d).toNat

/-- The encoding of a magnitude rounded toward zero. -/
def truncated (f : Fmt) (n d : Nat) : Nat :=
  (lastPlace f n d + f.mb + f.bias - 1).toNat * 2 ^ f.mb + scaledNum f n d / scaledDen f n d

section
variable {f : Fmt} (hf : Plain f) {n d : Nat} (hn : 0 < n) (hd : 0 < d)
include hf

theorem lastPlace_ge : 0 ≤ lastPlace f n d + ((f.bias + f.mb - 1 : Nat) : Int) := by
  obtain ⟨hmb, hbias⟩ := hf
  unfold lastPlace
  split <;> omega

/-- Units of the last place are whole numbers of least units. -/
theorem scale_units : n * f.perOne * scaledDen f n d = scaledNum f n d * (d * 2 ^ (lastPlace f n d + f.mb + f.bias - 1).toNat) := by
  have hq := lastPlace_ge hf (n := n) (d := d)
  obtain ⟨hmb, hbias⟩ := hf
  have hpow : f.perOne * 2 ^ (lastPlace f n d).toNat = 2 ^ (-lastPlace f n d).toNat * 2 ^ (lastPlace f n d + f.mb + f.bias - 1).toNat := by
    rw [Fmt.perOne, ← pow_add, ← pow_add]
    congr 1
    omega
  unfold scaledDen scaledNum
  calc n * f.perOne * (d * 2 ^ (lastPlace f n d).toNat) = n * d * (f.perOne * 2 ^ (lastPlace f n d).toNat) := by ring
    _ = _ := by rw [hpow]; ring

include hn hd

omit hf in
/-- The quotient has the bits of a mantissa. -/
theorem quotient_bounds :
    scaledNum f n d / scaledDen f n d < 2 * 2 ^ f.mb
      ∧ ((lastPlace f n d + f.mb + f.bias - 1).toNat = 0 ∨ 2 ^ f.mb ≤ scaledNum f n d / scaledDen f n d) := by
  have hden : 0 < scaledDen f n d := Nat.mul_pos hd (Nat.two_pow_pos _)
  obtain ⟨hfloor, hceil⟩ := ilog2_spec hn hd (P := (-lastPlace f n d).toNat + (-ilog2 n d).toNat) (by omega)
  have hbelow (j : Nat) : Below n d (lastPlace f n d + j) ((-lastPlace f n d).toNat + (-ilog2 n d).toNat)
      ↔ scaledNum f n d < scaledDen f n d * 2 ^ j := by
    rw [below_add n d _ (by omega), Below, show (lastPlace f n d + j + ((-lastPlace f n d).toNat : Int)).toNat = (lastPlace f n d).toNat + j by omega,
      pow_add, ← Nat.mul_assoc]
    rfl
  have hlead : (lastPlace f n d + f.mb = 1 - (f.bias : Int) ∧ ilog2 n d < lastPlace f n d + f.mb) ∨ lastPlace f n d + f.mb = ilog2 n d := by
    unfold lastPlace
    split <;> omega
  refine ⟨?_, ?_⟩
  · rw [Nat.div_lt_iff_lt_mul hden, Nat.mul_comm, Nat.mul_comm 2, ← pow_succ, ← hbelow]
    exact hceil.mono (by omega)
  · rcases hlead with ⟨hmin, -⟩ | hlead
    · exact .inl (by omega)
    · refine .inr ((Nat.le_div_iff_mul_le hden).2 ?_)
      rw [Nat.mul_comm, ← Nat.not_lt, ← hbelow, hlead]
      exact hfloor

/-- The exact value lies between the magnitude rounded toward zero and the next one. -/
theorem between_truncated :
    Between f.units (n * f.perOne) d (truncated f n d) (scaledNum f n d % scaledDen f n d) (scaledDen f n d) := by
  have hden : 0 < scaledDen f n d := Nat.mul_pos hd (Nat.two_pow_pos _)
  obtain ⟨hk, hE⟩ := quotient_bounds hn hd
  refine between_of_scale (Nat.mul_pos hd (Nat.two_pow_pos _)) (Nat.mod_lt _ hden) (k := scaledNum f n d / scaledDen f n d)
    (w := d * 2 ^ (lastPlace f n d + f.mb + f.bias - 1).toNat) ?_ ?_ ?_
  · rw [scale_units hf, Nat.div_add_mod']
  · rw [truncated, units_enc f hk.le hE]
    ring
  · rw [truncated, Nat.add_assoc, units_enc f (Nat.succ_le_of_lt hk) (hE.imp_right Nat.le_succ_of_le), Nat.succ_eq_add_one]
    ring

omit hn hd in
theorem roundMag_eq (rm : Nat) (neg : Bool) :
    roundMag f rm neg n d = (rounded rm neg (truncated f n d) (scaledNum f n d % scaledDen f n d) (scaledDen f n d),
      scaledNum f n d % scaledDen f n d != 0, decide (ilog2 n d < 1 - (f.bias : Int))) := by
  have hodd : truncated f n d % 2 = scaledNum f n d / scaledDen f n d % 2 := by
    obtain ⟨m, hm⟩ := Nat.exists_eq_add_of_le hf.mb
    rw [truncated, hm, pow_add, Nat.add_mod, Nat.mul_left_comm, pow_one, Nat.mul_mod_right, Nat.zero_add, Nat.mod_mod]
  unfold rounded
  have hdef : roundMag f rm neg n d = ((lastPlace f n d + f.mb + f.bias - 1).toNat * 2 ^ f.mb
      + (if roundUp rm neg (scaledNum f n d / scaledDen f n d % 2 == 1) (scaledNum f n d % scaledDen f n d) (scaledDen f n d)
          then scaledNum f n d / scaledDen f n d + 1 else scaledNum f n d / scaledDen f n d),
      scaledNum f n d % scaledDen f n d != 0, decide (ilog2 n d < 1 - (f.bias : Int))) := rfl
  rw [hodd, truncated, hdef]
  split <;> rfl

/-- R71: what `roundMag` gives is the value rounded as the code says, inexact where it differs from it, and tiny below the least normal. -/
theorem roundMag_spec (rm : Nat) (neg : Bool) :
    RoundsTo rm neg f.units (n * f.perOne) d (roundMag f rm neg n d).1
      ∧ ((roundMag f rm neg n d).2.1 = false ↔ d * f.units (roundMag f rm neg n d).1 = n * f.perOne)
      ∧ ((roundMag f rm neg n d).2.2 = true ↔ n * f.perOne < d * 2 ^ f.mb) := by
  have hden : 0 < scaledDen f n d := Nat.mul_pos hd (Nat.two_pow_pos _)
  have hbet := between_truncated hf hn hd
  rw [roundMag_eq hf]
  refine ⟨roundsTo_rounded (units_strictMono f) hbet neg, ?_, ?_⟩
  · rw [← exact_rounded hbet neg hden, bne_eq_false_iff_eq]
  · have hbias := hf.bias
    have hP : (1 - (f.bias : Int) + ((f.bias + f.mb - 1 : Nat) : Int)).toNat = f.mb := by omega
    have hbelow : Below n d (1 - (f.bias : Int)) (f.bias + f.mb - 1) ↔ n * f.perOne < d * 2 ^ f.mb := by rw [Below, hP]; rfl
    obtain ⟨hfloor, hceil⟩ := ilog2_spec hn hd (P := f.bias + f.mb - 1 + (-ilog2 n d).toNat) (by omega)
    rw [← hbelow, ← below_add n d (-ilog2 n d).toNat (by omega), decide_eq_true_eq]
    exact ⟨fun h => hceil.mono (by omega), fun h => Int.not_le.1 fun hle => hfloor (h.mono hle)⟩

end

/-! ### Only the quotient counts -/

section
variable {x d x' d' : Nat} (hd : 0 < d) (hd' : 0 < d') (he : x * d' = x' * d)
include hd hd' he

theorem le_cross (a b : Nat) : d * a ≤ b * x ↔ d' * a ≤ b * x' := by
  have h1 : d * a * d' = d' * a * d := by ring
  have h2 : b * x * d' = b * x' * d := by rw [Nat.mul_assoc, he, Nat.mul_assoc]
  rw [← Nat.mul_le_mul_right_iff hd', h1, h2, Nat.mul_le_mul_right_iff hd]

theorem ge_cross (a b : Nat) : b * x ≤ d * a ↔ b * x' ≤ d' * a := by
  have h1 : d * a * d' = d' * a * d := by ring
  have h2 : b * x * d' = b * x' * d := by rw [Nat.mul_assoc, he, Nat.mul_assoc]
  rw [← Nat.mul_le_mul_right_iff hd', h1, h2, Nat.mul_le_mul_right_iff hd]

theorem eq_cross (a b : Nat) : d * a = b * x ↔ d' * a = b * x' := by
  rw [le_antisymm_iff, le_antisymm_iff, le_cross hd hd' he, ge_cross hd hd' he]

end

theorem Between.den_pos {u : Nat → Nat} {x d c rest half : Nat} (h : Between u x d c rest half) : 0 < d :=
  Nat.pos_of_ne_zero fun e => by have := h.hi; simp [e] at this

section
variable {u : Nat → Nat} (hu : StrictMono u) {x d c rest half x' d' c' rest' half' : Nat} (h : Between u x d c rest half)
  (h' : Between u x' d' c' rest' half') (he : x * d' = x' * d)
include hu h h' he

theorem between_le : c' ≤ c := by
  refine Nat.not_lt.1 fun hlt => ?_
  have hx' : d' * u (c + 1) ≤ 1 * x' := by rw [Nat.one_mul]; exact (Nat.mul_le_mul_left d' (hu.monotone hlt)).trans h'.lo
  have hx := (le_cross h.den_pos h'.den_pos he _ _).2 hx'
  rw [Nat.one_mul] at hx
  exact absurd h.hi (Nat.not_lt.2 hx)

/-- Equal quotients are rounded alike. -/
theorem rounded_congr (rm : Nat) (neg : Bool) : rounded rm neg c rest half = rounded rm neg c' rest' half' := by
  obtain rfl : c = c' := le_antisymm (between_le hu h' h he.symm) (between_le hu h h' he)
  have hzero : rest = 0 ↔ rest' = 0 := by
    rw [h.exact, h'.exact]
    simpa using eq_cross h.den_pos h'.den_pos he (u c) 1
  have habove : half < 2 * rest ↔ half' < 2 * rest' := by
    rw [h.above, h'.above, ← Nat.mul_add, ← Nat.mul_add, ← Nat.not_le, ← Nat.not_le, ge_cross h.den_pos h'.den_pos he]
  have htie : 2 * rest = half ↔ 2 * rest' = half' := by rw [h.tie, h'.tie, ← Nat.mul_add, ← Nat.mul_add, eq_cross h.den_pos h'.den_pos he]
  have hup (odd : Bool) : roundUp rm neg odd rest half = roundUp rm neg odd rest' half' := by
    have hne : (rest != 0) = (rest' != 0) := by rw [Bool.eq_iff_iff, bne_iff_ne, bne_iff_ne, Ne, Ne, hzero]
    have htie' : (2 * rest == half) = (2 * rest' == half') := by rw [Bool.eq_iff_iff, beq_iff_eq, beq_iff_eq, htie]
    unfold roundUp
    split
    · rw [decide_eq_decide.2 habove, htie']
    · rfl
    · rw [hne]
    · rw [hne]
  rw [rounded, rounded, hup]

end

theorem roundMag_congr {f : Fmt} (hf : Plain f) (rm : Nat) (neg : Bool) {n d n' d' : Nat} (hn : 0 < n) (hd : 0 < d) (hn' : 0 < n') (hd' : 0 < d')
    (he : n * d' = n' * d) : roundMag f rm neg n d = roundMag f rm neg n' d' := by
  have hx : n * f.perOne * d' = n' * f.perOne * d := by rw [Nat.mul_right_comm, he, Nat.mul_right_comm]
  have hmag : (roundMag f rm neg n d).1 = (roundMag f rm neg n' d').1 := by
    rw [roundMag_eq hf, roundMag_eq hf]
    exact rounded_congr (units_strictMono f) (between_truncated hf hn hd) (between_truncated hf hn' hd') hx rm neg
  obtain ⟨-, hexact, htiny⟩ := roundMag_spec hf hn hd rm neg
  obtain ⟨-, hexact', htiny'⟩ := roundMag_spec hf hn' hd' rm neg
  have h1 : (roundMag f rm neg n d).2.1 = (roundMag f rm neg n' d').2.1 := by
    have := eq_cross hd hd' hx (f.units (roundMag f rm neg n d).1) 1
    rw [Nat.one_mul, Nat.one_mul, ← hexact, hmag, ← hexact'] at this
    exact Bool.eq_iff_iff.2 (by simpa using not_congr this)
  have h2 : (roundMag f rm neg n d).2.2 = (roundMag f rm neg n' d').2.2 := by
    have := le_cross hd hd' hx (2 ^ f.mb) 1
    rw [Nat.one_mul, Nat.one_mul, ← Nat.not_lt, ← Nat.not_lt, ← htiny, ← htiny'] at this
    exact Bool.eq_iff_iff.2 (not_iff_not.1 this)
  exact Prod.ext hmag (Prod.ext h1 h2)

end Sys2Proof.Proofs.Rounding

/-! PROOF. The square root (R141): its approximation lies on the side of every rounding boundary on which the root lies. -/
namespace Sys2Proof.Proofs.Roots
open Sys2Proof Sys2Proof.Machine Sys2Proof.Proofs.Magnitudes Sys2Proof.Proofs.Rounding Sys2Proof.Proofs.Rationals

/-! ### What rounding keeps -/

section
variable {rm : Nat} (hrm : rm < 4) {neg : Bool} {u : Nat → Nat} {x d r y : Nat} (h : RoundsTo rm neg u x d r)
include hrm h

omit h in
/-- The three directions of a rounding code. -/
theorem direction : (rm = 1 ∨ (rm = 2 ∧ neg = false) ∨ (rm = 3 ∧ neg = true)) ∨ ((rm = 2 ∧ neg = true) ∨ (rm = 3 ∧ neg = false)) ∨ rm = 0 := by
  cases neg <;> simp <;> omega

theorem units_le_of_le (hd : 0 < d) (hy : x ≤ d * u y) : u r ≤ u y := by
  obtain ⟨hdown, hup, hnear⟩ := h
  rcases direction hrm (neg := neg) with hm | hm | hm
  · exact Nat.le_of_mul_le_mul_left ((hdown hm).1.trans hy) hd
  · exact (hup hm).2 y hy
  · have hn := (hnear hm y).1
    refine Nat.le_of_mul_le_mul_left ?_ hd
    simp only [← Nat.cast_mul] at hn
    omega

theorem le_units_of_le (hd : 0 < d) (hy : d * u y ≤ x) : u y ≤ u r := by
  obtain ⟨hdown, hup, hnear⟩ := h
  rcases direction hrm (neg := neg) with hm | hm | hm
  · exact (hdown hm).2 y hy
  · exact Nat.le_of_mul_le_mul_left (hy.trans (hup hm).1) hd
  · have hn := (hnear hm y).1
    refine Nat.le_of_mul_le_mul_left ?_ hd
    simp only [← Nat.cast_mul] at hn
    omega

end

/-! ### The integer square root -/

theorem isqrt_spec (n : Nat) : ∀ (b acc : Nat), acc * acc ≤ n → n < (acc + 2 ^ b) * (acc + 2 ^ b) →
    isqrt n b acc * isqrt n b acc ≤ n ∧ n < (isqrt n b acc + 1) * (isqrt n b acc + 1)
  | 0, _, hlo, hhi => ⟨hlo, hhi⟩
  | b + 1, acc, hlo, hhi => by
    rw [isqrt]
    split
    · rename_i h
      exact isqrt_spec n b _ h (by rwa [Nat.add_assoc, ← Nat.two_mul, ← pow_succ'])
    · rename_i h
      exact isqrt_spec n b _ hlo (Nat.not_le.1 h)

/-- N/D lies on the same side of every multiple of 2^-k as the root of n/d. -/
def Separates (k n d N D : Nat) : Prop :=
  ∀ h ≤ k, ∀ j, (j * D ≤ N * 2 ^ h ↔ j ^ 2 * d ≤ n * 4 ^ h) ∧ (N * 2 ^ h ≤ j * D ↔ n * 4 ^ h ≤ j ^ 2 * d)

/-- It is enough to look at 2^-k itself. -/
theorem separates_of_finest {k n d N D : Nat} (h : ∀ i, (i * D ≤ N * 2 ^ k ↔ i ^ 2 * d ≤ n * 4 ^ k) ∧ (N * 2 ^ k ≤ i * D ↔ n * 4 ^ k ≤ i ^ 2 * d)) :
    Separates k n d N D := by
  intro a ha j
  obtain ⟨t, rfl⟩ := Nat.exists_eq_add_of_le ha
  have h4 : (4 : Nat) ^ t = 2 ^ t * 2 ^ t := by rw [show (4 : Nat) = 2 * 2 from rfl, mul_pow]
  have hi := h (j * 2 ^ t)
  have e1 : j * 2 ^ t * D = (j * D) * 2 ^ t := by ring
  have e2 : N * 2 ^ (a + t) = (N * 2 ^ a) * 2 ^ t := by rw [pow_add]; ring
  have e3 : (j * 2 ^ t) ^ 2 * d = (j ^ 2 * d) * 4 ^ t := by rw [h4]; ring
  have e4 : n * 4 ^ (a + t) = (n * 4 ^ a) * 4 ^ t := by rw [pow_add]; ring
  have hp : 0 < 2 ^ t := Nat.two_pow_pos t
  have hq : 0 < 4 ^ t := Nat.pow_pos (by decide)
  rwa [e1, e2, e3, e4, Nat.mul_le_mul_right_iff hp, Nat.mul_le_mul_right_iff hp, Nat.mul_le_mul_right_iff hq, Nat.mul_le_mul_right_iff hq] at hi

section
variable {k n d s : Nat} (hd : 0 < d) (hlo : s * s ≤ n * 4 ^ k / d) (hhi : n * 4 ^ k / d < (s + 1) * (s + 1))
include hd

theorem separates_root (he : s * s * d = n * 4 ^ k) : Separates k n d s (2 ^ k) := by
  refine separates_of_finest fun i => ?_
  have hp := Nat.two_pow_pos k
  rw [← he, Nat.mul_le_mul_right_iff hp, Nat.mul_le_mul_right_iff hp, Nat.mul_le_mul_right_iff hd, Nat.mul_le_mul_right_iff hd, sq,
    Nat.mul_self_le_mul_self_iff, Nat.mul_self_le_mul_self_iff]
  exact ⟨Iff.rfl, Iff.rfl⟩

include hlo hhi

/-- The odd multiple of 2^-(k+1) between the neighbours of a root that is no multiple of 2^-k. -/
theorem separates_middle (hne : s * s * d ≠ n * 4 ^ k) : Separates k n d (2 * s + 1) (2 ^ (k + 1)) := by
  have hlow : s * s * d < n * 4 ^ k := lt_of_le_of_ne ((Nat.le_div_iff_mul_le hd).1 hlo) hne
  have hhigh : n * 4 ^ k < (s + 1) * (s + 1) * d := (Nat.div_lt_iff_lt_mul hd).1 hhi
  refine separates_of_finest fun i => ?_
  have hp := Nat.two_pow_pos k
  rw [pow_succ, Nat.mul_comm (2 ^ k) 2, ← Nat.mul_assoc, Nat.mul_le_mul_right_iff hp, Nat.mul_le_mul_right_iff hp, sq]
  rcases Nat.lt_or_ge s i with hi | hi
  · have hsq : (s + 1) * (s + 1) * d ≤ i * i * d := Nat.mul_le_mul_right d (Nat.mul_self_le_mul_self hi)
    omega
  · have hsq : i * i * d ≤ s * s * d := Nat.mul_le_mul_right d (Nat.mul_self_le_mul_self hi)
    omega

end

theorem isqrt_bits {x : Nat} : x < (0 + 2 ^ (bitlen x / 2 + 1)) * (0 + 2 ^ (bitlen x / 2 + 1)) := by
  rw [Nat.zero_add, ← pow_add]
  exact (lt_two_pow_bitlen x).trans_le (Nat.pow_le_pow_right (by decide) (by omega))

/-- R141: a root that is no multiple of 2^-1200 is approximated by an odd multiple of 2^-1201 between the same neighbours. -/
theorem sqrtEx_spec {n d : Nat} (hn : 0 < n) (hd : 0 < d) : ∃ N D, sqrtEx n d = .real false N D ∧ 0 < N ∧ 0 < D ∧ Separates 1200 n d N D := by
  unfold sqrtEx
  dsimp only
  generalize 1200 = k
  obtain ⟨hlo, hhi⟩ := isqrt_spec (n * 4 ^ k / d) (bitlen (n * 4 ^ k / d) / 2 + 1) 0 (Nat.zero_le _) isqrt_bits
  generalize isqrt (n * 4 ^ k / d) (bitlen (n * 4 ^ k / d) / 2 + 1) 0 = s at *
  split
  · rename_i he
    refine ⟨s, 2 ^ k, rfl, Nat.pos_of_ne_zero fun hs => ?_, Nat.two_pow_pos k, separates_root hd he⟩
    have : 0 < n * 4 ^ k := Nat.mul_pos hn (Nat.pow_pos (by decide))
    simp [hs] at he
    omega
  · rename_i hne
    exact ⟨2 * s + 1, 2 ^ (k + 1), rfl, Nat.succ_pos _, Nat.two_pow_pos _, separates_middle hd hlo hhi hne⟩

/-! ### A root rounded -/

/-- The approximation N/D, in units of 2^-P, is on the same side of every unit, and of every midpoint, as the root of x/d. -/
structure Approximates (N D P x d : Nat) : Prop where
  le : ∀ j, D * j ≤ N * 2 ^ P ↔ d * j ^ 2 ≤ x
  ge : ∀ j, N * 2 ^ P ≤ D * j ↔ x ≤ d * j ^ 2
  mid_le : ∀ j, D * j ≤ 2 * (N * 2 ^ P) ↔ d * j ^ 2 ≤ 4 * x
  mid_ge : ∀ j, 2 * (N * 2 ^ P) ≤ D * j ↔ 4 * x ≤ d * j ^ 2

/-- The root of X/Y counts units of 2^-P as that of x/d counts ones, where X/Y is x/d of these units squared. -/
theorem approximates_of_separates {k X Y N D P x d c e : Nat} (h : Separates k X Y N D) (hP : P + 1 ≤ k) (hc : 0 < c) (he : 0 < e)
    (hY : Y * c = d * e) (hX : X * 4 ^ P * c = x * e) : Approximates N D P x d := by
  have hd (j : Nat) : j ^ 2 * Y * c = d * j ^ 2 * e := by rw [Nat.mul_assoc, hY]; ring
  have hx4 : X * 4 ^ (P + 1) * c = 4 * x * e := by rw [pow_succ, Nat.mul_assoc 4, ← hX]; ring
  have h2 : N * 2 ^ (P + 1) = 2 * (N * 2 ^ P) := by rw [pow_succ]; ring
  have hcut (a b : Nat) : a ≤ b ↔ a * c ≤ b * c := (Nat.mul_le_mul_right_iff hc).symm
  have hcut' (a b : Nat) : a ≤ b ↔ a * e ≤ b * e := (Nat.mul_le_mul_right_iff he).symm
  constructor <;> intro j
  · rw [Nat.mul_comm D, (h P (by omega) j).1, hcut, hd, hX, ← hcut']
  · rw [Nat.mul_comm D, (h P (by omega) j).2, hcut, hd, hX, ← hcut']
  · rw [Nat.mul_comm D, ← h2, (h (P + 1) hP j).1, hcut, hd, hx4, ← hcut']
  · rw [Nat.mul_comm D, ← h2, (h (P + 1) hP j).2, hcut, hd, hx4, ← hcut']

/-- Rounding the approximation rounds the root. -/
theorem rootRoundsTo_of_roundsTo {rm N D P x d r : Nat} {u : Nat → Nat} (ha : Approximates N D P x d) (hD : 0 < D)
    (h : RoundsTo rm false u (N * 2 ^ P) D r) : RootRoundsTo rm u x d r := by
  obtain ⟨hdown, hup, hnear⟩ := h
  refine ⟨fun hm => ?_, fun hm => ?_, fun hm y => ?_⟩
  · obtain ⟨hr, hy⟩ := hdown (hm.imp_right fun e => .inl ⟨e, rfl⟩)
    exact ⟨(ha.le _).1 hr, fun y e => hy y ((ha.le _).2 e)⟩
  · obtain ⟨hr, hy⟩ := hup (.inr ⟨hm, rfl⟩)
    exact ⟨(ha.ge _).1 hr, fun y e => hy y ((ha.ge _).2 e)⟩
  · have hn := (hnear hm y).1
    simp only [← Nat.cast_mul] at hn
    rw [← ha.mid_ge, ← ha.mid_le, Nat.mul_add]
    exact ⟨fun e => by have := Nat.mul_lt_mul_of_pos_left e hD; omega, fun e => by have := Nat.mul_lt_mul_of_pos_left e hD; omega⟩

/-- A root that is neither tiny nor beyond the greatest magnitude, rounded: no flag but NX. -/
theorem roundEx_root {f : Fmt} (hf : Plain f) {rm N D x d : Nat} (hrm : rm < 4) (hN : 0 < N) (hD : 0 < D)
    (ha : Approximates N D (f.bias + f.mb - 1) x d) (hmax : x ≤ d * f.units f.maxEnc ^ 2) (hmin : d * (2 ^ f.mb) ^ 2 ≤ x) :
    ∃ r ≤ f.maxEnc, roundEx f rm .ieee (.real false N D) = ⟨r, if d * f.units r ^ 2 = x then 0 else NX⟩ ∧ RootRoundsTo rm f.units x d r := by
  obtain ⟨hround, hexact, htiny⟩ := roundMag_spec hf hN hD rm false
  rw [perOne_eq] at hround hexact htiny
  have hr : (roundMag f rm false N D).1 ≤ f.maxEnc :=
    (units_strictMono f).le_iff_le.1 (units_le_of_le hrm hround hD ((ha.ge _).2 hmax))
  have hbig : (roundMag f rm false N D).2.2 = false := by
    rw [← Bool.not_eq_true, htiny, Nat.not_lt]
    exact (ha.le _).2 hmin
  have heq : (roundMag f rm false N D).2.1 = false ↔ d * f.units (roundMag f rm false N D).1 ^ 2 = x := by
    rw [hexact, le_antisymm_iff, le_antisymm_iff, ha.le, ha.ge]
  refine ⟨_, hr, ?_, rootRoundsTo_of_roundsTo ha hD hround⟩
  rw [roundEx, if_neg hN.ne']
  dsimp only
  rw [if_neg (Nat.not_lt.2 hr), hbig]
  cases hi : (roundMag f rm false N D).2.1 <;> rw [hi] at heq <;> simp at heq <;> simp [signBit, heq]

/-! ### VFSQRT and VFRSQ -/

/-- What the rounding of roots needs of a format: its greatest magnitude below the sign, 1 among its magnitudes, and roots above the least normal. -/
structure Rootable (f : Fmt) : Prop extends Plain f where
  sign : f.maxEnc < 2 ^ (f.w - 1)
  one : f.perOne ≤ f.units f.maxEnc
  root : (2 ^ f.mb) ^ 2 ≤ f.perOne
  fine : f.bias + f.mb ≤ 1200

theorem rootable_fmtOf {ty : Nat} (h : ty ∈ [8, 9, 10]) : Rootable (fmtOf ty) := by
  have hp := plain_fmtOf ty
  simp only [List.mem_cons, List.not_mem_nil, or_false] at h
  rcases h with rfl | rfl | rfl <;> exact ⟨hp, by decide, by decide, by decide, by decide⟩

/-- The reciprocal roots of the narrow formats are neither tiny nor too great. -/
theorem reciprocal_root_bounds {ty : Nat} (h : ty ∈ [8, 9]) :
    (fmtOf ty).perOne ^ 3 ≤ (fmtOf ty).units (fmtOf ty).maxEnc ^ 2
      ∧ (fmtOf ty).units (fmtOf ty).maxEnc * (2 ^ (fmtOf ty).mb) ^ 2 ≤ (fmtOf ty).perOne ^ 3 := by
  simp only [List.mem_cons, List.not_mem_nil, or_false] at h
  rcases h with rfl | rfl <;> decide

/-- A finite operand other than 0: its mantissa and exponent, and its units. -/
theorem decodeF_nonzero {f : Fmt} (hf : Plain f) {a : Nat} (h0 : 0 < a % 2 ^ (f.w - 1)) (ha : a % 2 ^ (f.w - 1) ≤ f.maxEnc) :
    ∃ m E : Nat, decodeF f a = .fin (a.testBit (f.w - 1)) m ((E : Int) - (f.bias + f.mb - 1 : Nat)) ∧ 0 < m
      ∧ f.units (a % 2 ^ (f.w - 1)) = m * 2 ^ E := by
  obtain ⟨m, E, hdec, hunits⟩ := decodeF_finite hf ha
  refine ⟨m, E, hdec, Nat.pos_of_ne_zero fun hm => ?_, hunits⟩
  have := units_pos (f := f) h0
  simp [hm] at hunits
  omega

/-- The operand as a quotient. -/
theorem quotient_of_units (f : Fmt) (m E : Nat) :
    m * 2 ^ ((E : Int) - (f.bias + f.mb - 1 : Nat)).toNat * f.perOne = m * 2 ^ E * 2 ^ (-((E : Int) - (f.bias + f.mb - 1 : Nat))).toNat := by
  rw [perOne_eq, Nat.mul_assoc, Nat.mul_assoc, ← pow_add, ← pow_add]
  congr 2
  omega

/-- A finite positive operand as a quotient, and as a number of units. -/
theorem decodeF_positive {f : Fmt} (hf : Rootable f) {a : Nat} (h0 : 0 < a) (ha : a ≤ f.maxEnc) :
    ∃ (m : Nat) (e : Int), decodeF f a = .fin false m e ∧ 0 < m ∧ m * 2 ^ e.toNat * f.perOne = f.units a * 2 ^ (-e).toNat := by
  have hsmall : a < 2 ^ (f.w - 1) := ha.trans_lt hf.sign
  have hmod : a % 2 ^ (f.w - 1) = a := Nat.mod_eq_of_lt hsmall
  obtain ⟨m, E, hdec, hm, hunits⟩ := decodeF_nonzero hf.toPlain (a := a) (by rwa [hmod]) (by rwa [hmod])
  rw [Nat.testBit_lt_two_pow hsmall] at hdec
  rw [hmod] at hunits
  exact ⟨m, _, hdec, hm, by rw [hunits, quotient_of_units]⟩

section
variable {ty a m : Nat} {e : Int} (rm : Nat)

theorem sfunc_sqrt (h : decodeF (fmtOf ty) a = .fin false m e) (hm : m ≠ 0) :
    sfunc 6 ty rm a = roundEx (fmtOf ty) rm .ieee (sqrtEx (m * 2 ^ e.toNat) (2 ^ (-e).toNat)) := by
  simp [sfunc, h, hm]

theorem sfunc_rsqrt (hty : ty ≠ 10) (h : decodeF (fmtOf ty) a = .fin false m e) (hm : m ≠ 0) :
    sfunc 1 ty rm a = roundEx (fmtOf ty) 0 .ieee (sqrtEx (2 ^ (-e).toNat) (m * 2 ^ e.toNat)) := by
  simp [sfunc, h, hm, hty]

end

/-- The root of a positive operand (R141). -/
theorem sqrt_rounds {ty : Nat} (hty : ty ∈ [8, 9, 10]) {rm a : Nat} (hrm : rm < 4) (h0 : 0 < a) (ha : a ≤ (fmtOf ty).maxEnc) :
    let f := fmtOf ty
    ∃ r ≤ f.maxEnc, sfunc 6 ty rm a = ⟨r, if f.units r ^ 2 = f.units a * f.perOne then 0 else NX⟩
      ∧ RootRoundsTo rm f.units (f.units a * f.perOne) 1 r := by
  intro f
  have hf : Rootable f := rootable_fmtOf hty
  obtain ⟨m, e, hdec, hm, hunits⟩ := decodeF_positive hf h0 ha
  have hden : 0 < 2 ^ (-e).toNat := Nat.two_pow_pos _
  obtain ⟨N, D, hsqrt, hN, hD, hsep⟩ := sqrtEx_spec (Nat.mul_pos hm (Nat.two_pow_pos e.toNat)) hden
  have happ : Approximates N D (f.bias + f.mb - 1) (f.units a * f.perOne) 1 := by
    refine approximates_of_separates hsep (by have := hf.fine; have := hf.bias; omega) Nat.one_pos hden (by ring) ?_
    have hp : (4 : Nat) ^ (f.bias + f.mb - 1) = f.perOne * f.perOne := by rw [perOne_eq, show (4 : Nat) = 2 * 2 from rfl, mul_pow]
    rw [hp, Nat.mul_one, ← Nat.mul_assoc, hunits]
    ring
  have hapos : 0 < f.units a := units_pos h0
  have hale : f.units a ≤ f.units f.maxEnc := (units_strictMono f).monotone ha
  obtain ⟨r, hr, hres, hroot⟩ := roundEx_root hf.toPlain hrm hN hD happ
    (by rw [Nat.one_mul, sq]; exact Nat.mul_le_mul hale hf.one) (by rw [Nat.one_mul]; exact hf.root.trans (Nat.le_mul_of_pos_left _ hapos))
  refine ⟨r, hr, ?_, hroot⟩
  rw [Nat.one_mul] at hres
  rw [sfunc_sqrt rm hdec hm.ne', hsqrt]
  exact hres

/-- The reciprocal of the root of a positive operand (R141). -/
theorem rsqrt_rounds {ty : Nat} (hty : ty ∈ [8, 9]) (rm : Nat) {a : Nat} (h0 : 0 < a) (ha : a ≤ (fmtOf ty).maxEnc) :
    let f := fmtOf ty
    ∃ r ≤ f.maxEnc, sfunc 1 ty rm a = ⟨r, if f.units r ^ 2 * f.units a = f.perOne ^ 3 then 0 else NX⟩
      ∧ RootRoundsTo 0 f.units (f.perOne ^ 3) (f.units a) r := by
  intro f
  have hf : Rootable f := rootable_fmtOf (List.mem_append_left [10] hty)
  obtain ⟨m, e, hdec, hm, hunits⟩ := decodeF_positive hf h0 ha
  have hden : 0 < 2 ^ (-e).toNat := Nat.two_pow_pos _
  obtain ⟨N, D, hsqrt, hN, hD, hsep⟩ := sqrtEx_spec hden (Nat.mul_pos hm (Nat.two_pow_pos e.toNat))
  have happ : Approximates N D (f.bias + f.mb - 1) (f.perOne ^ 3) (f.units a) := by
    refine approximates_of_separates hsep (by have := hf.fine; have := hf.bias; omega) (Nat.two_pow_pos (f.bias + f.mb - 1)) hden hunits ?_
    have hp : (4 : Nat) ^ (f.bias + f.mb - 1) = f.perOne * f.perOne := by rw [perOne_eq, show (4 : Nat) = 2 * 2 from rfl, mul_pow]
    rw [hp, ← perOne_eq]
    ring
  have hapos : 0 < f.units a := units_pos h0
  have hale : f.units a ≤ f.units f.maxEnc := (units_strictMono f).monotone ha
  obtain ⟨hgreat, htiny⟩ := reciprocal_root_bounds hty
  obtain ⟨r, hr, hres, hroot⟩ := roundEx_root hf.toPlain (rm := 0) (by decide) hN hD happ (hgreat.trans (Nat.le_mul_of_pos_left _ hapos))
    ((Nat.mul_le_mul_right _ hale).trans htiny)
  refine ⟨r, hr, ?_, hroot⟩
  have hty' : ty ≠ 10 := by rintro rfl; simp at hty
  rw [Nat.mul_comm] at hres
  rw [sfunc_rsqrt rm hty' hdec hm.ne', hsqrt]
  exact hres

/-! ### Integers (R67) -/

theorem between_div (n : Nat) {d : Nat} (hd : 0 < d) : Between id n d (n / d) (n % d) d :=
  between_of_scale hd (Nat.mod_lt n hd) (by rw [id, Nat.div_add_mod']) (Nat.mul_comm ..) (Nat.mul_comm ..)

theorem roundInt_eq (rm n d : Nat) (neg : Bool) :
    roundInt rm neg n d = ((if neg then -1 else 1) * (rounded rm neg (n / d) (n % d) d : Int), n % d != 0) := rfl

theorem exToInt_real (ty rm n d : Nat) (neg : Bool) : exToInt ty rm (.real neg n d) =
    let r := roundInt rm neg n d
    if r.1 < intMin ty || intMax ty < r.1 then ⟨wrapInt (tyWidth ty) (clampInt ty r.1), NV⟩
    else ⟨wrapInt (tyWidth ty) r.1, if r.2 then NX else 0⟩ := rfl

theorem int_rounds (ty rm n : Nat) {d : Nat} (neg : Bool) (hd : 0 < d) :
    ∃ k : Nat, RoundsTo rm neg id n d k
      ∧ let v : Int := if neg then -(k : Int) else k
        exToInt ty rm (.real neg n d)
          = if v < intMin ty then ⟨(BitVec.ofInt (tyWidth ty) (intMin ty)).toNat, NV⟩
            else if intMax ty < v then ⟨(BitVec.ofInt (tyWidth ty) (intMax ty)).toNat, NV⟩
            else ⟨(BitVec.ofInt (tyWidth ty) v).toNat, if d * k = n then 0 else NX⟩ := by
  refine ⟨_, roundsTo_rounded strictMono_id (between_div n hd) neg, ?_⟩
  have hexact := exact_rounded (rm := rm) (between_div n hd) neg hd
  dsimp only [id] at hexact ⊢
  rw [exToInt_real, roundInt_eq]
  generalize rounded rm neg (n / d) (n % d) d = k at hexact ⊢
  have hv : (if neg then -1 else 1) * (k : Int) = if neg then -(k : Int) else k := by cases neg <;> simp
  dsimp only
  rw [hv]
  generalize (if neg then -(k : Int) else k) = v
  rw [clampInt]
  by_cases hlow : v < intMin ty
  · simp [hlow, Integers.wrapInt_eq]
  · by_cases hhigh : intMax ty < v
    · simp [hlow, hhigh, Integers.wrapInt_eq]
    · simp [hlow, hhigh, Integers.wrapInt_eq, ← hexact]

/-- Settles O10: a division leaves the value between two neighbours, and its rest decides between them as the rounding code says. -/
theorem roundingIsCorrect : Obligations.RoundingIsCorrect := by
  unfold Obligations.RoundingIsCorrect
  refine ⟨fun ty _ rm n d neg hrm hn hd => ?finite, fun ty _ rm n d neg _ hn hd => roundMag_spec (plain_fmtOf ty) hn hd rm neg,
    fun ty _ rm n d neg _ hd => int_rounds ty rm n neg hd, fun ty hty rm a hrm h0 ha => sqrt_rounds hty hrm h0 ha,
    fun ty hty rm a h0 ha => rsqrt_rounds hty rm h0 ha⟩
  case finite =>
    obtain ⟨⟨hdown, hup, hnear⟩, hexact, -⟩ := roundMag_spec (plain_fmtOf ty) hn hd rm neg
    exact fun _ => ⟨hexact, fun hm => ⟨(hdown hm).1, fun y _ => (hdown hm).2 y⟩, fun hm => ⟨(hup hm).1, fun y _ => (hup hm).2 y⟩,
        fun hm y _ => hnear hm y⟩

end Sys2Proof.Proofs.Roots

/-! PROOF. Results of floating arithmetic (R68 to R73, R100): the exact value, and `Round` of it. -/
namespace Sys2Proof.Proofs.FloatResults
open Sys2Proof Sys2Proof.Machine Sys2Proof.Proofs.Magnitudes Sys2Proof.Proofs.Rounding Sys2Proof.Proofs.Roots

/-! ### NaNs, infinities and zeros (R69, R73, R100) -/

/-- The formats with infinities and a NaN. -/
theorem ieee_fmtOf {ty : Nat} (h : ty ∈ [8, 9, 10, 11]) : (fmtOf ty).ieee = true ∧ (fmtOf ty).nan.isNone = false := by
  simp only [List.mem_cons, List.not_mem_nil, or_false] at h
  rcases h with rfl | rfl | rfl | rfl <;> decide

theorem isNan_neg (x : FV) : x.neg.isNan = x.isNan := by cases x <;> rfl
theorem isSnan_neg (x : FV) : x.neg.isSnan = x.isSnan := by cases x <;> rfl

theorem sumEx_nan (rm : Nat) {x y : FV} (h : (x.isNan || y.isNan) = true) : sumEx rm [x, y] = .nan (x.isSnan || y.isSnan) := by
  cases x <;> cases y <;> simp [FV.isNan] at h <;> simp [sumEx, FV.isNan, FV.isSnan, hasInf]

theorem sumEx_infs (rm : Nat) (u : Bool) : sumEx rm [.inf u, .inf (! u)] = .nan true := by
  cases u <;> rfl

theorem mul_nan {x y : FV} (h : (x.isNan || y.isNan) = true) : x.mul y = .nan (x.isSnan || y.isSnan) := by
  cases x <;> cases y <;> simp [FV.isNan] at h <;> simp [FV.mul, FV.isSnan]

theorem divEx_nan {x y : FV} (h : (x.isNan || y.isNan) = true) : divEx x y = (.nan (x.isSnan || y.isSnan), 0) := by
  cases x <;> cases y <;> simp [FV.isNan] at h <;> simp [divEx, FV.isSnan]

section
variable {f : Fmt} (rm : Nat) {a b c : Nat}

theorem fDiv_eq {q : Ex} {fl : Nat} (h : divEx (decodeF f a) (decodeF f b) = (q, fl)) :
    fDiv rm f a b c = ⟨(roundEx f rm .ieee q).bits, (roundEx f rm .ieee q).fl ||| fl⟩ := by rw [fDiv, h]

theorem fDiv_eq_round {q : Ex} (h : divEx (decodeF f a) (decodeF f b) = (q, 0)) : fDiv rm f a b c = roundEx f rm .ieee q := by
  rw [fDiv_eq rm h, Nat.or_zero]

variable (hf : f.ieee = true ∧ f.nan.isNone = false)
include hf

theorem roundEx_nan (ov : Ov) (v : Bool) : roundEx f rm ov (.nan v) = ⟨canonNan f, if v then NV else 0⟩ := by rw [roundEx, hf.2, Bool.or_false]

theorem roundEx_inf (ov : Ov) (s : Bool) : roundEx f rm ov (.inf s) = ⟨signBit f s + f.maxEnc + 1, 0⟩ := by
  unfold roundEx
  exact if_pos hf.1

/-- A NaN among the operands. -/
theorem nan_operand (h : ((decodeF f a).isNan || (decodeF f b).isNan) = true) : ∀ op ∈ [fAdd, fSub, fMul, fDiv],
    op rm f a b c = if (decodeF f a).isSnan || (decodeF f b).isSnan then ⟨canonNan f, NV⟩ else ⟨canonNan f, 0⟩ := by
  have hround (v : Bool) : roundEx f rm .ieee (.nan v) = if v then (⟨canonNan f, NV⟩ : FRes) else ⟨canonNan f, 0⟩ := by
    rw [roundEx_nan rm hf]
    cases v <;> rfl
  simp only [List.forall_mem_cons, List.not_mem_nil, false_imp_iff, implies_true, and_true]
  refine ⟨?_, ?_, ?_, ?_⟩
  · rw [fAdd, sumEx_nan rm h, hround]
  · rw [fSub, sumEx_nan rm (by rwa [isNan_neg]), isSnan_neg, hround]
  · rw [fMul, mul_nan h]
    exact hround _
  · rw [fDiv_eq_round rm (divEx_nan h), hround]

theorem fFma_nan (h : ((decodeF f a).isNan || (decodeF f b).isNan || (decodeF f c).isNan) = true) : (fFma rm f a b c).bits = canonNan f := by
  have hsum : ((decodeF f a).mul (decodeF f b)).isNan || (decodeF f c).isNan := by
    rw [Bool.or_eq_true] at h ⊢
    exact h.imp_left fun h => by rw [mul_nan h]; rfl
  rw [fFma, sumEx_nan rm hsum, roundEx_nan rm hf]

/-- Invalid operations, and a division by zero. -/
theorem invalid_operands {x y : FV} (hx : decodeF f a = x) (hy : decodeF f b = y) :
    (∀ u, x = .inf u → y = .inf (! u) → fAdd rm f a b c = ⟨canonNan f, NV⟩)
    ∧ (∀ u, x = .inf u → y = .inf u → fSub rm f a b c = ⟨canonNan f, NV⟩)
    ∧ (∀ u v e, x = .inf u → y = .fin v 0 e → fMul rm f a b c = ⟨canonNan f, NV⟩ ∧ fMul rm f b a c = ⟨canonNan f, NV⟩)
    ∧ (∀ u v, x = .inf u → y = .inf v → fDiv rm f a b c = ⟨canonNan f, NV⟩)
    ∧ (∀ u v e g, x = .fin u 0 e → y = .fin v 0 g → fDiv rm f a b c = ⟨canonNan f, NV⟩)
    ∧ (∀ u v m e g, x = .fin u m e → m ≠ 0 → y = .fin v 0 g → fDiv rm f a b c = ⟨signBit f (u != v) + f.maxEnc + 1, DZ⟩) := by
  have hnan : roundEx f rm .ieee (.nan true) = ⟨canonNan f, NV⟩ := roundEx_nan rm hf .ieee true
  refine ⟨?_, ?_, ?_, ?_, ?_, ?_⟩
  · rintro u rfl rfl
    rw [fAdd, hx, hy, sumEx_infs, hnan]
  · rintro u rfl rfl
    rw [fSub, hx, hy]
    exact (congrArg _ (sumEx_infs rm u)).trans hnan
  · rintro u v e rfl rfl
    rw [fMul, fMul, hx, hy]
    exact ⟨hnan, hnan⟩
  · rintro u v rfl rfl
    rw [fDiv_eq_round rm (q := .nan true) (by rw [hx, hy]; rfl), hnan]
  · rintro u v e g rfl rfl
    rw [fDiv_eq_round rm (q := .nan true) (by rw [hx, hy]; rfl), hnan]
  · rintro u v m e g rfl hm rfl
    have hdiv : divEx (decodeF f a) (decodeF f b) = (.inf (u != v), DZ) := by
      rw [hx, hy]
      exact if_neg hm
    rw [fDiv_eq rm hdiv, roundEx_inf rm hf, Nat.zero_or]

end

theorem fDiv_finite {f : Fmt} (rm : Nat) {a b c : Nat} {u v : Bool} {m k : Nat} {e g : Int} (hx : decodeF f a = .fin u m e)
    (hy : decodeF f b = .fin v k g)
    (hk : k ≠ 0) : fDiv rm f a b c = roundEx f rm .ieee (divEx (decodeF f a) (decodeF f b)).1 := by
  have hdiv : divEx (.fin u m e) (.fin v k g) = (.real (u != v) (m * 2 ^ (e - g).toNat) (k * 2 ^ (-(e - g)).toNat), 0) := if_neg hk
  rw [fDiv_eq_round rm (by rw [hx, hy, hdiv]), hx, hy, hdiv]

/-! ### Encodings (R68) -/

theorem decodeF_special {f : Fmt} (hf : Plain f) (a : Nat) :
    let mag := a % 2 ^ (f.w - 1)
    (f.ieee = true → (mag = f.maxEnc + 1 → decodeF f a = .inf (a.testBit (f.w - 1)))
        ∧ (f.maxEnc + 1 < mag → decodeF f a = .nan (! mag.testBit (f.mb - 1))))
    ∧ (f.ieee = false → ∀ c, f.nan = some c → mag = c → decodeF f a = .nan false) := by
  intro mag
  have hbit : (mag % 2 ^ f.mb).testBit (f.mb - 1) = mag.testBit (f.mb - 1) := by
    have := hf.mb
    rw [Nat.testBit_mod_two_pow, decide_eq_true (by omega), Bool.true_and]
  unfold decodeF
  dsimp only
  rw [show a % 2 ^ (f.w - 1) = mag from rfl, hbit]
  refine ⟨fun hi => ⟨fun he => ?_, fun hlt => ?_⟩, fun hi c hc he => ?_⟩
  · rw [if_pos (by simp [hi, he]), if_pos he]
  · rw [if_pos (by simp [hi]; omega), if_neg (by omega)]
  · rw [if_neg (by simp [hi]), if_pos ⟨hi, by rw [hc, he]⟩]

/-! ### Exact sums, products and quotients (R71, R100) -/

theorem divEx_exact (u v : Bool) (m k h : Nat) (e g : Int) (hk : 0 < k) (he : 0 ≤ e + h) (hg : 0 ≤ g + h) :
    ∃ n d : Nat, 0 < d ∧ divEx (.fin u m e) (.fin v k g) = (.real (u != v) n d, 0) ∧ n * (k * 2 ^ (g + h).toNat) = m * 2 ^ (e + h).toNat * d := by
  refine ⟨m * 2 ^ (e - g).toNat, k * 2 ^ (-(e - g)).toNat, Nat.mul_pos hk (Nat.two_pow_pos _), if_neg hk.ne', ?_⟩
  have hpow : 2 ^ (e - g).toNat * 2 ^ (g + h).toNat = 2 ^ (e + h).toNat * 2 ^ (-(e - g)).toNat := by
    rw [← pow_add, ← pow_add]
    congr 1
    omega
  calc m * 2 ^ (e - g).toNat * (k * 2 ^ (g + h).toNat) = m * k * (2 ^ (e - g).toNat * 2 ^ (g + h).toNat) := by ring
    _ = _ := by rw [hpow]; ring

theorem ex_exact (u : Bool) (m h : Nat) (e : Int) (he : 0 ≤ e + h) :
    ∃ n d : Nat, 0 < d ∧ (FV.fin u m e).ex = .real u n d ∧ n * 2 ^ h = m * 2 ^ (e + h).toNat * d := by
  refine ⟨m * 2 ^ e.toNat, 2 ^ (-e).toNat, Nat.two_pow_pos _, rfl, ?_⟩
  rw [Nat.mul_assoc, Nat.mul_assoc, ← pow_add, ← pow_add]
  congr 2
  omega

/-- The least exponent lies between a bound on all of them and each of them. -/
theorem minExp_spec {k : Nat} : ∀ {l : List FV} {e0 : Int}, (∀ t ∈ l, t.within k) → 0 ≤ e0 + k →
    0 ≤ minExp l e0 + k ∧ minExp l e0 ≤ e0 ∧ ∀ t ∈ l, ∀ u m e, t = .fin u m e → minExp l e0 ≤ e
  | [], _, _, h0 => ⟨h0, le_rfl, fun _ ht => absurd ht List.not_mem_nil⟩
  | .nan _ :: _, _, hl, _ => (hl _ (.head _)).elim
  | .inf _ :: _, _, hl, _ => (hl _ (.head _)).elim
  | .fin u m e :: l, e0, hl, h0 => by
    have he : 0 ≤ e + (k : Int) := hl _ (.head _)
    obtain ⟨hge, hle, hall⟩ := minExp_spec (l := l) (e0 := if e < e0 then e else e0) (fun t ht => hl t (.tail _ ht)) (by split <;> assumption)
    have hcons : minExp (.fin u m e :: l) e0 = minExp l (if e < e0 then e else e0) := rfl
    rw [hcons]
    have hmin : (if e < e0 then e else e0) ≤ e ∧ (if e < e0 then e else e0) ≤ e0 := by split <;> omega
    refine ⟨hge, hle.trans hmin.2, fun t ht v n g hg => ?_⟩
    rcases List.mem_cons.1 ht with rfl | ht
    · cases hg
      exact hle.trans hmin.1
    · exact hall t ht v n g hg

/-- One more term of a sum in units of 2^e. -/
def addTerm (e : Int) (a : Int) (t : FV) : Int :=
  match t with
  | .fin s m g => a + (if s then -1 else 1) * ((m * 2 ^ (g - e).toNat : Nat) : Int)
  | _ => a

theorem sumInt_eq (l : List FV) (e : Int) : sumInt l e = l.foldl (addTerm e) 0 := rfl

/-- The sum in units of 2^e, in those of 2^-k. -/
theorem foldl_addTerm {k : Nat} {e : Int} (hk : 0 ≤ e + k) : ∀ {l : List FV} {a : Int}, (∀ t ∈ l, t.within k) →
    (∀ t ∈ l, ∀ u m g, t = .fin u m g → e ≤ g) →
    l.foldl (addTerm e) a * 2 ^ (e + k).toNat = a * 2 ^ (e + k).toNat + (l.map (FV.signed k)).sum
  | [], _, _, _ => by simp
  | .nan _ :: _, _, hl, _ => (hl _ (.head _)).elim
  | .inf _ :: _, _, hl, _ => (hl _ (.head _)).elim
  | .fin u m g :: l, a, hl, he => by
    have hge : e ≤ g := he _ (.head _) u m g rfl
    have hterm : ((m * 2 ^ (g - e).toNat : Nat) : Int) * 2 ^ (e + k).toNat = ((m * 2 ^ (g + k).toNat : Nat) : Int) := by
      push_cast
      rw [mul_assoc, ← pow_add]
      congr 2
      omega
    rw [List.foldl_cons, foldl_addTerm hk (fun t ht => hl t (.tail _ ht)) (fun t ht => he t (.tail _ ht)), List.map_cons, List.sum_cons, FV.signed,
        addTerm,
      ← hterm]
    ring

/-- No term is a NaN or an infinity. -/
theorem finite_terms {k : Nat} {l : List FV} (hl : ∀ t ∈ l, t.within k) : l.any FV.isNan = false ∧ ∀ s, hasInf s l = false := by
  refine ⟨List.any_eq_false.2 fun t ht => ?_, fun s => List.any_eq_false.2 fun t ht => ?_⟩ <;>
  · have h := hl t ht
    cases t with
    | nan v => exact h.elim
    | inf v => exact h.elim
    | fin u m e => exact Bool.false_ne_true

theorem allZero_iff {k : Nat} {l : List FV} (hl : ∀ t ∈ l, t.within k) (v : Bool) : allZero v l = true ↔ ∀ t ∈ l, ∃ e, t = FV.fin v 0 e := by
  rw [allZero, List.all_eq_true]
  refine forall₂_congr fun t ht => ?_
  have h := hl t ht
  cases t with
  | nan v => exact h.elim
  | inf v => exact h.elim
  | fin u m e => simp [and_comm]

/-- The sign of a sum that is zero (R71). -/
def zeroSign (rm : Nat) (l : List FV) : Bool := if l.isEmpty then false else if allZero true l then true else if allZero false l then false else rm
    == 2

theorem zeroSign_spec (rm : Nat) {k : Nat} {l : List FV} (hl : ∀ t ∈ l, t.within k) :
    let all := fun v => ∀ t ∈ l, ∃ e, t = FV.fin v 0 e
    (l ≠ [] → all true → zeroSign rm l = true) ∧ (all false → zeroSign rm l = false) ∧ (¬ all true → ¬ all false → zeroSign rm l = (rm == 2)) := by
  intro all
  have hall (v : Bool) : all v ↔ allZero v l = true := (allZero_iff hl v).symm
  cases l with
  | nil => exact ⟨fun h => absurd rfl h, fun _ => rfl, fun h => absurd (fun t ht => absurd ht List.not_mem_nil) h⟩
  | cons t l =>
    have hz : zeroSign rm (t :: l) = if allZero true (t :: l) then true else if allZero false (t :: l) then false else rm == 2 := rfl
    refine ⟨fun _ h => ?_, fun h => ?_, fun h k => ?_⟩
    · rw [hz, if_pos ((hall true).1 h)]
    · have hnot : ¬ allZero true (t :: l) = true := by
        rw [← hall]
        intro htrue
        obtain ⟨e, he⟩ := h t (.head _)
        obtain ⟨g, hg⟩ := htrue t (.head _)
        cases he.symm.trans hg
      rw [hz, if_neg hnot, if_pos ((hall false).1 h)]
    · rw [hz, if_neg (mt (hall true).2 h), if_neg (mt (hall false).2 k)]

/-- The sum of finite operands is exact. -/
theorem sumEx_exact (rm k : Nat) (l : List FV) (hl : ∀ t ∈ l, t.within k) :
    let sum := (l.map (FV.signed k)).sum
    ∃ (u : Bool) (n d : Nat), 0 < d ∧ sumEx rm l = .real u n d ∧ n * 2 ^ k = sum.natAbs * d
      ∧ (sum ≠ 0 → u = decide (sum < 0)) ∧ (sum = 0 → u = zeroSign rm l) := by
  intro sum
  obtain ⟨hk, hle, hall⟩ := minExp_spec hl (e0 := 0) (by omega)
  obtain ⟨hnan, hinf⟩ := finite_terms hl
  have hsum := foldl_addTerm hk (a := 0) hl hall
  rw [← sumInt_eq, Int.zero_mul, Int.zero_add] at hsum
  have hdef : sumEx rm l = if sumInt l (minExp l 0) = 0 then .real (zeroSign rm l) 0 1
      else exOfFin (decide (sumInt l (minExp l 0) < 0)) (sumInt l (minExp l 0)).natAbs (minExp l 0) := by
    unfold sumEx
    simp only [hnan, hinf, Bool.and_false, Bool.false_eq_true, if_false]
    rfl
  rw [hdef]
  generalize minExp l 0 = e at *
  generalize sumInt l e = t at *
  change t * 2 ^ (e + k).toNat = sum at hsum
  have hpow : (0 : Int) < 2 ^ (e + k).toNat := by positivity
  by_cases ht : t = 0
  · have h0 : sum = 0 := by rw [← hsum, ht, Int.zero_mul]
    exact ⟨zeroSign rm l, 0, 1, Nat.one_pos, if_pos ht, by simp [h0], fun h => absurd h0 h, fun _ => rfl⟩
  · have h0 : sum ≠ 0 := by rw [← hsum]; exact mul_ne_zero ht hpow.ne'
    refine ⟨decide (t < 0), t.natAbs * 2 ^ e.toNat, 2 ^ (-e).toNat, Nat.two_pow_pos _, by rw [if_neg ht]; rfl, ?_, fun _ => ?_, fun h => absurd h h0⟩
    · have habs : sum.natAbs = t.natAbs * 2 ^ (e + k).toNat := by rw [← hsum, Int.natAbs_mul, Int.natAbs_pow]; rfl
      rw [habs, Nat.mul_assoc, Nat.mul_assoc, ← pow_add, ← pow_add]
      congr 2
      omega
    · rw [← hsum, decide_eq_decide]
      exact ⟨fun h => mul_neg_of_neg_of_pos h hpow, fun h => not_le.1 fun hge => (mul_nonneg hge hpow.le).not_gt h⟩

/-! ### Results rounded once (R71, R72) -/

section
variable {f : Fmt} (hf : Plain f) (rm : Nat) (ov : Ov) (neg : Bool) {n d : Nat} (hd : 0 < d)

theorem roundEx_zero : roundEx f rm ov (.real neg 0 d) = ⟨signBit f neg, 0⟩ := by
  unfold roundEx
  exact if_pos rfl

theorem roundEx_overflow (hn : 0 < n) (hr : f.maxEnc < (roundMag f rm neg n d).1) : roundEx f rm ov (.real neg n d) = overflowRes f rm ov neg := by
  rw [roundEx, if_neg hn.ne']
  exact if_pos hr

include hf hd

theorem roundEx_finite (hn : 0 < n) (hr : (roundMag f rm neg n d).1 ≤ f.maxEnc) : roundEx f rm ov (.real neg n d) =
    ⟨signBit f neg + (roundMag f rm neg n d).1,
      if d * f.units (roundMag f rm neg n d).1 = n * f.perOne then 0 else if n * f.perOne < d * 2 ^ f.mb then NX + UF else NX⟩ := by
  obtain ⟨-, hexact, htiny⟩ := roundMag_spec hf hn hd rm neg
  rw [roundEx, if_neg hn.ne']
  dsimp only
  rw [if_neg (Nat.not_lt.2 hr)]
  simp only [← hexact, ← htiny]
  cases (roundMag f rm neg n d).2.1 <;> cases (roundMag f rm neg n d).2.2 <;> rfl

/-- A value that is a magnitude of the format is given as it is. -/
theorem roundEx_exact (hrm : rm < 4) (hn : 0 < n) {y : Nat} (hy : y ≤ f.maxEnc) (h : d * f.units y = n * f.perOne) :
    roundEx f rm ov (.real neg n d) = ⟨signBit f neg + y, 0⟩ := by
  obtain ⟨hround, -, -⟩ := roundMag_spec hf hn hd rm neg
  have hr : (roundMag f rm neg n d).1 = y :=
    (units_strictMono f).injective (le_antisymm (units_le_of_le hrm hround hd h.ge) (le_units_of_le hrm hround hd h.le))
  rw [roundEx_finite hf rm ov neg hd hn (hr.trans_le hy), hr, if_pos h]

end

theorem signBit_eq (f : Fmt) (neg : Bool) : signBit f neg = if neg then 2 ^ (f.w - 1) else 0 := rfl

/-- The formats without infinities: of 8 bits with a NaN, of 4 bits without. -/
theorem fmtOf_cases {ty : Nat} (h : ty ∈ [8, 9, 10, 11, 12, 13, 14]) :
    ((fmtOf ty).ieee = true ∧ ty ≠ 12 ∧ ty ≠ 14 ∧ (fmtOf ty).nan.isNone = false) ∨ ty = 12 ∨ ty = 14 := by
  simp only [List.mem_cons, List.not_mem_nil, or_false] at h
  rcases h with rfl | rfl | rfl | rfl | rfl | rfl | rfl <;> decide

section
variable {ty : Nat} (hty : ty ∈ [8, 9, 10, 11, 12, 13, 14]) (rm : Nat) (ov : Ov) (neg : Bool)
include hty

/-- How an overflow is treated, by the type and by saturation. -/
theorem overflowRes_eq : overflowRes (fmtOf ty) rm ov neg =
    if ov = .sat then ⟨signBit (fmtOf ty) neg + (fmtOf ty).maxEnc, SAT + NX⟩
    else if (fmtOf ty).ieee then ⟨signBit (fmtOf ty) neg
        + (if rm = 0 ∨ (rm = 2 ∧ neg = true) ∨ (rm = 3 ∧ neg = false) then (fmtOf ty).maxEnc + 1 else (fmtOf ty).maxEnc), OF + NX⟩
    else if ty = 12 then ⟨0x7F, OF + NX⟩ else ⟨signBit (fmtOf ty) neg + (fmtOf ty).maxEnc, OF + NX⟩ := by
  rcases fmtOf_cases hty with ⟨hi, h12, -, -⟩ | rfl | rfl
  · cases ov <;> simp [overflowRes, hi, or_assoc]
  · cases ov <;> rfl
  · cases ov <;> rfl

theorem roundEx_inf_eq : roundEx (fmtOf ty) rm ov (.inf neg) =
    if (fmtOf ty).ieee then ⟨signBit (fmtOf ty) neg + (fmtOf ty).maxEnc + 1, 0⟩
    else if ov = .sat then ⟨signBit (fmtOf ty) neg + (fmtOf ty).maxEnc, SAT⟩
    else if ty = 12 then ⟨0x7F, NV⟩ else ⟨signBit (fmtOf ty) neg + (fmtOf ty).maxEnc, NV⟩ := by
  rcases fmtOf_cases hty with ⟨hi, -, -, -⟩ | rfl | rfl
  · simp [roundEx, hi]
  · cases ov <;> rfl
  · cases ov <;> rfl

theorem roundEx_nan_eq (v : Bool) : roundEx (fmtOf ty) rm ov (.nan v) = ⟨canonNan (fmtOf ty), if v = true ∨ ty = 14 then NV else 0⟩ := by
  rcases fmtOf_cases hty with ⟨-, -, h14, hn⟩ | rfl | rfl
  · simp [roundEx, hn, h14]
  · cases v <;> rfl
  · cases v <;> rfl

end

end Sys2Proof.Proofs.FloatResults

/-! PROOF. The special functions of MAJ 0x2B (R141, R142): special operands, exact cases, and the reciprocal to f32. -/
namespace Sys2Proof.Proofs.SpecialFunctions
open Sys2Proof Sys2Proof.Machine Sys2Proof.Proofs.Magnitudes Sys2Proof.Proofs.Rounding Sys2Proof.Proofs.Roots Sys2Proof.Proofs.FloatResults

/-! ### Operands -/

/-- What the special functions need of a format: its width, its infinities, and that 1 and 2^bias are finite magnitudes. -/
structure Operand (ty : Nat) : Prop where
  plain : Plain (fmtOf ty)
  width : tyWidth ty = (fmtOf ty).w - 1 + 1
  ieee : (fmtOf ty).ieee = true ∧ (fmtOf ty).nan.isNone = false
  sign : (fmtOf ty).maxEnc + 1 < 2 ^ ((fmtOf ty).w - 1)
  one : ((fmtOf ty).bias + (fmtOf ty).bias) * 2 ^ (fmtOf ty).mb ≤ (fmtOf ty).maxEnc
  bias : (fmtOf ty).bias ≤ 4000

theorem operand_of_mem {ty : Nat} (h : ty ∈ [8, 9, 10]) : Operand ty := by
  have hp := plain_fmtOf ty
  simp only [List.mem_cons, List.not_mem_nil, or_false] at h
  rcases h with rfl | rfl | rfl <;> exact ⟨hp, by decide, by decide, by decide, by decide, by decide⟩

/-- The encoding of 1. -/
def oneEnc (ty : Nat) : Nat := (fmtOf ty).bias * 2 ^ (fmtOf ty).mb

section
variable {ty : Nat} (h : Operand ty)
include h

/-- 2^v lies v exponents above 1. -/
theorem units_pow {v : Nat} (hv : v ≤ (fmtOf ty).bias) :
    oneEnc ty + v * 2 ^ (fmtOf ty).mb ≤ (fmtOf ty).maxEnc ∧ (fmtOf ty).units (oneEnc ty + v * 2 ^ (fmtOf ty).mb) = (fmtOf ty).perOne * 2 ^ v := by
  have hbias := h.plain.bias
  have hle : ((fmtOf ty).bias + v) * 2 ^ (fmtOf ty).mb ≤ ((fmtOf ty).bias + (fmtOf ty).bias) * 2 ^ (fmtOf ty).mb := Nat.mul_le_mul_right _ (by omega)
  have hsum : oneEnc ty + v * 2 ^ (fmtOf ty).mb = ((fmtOf ty).bias + v) * 2 ^ (fmtOf ty).mb := (Nat.add_mul ..).symm
  have henc : ((fmtOf ty).bias + v) * 2 ^ (fmtOf ty).mb = ((fmtOf ty).bias + v - 1) * 2 ^ (fmtOf ty).mb + 2 ^ (fmtOf ty).mb := by
    obtain ⟨b, hb⟩ := Nat.exists_eq_add_of_le hbias
    rw [hb, show 1 + b + v - 1 = b + v by omega]
    ring
  refine ⟨hsum ▸ hle.trans h.one, ?_⟩
  rw [hsum, henc, units_enc _ (by omega) (.inr le_rfl), perOne_eq, ← pow_add, ← pow_add]
  congr 1
  omega

theorem units_one : oneEnc ty ≤ (fmtOf ty).maxEnc ∧ (fmtOf ty).units (oneEnc ty) = (fmtOf ty).perOne := by
  simpa using units_pow h (v := 0) (Nat.zero_le _)

theorem round_one (s : Bool) : roundEx (fmtOf ty) 0 .ieee (.real s 1 1) = ⟨signBit (fmtOf ty) s + oneEnc ty, 0⟩ := by
  obtain ⟨hle, hunits⟩ := units_one h
  exact roundEx_exact h.plain 0 .ieee s Nat.one_pos (by decide) Nat.one_pos hle (by rw [hunits])

theorem testBit_sign {a : Nat} (ha : a < 2 ^ tyWidth ty) : a.testBit ((fmtOf ty).w - 1) = decide (2 ^ ((fmtOf ty).w - 1) ≤ a) := by
  rw [h.width, pow_succ] at ha
  have hp := Nat.two_pow_pos ((fmtOf ty).w - 1)
  rw [Nat.testBit_eq_decide_div_mod_eq, decide_eq_decide]
  by_cases hle : 2 ^ ((fmtOf ty).w - 1) ≤ a
  · rw [Nat.div_eq_of_lt_le (k := 1) (by omega) (by omega)]
    simp [hle]
  · rw [Nat.div_eq_of_lt (by omega)]
    simp [hle]

end

/-! ### What each function does with an operand -/

section
variable {ty a : Nat} (rm : Nat)

theorem sfunc_nan {v : Bool} (h : decodeF (fmtOf ty) a = .nan v) (k : Nat) : sfunc k ty rm a = ⟨canonNan (fmtOf ty), if v then NV else 0⟩ := by
  simp [sfunc, h]

/-- Every function of a zero is exact, or a pole. -/
theorem sfunc_zero (ht : Operand ty) {s : Bool} {e : Int} (h : decodeF (fmtOf ty) a = .fin s 0 e) :
    let pole := fun u => (⟨signBit (fmtOf ty) u + (fmtOf ty).maxEnc + 1, DZ⟩ : FRes)
    sfunc 0 ty rm a = pole s ∧ sfunc 1 ty rm a = pole s ∧ sfunc 2 ty rm a = ⟨oneEnc ty, 0⟩ ∧ sfunc 3 ty rm a = pole true
      ∧ sfunc 5 ty rm a = ⟨oneEnc ty, 0⟩
      ∧ ∀ k ∈ [4, 6, 7], sfunc k ty rm a = ⟨signBit (fmtOf ty) s, 0⟩ := by
  have hinf (u : Bool) := roundEx_inf 0 ht.ieee .ieee u
  have hone := round_one ht false
  rw [signBit_eq, if_neg Bool.false_ne_true, Nat.zero_add] at hone
  have hzero := roundEx_zero (f := fmtOf ty) 0 .ieee s (d := 1)
  simp [sfunc, h, hinf, hone, hzero]

/-- Every function of an infinity. -/
theorem sfunc_inf (ht : Operand ty) {s : Bool} (h : decodeF (fmtOf ty) a = .inf s) :
    let nan := (⟨canonNan (fmtOf ty), NV⟩ : FRes)
    let inf := (⟨(fmtOf ty).maxEnc + 1, 0⟩ : FRes)
    sfunc 0 ty rm a = ⟨signBit (fmtOf ty) s, 0⟩ ∧ sfunc 1 ty rm a = (if s then nan else ⟨0, 0⟩) ∧ sfunc 2 ty rm a = (if s then ⟨0, 0⟩ else inf)
      ∧ (∀ k ∈ [3, 6], sfunc k ty rm a = if s then nan else inf) ∧ (∀ k ∈ [4, 5], sfunc k ty rm a = nan)
      ∧ sfunc 7 ty rm a = ⟨signBit (fmtOf ty) s + oneEnc ty, 0⟩ := by
  have hinf := roundEx_inf 0 ht.ieee .ieee false
  rw [signBit_eq, if_neg Bool.false_ne_true, Nat.zero_add] at hinf
  have hone := round_one ht s
  have hzero (u : Bool) := roundEx_zero (f := fmtOf ty) 0 .ieee u (d := 1)
  have h0 : signBit (fmtOf ty) false = 0 := rfl
  simp [sfunc, h, hinf, hone, hzero, h0]

/-- Roots and logarithms of negative numbers are invalid. -/
theorem sfunc_negative {m : Nat} {e : Int} (h : decodeF (fmtOf ty) a = .fin true m e) (hm : m ≠ 0) :
    ∀ k ∈ [1, 3, 6], sfunc k ty rm a = ⟨canonNan (fmtOf ty), NV⟩ := by
  simp [sfunc, h, hm]

end

/-! ### Exact cases -/

theorem pickUlp_exact (form : Nat) (b : BitVec 32) (two : Bool) (ex : Ex) : pickUlp form b two true ex = roundEx (fmtOf 10) 0 .ieee ex := by
  cases ex <;> simp [pickUlp]

/-- An exact case is rounded in every format alike. -/
theorem exact_rounded_alike (form ty : Nat) (b : BitVec 32) (two : Bool) (ex : Ex) :
    (if ty = 10 then pickUlp form b two true ex else roundEx (fmtOf ty) 0 .ieee ex) = roundEx (fmtOf ty) 0 .ieee ex := by
  rw [pickUlp_exact]
  split
  · rename_i h
    rw [h]
  · rfl

section
variable {ty a m : Nat} {s : Bool} {e : Int} (rm : Nat) (h : decodeF (fmtOf ty) a = .fin s m e) (hm : m ≠ 0)
include h hm

theorem sfunc_rcp : sfunc 0 ty rm a =
    if ty = 10 then pickUlp 0 (BitVec.ofNat 32 a) false (2 ^ Nat.log2 m == m) (.real s (2 ^ (-e).toNat) (m * 2 ^ e.toNat))
    else roundEx (fmtOf ty) 0 .ieee (.real s (2 ^ (-e).toNat) (m * 2 ^ e.toNat)) := by
  simp [sfunc, h, hm]

theorem sfunc_rcp_pow (hp : 2 ^ Nat.log2 m = m) : sfunc 0 ty rm a = roundEx (fmtOf ty) 0 .ieee (.real s (2 ^ (-e).toNat) (m * 2 ^ e.toNat)) := by
  rw [sfunc_rcp rm h hm, beq_iff_eq.2 hp, exact_rounded_alike]

theorem sfunc_exp2 (hx : m * 2 ^ e.toNat % 2 ^ (-e).toNat = 0) :
    sfunc 2 ty rm a = roundEx (fmtOf ty) 0 .ieee (exp2Ex s (m * 2 ^ e.toNat) (2 ^ (-e).toNat)) := by
  rw [← exact_rounded_alike 2 ty (BitVec.ofNat 32 a) true]
  simp [sfunc, h, hm, hx]

theorem sfunc_log2 (hs : s = false) (hp : 2 ^ Nat.log2 m = m) : sfunc 3 ty rm a = roundEx (fmtOf ty) 0 .ieee (log2Ex m e) := by
  rw [← exact_rounded_alike 3 ty (BitVec.ofNat 32 a) true]
  simp [sfunc, h, hm, hs, hp]

theorem sfunc_sin (hx : 2 * (m * 2 ^ e.toNat) % 2 ^ (-e).toNat = 0) : sfunc 4 ty rm a
    = roundEx (fmtOf ty) 0 .ieee (sinPiEx ((if s then -1 else 1) * ((m * 2 ^ e.toNat : Nat) : Int)) (2 ^ (-e).toNat)) := by
  rw [← exact_rounded_alike 4 ty (BitVec.ofNat 32 a) true]
  simp [sfunc, h, hm, hx]

theorem sfunc_cos (hx : 2 * (m * 2 ^ e.toNat) % 2 ^ (-e).toNat = 0) : sfunc 5 ty rm a
    = roundEx (fmtOf ty) 0 .ieee (sinPiEx (2 * ((m * 2 ^ e.toNat : Nat) : Int) + ((2 ^ (-e).toNat : Nat) : Int)) (2 * 2 ^ (-e).toNat)) := by
  rw [← exact_rounded_alike 5 ty (BitVec.ofNat 32 a) true]
  simp [sfunc, h, hm, hx]

end

/-! ### Sines and cosines of half integers (R141) -/

/-- The sine of q right angles. -/
def quarterSine : Nat → Ex
  | 1 => .real false 1 1
  | 3 => .real true 1 1
  | _ => .real false 0 1

theorem sinPiEx_quarter {num w : Int} {d : Nat} (hd : 0 < d) (h : 2 * num = w * d) : sinPiEx num d = quarterSine (w % 4).toNat := by
  have hd' : (0 : Int) < d := by exact_mod_cast hd
  have hr : 2 * (num % ((2 * d : Nat) : Int)).toNat = (w % 4).toNat * d := by
    have hmod : 2 * (num % ((2 * d : Nat) : Int)) = w % 4 * d := by
      rw [← Int.mul_emod_mul_of_pos _ _ (by decide : (0 : Int) < 2), h, mul_comm (w % 4), ← Int.mul_emod_mul_of_pos _ _ hd', mul_comm w]
      congr 1
      push_cast
      ring
    have h0 : 0 ≤ num % ((2 * d : Nat) : Int) := Int.emod_nonneg _ (by omega)
    have h4 : 0 ≤ w % 4 := Int.emod_nonneg _ (by decide)
    obtain ⟨r, hr⟩ := Int.eq_ofNat_of_zero_le h0
    obtain ⟨q, hq⟩ := Int.eq_ofNat_of_zero_le h4
    rw [hr, hq] at hmod ⊢
    rw [Int.toNat_natCast, Int.toNat_natCast]
    exact_mod_cast hmod
  unfold sinPiEx
  dsimp only
  rw [hr, if_pos (Nat.mul_mod_left ..), Nat.mul_div_cancel _ hd]
  rfl

section
variable {ty : Nat} (ht : Operand ty)
include ht

theorem round_quarter (q : Nat) (hq : q < 4) : roundEx (fmtOf ty) 0 .ieee (quarterSine q) =
    if q = 1 then ⟨oneEnc ty, 0⟩ else if q = 3 then ⟨2 ^ ((fmtOf ty).w - 1) + oneEnc ty, 0⟩ else ⟨0, 0⟩ := by
  have hzero := roundEx_zero (f := fmtOf ty) 0 .ieee false (d := 1)
  have hone := round_one ht
  interval_cases q
  · exact hzero
  · simpa [quarterSine, signBit_eq] using hone false
  · exact hzero
  · simpa [quarterSine, signBit_eq] using hone true

variable {a m : Nat} {s : Bool} {e : Int} (rm : Nat) (h : decodeF (fmtOf ty) a = .fin s m e) (hm : m ≠ 0) {k : Nat}
  (hk : 2 * (m * 2 ^ e.toNat) = k * 2 ^ (-e).toNat)
include h hm hk

omit ht in
theorem sin_half : sfunc 4 ty rm a = roundEx (fmtOf ty) 0 .ieee (quarterSine (((if s then -1 else 1) * (k : Int)) % 4).toNat) := by
  have hk' : 2 * ((m * 2 ^ e.toNat : Nat) : Int) = (k : Int) * ((2 ^ (-e).toNat : Nat) : Int) := by exact_mod_cast hk
  rw [sfunc_sin rm h hm (by rw [hk, Nat.mul_mod_left]), sinPiEx_quarter (Nat.two_pow_pos _)]
  rw [mul_left_comm, hk', mul_assoc]

omit ht in
theorem cos_half : sfunc 5 ty rm a = roundEx (fmtOf ty) 0 .ieee (quarterSine (((k : Int) + 1) % 4).toNat) := by
  have hk' : 2 * ((m * 2 ^ e.toNat : Nat) : Int) = (k : Int) * ((2 ^ (-e).toNat : Nat) : Int) := by exact_mod_cast hk
  rw [sfunc_cos rm h hm (by rw [hk, Nat.mul_mod_left]), sinPiEx_quarter (w := (k : Int) + 1) (Nat.mul_pos Nat.two_pos (Nat.two_pow_pos _))]
  rw [hk']
  push_cast
  ring

/-- The sine of a whole number is zero, its cosine one or minus one. -/
theorem sinCos_whole {v : Nat} (hv : k = 2 * v) : sfunc 4 ty rm a = ⟨0, 0⟩
    ∧ sfunc 5 ty rm a = ⟨if v % 2 = 0 then oneEnc ty else 2 ^ ((fmtOf ty).w - 1) + oneEnc ty, 0⟩ := by
  rw [sin_half rm h hm hk, cos_half rm h hm hk, round_quarter ht _ (by omega), round_quarter ht _ (by omega)]
  refine ⟨?_, ?_⟩
  · rw [if_neg (by cases s <;> simp <;> omega), if_neg (by cases s <;> simp <;> omega)]
  · by_cases h2 : v % 2 = 0
    · rw [if_pos (by omega), if_pos h2]
    · rw [if_neg (by omega), if_pos (by omega), if_neg h2]

/-- The cosine of half an odd number is zero, its sine one or minus one. -/
theorem sinCos_odd (hv : k % 2 = 1) : sfunc 5 ty rm a = ⟨0, 0⟩
    ∧ sfunc 4 ty rm a = ⟨if (k % 4 == 1) != s then oneEnc ty else 2 ^ ((fmtOf ty).w - 1) + oneEnc ty, 0⟩ := by
  rw [sin_half rm h hm hk, cos_half rm h hm hk, round_quarter ht _ (by omega), round_quarter ht _ (by omega)]
  refine ⟨by rw [if_neg (by omega), if_neg (by omega)], ?_⟩
  rcases (by omega : k % 4 = 1 ∨ k % 4 = 3) with h4 | h4 <;> cases s
  · rw [if_pos (by simp; omega)]; simp [h4]
  · rw [if_neg (by simp; omega), if_pos (by simp; omega)]; simp [h4]
  · rw [if_neg (by simp; omega), if_pos (by simp; omega)]; simp [h4]
  · rw [if_pos (by simp; omega)]; simp [h4]

end

/-! ### Powers of two (R141) -/

theorem pow_log2_of_dvd {m k : Nat} (h : m ∣ 2 ^ k) : 2 ^ Nat.log2 m = m := by
  obtain ⟨j, -, rfl⟩ := (Nat.dvd_prime_pow Nat.prime_two).1 h
  rw [Nat.log2_two_pow]

theorem roundEx_congr {f : Fmt} (hf : Plain f) (rm : Nat) (ov : Ov) (neg : Bool) {n d n' d' : Nat} (hn : 0 < n) (hd : 0 < d) (hn' : 0 < n')
    (hd' : 0 < d')
    (he : n * d' = n' * d) : roundEx f rm ov (.real neg n d) = roundEx f rm ov (.real neg n' d') := by
  rw [roundEx, roundEx, if_neg hn.ne', if_neg hn'.ne', roundMag_congr hf rm neg hn hd hn' hd' he]

theorem exp2Ex_whole (s : Bool) {v d : Nat} (hd : 0 < d) (hv : v ≤ 4000) : exp2Ex s (v * d) d = exShift (2 ^ prec) ((if s then -1 else 1) *
    (v : Int)) := by
  have hd' : (d : Int) ≠ 0 := by exact_mod_cast hd.ne'
  have hmul : (if s then -1 else 1) * ((v * d : Nat) : Int) = (if s then -1 else 1) * (v : Int) * d := by push_cast; ring
  have hi : -4000 ≤ (if s then -1 else 1) * (v : Int) ∧ (if s then -1 else 1) * (v : Int) ≤ 4000 := by cases s <;> simp <;> omega
  unfold exp2Ex
  dsimp only
  rw [hmul, Int.mul_ediv_cancel _ hd', Int.mul_emod_left, if_neg (by omega), if_neg (by omega), Int.toNat_zero, if_pos rfl]

section
variable {ty : Nat} (ht : Operand ty) {a m : Nat} {s : Bool} {e : Int} (rm : Nat) (h : decodeF (fmtOf ty) a = .fin s m e) (hm : m ≠ 0)
include ht h hm

/-- VFEXP2 of a whole number. -/
theorem exp2_whole {v : Nat} (hv : v ≤ (fmtOf ty).bias) (hx : m * 2 ^ e.toNat = v * 2 ^ (-e).toNat) :
    sfunc 2 ty rm a = if s then roundEx (fmtOf ty) 0 .ieee (.real false 1 (2 ^ v)) else ⟨oneEnc ty + v * 2 ^ (fmtOf ty).mb, 0⟩ := by
  have hp : 0 < 2 ^ prec := Nat.two_pow_pos _
  rw [sfunc_exp2 rm h hm (by rw [hx, Nat.mul_mod_left]), hx, exp2Ex_whole s (Nat.two_pow_pos _) (hv.trans ht.bias)]
  cases s
  · obtain ⟨hle, hunits⟩ := units_pow ht hv
    rw [exShift, roundEx_exact ht.plain 0 .ieee false (Nat.mul_pos hp (Nat.two_pow_pos _)) (by decide) (Nat.mul_pos hp (Nat.two_pow_pos _)) hle]
    · simp [signBit]
    · rw [hunits]
      simp
      ring
  · rw [exShift, if_pos rfl]
    refine roundEx_congr ht.plain 0 .ieee false (Nat.mul_pos hp (Nat.two_pow_pos _)) (Nat.mul_pos hp (Nat.two_pow_pos _)) Nat.one_pos
        (Nat.two_pow_pos _) ?_
    simp

end

/-- VFLOG2 of a power of two. -/
theorem log2_pow {ty a m E v : Nat} {s : Bool} (P rm : Nat) (h : decodeF (fmtOf ty) a = .fin s m ((E : Int) - P)) (hm : m ≠ 0) (hs : s = false)
    (hv : m * 2 ^ E = 2 ^ v) : sfunc 3 ty rm a = roundEx (fmtOf ty) 0 .ieee (.real (decide (v < P)) ((v : Int) - P).natAbs 1) := by
  have hpow : 2 ^ Nat.log2 m = m := pow_log2_of_dvd (Dvd.intro _ hv)
  have hlog : Nat.log2 m + E = v := by
    rw [← hpow, ← pow_add] at hv
    exact Nat.pow_right_injective le_rfl hv
  have hi : (E : Int) - P + (Nat.log2 m : Int) = (v : Int) - P := by omega
  have hneg : decide ((v : Int) - P < 0) = decide (v < P) := decide_eq_decide.2 (by omega)
  rw [sfunc_log2 rm h hm hs hpow, log2Ex]
  dsimp only
  rw [if_pos hpow.symm, hi, hneg]

/-! ### The reciprocal to f32 (R141) -/

theorem unitsOf_eq (y : Nat) : unitsOf y = (fmtOf 10).units y := by
  have hp : (0 : Nat) < 2 ^ 23 := Nat.two_pow_pos 23
  unfold unitsOf Fmt.units
  rw [show (fmtOf 10).mb = 23 from rfl, Nat.shiftRight_eq_div_pow]
  by_cases h : y < 2 ^ 23
  · rw [if_pos h, if_pos (Nat.div_eq_of_lt h), Nat.mod_eq_of_lt h]
  · rw [if_neg h, if_neg (Nat.div_ne_zero_iff.2 ⟨hp.ne', Nat.not_lt.1 h⟩), Nat.add_comm]

/-- The magnitudes offered lie within one unit of the last place. -/
theorem mem_nearUlps {lo n d y : Nat} (h : y ∈ nearUlps 1 lo n d) : y ≤ (fmtOf 10).maxEnc
    ∧ ((d * (fmtOf 10).units y : Int) - n * (fmtOf 10).perOne).natAbs ≤ d * ((fmtOf 10).units (lo + 1) - (fmtOf 10).units lo) := by
  have hulp : 1 * 2 ^ (max (lo / 2 ^ 23) 1 - 1) * d = d * ((fmtOf 10).units (lo + 1) - (fmtOf 10).units lo) := by
    rw [units_succ, Nat.add_sub_cancel_left, Nat.one_mul, Nat.mul_comm]
    rfl
  have h := (List.mem_filter.1 h).2
  simp only [Bool.and_eq_true, decide_eq_true_eq, unitsOf_eq, hulp] at h
  obtain ⟨hmax, hdist⟩ := h
  refine ⟨hmax, ?_⟩
  rw [show n * 2 ^ 149 = n * (fmtOf 10).perOne from rfl, Nat.mul_comm _ d] at hdist
  simp only [← Nat.cast_mul]
  generalize d * (fmtOf 10).units y = p at *
  generalize n * (fmtOf 10).perOne = q at *
  omega

theorem getD_mem_or {α : Type} (l : List α) (i : Nat) (x : α) : l.getD i x = x ∨ l.getD i x ∈ l := by
  rcases Nat.lt_or_ge i l.length with h | h
  · exact .inr (by rw [List.getD_eq_getElem _ _ h]; exact List.getElem_mem h)
  · exact .inl (List.getD_eq_default _ _ h)

/-- The magnitude rounded toward zero, as `roundMag` gives it. -/
theorem roundMag_down {f : Fmt} (hf : Plain f) (neg : Bool) (n d : Nat) : (roundMag f 1 neg n d).1 = truncated f n d := by
  rw [roundMag_eq hf]
  rfl

/-- The nearest magnitude lies within one unit of the last place. -/
theorem nearest_within {f : Fmt} (hf : Plain f) (neg : Bool) {n d : Nat} (hn : 0 < n) (hd : 0 < d) :
    ((d * f.units (roundMag f 0 neg n d).1 : Int) - n * f.perOne).natAbs ≤ d * (f.units (truncated f n d + 1) - f.units (truncated f n d)) := by
  obtain ⟨⟨-, -, hnear⟩, -, -⟩ := roundMag_spec hf hn hd 0 neg
  obtain ⟨hlo, hhi, -, -, -⟩ := between_truncated hf hn hd
  have hn := (hnear rfl (truncated f n d)).1
  rw [Nat.mul_sub]
  simp only [← Nat.cast_mul] at hn ⊢
  generalize d * f.units (truncated f n d) = p at *
  generalize d * f.units (truncated f n d + 1) = q at *
  generalize d * f.units (roundMag f 0 neg n d).1 = z at *
  generalize n * f.perOne = x at *
  omega

/-- A result of a special function to f32 that does not overflow is a magnitude within one unit of the last place. -/
theorem pickUlp_near (form : Nat) (b : BitVec 32) (exact s : Bool) {n d : Nat} (hn : 0 < n) (hd : 0 < d)
    (hr : (roundMag (fmtOf 10) 0 s n d).1 ≤ (fmtOf 10).maxEnc) :
    let lo := truncated (fmtOf 10) n d
    ∃ y ≤ (fmtOf 10).maxEnc, (pickUlp form b false exact (.real s n d)).bits = signBit (fmtOf 10) s + y
      ∧ ((d * (fmtOf 10).units y : Int) - n * (fmtOf 10).perOne).natAbs ≤ d * ((fmtOf 10).units (lo + 1) - (fmtOf 10).units lo) := by
  intro lo
  have hf := plain_fmtOf 10
  have hnear := nearest_within hf s hn hd
  have hround := roundEx_finite hf 0 .ieee s hd hn hr
  have hbits : (roundEx (fmtOf 10) 0 .ieee (.real s n d)).bits % 2 ^ 31 = (roundMag (fmtOf 10) 0 s n d).1 := by
    have hsmall : (roundMag (fmtOf 10) 0 s n d).1 < 2 ^ 31 := hr.trans_lt (by decide)
    rw [hround, signBit_eq, show (fmtOf 10).w - 1 = 31 from rfl]
    cases s
    · simpa using Nat.mod_eq_of_lt hsmall
    · simpa using Nat.mod_eq_of_lt hsmall
  unfold pickUlp
  dsimp only
  split
  · exact ⟨_, hr, by rw [hround], hnear⟩
  · rw [roundMag_down hf, hbits]
    simp only [Bool.false_eq_true, if_false]
    rcases getD_mem_or (nearUlps 1 lo n d) (Config.sfuncChoice form b % max 1 (nearUlps 1 lo n d).length)
        (roundMag (fmtOf 10) 0 s n d).1 with he | hmem
    · exact ⟨_, hr, congrArg (signBit (fmtOf 10) s + ·) he, hnear⟩
    · obtain ⟨hmax, hdist⟩ := mem_nearUlps hmem
      exact ⟨_, hmax, rfl, hdist⟩

/-- Distances in the quotient's own scale. -/
theorem rcp_scale {N D u P x : Nat} (hN : 0 < N) (hP : 0 < P) (he : D * P = x * N) {lo hi y : Nat} (hlo : D * lo ≤ N * P) (hhi : N * P < D * hi)
    (hy : ((D * y : Int) - N * P).natAbs ≤ D * u) : lo * x ≤ P ^ 2 ∧ P ^ 2 < hi * x ∧ ((y * x : Int) - (P : Int) ^ 2).natAbs ≤ u * x := by
  have hscale (z : Nat) : z * x * N = D * z * P := by rw [Nat.mul_assoc, ← he]; ring
  have hsq : P ^ 2 * N = N * P * P := by ring
  refine ⟨?_, ?_, ?_⟩
  · rw [← Nat.mul_le_mul_right_iff hN, hscale, hsq]
    exact Nat.mul_le_mul_right P hlo
  · refine Nat.lt_of_mul_lt_mul_right (a := N) ?_
    rw [hscale, hsq]
    exact Nat.mul_lt_mul_of_pos_right hhi hP
  · have hdist : ((y * x : Int) - (P : Int) ^ 2) * N = ((D * y : Int) - N * P) * P := by
      have h := hscale y
      zify at h
      linear_combination h
    have habs := congrArg Int.natAbs hdist
    rw [Int.natAbs_mul, Int.natAbs_mul, Int.natAbs_natCast, Int.natAbs_natCast] at habs
    rw [← Nat.mul_le_mul_right_iff hN, habs, hscale]
    exact Nat.mul_le_mul_right P hy

/-- VFRCP to f32 lies within one unit of the last place of the exact value (log entry 6). -/
theorem rcp_within_ulp {a m : Nat} {s : Bool} {e : Int} {x : Nat} (rm : Nat) (h : decodeF (fmtOf 10) a = .fin s m e) (hm : m ≠ 0)
    (hx : m * 2 ^ e.toNat * (fmtOf 10).perOne = x * 2 ^ (-e).toNat) (hx0 : 0 < x)
    (hr : (roundMag (fmtOf 10) 0 false (fmtOf 10).perOne x).1 ≤ (fmtOf 10).maxEnc) :
    ∃ y ≤ (fmtOf 10).maxEnc, ∃ lo : Nat, (sfunc 0 10 rm a).bits = signBit (fmtOf 10) s + y
      ∧ (fmtOf 10).units lo * x ≤ (fmtOf 10).perOne ^ 2 ∧ (fmtOf 10).perOne ^ 2 < (fmtOf 10).units (lo + 1) * x
      ∧ (((fmtOf 10).units y * x : Int) - (fmtOf 10).perOne ^ 2).natAbs ≤ ((fmtOf 10).units (lo + 1) - (fmtOf 10).units lo) * x := by
  have hf := plain_fmtOf 10
  have hN : 0 < 2 ^ (-e).toNat := Nat.two_pow_pos _
  have hD : 0 < m * 2 ^ e.toNat := Nat.mul_pos (Nat.pos_of_ne_zero hm) (Nat.two_pow_pos _)
  have hP : 0 < (fmtOf 10).perOne := Nat.two_pow_pos _
  have hsame : (roundMag (fmtOf 10) 0 s (2 ^ (-e).toNat) (m * 2 ^ e.toNat)).1 = (roundMag (fmtOf 10) 0 false (fmtOf 10).perOne x).1 := by
    rw [← roundMag_congr hf 0 false hN hD hP hx0 (by rw [Nat.mul_comm, ← hx, Nat.mul_comm])]
    rfl
  rw [← hsame] at hr
  obtain ⟨hlo, hhi, -, -, -⟩ := between_truncated hf hN hD
  obtain ⟨y, hy, hbits, hdist⟩ := pickUlp_near 0 (BitVec.ofNat 32 a) (2 ^ Nat.log2 m == m) s hN hD hr
  refine ⟨y, hy, truncated (fmtOf 10) (2 ^ (-e).toNat) (m * 2 ^ e.toNat), ?_, ?_⟩
  · rw [sfunc_rcp rm h hm, if_pos rfl, hbits]
  · exact rcp_scale hN hP hx hlo hhi hdist

/-! ### The clauses on special functions -/

/-- A zero is its sign bit alone. -/
theorem sign_only {sb a : Nat} (ha : a < 2 * sb) (h : a % sb = 0) : (if sb ≤ a then sb else 0) = a := by
  split
  · rename_i hle
    rw [Nat.mod_eq_sub_mod hle, Nat.mod_eq_of_lt (by omega)] at h
    omega
  · rename_i hlt
    rw [Nat.mod_eq_of_lt (by omega)] at h
    exact h.symm

section
variable {ty : Nat} (ht : Operand ty) (rm : Nat) {a : Nat} (ha : a < 2 ^ tyWidth ty)
include ht ha

theorem decodeF_sign {m : Nat} {e : Int} (h : decodeF (fmtOf ty) a = .fin (a.testBit ((fmtOf ty).w - 1)) m e) :
    decodeF (fmtOf ty) a = .fin (decide (2 ^ ((fmtOf ty).w - 1) ≤ a)) m e := by rw [h, testBit_sign ht ha]

theorem specials_zero (hx : a % 2 ^ ((fmtOf ty).w - 1) = 0) :
    let f := fmtOf ty
    let sb := 2 ^ (f.w - 1)
    let pole := fun b => (⟨b + (f.maxEnc + 1), DZ⟩ : FRes)
    sfunc 0 ty rm a = pole (if sb ≤ a then sb else 0) ∧ sfunc 1 ty rm a = pole (if sb ≤ a then sb else 0) ∧ sfunc 2 ty rm a = ⟨oneEnc ty, 0⟩
      ∧ sfunc 3 ty rm a = pole sb ∧ sfunc 5 ty rm a = ⟨oneEnc ty, 0⟩ ∧ ∀ k ∈ [4, 6, 7], sfunc k ty rm a = ⟨a, 0⟩ := by
  intro f sb pole
  obtain ⟨m, E, hdec, hunits⟩ := decodeF_finite ht.plain (a := a) (by rw [hx]; exact Nat.zero_le _)
  obtain rfl : m = 0 := by
    rw [hx, units_zero] at hunits
    exact (Nat.mul_eq_zero.1 hunits.symm).resolve_right (Nat.two_pow_pos E).ne'
  have hval : signBit (fmtOf ty) (decide (2 ^ ((fmtOf ty).w - 1) ≤ a))
      = if 2 ^ ((fmtOf ty).w - 1) ≤ a then 2 ^ ((fmtOf ty).w - 1) else 0 := by simp [signBit_eq]
  obtain ⟨h0, h1, h2, h3, h5, hk⟩ := sfunc_zero rm ht (decodeF_sign ht ha hdec)
  dsimp only at h0 h1
  rw [hval] at h0 h1 hk
  rw [sign_only (by rwa [ht.width, pow_succ, Nat.mul_comm] at ha) hx] at hk
  exact ⟨h0, h1, h2, h3, h5, hk⟩

omit ha in
theorem specials_inf (hx : a = (fmtOf ty).maxEnc + 1) :
    let f := fmtOf ty
    let nan := (⟨canonNan f, NV⟩ : FRes)
    sfunc 0 ty rm a = ⟨0, 0⟩ ∧ sfunc 1 ty rm a = ⟨0, 0⟩ ∧ (∀ k ∈ [2, 3, 6], sfunc k ty rm a = ⟨f.maxEnc + 1, 0⟩) ∧ sfunc 4 ty rm a = nan
      ∧ sfunc 5 ty rm a = nan ∧ sfunc 7 ty rm a = ⟨oneEnc ty, 0⟩ := by
  intro f nan
  have hsmall : a < 2 ^ (f.w - 1) := hx ▸ ht.sign
  have hdec := (((decodeF_special ht.plain a).1 ht.ieee.1).1 (by rw [Nat.mod_eq_of_lt hsmall, hx]))
  rw [Nat.testBit_lt_two_pow hsmall] at hdec
  obtain ⟨h0, h1, h2, h36, h45, h7⟩ := sfunc_inf rm ht hdec
  rw [signBit_eq, if_neg Bool.false_ne_true] at h0 h7
  rw [Nat.zero_add] at h7
  refine ⟨h0, h1, ?_, h45 4 (by simp), h45 5 (by simp), h7⟩
  simp only [List.forall_mem_cons, List.not_mem_nil, false_imp_iff, implies_true, and_true]
  exact ⟨h2, h36 3 (by simp), h36 6 (by simp)⟩

omit ha in
theorem specials_negInf (hx : a = 2 ^ ((fmtOf ty).w - 1) + ((fmtOf ty).maxEnc + 1)) :
    let f := fmtOf ty
    let sb := 2 ^ (f.w - 1)
    sfunc 0 ty rm a = ⟨sb, 0⟩ ∧ sfunc 2 ty rm a = ⟨0, 0⟩ ∧ (∀ k ∈ [1, 3, 4, 5, 6], sfunc k ty rm a = ⟨canonNan f, NV⟩)
      ∧ sfunc 7 ty rm a = ⟨sb + oneEnc ty, 0⟩ := by
  intro f sb
  have hmod : a % 2 ^ (f.w - 1) = f.maxEnc + 1 := by rw [hx, Nat.add_mod_left, Nat.mod_eq_of_lt ht.sign]
  have hbit : a.testBit (f.w - 1) = true := by
    rw [testBit_sign ht (by rw [hx, ht.width, pow_succ]; have := ht.sign; omega), decide_eq_true_eq]
    omega
  have hdec := ((decodeF_special ht.plain a).1 ht.ieee.1).1 hmod
  rw [hbit] at hdec
  obtain ⟨h0, h1, h2, h36, h45, h7⟩ := sfunc_inf rm ht hdec
  refine ⟨h0, h2, ?_, h7⟩
  simp only [List.forall_mem_cons, List.not_mem_nil, false_imp_iff, implies_true, and_true]
  exact ⟨h1, h36 3 (by simp), h45 4 (by simp), h45 5 (by simp), h36 6 (by simp)⟩

/-- The mantissa and the exponent of a finite operand other than 0, with its sign. -/
theorem finite_operand (h0 : 0 < a % 2 ^ ((fmtOf ty).w - 1)) (hx : a % 2 ^ ((fmtOf ty).w - 1) < (fmtOf ty).maxEnc + 1) :
    ∃ m E : Nat, decodeF (fmtOf ty) a = .fin (decide (2 ^ ((fmtOf ty).w - 1) ≤ a)) m ((E : Int) - ((fmtOf ty).bias + (fmtOf ty).mb - 1 : Nat)) ∧ 0 < m
      ∧ (fmtOf ty).units (a % 2 ^ ((fmtOf ty).w - 1)) = m * 2 ^ E := by
  obtain ⟨m, E, hdec, hm, hunits⟩ := decodeF_nonzero ht.plain h0 (Nat.lt_succ_iff.1 hx)
  exact ⟨m, E, decodeF_sign ht ha hdec, hm, hunits⟩

theorem specials_negative (hlow : 2 ^ ((fmtOf ty).w - 1) < a) (hhigh : a < 2 ^ ((fmtOf ty).w - 1) + ((fmtOf ty).maxEnc + 1)) :
    ∀ k ∈ [1, 3, 6], sfunc k ty rm a = ⟨canonNan (fmtOf ty), NV⟩ := by
  have hmod : a % 2 ^ ((fmtOf ty).w - 1) = a - 2 ^ ((fmtOf ty).w - 1) := by
    have := ht.sign
    rw [Nat.mod_eq_sub_mod hlow.le, Nat.mod_eq_of_lt (by omega)]
  obtain ⟨m, E, hdec, hm, -⟩ := finite_operand ht ha (by omega) (by omega)
  rw [decide_eq_true hlow.le] at hdec
  exact sfunc_negative rm hdec hm.ne'

end

section
variable {ty : Nat} (ht : Operand ty) (rm : Nat) {a m E : Nat} {s : Bool}
  (h : decodeF (fmtOf ty) a = .fin s m ((E : Int) - ((fmtOf ty).bias + (fmtOf ty).mb - 1 : Nat))) (hm : 0 < m)
  {x : Nat} (hx : (fmtOf ty).units x = m * 2 ^ E)
include hx

/-- The operand's quotient in units. -/
theorem quotient_units :
    m * 2 ^ ((E : Int) - ((fmtOf ty).bias + (fmtOf ty).mb - 1 : Nat)).toNat * (fmtOf ty).perOne
      = (fmtOf ty).units x * 2 ^ (-((E : Int) - ((fmtOf ty).bias + (fmtOf ty).mb - 1 : Nat))).toNat := by
  rw [hx, quotient_of_units]

/-- A multiple of 1/c, as a quotient. -/
theorem quotient_multiple {c v : Nat} (hv : c * (fmtOf ty).units x = v * (fmtOf ty).perOne) :
    c * (m * 2 ^ ((E : Int) - ((fmtOf ty).bias + (fmtOf ty).mb - 1 : Nat)).toNat)
      = v * 2 ^ (-((E : Int) - ((fmtOf ty).bias + (fmtOf ty).mb - 1 : Nat))).toNat := by
  have hP : 0 < (fmtOf ty).perOne := Nat.two_pow_pos _
  refine Nat.eq_of_mul_eq_mul_right hP ?_
  rw [Nat.mul_assoc, quotient_units hx, ← Nat.mul_assoc, hv]
  ring

include h hm

theorem rcp_rounded : ∃ n d : Nat, 0 < d ∧ n * (fmtOf ty).units x = (fmtOf ty).perOne * d
    ∧ (ty ≠ 10 → sfunc 0 ty rm a = roundEx (fmtOf ty) 0 .ieee (.real s n d)) := by
  refine ⟨_, _, Nat.mul_pos hm (Nat.two_pow_pos _), ?_, fun hty => (sfunc_rcp rm h hm.ne').trans (if_neg hty)⟩
  rw [Nat.mul_comm, ← quotient_units hx, Nat.mul_comm]

include ht

theorem rcp_exact {y : Nat} (hy : y ≤ (fmtOf ty).maxEnc) (hxy : (fmtOf ty).units x * (fmtOf ty).units y = (fmtOf ty).perOne ^ 2) :
    sfunc 0 ty rm a = ⟨signBit (fmtOf ty) s + y, 0⟩ := by
  have hP : 0 < (fmtOf ty).perOne := Nat.two_pow_pos _
  have hpow : 2 ^ Nat.log2 m = m := by
    refine pow_log2_of_dvd (k := ((fmtOf ty).bias + (fmtOf ty).mb - 1) * 2) ?_
    rw [pow_mul, ← perOne_eq, ← hxy, hx, Nat.mul_assoc]
    exact Nat.dvd_mul_right ..
  rw [sfunc_rcp_pow rm h hm.ne' hpow]
  refine roundEx_exact ht.plain 0 .ieee s (Nat.mul_pos hm (Nat.two_pow_pos _)) (by decide) (Nat.two_pow_pos _) hy (Nat.eq_of_mul_eq_mul_right hP ?_)
  rw [Nat.mul_right_comm, quotient_units hx, Nat.mul_right_comm, hxy]
  ring

theorem whole_operand {v : Nat} (hv : (fmtOf ty).units x = v * (fmtOf ty).perOne) (hb : v ≤ (fmtOf ty).bias) :
    sfunc 2 ty rm a = (if s then roundEx (fmtOf ty) 0 .ieee (.real false 1 (2 ^ v)) else ⟨oneEnc ty + v * 2 ^ (fmtOf ty).mb, 0⟩)
    ∧ sfunc 4 ty rm a = ⟨0, 0⟩ ∧ sfunc 5 ty rm a = ⟨if v % 2 = 0 then oneEnc ty else 2 ^ ((fmtOf ty).w - 1) + oneEnc ty, 0⟩ := by
  have hone := quotient_multiple hx (c := 1) (by rw [Nat.one_mul, hv])
  rw [Nat.one_mul] at hone
  exact ⟨exp2_whole ht rm h hm.ne' hb hone,
    sinCos_whole ht rm h hm.ne' (quotient_multiple hx (c := 2) (v := 2 * v) (by rw [hv, Nat.mul_assoc])) rfl⟩

theorem odd_operand {k : Nat} (hk : 2 * (fmtOf ty).units x = k * (fmtOf ty).perOne) (hodd : k % 2 = 1) :
    sfunc 5 ty rm a = ⟨0, 0⟩ ∧ sfunc 4 ty rm a = ⟨if (k % 4 == 1) != s then oneEnc ty else 2 ^ ((fmtOf ty).w - 1) + oneEnc ty, 0⟩ :=
  sinCos_odd ht rm h hm.ne' (quotient_multiple hx hk) hodd

end

/-- The clauses on finite operands other than 0. -/
theorem specials_finite {ty : Nat} (ht : Operand ty) (rm : Nat) {a : Nat} (ha : a < 2 ^ tyWidth ty) :
    let f := fmtOf ty
    let sb := 2 ^ (f.w - 1)
    let one := f.bias * 2 ^ f.mb
    let x := a % sb
    let neg := sb ≤ a
    0 < x → x < f.maxEnc + 1 →
      (∃ n d : Nat, 0 < d ∧ n * f.units x = f.perOne * d ∧ (ty ≠ 10 → sfunc 0 ty rm a = roundEx f 0 .ieee (.real (decide neg) n d)))
      ∧ (∀ y, 0 < y → y ≤ f.maxEnc → f.units x * f.units y = f.perOne ^ 2 → sfunc 0 ty rm a = ⟨(if neg then sb else 0) + y, 0⟩)
      ∧ (ty = 10 → (roundMag f 0 false f.perOne (f.units x)).1 ≤ f.maxEnc → ∃ y ≤ f.maxEnc, ∃ lo : Nat,
          (sfunc 0 ty rm a).bits = (if neg then sb else 0) + y
          ∧ f.units lo * f.units x ≤ f.perOne ^ 2 ∧ f.perOne ^ 2 < f.units (lo + 1) * f.units x
          ∧ ((f.units y * f.units x : Int) - f.perOne ^ 2).natAbs ≤ (f.units (lo + 1) - f.units lo) * f.units x)
      ∧ (∀ v : Nat, f.units x = v * f.perOne → 0 < v → v ≤ f.bias →
          sfunc 2 ty rm a = (if neg then roundEx f 0 .ieee (.real false 1 (2 ^ v)) else ⟨one + v * 2 ^ f.mb, 0⟩)
          ∧ sfunc 4 ty rm a = ⟨0, 0⟩ ∧ sfunc 5 ty rm a = ⟨if v % 2 = 0 then one else sb + one, 0⟩)
      ∧ (∀ h : Nat, 2 * f.units x = h * f.perOne → h % 2 = 1 → sfunc 5 ty rm a = ⟨0, 0⟩
          ∧ sfunc 4 ty rm a = ⟨if (h % 4 == 1) != decide neg then one else sb + one, 0⟩)
      ∧ (∀ v : Nat, f.units x = 2 ^ v → a < sb → sfunc 3 ty rm a =
          roundEx f 0 .ieee (.real (decide (v < f.bias + f.mb - 1)) ((v : Int) - (f.bias + f.mb - 1 : Int)).natAbs 1)) := by
  intro f sb one x neg h0 hlt
  obtain ⟨m, E, hdec, hm, hunits⟩ := finite_operand ht ha h0 hlt
  have hsign : signBit f (decide neg) = if neg then sb else 0 := by simp [signBit_eq, sb]
  refine ⟨rcp_rounded rm hdec hm hunits, fun y _ hy hxy => ?exact, fun hty hr => ?ulp, fun v hv _ hb => ?whole,
      fun k hk hodd => odd_operand ht rm hdec hm hunits hk hodd,
    fun v hv hpos => ?log⟩
  case exact => rw [rcp_exact ht rm hdec hm hunits hy hxy, hsign]
  case ulp =>
    subst hty
    obtain ⟨y, hy, lo, hbits, hrest⟩ := rcp_within_ulp rm hdec hm.ne' (quotient_units hunits) (units_pos h0) hr
    exact ⟨y, hy, lo, by rw [hbits, hsign], hrest⟩
  case whole =>
    obtain ⟨hexp, hsincos⟩ := whole_operand ht rm hdec hm hunits hv hb
    exact ⟨hexp.trans (if_congr decide_eq_true_iff rfl rfl), hsincos⟩
  case log =>
    have hP : ((f.bias + f.mb - 1 : Nat) : Int) = (f.bias : Int) + f.mb - 1 := by have hb : 1 ≤ f.bias := ht.plain.bias; omega
    rw [log2_pow (f.bias + f.mb - 1) rm hdec hm.ne' (decide_eq_false (Nat.not_le.2 hpos)) (hunits.symm.trans hv), hP]

/-- Settles O11: sums, products and quotients are exact before the one rounding that `roundMag` makes, which gives a magnitude of the format as it
is; the
special functions' exact cases are such magnitudes. -/
theorem floatSpecials : Obligations.FloatSpecials := by
  unfold Obligations.FloatSpecials
  refine ⟨fun ty hty rm a b c => ?arith, fun ty hty a => ?encodings, fun rm k l hl => ?sums, fun _ _ _ _ _ _ => rfl,
      fun u v m k h e g => divEx_exact u v m k h e g,
    fun u m h e => ex_exact u m h e, fun ty hty rm n d ov neg hrm hd => ?rounding, fun ty hty rm a ha => ?specials⟩
  case arith =>
    have hf := ieee_fmtOf hty
    obtain ⟨hadd, hsub, hmul, hinf, hzero, hdz⟩ := invalid_operands (c := c) rm hf (a := a) (b := b) rfl rfl
    exact ⟨⟨fun op hop hn => nan_operand rm hf hn op hop, fFma_nan rm hf, hadd, hsub, hmul, hinf, hzero, hdz⟩, rfl, rfl, rfl, rfl,
      fun u v m k e g hx hy hk => fDiv_finite rm hx hy hk⟩
  case encodings =>
    have hf := plain_fmtOf ty
    obtain ⟨hspecial, hnan⟩ := decodeF_special hf a
    refine ⟨fun hmag => ?_, hspecial, hnan⟩
    obtain ⟨m, E, hdec, hunits⟩ := decodeF_finite hf hmag
    have hbias := hf.bias
    exact ⟨m, _, hdec, by omega, by rw [hunits]; congr 2; omega⟩
  case sums =>
    obtain ⟨u, n, d, hd, hsum, hval, hsign, hz⟩ := sumEx_exact rm k l hl
    refine ⟨u, n, d, hd, hsum, hval, hsign, fun h0 => ?_⟩
    rw [hz h0]
    exact zeroSign_spec rm hl
  case rounding =>
    have hf := plain_fmtOf ty
    refine ⟨?_, fun hn hr => roundEx_finite hf rm ov neg hd hn hr,
        fun hn hr => (roundEx_overflow rm ov neg hn hr).trans (overflowRes_eq hty rm ov neg),
      roundEx_inf_eq hty rm ov neg, roundEx_nan_eq hty rm ov⟩
    rintro rfl
    exact roundEx_zero rm ov neg
  case specials =>
    have ht := operand_of_mem hty
    exact ⟨fun v hv k _ => sfunc_nan rm hv k, specials_zero ht rm ha, specials_inf ht rm, specials_negInf ht rm, specials_negative ht rm ha,
      specials_finite ht rm ha⟩

end Sys2Proof.Proofs.SpecialFunctions
